-- ==== Sys2Proof/Word.lean ====
section
/-! DEFINITION. The widths of the Tholester IK8: bytes, halfwords, words and doublewords (R3),
1,024-bit vector registers and queue entries, masks and shape registers (R36). -/

namespace Sys2Proof

/-- A doubleword: a general register, an address, a special register (R3, R36). -/
abbrev Word := BitVec 64

/-- A byte (R3). -/
abbrev Byte := BitVec 8

/-- A halfword of an instruction store (R3, R47). -/
abbrev Half := BitVec 16

/-- A vector register or the data of a queue entry (R36, R37). -/
abbrev VWord := BitVec 1024

/-- A mask register `k0` to `k7`, one bit per byte (R36). -/
abbrev KWord := BitVec 128

/-- A shape register `m0` to `m15` (R36, R182). -/
abbrev MWord := BitVec 256

/-- A 5-bit register field (R50). -/
abbrev Reg := Fin 32

/-- A queue number, `q0` to `q7` (R37). -/
abbrev QReg := Fin 8

/-- A mask register number (R36). -/
abbrev KReg := Fin 8

end Sys2Proof
end

