-- ==== Sys2Proof/Config.lean ====
section
/-! DEFINITION. What the spec fixes for the part (R1, R5, R204), and the free values: constants
without a body for what the spec leaves open. Nothing can evaluate them, so no claim can rest on
what they are (log 11). -/

namespace Sys2Proof.Config

/-- Clusters of a die (R5). -/
def clustersPerDie : Nat := 40

/-- Clusters of the package (R5, R43). -/
def clusterCount : Nat := 160

/-- Cores of the package (R5). -/
def coreCount : Nat := 1280

/-- Bytes of local physical memory that one die homes (R204). -/
def dieBytes : Nat := 0x3000000000

/-- The first physical address that names a fabric endpoint (R204). -/
def fabricBase : Nat := 0xC000000000

/-- SCRATCH_BASE (R190). -/
def scratchBase : Nat := 0x00FF000000000000

/-- Bytes of one scratchpad slot (R191). -/
def slotBytes : Nat := 0x400000

/-- Bytes of one alias window (R191). -/
def windowBytes : Nat := 0x80000

/-- Raw bytes of a scratchpad (R193): 384 KiB. -/
def scratchBytes : Nat := 0x60000

/-- What a byte of HBM or scratchpad that nothing has written reads as
(DESIGN CHOICE, unsafe: log 2). -/
def unwrittenByte : Byte := 0

/-- A free choice among `n` possibilities, always below `n` where it is used through `% n`. -/
opaque freeIndex : Nat → Nat

/-- Whether a line homed on another die stays in the RDC after a load (R203, R230, R399). -/
opaque rdcKeeps : Nat → Bool

/-- Whether the last three ownership transfers of a line lie within 1 µs (R222). -/
opaque withinMicrosecond : Nat → Bool

/-- Can a die reset read a line that it writes back (R366)? The spec does not say of which lines (log 46). -/
opaque lineReadable : Nat → Bool

/-- Whether the L2 directory has evicted a line since its last access (R222). -/
opaque directoryEvicts : Nat → Bool

/-- The code of VEXP2 (`false`) or VLOG2 (`true`) where the enclosure the model computes does not
decide the nearest code (R116, log 14): input pattern, format width. -/
opaque transcendentalCode : Bool → Nat → Nat → Nat

/-- SM2 verification of a signature over a digest under a public key (R373, R389): a named
standard whose computation the spec does not give (log 15). -/
opaque sm2Verify : List Byte → List Byte → List Byte → Bool

/-- SM2 signature by the device key, which is derived anew at each power-on (R391, log 15): the count of
power-ons, the report. -/
opaque deviceSign : Nat → List Byte → List Byte

/-- The public-key hash in ROM (R373, R389). -/
opaque romKeyHash : List Byte

/-- The one part that the manual describes (R1). -/
def partName : String := "THL-IK8-768"

/-- How an attestation report writes a name as bytes: the spec gives no encoding (R391, log 15). -/
opaque encodeName : String → List Byte

/-- The part number in an attestation report (R1, R391). -/
def partNumber : List Byte := encodeName partName

/-- What the completion notice of a fibre holds: the spec does not say (R165, log 91). -/
opaque noticeWord : Nat → Word

/-- The completion record that a device-side LAUNCH named, by grid and cause: the spec does not give its layout (R9,
log 92). -/
opaque completionBytes : Nat → Nat → List Byte

/-- The hash that picks a port for an endpoint and PA<51:7> (R378): the spec names it, not gives it. -/
opaque portHash : Nat → Nat → Nat

end Sys2Proof.Config
end

