-- ==== Sys2Proof/Syntax.lean ====
section
/-! DEFINITION. The instructions and events of the IK8: one constructor of `Instr` for each row of
spec/opcode_table.json. A row that is an instruction carries its operand fields (R49 to R63); a row
that is an event of the part carries what names its place and what comes from outside. -/

namespace Sys2Proof

/-- The element formats of R91, in the order of their codes 0x0 to 0xE. -/
inductive Fmt where
  | f32 | bf16 | f16 | e4m3 | e5m2 | e2m1 | mxf4 | gf4 | mxf8 | i8 | i16 | i32 | rns3 | ui8 | i4
  deriving DecidableEq, Repr

/-- Rounding fields: codes 0 to 5 and 7 of R20. -/
inductive Rnd where
  | rne | rtz | rdn | rup | rna | sr | dyn
  deriving DecidableEq, Repr

/-- The ord field (R49). -/
inductive OrdCode where
  | plain | acq | rel | sc
  deriving DecidableEq, Repr

/-- The scope field, codes 0 to 5 (R20). -/
inductive Scope where
  | co | cl | di | dv | sy | rc
  deriving DecidableEq, Repr

/-- The place field of the XA format (R60). -/
inductive AtomPlace where
  | predictor | near | far
  deriving DecidableEq, Repr

/-- The rounding between stages of BCHN (R287). -/
inductive ChainMode where
  | w | n16 | sr16
  deriving DecidableEq, Repr

/-- The operators of the GRE, M codes 0 to 5 (R62, R248). -/
inductive GOp where
  | sum | min | max | xor | mom | kdot
  deriving DecidableEq, Repr

/-- The XV fields that the vector operations share: fmt, rnd, nsat, k and Q (R60). -/
structure XvFields where
  fmt  : Fmt
  rnd  : Rnd
  nsat : Bool
  k    : KReg
  q    : Bool
  deriving DecidableEq, Repr

/-- The memory qualifiers of RL, XL, RA, XA and XV forms: ord and scope (R49, R60). -/
structure Qual where
  ord   : OrdCode
  scope : Scope
  deriving DecidableEq, Repr

/-- Why an encoding is not an instruction (R65): each names the check that failed. -/
inductive Reserved where
  | code16          -- a halfword of code 0 or 25-31 (R63)
  | major32         -- a 32-bit major 0x28-0x3F (R51)
  | major64         -- a 64-bit major 0x05-0x0F or 0x15-0x3F (R61)
  | minor           -- a reserved minor code
  | unusedField     -- a nonzero unused or zero-marked field (R50)
  | scopeCode       -- a scope code 6 or 7, or a scope on a plain access (R54)
  | roundingCode    -- a rounding code 6 (R60)
  | formatCode      -- a format code 0xF or a format not accepted (R60)
  | queueField      -- a queue field below 24 (R50)
  | registerField   -- a register field out of its file (R50)
  deriving DecidableEq, Repr

/-- The contexts of a core that issue instructions: F, H, D and the two streams (R33, R35). -/
inductive Ctx where
  | f | h | d | l | s
  deriving DecidableEq, Repr

/-- What a soft error leaves in a word that is checked (R203, R361). -/
inductive EccResult where
  | good | corrected | uncorrectable
  deriving DecidableEq, Repr

/-- A store with error correction or parity (R203, R360), and what it counts in: the words of a core's scratchpad, of
HBM at its home (dirty words of cluster caches and L2 slices included) and of a die's RDC; the lines of an L1, and the
clean ones of a cluster cache; the entries of a store buffer, the oldest first; the routine, stream and walker stores of
a core (`code`); the die-wide structures: L2 directory, Belfry, Keep block map, steal and job queues (`array`). Words are
numbered by address / 8, lines by address / 128. -/
inductive EccStore where
  | scratch (core : Nat)
  | home
  | rdc (die : Nat)
  | l1 (core : Nat)
  | cluster (cluster : Nat)
  | buffer (core : Nat)
  | code (core : Nat)
  | array (die : Nat)
  deriving DecidableEq, Repr

/-- What a request that reaches a port from outside asks for (R376, R381, R382). -/
inductive InKind where
  | read (n : Nat)
  | write (bytes : List Byte)
  | atomic (op : Nat) (width : Nat) (operand : Word) (compare : Word)
  deriving DecidableEq, Repr

/-- A request that arrives at a port (R379, R381): source endpoint, extension (tenant and key) when
it carries one, physical offset on this device, the request, and whether its data is poisoned. -/
structure InRequest where
  src      : Nat
  ext      : Option (Nat × Nat)
  offset   : Nat
  kind     : InKind
  poisoned : Bool
  deriving DecidableEq, Repr

/-- What a write to the message window carries (R382): a SEND, a SENDH, or a PUSHR, whose slot stands in the
place of the class. -/
inductive MsgKind where
  | send | sendh | pushr
  deriving DecidableEq, Repr

/-- A write to the message window (R382): the designator, kind, class and payload, and the sender's LVLID0. -/
structure InMessage where
  src  : Nat
  ext  : Option (Nat × Nat)
  core : Nat
  kind : MsgKind
  cls  : Nat
  lvlid : Nat
  w0   : Word
  w1   : Word
  deriving DecidableEq, Repr

/-- The statuses with which a target answers a request (R382), and how a request fails without an
answer: no port is left, or the remote timeout has passed (R378). -/
inductive RemoteStatus where
  | ok | key | perm | notgt (slotOrClass : Bool) | poison | busy | linkDown | timeout
  deriving DecidableEq, Repr

/-- A signed package or image (R373, R389): the signer's key, the signature, the version and the
rest of its bytes. -/
structure SignedImage where
  key     : List Byte
  sig     : List Byte
  version : Nat
  body    : List Byte
  deriving DecidableEq, Repr

/-- The control-port registers and tables that have no row of their own (R387, R335, R378, R210,
R401): each names what firmware or a host sets. -/
inductive ControlReg where
  | keepSize (gib : Nat)
  | remoteTimeout (us : Nat)
  | walkerStore (die : Nat) (code : List Half)
  | spaceTable (die : Nat) (addr : Nat)
  | powerCoeff (die : Nat) (k0 k1 k2 k3 : Nat)
  | endpointId (e : Nat)
  | testInterval (s : Nat)
  | errorThreshold (n : Nat)
  | linkKey (port : Nat)
  | ioStore (die io : Nat) (code : List Half)
  | ioQueue (die io qp : Nat) (base entries : Nat)
  deriving DecidableEq, Repr

/-- What a reset request names (R366, R389). -/
inductive ResetScope where
  | die (d : Nat)
  | device
  deriving DecidableEq, Repr

/-- The instructions and events of the part: one constructor per row of spec/opcode_table.json. -/
inductive Instr where
  -- OP, register form (R52, R66, R67)
  | add (d a b : Reg)
  | sub (d a b : Reg)
  | and (d a b : Reg)
  | or (d a b : Reg)
  | xor (d a b : Reg)
  | sll (d a b : Reg)
  | srl (d a b : Reg)
  | sra (d a b : Reg)
  | slt (d a b : Reg)
  | sltu (d a b : Reg)
  | min (d a b : Reg)
  | max (d a b : Reg)
  | minu (d a b : Reg)
  | maxu (d a b : Reg)
  | mul (d a b : Reg)
  | mulh (d a b : Reg)
  | mulhu (d a b : Reg)
  | div (d a b : Reg)
  | divu (d a b : Reg)
  | rem (d a b : Reg)
  | remu (d a b : Reg)
  | clz (d a : Reg)
  | ctz (d a : Reg)
  | popc (d a : Reg)
  | extB (d a : Reg)
  | extH (d a : Reg)
  | extW (d a : Reg)
  -- OPI (R53, R68)
  | addImm (d a : Reg) (i : BitVec 11)
  | andImm (d a : Reg) (i : BitVec 11)
  | orImm (d a : Reg) (i : BitVec 11)
  | xorImm (d a : Reg) (i : BitVec 11)
  | sltImm (d a : Reg) (i : BitVec 11)
  | sltuImm (d a : Reg) (i : BitVec 11)
  | sllImm (d a : Reg) (sh : BitVec 6)
  | srlImm (d a : Reg) (sh : BitVec 6)
  | sraImm (d a : Reg) (sh : BitVec 6)
  -- XI (R61)
  | addXi (d a : Reg) (i : BitVec 32)
  | andXi (d a : Reg) (i : BitVec 32)
  | orXi (d a : Reg) (i : BitVec 32)
  | xorXi (d a : Reg) (i : BitVec 32)
  | sltXi (d a : Reg) (i : BitVec 32)
  | sltuXi (d a : Reg) (i : BitVec 32)
  -- BITF, U (R69, R70)
  | bfx (d a : Reg) (pos lenm1 : BitVec 6)
  | bfi (d a : Reg) (pos lenm1 : BitVec 6)
  | lui (d : Reg) (i : BitVec 19)
  | addpc (d : Reg) (i : BitVec 19)
  -- jumps and branches (R71 to R73)
  | jal (d : Reg) (o : BitVec 19)
  | jalr (d a : Reg) (i : BitVec 11)
  | beq (a b : Reg) (o : BitVec 11)
  | bne (a b : Reg) (o : BitVec 11)
  | blt (a b : Reg) (o : BitVec 11)
  | bge (a b : Reg) (o : BitVec 11)
  | bltu (a b : Reg) (o : BitVec 11)
  | bgeu (a b : Reg) (o : BitVec 11)
  | bqe (q : QReg) (o : BitVec 11)
  -- RL (R54, R77, R82, R111)
  | ldB (d base : Reg) (i : BitVec 9) (ql : Qual)
  | ldH (d base : Reg) (i : BitVec 9) (ql : Qual)
  | ldW (d base : Reg) (i : BitVec 9) (ql : Qual)
  | ldD (d base : Reg) (i : BitVec 9) (ql : Qual)
  | lduB (d base : Reg) (i : BitVec 9) (ql : Qual)
  | lduH (d base : Reg) (i : BitVec 9) (ql : Qual)
  | lduW (d base : Reg) (i : BitVec 9) (ql : Qual)
  | stB (r base : Reg) (i : BitVec 9) (ql : Qual)
  | stH (r base : Reg) (i : BitVec 9) (ql : Qual)
  | stW (r base : Reg) (i : BitVec 9) (ql : Qual)
  | stD (r base : Reg) (i : BitVec 9) (ql : Qual)
  | pref (target : Fin 3) (write : Bool) (base : Reg) (i : BitVec 9) (ql : Qual)
  | vld (d base : Reg) (i : BitVec 9) (ql : Qual)
  | vst (r base : Reg) (i : BitVec 9) (ql : Qual)
  -- XL (R61, R77, R82, R111)
  | ldBXl (d base : Reg) (off : BitVec 32) (ql : Qual)
  | ldHXl (d base : Reg) (off : BitVec 32) (ql : Qual)
  | ldWXl (d base : Reg) (off : BitVec 32) (ql : Qual)
  | ldDXl (d base : Reg) (off : BitVec 32) (ql : Qual)
  | lduBXl (d base : Reg) (off : BitVec 32) (ql : Qual)
  | lduHXl (d base : Reg) (off : BitVec 32) (ql : Qual)
  | lduWXl (d base : Reg) (off : BitVec 32) (ql : Qual)
  | stBXl (r base : Reg) (off : BitVec 32) (ql : Qual)
  | stHXl (r base : Reg) (off : BitVec 32) (ql : Qual)
  | stWXl (r base : Reg) (off : BitVec 32) (ql : Qual)
  | stDXl (r base : Reg) (off : BitVec 32) (ql : Qual)
  | prefXl (target : Fin 3) (write : Bool) (base : Reg) (off : BitVec 32) (ql : Qual)
  | vldXl (d base : Reg) (off : BitVec 32) (ql : Qual)
  | vstXl (r base : Reg) (off : BitVec 32) (ql : Qual)
  -- AMO and CAS, RA form (R56, R218)
  | amoAddW (d base b : Reg) (ql : Qual)
  | amoAndW (d base b : Reg) (ql : Qual)
  | amoOrW (d base b : Reg) (ql : Qual)
  | amoXorW (d base b : Reg) (ql : Qual)
  | amoMinW (d base b : Reg) (ql : Qual)
  | amoMaxW (d base b : Reg) (ql : Qual)
  | amoMinuW (d base b : Reg) (ql : Qual)
  | amoMaxuW (d base b : Reg) (ql : Qual)
  | amoSwapW (d base b : Reg) (ql : Qual)
  | amoFaddW (d base b : Reg) (ql : Qual)
  | amoFminW (d base b : Reg) (ql : Qual)
  | amoFmaxW (d base b : Reg) (ql : Qual)
  | casW (d base b : Reg) (ql : Qual)
  | amoAddD (d base b : Reg) (ql : Qual)
  | amoAndD (d base b : Reg) (ql : Qual)
  | amoOrD (d base b : Reg) (ql : Qual)
  | amoXorD (d base b : Reg) (ql : Qual)
  | amoMinD (d base b : Reg) (ql : Qual)
  | amoMaxD (d base b : Reg) (ql : Qual)
  | amoMinuD (d base b : Reg) (ql : Qual)
  | amoMaxuD (d base b : Reg) (ql : Qual)
  | amoSwapD (d base b : Reg) (ql : Qual)
  | casD (d base b : Reg) (ql : Qual)
  -- AMO and CAS, XA form (R60, R218); `wide` is width<39>
  | amoAddXa (d base b : Reg) (ql : Qual) (pl : AtomPlace) (wide : Bool)
  | amoAndXa (d base b : Reg) (ql : Qual) (pl : AtomPlace) (wide : Bool)
  | amoOrXa (d base b : Reg) (ql : Qual) (pl : AtomPlace) (wide : Bool)
  | amoXorXa (d base b : Reg) (ql : Qual) (pl : AtomPlace) (wide : Bool)
  | amoMinXa (d base b : Reg) (ql : Qual) (pl : AtomPlace) (wide : Bool)
  | amoMaxXa (d base b : Reg) (ql : Qual) (pl : AtomPlace) (wide : Bool)
  | amoMinuXa (d base b : Reg) (ql : Qual) (pl : AtomPlace) (wide : Bool)
  | amoMaxuXa (d base b : Reg) (ql : Qual) (pl : AtomPlace) (wide : Bool)
  | amoSwapXa (d base b : Reg) (ql : Qual) (pl : AtomPlace) (wide : Bool)
  | amoFaddXa (d base b : Reg) (ql : Qual) (pl : AtomPlace)
  | amoFminXa (d base b : Reg) (ql : Qual) (pl : AtomPlace)
  | amoFmaxXa (d base b : Reg) (ql : Qual) (pl : AtomPlace)
  | casXa (d base b : Reg) (ql : Qual) (pl : AtomPlace) (wide : Bool)
  | atomicActivation (core : Nat)
  -- RF (R56, R232, R343)
  | fence (ql : Qual)
  | rpseal (d a : Reg)
  | rpsealT (d a : Reg)
  | rprestore (d a : Reg)
  -- SYS (R56, R74, R76, R83 to R86, R89, R90)
  | sysc
  | retk
  | wfi
  | fend
  | brk
  | tlbinv (a b : Reg)
  | l1inv (a : Reg)
  -- SR (R56, R87)
  | srr (d : Reg) (sel : BitVec 8)
  | srw (sel : BitVec 8) (a : Reg)
  | srs (sel : BitVec 8) (a : Reg)
  | src (sel : BitVec 8) (a : Reg)
  -- hints and what is no instruction (R65, R75)
  | hint (h : BitVec 24)
  | hint64 (h : BitVec 56)
  | reservedEncoding (why : Reserved)
  -- QOP (R57, R136, R137)
  | lstr (q : QReg) (a b : Reg)
  | sstr (q : QReg) (a b : Reg)
  | qend (q : QReg)
  | qpeek (g : Reg) (q : QReg) (i : BitVec 4)
  | qpeekD (g : Reg) (q : QReg) (i : BitVec 4)
  | qcnt (g : Reg) (q : QReg)
  -- TASKA, TASKB (R58)
  | push (slot : BitVec 4) (gs : Reg)
  | pushr (gc : Reg) (slot : BitVec 4) (gs : Reg)
  | send (gc : Reg) (cls : BitVec 6) (gs : Reg)
  | sendh (gc : Reg) (cls : BitVec 6) (gs : Reg)
  | barj (lvl : BitVec 3) (n : BitVec 6)
  | bar (d : Reg) (lvl : BitVec 3) (n : BitVec 6)
  | barl (lvl : BitVec 3) (n : BitVec 6)
  | barst (d : Reg) (lvl : BitVec 3) (n : BitVec 6)
  | launch (d a : Reg)
  | abump (d a : Reg) (arena : BitVec 3)
  | abumpT (d a : Reg) (arena : BitVec 3)
  | mld (md : Fin 16) (idx : BitVec 3)
  | mslice (d : Reg) (ms : Fin 16) (lvl : BitVec 3)
  | fresume (a : Reg)
  | pair
  | unpair
  -- vector, 32-bit V format (R59, R114 to R121, R128)
  | vadd (f : Fmt) (k : KReg) (q : Bool) (d a b : Reg)
  | vsub (f : Fmt) (k : KReg) (q : Bool) (d a b : Reg)
  | vmul (f : Fmt) (k : KReg) (q : Bool) (d a b : Reg)
  | vfma (f : Fmt) (k : KReg) (q : Bool) (d a b : Reg)
  | vfms (f : Fmt) (k : KReg) (q : Bool) (d a b : Reg)
  | vmin (f : Fmt) (k : KReg) (q : Bool) (d a b : Reg)
  | vmax (f : Fmt) (k : KReg) (q : Bool) (d a b : Reg)
  | vabs (f : Fmt) (k : KReg) (q : Bool) (d a : Reg)
  | vneg (f : Fmt) (k : KReg) (q : Bool) (d a : Reg)
  | vrcp (f : Fmt) (k : KReg) (q : Bool) (d a : Reg)
  | vrsq (f : Fmt) (k : KReg) (q : Bool) (d a : Reg)
  | vexp2 (f : Fmt) (k : KReg) (q : Bool) (d a : Reg)
  | vlog2 (f : Fmt) (k : KReg) (q : Bool) (d a : Reg)
  | vshl (f : Fmt) (k : KReg) (q : Bool) (d a b : Reg)
  | vshr (f : Fmt) (k : KReg) (q : Bool) (d a b : Reg)
  | vshrA (f : Fmt) (k : KReg) (q : Bool) (d a b : Reg)
  | vcmpEq (f : Fmt) (k : KReg) (q : Bool) (d : KReg) (a b : Reg)
  | vcmpNe (f : Fmt) (k : KReg) (q : Bool) (d : KReg) (a b : Reg)
  | vcmpLt (f : Fmt) (k : KReg) (q : Bool) (d : KReg) (a b : Reg)
  | vcmpLe (f : Fmt) (k : KReg) (q : Bool) (d : KReg) (a b : Reg)
  | vsel (f : Fmt) (k : KReg) (q : Bool) (d a b : Reg)
  | vperm (f : Fmt) (k : KReg) (q : Bool) (d a b : Reg)
  | vslideUp (f : Fmt) (k : KReg) (q : Bool) (d a b : Reg)
  | vslideDn (f : Fmt) (k : KReg) (q : Bool) (d a b : Reg)
  | vbcast (f : Fmt) (k : KReg) (q : Bool) (d a : Reg)
  | vredAdd (f : Fmt) (k : KReg) (q : Bool) (d a b : Reg)
  | vredMin (f : Fmt) (k : KReg) (q : Bool) (d a b : Reg)
  | vredMax (f : Fmt) (k : KReg) (q : Bool) (d a b : Reg)
  | vscanAdd (f : Fmt) (k : KReg) (q : Bool) (d a b : Reg)
  | vmvg (f : Fmt) (q : Bool) (d a b : Reg)
  -- V.x (R59, R117, R126 to R128)
  | vand (k : KReg) (q : Bool) (d a b : Reg)
  | vor (k : KReg) (q : Bool) (d a b : Reg)
  | vxor (k : KReg) (q : Bool) (d a b : Reg)
  | gmvv (q : Bool) (d a : Reg)
  | kand (d a b : KReg)
  | kor (d a b : KReg)
  | knot (d a : KReg)
  | kpop (d : Reg) (a : KReg)
  | rnadd (k : KReg) (q : Bool) (d a b : Reg)
  | rnmul (k : KReg) (q : Bool) (d a b : Reg)
  | rnfrom (k : KReg) (q : Bool) (d a : Reg)
  | rnto (k : KReg) (q : Bool) (d a : Reg)
  -- vector, 64-bit XV format, fn4 0 (R61)
  | vaddXv (x : XvFields) (d a b : Reg)
  | vsubXv (x : XvFields) (d a b : Reg)
  | vmulXv (x : XvFields) (d a b : Reg)
  | vfmaXv (x : XvFields) (d a b c : Reg)
  | vfmsXv (x : XvFields) (d a b c : Reg)
  | vminXv (x : XvFields) (d a b : Reg)
  | vmaxXv (x : XvFields) (d a b : Reg)
  | vabsXv (x : XvFields) (d a : Reg)
  | vnegXv (x : XvFields) (d a : Reg)
  | vrcpXv (x : XvFields) (d a : Reg)
  | vrsqXv (x : XvFields) (d a : Reg)
  | vexp2Xv (x : XvFields) (d a : Reg)
  | vlog2Xv (x : XvFields) (d a : Reg)
  | vshlXv (x : XvFields) (d a b : Reg)
  | vshrXv (x : XvFields) (d a b : Reg)
  | vshrAXv (x : XvFields) (d a b : Reg)
  | vcmpEqXv (x : XvFields) (d : KReg) (a b : Reg)
  | vcmpNeXv (x : XvFields) (d : KReg) (a b : Reg)
  | vcmpLtXv (x : XvFields) (d : KReg) (a b : Reg)
  | vcmpLeXv (x : XvFields) (d : KReg) (a b : Reg)
  | vselXv (x : XvFields) (d a b : Reg)
  | vpermXv (x : XvFields) (d a b : Reg)
  | vslideUpXv (x : XvFields) (d a b : Reg)
  | vslideDnXv (x : XvFields) (d a b : Reg)
  | vbcastXv (x : XvFields) (d a : Reg)
  | vredAddXv (x : XvFields) (d a b : Reg)
  | vredMinXv (x : XvFields) (d a b : Reg)
  | vredMaxXv (x : XvFields) (d a b : Reg)
  | vscanAddXv (x : XvFields) (d a b : Reg)
  | vmvgXv (x : XvFields) (d a b : Reg)
  -- XV fn4 1 and 2 (R112, R122 to R125)
  | vcvt (x : XvFields) (sfmt : Fmt) (p : BitVec 3) (d a : Reg)
  | vmxscale (x : XvFields) (b16 : Bool) (p : BitVec 7) (d a : Reg)
  | vmxq (x : XvFields) (b16 : Bool) (qp : BitVec 3) (p : BitVec 7) (d a b : Reg)
  | vdotMx (x : XvFields) (b16 : Bool) (d a b c : Reg)
  | vlds (x : XvFields) (ql : Qual) (d a b : Reg)
  | vsts (x : XvFields) (ql : Qual) (d a b : Reg)
  | vldx (x : XvFields) (ql : Qual) (d a b : Reg)
  | vstx (x : XvFields) (ql : Qual) (d a b : Reg)
  -- 16-bit forms (R63)
  | c16AddRr (d s : Reg)
  | c16Mov (d s : Reg)
  | c16AddImm (d : Reg) (i : BitVec 5)
  | c16Li (d : Reg) (i : BitVec 5)
  | c16Sub (d s : Reg)
  | c16And (d s : Reg)
  | c16Or (d s : Reg)
  | c16Xor (d s : Reg)
  | c16Sll (d : Reg) (u : BitVec 5)
  | c16Srl (d : Reg) (u : BitVec 5)
  | c16Sra (d : Reg) (u : BitVec 5)
  | c16LdDSp (d : Reg) (u : BitVec 5)
  | c16StDSp (d : Reg) (u : BitVec 5)
  | c16LdW (d s : Reg)
  | c16StW (d s : Reg)
  | c16LdD (d s : Reg)
  | c16StD (d s : Reg)
  | c16J (o : BitVec 10)
  | c16Jal (o : BitVec 10)
  | c16Jr (s : Reg)
  | c16Jalr (s : Reg)
  | c16Nop
  | c16Fend
  | c16Brk
  -- XS (R62, R138 to R143)
  | lidx (f : Fmt) (q : QReg) (a b c : Reg)
  | lsisect (f : Fmt) (q : QReg) (a b c : Reg)
  | lmerge (f : Fmt) (q : QReg) (a b c : Reg)
  | lmpart (f : Fmt) (d a b c : Reg)
  | lcoord (f : Fmt) (q : QReg) (a b c : Reg)
  | sscat (f : Fmt) (a : Reg) (qd qi : QReg)
  -- BSE (R62, R297)
  | bldw (d a b : Reg) (off : BitVec 16)
  | bldwGexp (d a b : Reg) (off : BitVec 16)
  | bset (bsd : Fin 16) (a : Reg)
  | bstg (f : Fmt) (d a b : Reg) (bsn : Fin 16)
  | bchn (f : Fmt) (mode : ChainMode) (d a b : Reg) (n : Fin 16)
  | bmma (fa fb : Fmt) (acc : Bool) (d a b c : Reg)
  | bmmap (fa fb : Fmt) (acc : Bool) (d a b c : Reg)
  | baccKeep (f : Fmt) (rnd : Rnd) (nsat : Bool) (d a b : Reg)
  | baccTake (f : Fmt) (rnd : Rnd) (nsat : Bool) (d a b : Reg)
  | baccClr (d b : Reg)
  | baccRes (f : Fmt) (rnd : Rnd) (nsat : Bool) (sh : BitVec 5) (d a b : Reg)
  | baccRestake (f : Fmt) (rnd : Rnd) (nsat : Bool) (sh : BitVec 5) (d a b : Reg)
  | brst (label : BitVec 15)
  | bwait (a : Reg)
  | bpoll (d a : Reg)
  -- GRE (R62, R258)
  | geval (op : GOp) (d a b c : Reg)
  | gred (op : GOp) (d a b c : Reg)
  | gseek (d a b : Reg)
  | gpfx (op : GOp) (d a b c : Reg)
  | gexpMemory (d a b c : Reg)
  | gexpQueue (d a : Reg) (q : QReg) (c : Reg)
  | gexpWp (d a c : Reg)
  | gmv (op : GOp) (d a b c : Reg)
  | gwait (a : Reg)
  | gpoll (d a : Reg)
  -- copy (R62, R324, R327, R329)
  | cpyq (d a : Reg)
  | cpyqb (d a : Reg)
  | copyResume (core : Nat) (ch : Nat)
  | copyAbort (core : Nat) (ch : Nat)
  | cwait (a : Reg) (ch : BitVec 2)
  | cpoll (d a : Reg) (ch : BitVec 2)
  -- WALK (R213, R214) and walks (R211)
  | wldp (d a : Reg)
  | wret (a b : Reg)
  | tlbMissWalk (die : Nat)
  | walkLimitExceeded (die tid : Nat)
  -- launches, firings, steals (R7, R9, R150 to R154, R234)
  | hostDoorbell (die io qp value : Nat)
  | launchStart (die : Nat) (clusters : List Nat)
  | gridCompletion (grid : Nat)
  | firingStart (core : Nat)
  | firingRetire (core : Nat)
  | firingWatchdog (core : Nat)
  | stealRequest (core : Nat)
  | stealAnswer (core : Nat)
  | stealRoundTimeout (core : Nat)
  -- messages and activations (R35, R156, R157, R171, R330, R362)
  | messageArrival (core : Nat)
  | hActivationStart (core : Nat)
  | pinnedRecord (core : Nat)
  | recordPushRetry (core : Nat)
  | activationLimit (core : Nat)
  | dActivationStart (core : Nat)
  | poisonRedelivery (core : Nat) (ctx : Ctx) (addr : Word)
  | poisonSenderNotice (core : Nat)
  -- teams (R161, R162, R275, R296)
  | quantumBoundary (grid : Nat)
  | teamSwapOut (grid team : Nat)
  | greDrainExpiry (grid team : Nat)
  | teamRestore (grid team cluster : Nat)
  | wfiTimeout (core : Nat)
  -- engine jobs (R10, R262, R295, R269, R308)
  | bseJobStart (cluster : Nat)
  | bseJobComplete (cluster : Nat)
  | greJobStart (cluster : Nat)
  | greJobComplete (cluster : Nat)
  | completionPush (cluster : Nat)
  -- copy transfers (R325, R326, R329)
  | copyDispatch (core : Nat)
  | copyPageFault (core ch : Nat)
  | copyFaultDelivery (core : Nat)
  | copyTransferComplete (core ch : Nat)
  -- the Keep (R338 to R345)
  | keepWrite (ctrl : Nat)
  | rcReleaseComplete (core : Nat) (ctx : Ctx)
  | sealDecision (grid : Nat)
  | sealPrepare (grid ctrl : Nat)
  | sealCommit (grid : Nat)
  | sealFlip (grid : Nat)
  | sealAbandon (grid : Nat)
  -- paired checking (R368 to R371)
  | fingerprintExchange (core : Nat)
  | partnerTimeout (core : Nat)
  | pairTimeout (core : Nat)
  -- errors and resets (R203, R360 to R366, R390)
  | recordStoreParityError (core slot idx : Nat)
  | contextLost (core : Nat)
  | machineCheck (die : Nat)
  | dieReset (die : Nat)
  | dieReload (die : Nat)
  | scrub (store : EccStore) (at_ : Nat) (found : EccResult)
  -- in-field test (R372, R373)
  | selfTestStart (die : Nat)
  | selfTestComplete (cluster : Nat) (passed : Bool)
  | vectorPackage (port : Nat) (pkg : SignedImage)
  -- power (R393 to R395, R401)
  | forecastUpdate (die : Nat) (due : List Nat) (bse gre : Fin 33)
  | powerManagerTick
  | thermalThrottle (die : Nat)
  | thermalRecover (die : Nat)
  | thermalReset (die : Nat)
  -- migration (R217)
  | migrationRequest (page endpoint : Nat)
  | migrationComplete (page : Nat) (data : List Byte)
  | migrationHoldExpiry (page : Nat)
  -- links (R376 to R386)
  | linkTraining (port lanes : Nat) (authentic : Bool)
  | portDown (port : Nat)
  | inboundRequest (port : Nat) (r : InRequest)
  | inboundMessage (port : Nat) (m : InMessage)
  | remoteResponse (id : Nat) (status : RemoteStatus) (data : List Byte)
  | remoteTimeout (id : Nat)
  | egressArbitration (port : Nat)
  | directoryRecall (endpoint line : Nat)
  -- control ports (R387 to R391)
  | ctlsemWrite (port : Nat) (tag : BitVec 32)
  | ctlsemLeaseExpiry
  | powerOn
  | firmwareDownload (port : Nat) (image : SignedImage)
  | attestationRequest (port : Nat) (nonce : List Byte)
  | routeTableWrite (port die endpoint : Nat) (value : Word)
  | keyTableWrite (port die entry : Nat) (dw0 dw1 : Word)
  | frameOwnerWrite (port die frame : Nat) (value : BitVec 16)
  | shareTableWrite (port egress tenant : Nat) (weight : BitVec 8)
  | powerCapWrite (port watts : Nat)
  | resetRequest (port : Nat) (what : ResetScope)
  | controlRegisterWrite (port : Nat) (reg : ControlReg)
  -- buffers and lines (R80, R233, R360, R362, R374, R376)
  | storeBufferDrain (core : Nat)
  | claimedLineFinished (cluster : Nat)
  | gatingBufferParityError (core idx : Nat)
  | activationParityError (core : Nat) (ctx : Ctx)
  | correctedErrorThreshold (cluster : Nat)
  | linkLevelRetry (port : Nat)
  deriving DecidableEq, Repr

end Sys2Proof
end

