-- ==== Sys2Proof/Machine/State.lean ====
section
/-! DEFINITION. The state of the part as plain data: cores, clusters, dies, launches, memory, the
Keep, the fabric, and the turn that says which agent moves. `State.reset` is the part after
power-on (R389). A core, cluster or die that no list names stands at its reset value. -/

namespace Sys2Proof.Machine

/-! ## Sparse data -/

/-- Data by number, keys strictly rising; a key that is not listed holds a default. -/
abbrev Sparse (α : Type) := List (Nat × α)

/-! ## Contexts and streams (R33 to R46) -/

/-- A context: registers, STATUS (R44), FPSTAT (R99), FRM (R100) and the trap registers (R45).
`inTrap` marks a handler that has not returned (R40). -/
structure Context where
  g      : Vector Word 32
  v      : Vector VWord 32
  pc     : Word
  status : Word
  fpstat : Word
  frm    : Word
  epc    : Word
  cause  : Word
  tval   : Word
  inTrap : Bool
  deriving DecidableEq, Repr

/-- The L-stream or S-stream of a firing: `g0` to `g15`, its offset, whether it ended (R34), and the
position of a list walk under way whose progress register is `g0` (R135). -/
structure StreamState where
  g     : Vector Word 16
  pc    : Word
  ended : Bool
  walk  : Option Word
  deriving DecidableEq, Repr

/-- A queue entry (R37): 1,024 data bits, or an end-of-stream mark. -/
inductive QEntry where
  | data (v : VWord)
  | mark
  deriving DecidableEq, Repr

/-- A registration of a firing at a barrier (R174, R177): level, number, and the phase in which it
has arrived without having returned. -/
structure BarReg where
  lvl     : Nat
  n       : Nat
  arrived : Option Nat
  deriving DecidableEq, Repr

/-- What a firing holds besides F's context (R36, R85, R101, R148, R152, R307). `mIdx` is the MLD
index of each `m` register (R164); `stalls` is the offset of the instruction with which the C-, L- and S-stream waits
on a queue (R153). -/
structure FState where
  l        : StreamState
  s        : StreamState
  k        : Vector KWord 8
  m        : Vector MWord 16
  mIdx     : Vector (Option Nat) 16
  bs       : Vector (BitVec 32) 16
  q        : Vector (List QEntry) 8
  srseed   : Word
  fire     : Word
  cEnded   : Bool
  held     : Bool
  heldPc   : Word
  rstLabel : Option Nat
  holdsBse : Bool
  pushes   : Vector Nat 16
  bars     : List BarReg
  stalls   : Vector (Option Word) 3
  deriving DecidableEq, Repr

/-! ## Places, records, messages -/

/-- Where a byte lies: in a scratchpad (core, raw offset), or at a physical address (R192, R204). -/
inductive Place where
  | scratch (core off : Nat)
  | mem (pa : Nat)
  deriving DecidableEq, Repr

/-- Who issued a message, record or remote request: a context of a core, or nobody of this device. -/
structure Issuer where
  core : Nat
  ctx  : Ctx
  deriving DecidableEq, Repr

/-- A task record in a deque (R149). -/
structure Rec where
  w0     : Word
  w1     : Word
  pinned : Bool
  deriving DecidableEq, Repr

/-- What waits in an inbox (R156, R170, R223): a message, a record behind one, or an atomic on the
core's slot (raw offset, width). -/
inductive ItemKind where
  | low (slot : Nat)
  | high (target : Nat) (priv : Nat)
  | record (slot : Nat)
  | atomic (off width : Nat)
  deriving DecidableEq, Repr

/-- An item of an inbox or of the network: its sender (none from another device), the sender's
LVLID0, its class and payload, the scope of its release, and the request it answers when it came
from another device (R157, R173, R382). -/
structure Item where
  src    : Option Issuer
  kind   : ItemKind
  lvlid  : Nat
  cls    : Nat
  w0     : Word
  w1     : Word
  scope  : Scope
  port   : Option Nat
  deriving DecidableEq, Repr

/-- A landing packet (R330): channel, transfer id, destination, bytes, and its routine. -/
structure Packet where
  core   : Nat
  ch     : Nat
  id     : Nat
  dest   : Word
  bytes  : List Byte
  target : Nat
  deriving DecidableEq, Repr

/-- What started an activation (R35, R157, R330). -/
inductive Trigger where
  | message (i : Item)
  | packet (p : Packet)
  deriving DecidableEq, Repr

/-- What a remote request asks of its endpoint: offset, length or bytes, operation (R225, R376, R382). -/
inductive RemoteKind where
  | read (offset n : Nat)
  | write (offset : Nat) (bytes : List Byte) (poisoned : Bool)
  | atomic (offset op width : Nat) (operand compare : Word)
  | message (core cls : Nat) (high : Bool) (w0 w1 : Word)
  | record (core slot : Nat) (w0 w1 : Word)
  deriving DecidableEq, Repr

/-- An item that an activation will send at FEND (R14): a record, a message, a request to another device, or the
word that its landing packet has been handled (R330, R333). -/
inductive OutItem where
  | record (target slot : Nat) (w0 w1 : Word) (scope : Scope)
  | message (target : Nat) (i : Item)
  | remote (endpoint : Nat) (kind : RemoteKind)
  | landed (p : Packet)
  deriving DecidableEq, Repr

/-- A running H or D activation (R14, R35, R362). -/
structure Activation where
  trigger : Trigger
  count   : Nat
  out     : List OutItem
  second  : Bool
  deriving DecidableEq, Repr

/-! ## Stores on their way -/

/-- Bytes that a store writes at one place. `mask` selects the bits written: all, or one nibble of a byte
(R197). `rc` and `uncached` are its page's attributes. -/
structure StorePart where
  place    : Place
  bytes    : List Byte
  mask     : Byte
  rc       : Bool
  uncached : Bool
  deriving DecidableEq, Repr

/-- An entry of the store buffer (R80, R113): its context and the parts of one access; a parity error poisons it.
`wide` marks a release of die scope or wider, `gated` an entry that the gating buffer has released into the order
of the store buffer and that takes none of the 32 places. -/
structure StoreEntry where
  ctx      : Ctx
  parts    : List StorePart
  wide     : Bool
  gated    : Bool
  poisoned : Bool
  deriving DecidableEq, Repr

/-- An entry of the store-gating buffer (R14) with the holders that have not released it: the
activation of a context, the open interval of a pair. `wide` marks a release of die scope or wider. -/
structure GateEntry where
  ctx      : Ctx
  act      : Bool
  interval : Bool
  parts    : List StorePart
  wide     : Bool
  poisoned : Bool
  deriving DecidableEq, Repr

/-- An item of an ended activation that has not left the network interface: it follows the activation's stores
(R14, R170, R229). -/
structure Outgoing where
  ctx  : Ctx
  item : OutItem
  deriving DecidableEq, Repr

/-! ## Work of a core -/

/-- What F runs (R150, R165): nothing, a firing of a slot, or an upcall routine. -/
inductive Firing where
  | idle
  | slot (n : Nat)
  | upcall
  deriving DecidableEq, Repr

/-- The steal round of a core (R154): how many victims of the round were tried, the victim asked,
whether the round failed, and the logical cluster that last supplied records. -/
structure Steal where
  tried  : Nat
  asked  : Option Nat
  failed : Bool
  last   : Option Nat
  deriving DecidableEq, Repr

/-- The deques of a core, the count of selections that passed each over, and the order in which
its ready stages became ready (R149, R150). -/
structure Work where
  deques : Vector (List Rec) 16
  passed : Vector Nat 16
  ready  : List Nat
  steal  : Steal
  deriving DecidableEq, Repr

/-- A notice that F takes at its next boundary: cause, TVAL (R360, R362, R364, R365). -/
structure Notice where
  cause : Nat
  tval  : Word
  deriving DecidableEq, Repr

/-- A copy request in the FIFO (R321, R324), with what it captured at issue (R88): user mode, ASID, WCFG1 to
WCFG5. -/
structure CopyReq where
  id   : Nat
  user : Bool
  asid : Word
  wcfg : Vector Word 5
  w0   : Word
  w1   : Word
  w2   : Word
  w3   : Word
  deriving DecidableEq, Repr

/-- The running transfer of a channel (R325 to R330): its request, whether it runs (its parameter block read, its
destination lines claimed), its pieces (COUNT 0: the block is still to be read), the byte from which lines are still to
be claimed, the bytes already moved, its cause of failure, whether a landing packet is under way, and whether it has
ended. -/
structure Transfer where
  req     : CopyReq
  ready   : Bool
  sstep   : Word
  dstep   : Word
  count   : Nat
  size    : Nat
  lead    : Nat
  moved   : Nat
  cause   : Nat
  landing : Bool
  ended   : Bool
  deriving DecidableEq, Repr

/-- A channel (R324, R326, R329): ISSUED, the fields of CWM, and its transfer. `fault` is the
address at which it stalled. -/
structure Chan where
  issued : Nat
  done   : Nat
  stall  : Bool
  dlv    : Bool
  fail   : Bool
  fault  : Word
  run    : Option Transfer
  deriving DecidableEq, Repr

/-- The status of a finished engine job that a core still holds (R271, R272, R310, R311). -/
structure JobStatus where
  id    : Nat
  stat  : Word
  flags : Nat
  scope : Scope
  deriving DecidableEq, Repr

/-- A remote request of a context (R225, R378, R382): the firing and the instruction that made it, its number,
what it asks of which endpoint, and its answer once it came. -/
structure RemoteWait where
  ctx      : Ctx
  fire     : Word
  pc       : Word
  id       : Nat
  endpoint : Nat
  kind     : RemoteKind
  answer   : Option (RemoteStatus × List Byte)
  deriving DecidableEq, Repr

/-- An atomic of this core that waits for its activation on another core (R223): its context, the firing and
the instruction that made it, its address, its item, and the answer: the old value and the flags, or the
poisoned address. -/
structure AtomWait where
  ctx    : Ctx
  fire   : Word
  pc     : Word
  va     : Word
  item   : Item
  answer : Option (Except Word (Word × Word))
  deriving DecidableEq, Repr

/-- A recovery-scope release under way (R79, R339): the context and the offset of its instruction, whether it has
been counted, and the result that its instruction has still to give. -/
structure RcWait where
  ctx  : Ctx
  pc   : Word
  done : Bool
  data : List Byte
  deriving DecidableEq, Repr

/-- A seal of a context that is waiting or committing (R344). `residents` lists the teams that have
been resident through one complete quantum since the wait began. -/
inductive SealPhase where
  | waiting
  | committing (count : Nat)
  | done (stat : Word)
  deriving DecidableEq, Repr

/-- The seal that a core has issued (R344), and the contexts that wait for its result. `quantum` is the first quantum
that counts for its wait for teams, none while another seal commits. -/
structure SealWait where
  ctxs      : List Ctx
  resume    : List Byte
  phase     : SealPhase
  quantum   : Option Nat
  residents : List Nat
  deriving DecidableEq, Repr

/-- What a fibre keeps outside its slot (R164, R165): its FIRE, where the slot's pages lie, whether its completion
notice has come, its label and hold, its barrier registrations, its push counts, BSTAT, and whether a swap has
discarded its BSE jobs (R307). -/
structure Fibre where
  slot   : Nat
  fire   : Word
  pages  : List Nat
  noticed : Bool
  label  : Option Nat
  bse    : Bool
  gone   : Bool
  bars   : List BarReg
  pushes : Vector Nat 16
  bstat  : Word
  deriving DecidableEq, Repr

/-! ## Paired checking (R367 to R371) -/

/-- What a pair rolls back to (R368): F's context and firing state. -/
structure Snapshot where
  fc : Context
  f  : FState
  deriving DecidableEq, Repr

/-- The pairing of a core: PAIRCTL and FPRINT (R370), the instructions each stream retired in the
open interval, the byte strings of R368, the values the even core has passed on, the start of the
interval, whether it runs again, a PAIR (`some true`) or UNPAIR (`some false`) that waits for the
partner (R371), and the stream whose operation closed the interval and comes first after it. -/
structure Pairing where
  ctl     : Word
  fprint  : Word
  retired : Vector Nat 3
  bytes   : Vector (List Byte) 3
  passed  : Vector (List (List Byte)) 3
  start   : Option Snapshot
  again   : Bool
  joining : Option Bool
  closer  : Option Ctx
  deriving DecidableEq, Repr

/-! ## A core -/

/-- Identity of a bound core (R42): grid, LOG, LVLID0 to LVLID7. -/
structure Identity where
  grid  : Option Nat
  log   : Nat
  lvlid : Vector Word 8
  deriving DecidableEq, Repr

/-- Special registers of which the core holds one copy (R41, R45, R195, R196, R270, R271, R309,
R310, R340). -/
structure CoreSr where
  wcfg   : Vector Word 5
  tvec   : Word
  uvec   : Word
  asid   : Word
  bjob   : Word
  gjob   : Word
  bstat  : Word
  gstat  : Word
  rpstat : Word
  deriving DecidableEq, Repr

/-- The three instruction stores (R33, R200): the halfwords loaded for the launch. -/
structure Stores where
  c : List Half
  l : List Half
  s : List Half
  deriving DecidableEq, Repr

/-- The memories and buffers of a core (R14, R80, R193, R361). Scratchpad bytes are listed where
they differ from `Config.unwrittenByte`; `poison` lists poisoned 64-bit words of the scratchpad. -/
structure CoreMem where
  buffer  : List StoreEntry
  gate    : List GateEntry
  scratch : List Host.Cell
  poison  : List Nat
  deriving DecidableEq, Repr

/-- Engine jobs and copies as the core sees them (R272, R311, R324). -/
structure CoreJobs where
  bseDone : List JobStatus
  greDone : List JobStatus
  chans   : Vector Chan 4
  fifo    : List CopyReq
  packets : List Packet
  deriving DecidableEq, Repr

/-- What a core waits for outside itself (R223, R225, R339, R344): remote requests, an atomic on
another core, recovery-scope releases, a seal. -/
structure CoreWaits where
  remote : List RemoteWait
  atoms  : List AtomWait
  rcRel  : List RcWait
  sealOf : Option SealWait
  deriving DecidableEq, Repr

/-- A core (R33 to R46). `fc`, `hc`, `dc` are the contexts F, H and D. `seq` counts the firings started in the
launch (R42). `outbox` holds what ended activations have still to send. `wfi` marks F suspended (R86); `dTurn`
says that D has the next clock (R35); `lost` marks a lost context (R364). -/
structure Core where
  fc      : Context
  hc      : Context
  dc      : Context
  f       : FState
  firing  : Firing
  seq     : Nat
  hAct    : Option Activation
  dAct    : Option Activation
  ident   : Identity
  sr      : CoreSr
  stores  : Stores
  mem     : CoreMem
  work    : Work
  inbox   : List Item
  outbox  : List Outgoing
  jobs    : CoreJobs
  waits   : CoreWaits
  pair    : Pairing
  notices : List Notice
  fibres  : List Fibre
  wfi     : Bool
  dTurn   : Bool
  lost    : Bool
  deriving DecidableEq, Repr

/-! ## Clusters and their engines -/

/-- A requester of a translation (R211, R269, R308, R329), or of an access; `launch` is the scheduler of a die
(R7). -/
inductive Requester where
  | core (core : Nat) (ctx : Ctx)
  | bse (cluster id : Nat)
  | gre (cluster id : Nat)
  | copy (core ch : Nat)
  | launch (die : Nat)
  deriving DecidableEq, Repr

/-- A walk that failed for a requester (R209, R211, R337): the page address, and what failed. -/
inductive WalkFail where
  | routine
  | absent
  | noKeep
  deriving DecidableEq, Repr

/-- A TLB entry (R205, R207, R208): the page's virtual address, log2 of its size, its ASID, the leaf
and the companion word. -/
structure TlbEntry where
  va   : Nat
  size : Nat
  asid : Nat
  leaf : Word
  comp : Word
  deriving DecidableEq, Repr

/-- How a BSE region operand reads (R298). -/
structure Region where
  rows : Nat
  cols : Nat
  base : Nat
  part : Bool
  deriving DecidableEq, Repr

/-- The operation of a BACC (R297). -/
inductive BaccOp where
  | keep | take | clr | res | restake
  deriving DecidableEq, Repr

/-- A BSE job (R302 to R306). -/
inductive BseCmd where
  | load (src : Word) (bytes off : Nat)
  | loadGexp (gre off : Nat)
  | chain (f : Fmt) (mode : ChainMode) (input : Option Word) (r : Region) (stages : List (BitVec 32))
  | tile (pair : Bool) (fa fb : Fmt) (acc : Bool) (a b : Word) (block : List Byte)
  | readout (op : BaccOp) (f : Fmt) (rnd : Rnd) (nsat : Bool) (sh : Nat) (dst : Word) (r : Region)
  deriving DecidableEq, Repr

/-- Where a GEXP delivers (R268). -/
inductive GexpTarget where
  | memory (dst : Word)
  | queue (q : QReg)
  | weightPort
  deriving DecidableEq, Repr

/-- A GRE job's form (R263 to R268). -/
inductive GreCmd where
  | eval | red | seek | pfx | mv
  | expand (t : GexpTarget)
  deriving DecidableEq, Repr

/-- A line an engine writes: its place (128-byte aligned), its bytes, which bytes are new, and VA<56:12> of its
first byte. -/
structure OutLine where
  place : Place
  page  : Nat
  bytes : List (Nat × Byte)
  rc    : Bool
  deriving DecidableEq, Repr

/-- What a job has come to (R269, R308): STATE, CAUSE, INFO or FPAGE, HINT, FLOATEV, its flags. -/
structure JobEnd where
  state : Nat
  cause : Nat
  info  : Nat
  hint  : Bool
  count : Nat
  flags : Nat
  deriving DecidableEq, Repr

/-- What a job captured at issue (R88, R301): issuing core, whether a firing or an upcall issued it,
user mode, FRM.MODE, WCFG1 to WCFG5, the seed, and the completion slot. -/
structure Captured where
  core  : Nat
  log   : Nat
  asid  : Word
  user  : Bool
  mode  : Nat
  wcfg  : Vector Word 5
  seed  : Word
  push  : Option Nat
  scope : Scope
  fire  : Word
  upcall : Bool
  deriving DecidableEq, Repr

/-- A job in the queue of a BSE (R295, R308). `begun` says that it has started, `result` is its end once it has
run; `lines` are the lines it has still to write. -/
structure BseJob where
  id      : Nat
  cap     : Captured
  cmd     : BseCmd
  begun   : Bool
  result  : Option JobEnd
  lines   : List OutLine
  pushing : Bool
  deriving DecidableEq, Repr

/-- A job in the queue of a GRE (R261, R269): the grammar descriptor, argument block and x
descriptor copied at issue (R259 to R261), and the entries a queue GEXP has still to push. -/
structure GreJob where
  id      : Nat
  cap     : Captured
  cmd     : GreCmd
  op      : GOp
  gd      : List Byte
  rrt     : Word
  args    : List Byte
  xdesc   : List Byte
  begun   : Bool
  result  : Option JobEnd
  lines   : List OutLine
  queue   : List QEntry
  stream  : List Byte
  taken   : Bool
  pushing : Bool
  deriving DecidableEq, Repr

/-- The intake of a job queue (R262, R295): the core that it took a job from last, and the issues that wait for it:
core, firing, offset. -/
structure Intake where
  last    : Nat
  waiting : List (Nat × Word × Word)
  deriving DecidableEq, Repr

/-- A cluster (R5, R205, R284, R286, R372, R374). -/
structure Cluster where
  bse     : List BseJob
  nextBse : Nat
  bseIn   : Intake
  acc     : Sparse (BitVec 32)
  wbuf    : List Host.Cell
  gre     : List GreJob
  nextGre : Nat
  greIn   : Intake
  copyAt  : Nat
  tlb     : List TlbEntry
  fails   : List (Requester × Nat × WalkFail)
  bin     : Nat
  retired : Bool
  test    : Option Nat
  errors  : Nat
  deriving DecidableEq, Repr

/-! ## Dies -/

/-- What a TLBINV removes (R89): one address or every address, one ASID or every ASID. -/
structure Inval where
  va   : Option Nat
  asid : Option Nat
  deriving DecidableEq, Repr

/-- A request for a walk (R211): page address, ASID register, LOG, user mode, kind of access 0 to 3
(R211), the waiting requesters, and the removals since it began with their cluster, whose TLB takes no entry that
matches (R89). -/
structure WalkReq where
  va      : Nat
  asid    : Word
  log     : Nat
  user    : Bool
  kind    : Nat
  grid    : Option Nat
  waiters : List Requester
  cancel  : List (Nat × Inval)
  deriving DecidableEq, Repr

/-- A walker thread (R211, R212): its request, registers, offset, instructions, scratch area. -/
structure Thread where
  tid     : Nat
  req     : WalkReq
  g       : Vector Word 16
  pc      : Word
  count   : Nat
  scratch : List Host.Cell
  deriving DecidableEq, Repr

/-- A pair of command and completion queues of an I/O core (R9, R234, R392): number, base address of its entries
of 256 bytes, number of entries, the next entry to read, and the completion records: grid, cause. -/
structure IoQueue where
  qp      : Nat
  base    : Nat
  entries : Nat
  next    : Nat
  done    : List (Nat × Nat)
  deriving DecidableEq, Repr

/-- An I/O core (R64, R392): the scalar profile over a context of its own. -/
structure IoCore where
  ctx     : Context
  store   : List Half
  running : Bool
  queues  : List IoQueue
  deriving DecidableEq, Repr

/-- Where a completion record goes (R9): an I/O core's completion queue, or the record that a device-side
LAUNCH of a core named, by its COMPLETE address. -/
inductive CompleteTo where
  | queue (die io qp : Nat)
  | device (core : Nat) (target : Word)
  deriving DecidableEq, Repr

/-- A completion record that a scheduler has still to write (R9): the core whose LAUNCH named it, its address, the ASID
register of the launch, its grid and cause. -/
structure Owed where
  core   : Nat
  target : Word
  asid   : Word
  grid   : Nat
  cause  : Nat
  deriving DecidableEq, Repr

/-- A queued launch (R7, R179): the 256-byte record with GRID and ASID written, who asked. -/
structure LaunchReq where
  record : List Byte
  by_    : CompleteTo
  tenant : Option Nat
  deriving DecidableEq, Repr

/-- A line of the RDC (R203): its bytes, the offsets that are dirty, with their issuer, and the poisoned 64-bit
words of the line (R361). -/
structure RdcLine where
  bytes  : VWord
  dirty  : List (Nat × Issuer)
  poison : List Nat
  deriving DecidableEq, Repr

/-- The near/far predictor of a line (R222): FAR or NEAR, transfers seen, the cluster cache that owns
the line, and the run of far atomics from one cluster. -/
structure Predict where
  far       : Bool
  transfers : Nat
  owner     : Option Nat
  runOf     : Nat
  run       : Nat
  deriving DecidableEq, Repr

/-- What a port carries for a tenant (R384): queued requests with their sizes, and its deficit. -/
structure Egress where
  tenant  : Nat
  queue   : List (Nat × Nat)
  deficit : Nat
  deriving DecidableEq, Repr

/-- A UALink port (R376, R381, R384): lanes (0 while down), counters, egress queues, the share table,
the tenant last served, the link key, flits sent again. -/
structure Port where
  lanes    : Nat
  keyErr   : Nat
  permErr  : Nat
  egress   : List Egress
  shares   : Sparse (BitVec 8)
  lastSent : Nat
  linkKey  : Bool
  retries  : Nat
  deriving DecidableEq, Repr

/-- Firmware of a die (R389): the ROM, a running image (its version), or a refused one. -/
inductive Firmware where
  | rom
  | running (version : Nat)
  | bad
  deriving DecidableEq, Repr

/-- A die (R5, R203, R210, R222, R366, R372, R378 to R384, R389 to R401). -/
structure Die where
  inReset   : Bool
  firmware  : Firmware
  store     : List Half
  table     : Nat
  threads   : List Thread
  walks     : List WalkReq
  nextTid   : Nat
  io        : Sparse IoCore
  launches  : List LaunchReq
  rdc       : Sparse RdcLine
  predict   : Sparse Predict
  forecast  : Word
  coeff     : Vector Nat 4
  clock     : Nat
  throttled : Bool
  routes    : Sparse Word
  keys      : Sparse (Word × Word)
  frames    : Sparse (BitVec 16)
  ports     : Vector Port 4
  log       : List (Nat × Nat)
  testNext  : Nat
  vectors   : Nat
  deriving DecidableEq, Repr

/-! ## Grids (R147 to R168) -/

/-- A stage-table entry (R147). -/
structure Stage where
  valid  : Bool
  prio   : Nat
  slot   : Nat
  rate   : Nat
  level  : Nat
  centry : Nat
  lentry : Nat
  sentry : Nat
  ports  : List (Nat × Nat)
  init   : Word
  count  : Nat
  deriving DecidableEq, Repr

/-- A class-table entry (R156). -/
structure ClassEntry where
  inst   : Bool
  high   : Bool
  priv   : Nat
  target : Nat
  deriving DecidableEq, Repr

/-- An arena descriptor (R180), without USED, which stands in memory. -/
structure Arena where
  base  : Word
  size  : Word
  align : Nat
  deriving DecidableEq, Repr

/-- A barrier (R174, R177): its place, the four counts, and the W of each ended phase that a
waiting firing has still to return. -/
structure Barrier where
  lvl  : Nat
  unit : Nat
  n    : Nat
  g    : Nat
  a    : Nat
  w    : Nat
  p    : Nat
  last : Nat
  deriving DecidableEq, Repr

/-- The fields of a launch record that a running grid keeps (R158). -/
structure LaunchInfo where
  tenant   : Nat
  asid     : Nat
  prio     : Nat
  clusters : Nat
  levels   : List (Nat × Nat)
  lperm    : Bool
  modes    : Nat
  status   : Word
  stages   : List Stage
  shape    : List Byte
  arenaVa  : Word
  arenas   : List Arena
  classes  : List ClassEntry
  stores   : Stores
  seed     : Word
  key      : Nat
  swap     : Word
  fibre    : Word
  fibres   : Nat
  rres     : Nat
  fres     : Nat
  head     : List Byte
  wcfg     : Vector Word 5
  tvec     : Word
  uvec     : Word
  deriving DecidableEq, Repr

/-- The recovery record of a grid and its seal under way (R339, R344, R345): the LVLID0 of the sealing
core, the count and the resume record taken at the cut, the controllers that have answered with
their SET digest, whether the commit record is written. `restore` says that an RPRESTORE waits. -/
structure Recovery where
  seq      : Nat
  expect   : Nat
  count    : Nat
  digest   : List Byte
  last     : List Byte
  rpend    : Bool
  sealer   : Option Nat
  cut      : Nat
  resume   : List Byte
  prepared : List (Nat × List Byte)
  commit   : Bool
  restore  : Bool
  deriving DecidableEq, Repr

/-- A running launch (R7, R158 to R163): where each resident team is, the granted clusters, the swapped-out teams with
their eight cores, those of them whose state stands in the swap area, and the barriers. -/
structure Grid where
  info    : LaunchInfo
  granted : List Nat
  place   : Sparse Nat
  saved   : Sparse (List Core)
  stored  : List Nat
  quantum : Nat
  barriers : List Barrier
  recov   : Recovery
  by_     : CompleteTo
  failed  : Option Nat
  deriving DecidableEq, Repr

/-! ## The package -/

/-- A line claimed by an engine job (R233). -/
structure Claim where
  place   : Place
  holder  : Requester
  deriving DecidableEq, Repr

/-- A write on its way to a Keep controller (R338). -/
structure KeepMsg where
  ctrl   : Nat
  grid   : Nat
  src    : Option Issuer
  job    : Option Requester
  pa     : Nat
  bytes  : List Byte
  deriving DecidableEq, Repr

/-- An entry of a block map (R338): block address, grid, CUR, PEND, whether the block belongs to the
closed set of a seal, and the two slots as bytes that differ from zero. -/
structure KeepBlock where
  pa    : Nat
  grid  : Nat
  cur   : Bool
  pend  : Bool
  inSet : Bool
  slot0 : List Host.Cell
  slot1 : List Host.Cell
  deriving DecidableEq, Repr

/-- The Keep (R335 to R347): GiB per stack, the block maps, the writes under way, the commit logs
(controller, record). -/
structure Keep where
  gib    : Nat
  blocks : List KeepBlock
  msgs   : List KeepMsg
  logs   : List (Nat × List Byte)
  deriving DecidableEq, Repr

/-- What is on its way between cores (R156, R170, R171): the grid, the LVLID0 of the target, the item;
`held` items came from an activation and are retried by the network interface. -/
structure NetItem where
  grid   : Nat
  target : Nat
  item   : Item
  held   : Bool
  deriving DecidableEq, Repr

/-- A remote request on its way (R378, R379, R382). `fromH` marks a message that left at FEND. -/
structure RemoteReq where
  id       : Nat
  src      : Issuer
  tenant   : Nat
  key      : Option Nat
  die      : Nat
  port     : Nat
  endpoint : Nat
  kind     : RemoteKind
  late     : Bool
  deriving DecidableEq, Repr

/-- A page between this device and other endpoints (R217): its home, the endpoints that ask for it, the
requesters of this device that await it, a migration under way, whether its 50 µs hold runs, and the requesters
whose request failed. -/
structure Migration where
  home    : Nat
  asking  : List Nat
  waiting : List Requester
  moving  : Option Nat
  hold    : Bool
  refused : List Requester
  deriving DecidableEq, Repr

/-- A remote access of an engine job or a transfer (R16, R225): its number, VA<56:12>, what it asks of which
endpoint, and its answer once it came. -/
structure EngineAccess where
  who      : Requester
  page     : Nat
  id       : Nat
  endpoint : Nat
  kind     : RemoteKind
  answer   : Option (RemoteStatus × List Byte)
  deriving DecidableEq, Repr

/-- The fabric side of the device (R217, R377, R378, R382). `answers` are the statuses this device
has given to inbound requests: port, status, data. -/
structure Fabric where
  endpoint : Nat
  timeout  : Nat
  nextReq  : Nat
  reqs     : List RemoteReq
  pages    : Sparse Migration
  engine   : List EngineAccess
  answers  : List (Nat × RemoteStatus × List Byte)
  deriving DecidableEq, Repr

/-- CTLSEM and the control ports (R387, R388, R391, R394): the semaphore word, the NOSEM counters of
ports A and B, the power cap, the configuration written since power-on, the image, reports sent,
how often the device was powered on, and the completion interrupts raised (R234). -/
structure Control where
  sem       : Word
  nosem     : Vector Nat 2
  cap       : Nat
  config    : List Byte
  image     : Option SignedImage
  reports   : List (List Byte)
  powerOns  : Nat
  raised    : Nat
  interval  : Nat
  threshold : Nat
  deriving DecidableEq, Repr

/-- Tags of lines held in caches, oldest first (R203, R205, R256, R332): L1 lines by core (VA line, ASID, PA
line), cluster-cache lines by cluster, L2 lines by home die, RRC entries by cluster, parameter blocks by
cluster. What a cluster cache or an L2 slice holds is the line as its home has it (log 86). -/
structure Caches where
  l1      : List (Nat × Nat × Nat × Nat)
  cluster : List (Nat × Nat)
  l2      : List (Nat × Nat)
  rrc     : List (Nat × Nat)
  param   : List (Nat × Nat)
  deriving DecidableEq, Repr

/-- An agent that moves by itself (one step at a time). -/
inductive Agent where
  | cStream (core : Nat)
  | lStream (core : Nat)
  | sStream (core : Nat)
  | drain (core : Nat)
  | net (core : Nat)
  | steal (core : Nat)
  | bse (cluster : Nat)
  | gre (cluster : Nat)
  | copy (core : Nat)
  | walker (die : Nat)
  | ioCore (die io : Nat)
  | keep (ctrl : Nat)
  | pairs (core : Nat)
  | scheduler (die : Nat)
  | egress (port : Nat)
  deriving DecidableEq, Repr

/-- A move of the agenda: an event with its data, or an agent told to move now. -/
inductive Move where
  | event (i : Instr)
  | agent (a : Agent)
  deriving DecidableEq, Repr

/-- Who executes the instruction of a step. -/
inductive Turn where
  | env
  | core (core : Nat) (ctx : Ctx)
  | walker (die tid : Nat)
  | io (die n : Nat)
  deriving DecidableEq, Repr

/-- The state of the part. `mem` lists the bytes of HBM that differ from `Config.unwrittenByte`,
addresses strictly rising; `poison` lists poisoned 64-bit words (R361). `fresh` counts the free
values drawn (log 11). -/
structure State where
  turn     : Turn
  agents   : List Agent
  agenda   : List Move
  fresh    : Nat
  cores    : Sparse Core
  clusters : Sparse Cluster
  dies     : Vector Die 4
  mem      : List Host.Cell
  poison   : List Nat
  caches   : Caches
  claims   : List Claim
  ticket   : Nat
  keep     : Keep
  grids    : Sparse Grid
  nextGrid : Nat
  net      : List NetItem
  fabric   : Fabric
  control  : Control
  results  : List (CompleteTo × Nat × Nat)
  owed     : List Owed
  deriving DecidableEq, Repr

/-! ## How a step can stop -/

/-- Faults: the model has no meaning for the step. Each is safe: the model stops where the part, by
its spec, cannot be. -/
inductive Fault where
  /-- Raised by an instruction that no context of the part issues (`Turn.env`, or a walker thread
  that does not exist): the spec has no such case. Safe. -/
  | noContext
  deriving DecidableEq, Repr

/-- Refusals: instructions without a meaning. -/
inductive Refusal where
  /-- Raised by an arm of `exec` whose instruction is not modelled yet. Safe. -/
  | notModelled (mnemonic : String)
  deriving DecidableEq, Repr

/-! ## Reset -/

/-- A context after reset: PRIV 3, CTX as given (R44); registers zero (log 1). -/
def Context.reset (ctx : Nat) : Context where
  g := Vector.replicate 32 0
  v := Vector.replicate 32 0
  pc := 0
  status := BitVec.ofNat 64 (ctx * 4096 + 3 * 1024)
  fpstat := 0
  frm := 0
  epc := 0
  cause := 0
  tval := 0
  inTrap := false

/-- A stream with no firing: ended (R34). -/
def StreamState.reset : StreamState where
  g := Vector.replicate 16 0
  pc := 0
  ended := true
  walk := none

/-- No firing: every register zero, `k0` all ones, SRSEED 1 (R36, R101, R151). -/
def FState.reset : FState where
  l := StreamState.reset
  s := StreamState.reset
  k := (Vector.replicate 8 0).set 0 (BitVec.allOnes 128)
  m := Vector.replicate 16 0
  mIdx := Vector.replicate 16 none
  bs := Vector.replicate 16 0
  q := Vector.replicate 8 []
  srseed := 1
  fire := 0
  cEnded := true
  held := false
  heldPc := 0
  rstLabel := none
  holdsBse := false
  pushes := Vector.replicate 16 0
  bars := []
  stalls := Vector.replicate 3 none

/-- A channel after launch (R326). -/
def Chan.reset : Chan where
  issued := 0
  done := 0
  stall := false
  dlv := false
  fail := false
  fault := 0
  run := none

/-- WCFG1 to WCFG5 after reset: TSCALE of WCFG4 is 1.0 (R195, R196). -/
def wcfgReset : Vector Word 5 := (Vector.replicate 5 0).set 3 0x3F80000000000000

/-- The special registers of a core after reset. -/
def CoreSr.reset : CoreSr where
  wcfg := wcfgReset
  tvec := 0
  uvec := 0
  asid := 0
  bjob := 0
  gjob := 0
  bstat := 0
  gstat := 0
  rpstat := 0

/-- No pairing (R370). -/
def Pairing.reset : Pairing where
  ctl := 0
  fprint := 0
  retired := Vector.replicate 3 0
  bytes := Vector.replicate 3 []
  passed := Vector.replicate 3 []
  start := none
  again := false
  joining := none
  closer := none

/-- Empty deques (R149). -/
def Work.reset : Work where
  deques := Vector.replicate 16 []
  passed := Vector.replicate 16 0
  ready := []
  steal := { tried := 0, asked := none, failed := false, last := none }

/-- A core after reset. -/
def Core.reset : Core where
  fc := Context.reset 0
  hc := Context.reset 1
  dc := Context.reset 2
  f := FState.reset
  firing := .idle
  seq := 0
  hAct := none
  dAct := none
  ident := { grid := none, log := 0, lvlid := Vector.replicate 8 0 }
  sr := CoreSr.reset
  stores := { c := [], l := [], s := [] }
  mem := { buffer := [], gate := [], scratch := [], poison := [] }
  work := Work.reset
  inbox := []
  outbox := []
  jobs := { bseDone := [], greDone := [], chans := Vector.replicate 4 Chan.reset, fifo := [],
            packets := [] }
  waits := { remote := [], atoms := [], rcRel := [], sealOf := none }
  pair := Pairing.reset
  notices := []
  fibres := []
  wfi := false
  dTurn := false
  lost := false

/-- A cluster after reset: engines and TLB empty (log 3 to 5). -/
def Cluster.reset : Cluster where
  bse := []
  nextBse := 0
  bseIn := { last := 7, waiting := [] }
  acc := []
  wbuf := []
  gre := []
  nextGre := 0
  greIn := { last := 7, waiting := [] }
  copyAt := 0
  tlb := []
  fails := []
  bin := 0
  retired := false
  test := none
  errors := 0

/-- A port after reset: down (R376). -/
def Port.reset : Port where
  lanes := 0
  keyErr := 0
  permErr := 0
  egress := []
  shares := []
  lastSent := 0
  linkKey := false
  retries := 0

/-- An I/O core after reset. -/
def IoCore.reset : IoCore where
  ctx := Context.reset 0
  store := []
  running := false
  queues := []

/-- A die in its ROM (R389), at 2.4 GHz (R394). -/
def Die.reset : Die where
  inReset := false
  firmware := .rom
  store := []
  table := 0
  threads := []
  walks := []
  nextTid := 0
  io := []
  launches := []
  rdc := []
  predict := []
  forecast := 0
  coeff := Vector.replicate 4 0
  clock := 2400
  throttled := false
  routes := []
  keys := []
  frames := []
  ports := Vector.replicate 4 Port.reset
  log := []
  testNext := 0
  vectors := 0

/-- The part after a full power-on reset (R389): every die in its ROM, no launch, memory as
power-on leaves it (log 2), the power cap at 2,200 W (R394). -/
def State.reset : State where
  turn := .env
  agents := []
  agenda := []
  fresh := 0
  cores := []
  clusters := []
  dies := Vector.replicate 4 Die.reset
  mem := []
  poison := []
  caches := { l1 := [], cluster := [], l2 := [], rrc := [], param := [] }
  claims := []
  ticket := 0
  keep := { gib := 0, blocks := [], msgs := [], logs := [] }
  grids := []
  nextGrid := 1
  net := []
  fabric := { endpoint := 0, timeout := 1000, nextReq := 0, reqs := [], pages := [], engine := [],
              answers := [] }
  control := { sem := 0, nosem := Vector.replicate 2 0, cap := 2200, config := [], image := none,
               reports := [], powerOns := 0, raised := 0, interval := 1, threshold := 0 }
  results := []
  owed := []

/-! ## The canonical form of memory -/

/-- Strictly rising addresses, all at or above a bound, and no byte equal to what an unlisted
address reads as. -/
def Memory.wfFrom : Nat → List Host.Cell → Bool
  | _, [] => true
  | lo, (a, b) :: rest => decide (lo ≤ a) && (b != Config.unwrittenByte) && Memory.wfFrom (a + 1) rest

/-- The canonical form of a memory: equal memories are equal lists. -/
def Memory.wf (m : List Host.Cell) : Bool := Memory.wfFrom 0 m

end Sys2Proof.Machine
end

