-- ==== Sys2Proof/Machine/Bits.lean ====
section
/-! DEFINITION. Bit fields, byte order (R3) and sparse data. -/

namespace Sys2Proof.Machine

/-! ## Fields of words -/

/-- Bits <lo+n-1:lo> of a word, as a number (R2). -/
def field {w : Nat} (x : BitVec w) (lo n : Nat) : Nat := x.toNat / 2 ^ lo % 2 ^ n

/-- Are bits <lo+n-1:lo> of a word zero? -/
def zeroField {w : Nat} (v : BitVec w) (lo n : Nat) : Bool := field v lo n == 0

/-- Bit <i>. -/
def flag {w : Nat} (x : BitVec w) (i : Nat) : Bool := x.getLsbD i

/-- The word with bits <lo+n-1:lo> replaced by `v` modulo 2^n. -/
def setField (x : Word) (lo n v : Nat) : Word :=
  (x &&& ~~~(BitVec.ofNat 64 ((2 ^ n - 1) * 2 ^ lo))) ||| BitVec.ofNat 64 (v % 2 ^ n * 2 ^ lo)

/-- A word of a number. -/
def word (n : Nat) : Word := BitVec.ofNat 64 n

/-- Sign extension of an n-bit field to a word. -/
def sext {n : Nat} (x : BitVec n) : Word := x.signExtend 64

/-- SignExtend(x, bits): the low `bits` bits of a number, sign-extended to a word. -/
def signExtendNat (x bits : Nat) : Word :=
  if x % 2 ^ bits < 2 ^ (bits - 1) then word (x % 2 ^ bits)
  else word (x % 2 ^ bits + 2 ^ 64 - 2 ^ bits)

/-- The signed value of the low `bits` bits of a number. -/
def signedNat (x bits : Nat) : Int :=
  if x % 2 ^ bits < 2 ^ (bits - 1) then (x % 2 ^ bits : Nat) else (x % 2 ^ bits : Nat) - (2 ^ bits : Nat)

/-- A number modulo 2^bits of an integer (two's complement). -/
def wrapInt (x : Int) (bits : Nat) : Nat := (x % (2 ^ bits : Nat)).toNat

/-! ## Byte order: little-endian (R3) -/

/-- The low `n` bytes of a number, lowest first. -/
def bytesOf (n x : Nat) : List Byte := (List.range n).map fun i => BitVec.ofNat 8 (x / 256 ^ i)

/-- The number of a list of bytes, lowest first. -/
def natOf : List Byte → Nat
  | [] => 0
  | b :: bs => b.toNat + 256 * natOf bs

/-- `n` bytes of a list from offset `o`, zero beyond its end. -/
def slice (bs : List Byte) (o n : Nat) : List Byte :=
  (List.range n).map fun i => bs.getD (o + i) 0

/-- The number in `n` bytes of a list from offset `o`. -/
def natAt (bs : List Byte) (o n : Nat) : Nat := natOf (slice bs o n)

/-- The doubleword of a list at offset `o`. -/
def wordAt (bs : List Byte) (o : Nat) : Word := word (natAt bs o 8)

/-- The 1,024-bit value of 128 bytes. -/
def vwordOf (bs : List Byte) : VWord := BitVec.ofNat 1024 (natOf bs)

/-- The bytes of a 1,024-bit value. -/
def bytesOfV (v : VWord) : List Byte := bytesOf 128 v.toNat

/-- Halfwords of bytes (R3). -/
def halvesOf : List Byte → List Half
  | a :: b :: rest => (b ++ a) :: halvesOf rest
  | _ => []

/-! ## Sparse data: keys strictly rising -/

/-- The value at a key. -/
def sget {α : Type} : Sparse α → Nat → Option α
  | [], _ => none
  | (a, x) :: rest, k => if a = k then some x else sget rest k

/-- Data with the value at a key replaced or put in its place. -/
def sset {α : Type} : Sparse α → Nat → α → Sparse α
  | [], k, v => [(k, v)]
  | (a, x) :: rest, k, v =>
    if a = k then (a, v) :: rest
    else if k < a then (k, v) :: (a, x) :: rest
    else (a, x) :: sset rest k v

/-- Data without a key. -/
def sdel {α : Type} (l : Sparse α) (k : Nat) : Sparse α := l.filter fun p => p.1 != k

/-! ## Memories: canonical lists of bytes -/

/-- The byte at an address. -/
def memGet (m : List Host.Cell) (a : Nat) : Byte := (sget m a).getD Config.unwrittenByte

/-- A memory with one byte written; the canonical form is kept. -/
def memSet (m : List Host.Cell) (a : Nat) (b : Byte) : List Host.Cell :=
  if b = Config.unwrittenByte then sdel m a else sset m a b

/-- Bytes written from an address upward. -/
def memSetList (m : List Host.Cell) (a : Nat) : List Byte → List Host.Cell
  | [] => m
  | b :: bs => memSetList (memSet m a b) (a + 1) bs

/-- Bytes read from an address upward. -/
def memGetList (m : List Host.Cell) (a n : Nat) : List Byte :=
  (List.range n).map fun i => memGet m (a + i)

/-! ## Lists -/

/-- The element at an index replaced. -/
def setAt {α : Type} : List α → Nat → α → List α
  | [], _, _ => []
  | _ :: xs, 0, v => v :: xs
  | x :: xs, n + 1, v => x :: setAt xs n v

/-- A sorted list of numbers without repeats, with one more. -/
def insertNat : List Nat → Nat → List Nat
  | [], k => [k]
  | a :: rest, k => if a = k then a :: rest else if k < a then k :: a :: rest else a :: insertNat rest k

/-- The sum of a list. -/
def sumNat (l : List Nat) : Nat := l.foldl (· + ·) 0

end Sys2Proof.Machine
end

