-- ==== Sys2Proof/WellFormed.lean ====
section
/-! DEFINITION. What an encodable instruction satisfies beyond the types of its operands (R50,
R54, R59, R60, R62, R63, R112, R122 to R125, R297): `Instr.wf`. -/

namespace Sys2Proof

/-- The five scalar floating formats, codes 0x0 to 0x4 (R59, R91). -/
def Fmt.isFloat : Fmt → Bool
  | .f32 | .bf16 | .f16 | .e4m3 | .e5m2 => true
  | _ => false

/-- The eight formats of the vector majors (R51, R114). -/
def Fmt.isVector : Fmt → Bool
  | .f32 | .bf16 | .f16 | .e4m3 | .e5m2 | .i8 | .i16 | .i32 => true
  | _ => false

/-- The non-block formats of width 8 or more: 0x0 to 0x4 and 0x9 to 0xD (R112, R138). -/
def Fmt.isElement : Fmt → Bool
  | .f32 | .bf16 | .f16 | .e4m3 | .e5m2 | .i8 | .i16 | .i32 | .rns3 | .ui8 => true
  | _ => false

/-- The key formats of the list walks (R140). -/
def Fmt.isKey : Fmt → Bool
  | .i8 | .i16 | .i32 | .ui8 => true
  | _ => false

/-- The block formats 0x6 to 0x8 (R91). -/
def Fmt.isBlock : Fmt → Bool
  | .mxf4 | .gf4 | .mxf8 => true
  | _ => false

/-- The output formats of BACC.res and BACC.restake (R297). -/
def Fmt.isResidueOut : Fmt → Bool
  | .f32 | .bf16 | .f16 | .i32 | .rns3 => true
  | _ => false

/-- Element width in bits (R91). -/
def Fmt.width : Fmt → Nat
  | .f32 | .i32 | .rns3 => 32
  | .bf16 | .f16 | .i16 => 16
  | .e4m3 | .e5m2 | .mxf8 | .i8 | .ui8 => 8
  | .e2m1 | .mxf4 | .gf4 | .i4 => 4

/-- Elements of a 1,024-bit value (R91). -/
def Fmt.count (f : Fmt) : Nat := 1024 / f.width

/-- Block size of a block-scaled instruction (R123). -/
def blockSize (f : Fmt) (b16 : Bool) : Nat :=
  match f with
  | .gf4 => if b16 then 16 else 8
  | _ => 32

/-- Scales for the 32 lanes of VMXSCALE and VMXQ (R123). -/
def scaleCount (f : Fmt) (b16 : Bool) : Nat := 32 / blockSize f b16

/-- Parts of a VCVT (R122): max(Nd, Ns) / min(Nd, Ns). -/
def partCount (f s : Fmt) : Nat := Nat.max f.count s.count / Nat.min f.count s.count

/-- A plain access has scope 0 (R54). -/
def Qual.wf (ql : Qual) : Bool := ql.ord != .plain || ql.scope == .co

/-- The fields of an XV vector operation: one of the eight formats (R114). -/
def XvFields.wfOp (x : XvFields) : Bool := x.fmt.isVector

/-- The fields of an XV form whose rnd and nsat are zero (R112, R123, R125). -/
def XvFields.noRounding (x : XvFields) : Bool := x.rnd == .rne && !x.nsat

/-- The fields of an XV operation that rounds nothing and saturates nothing (R50, R117 to R119, R128). -/
def XvFields.wfMove (x : XvFields) : Bool := x.noRounding && x.fmt.isVector

/-- The fields of an XV memory form (R112). -/
def XvFields.wfMem (x : XvFields) (ql : Qual) : Bool := x.noRounding && x.fmt.isElement && ql.wf

/-- The block size and part of VMXSCALE and VMXQ (R123, R124). -/
def wfScales (f : Fmt) (b16 : Bool) (p : BitVec 7) : Bool :=
  f.isBlock && (!b16 || f == .gf4) && decide ((p.toNat + 1) * scaleCount f b16 ≤ 128)

/-- Instructions that have an encoding; the others are events of the part, and RESERVED_ENCODING. -/
def Instr.isEvent : Instr → Bool
  | .atomicActivation .. | .reservedEncoding .. | .copyResume .. | .copyAbort .. | .tlbMissWalk ..
  | .walkLimitExceeded .. | .hostDoorbell .. | .launchStart .. | .gridCompletion ..
  | .firingStart .. | .firingRetire .. | .firingWatchdog .. | .stealRequest .. | .stealAnswer ..
  | .stealRoundTimeout .. | .messageArrival .. | .hActivationStart .. | .pinnedRecord ..
  | .recordPushRetry .. | .activationLimit .. | .dActivationStart .. | .poisonRedelivery ..
  | .poisonSenderNotice .. | .quantumBoundary .. | .teamSwapOut .. | .greDrainExpiry ..
  | .teamRestore .. | .wfiTimeout .. | .bseJobStart .. | .bseJobComplete .. | .greJobStart ..
  | .greJobComplete .. | .completionPush .. | .copyDispatch .. | .copyPageFault ..
  | .copyFaultDelivery .. | .copyTransferComplete .. | .keepWrite .. | .rcReleaseComplete ..
  | .sealDecision .. | .sealPrepare .. | .sealCommit .. | .sealFlip .. | .sealAbandon ..
  | .fingerprintExchange .. | .partnerTimeout .. | .pairTimeout .. | .recordStoreParityError ..
  | .contextLost .. | .machineCheck .. | .dieReset .. | .dieReload .. | .scrub ..
  | .selfTestStart .. | .selfTestComplete .. | .vectorPackage .. | .forecastUpdate ..
  | .powerManagerTick | .thermalThrottle .. | .thermalRecover .. | .thermalReset ..
  | .migrationRequest .. | .migrationComplete .. | .migrationHoldExpiry .. | .linkTraining ..
  | .portDown .. | .inboundRequest .. | .inboundMessage .. | .remoteResponse ..
  | .remoteTimeout .. | .egressArbitration .. | .directoryRecall .. | .ctlsemWrite ..
  | .ctlsemLeaseExpiry | .powerOn | .firmwareDownload .. | .attestationRequest ..
  | .routeTableWrite .. | .keyTableWrite .. | .frameOwnerWrite .. | .shareTableWrite ..
  | .powerCapWrite .. | .resetRequest .. | .controlRegisterWrite .. | .storeBufferDrain ..
  | .claimedLineFinished .. | .gatingBufferParityError .. | .activationParityError ..
  | .correctedErrorThreshold .. | .linkLevelRetry .. => true
  | _ => false

/-- What an instruction that has an encoding satisfies beyond its types. -/
def Instr.wf : Instr → Bool
  | .ldB _ _ _ ql | .ldH _ _ _ ql | .ldW _ _ _ ql | .ldD _ _ _ ql
  | .lduB _ _ _ ql | .lduH _ _ _ ql | .lduW _ _ _ ql
  | .stB _ _ _ ql | .stH _ _ _ ql | .stW _ _ _ ql | .stD _ _ _ ql
  | .pref _ _ _ _ ql | .vld _ _ _ ql | .vst _ _ _ ql
  | .ldBXl _ _ _ ql | .ldHXl _ _ _ ql | .ldWXl _ _ _ ql | .ldDXl _ _ _ ql
  | .lduBXl _ _ _ ql | .lduHXl _ _ _ ql | .lduWXl _ _ _ ql
  | .stBXl _ _ _ ql | .stHXl _ _ _ ql | .stWXl _ _ _ ql | .stDXl _ _ _ ql
  | .prefXl _ _ _ _ ql | .vldXl _ _ _ ql | .vstXl _ _ _ ql
  | .amoAddW _ _ _ ql | .amoAndW _ _ _ ql | .amoOrW _ _ _ ql | .amoXorW _ _ _ ql
  | .amoMinW _ _ _ ql | .amoMaxW _ _ _ ql | .amoMinuW _ _ _ ql | .amoMaxuW _ _ _ ql
  | .amoSwapW _ _ _ ql | .amoFaddW _ _ _ ql | .amoFminW _ _ _ ql | .amoFmaxW _ _ _ ql
  | .casW _ _ _ ql
  | .amoAddD _ _ _ ql | .amoAndD _ _ _ ql | .amoOrD _ _ _ ql | .amoXorD _ _ _ ql
  | .amoMinD _ _ _ ql | .amoMaxD _ _ _ ql | .amoMinuD _ _ _ ql | .amoMaxuD _ _ _ ql
  | .amoSwapD _ _ _ ql | .casD _ _ _ ql
  | .amoAddXa _ _ _ ql _ _ | .amoAndXa _ _ _ ql _ _ | .amoOrXa _ _ _ ql _ _
  | .amoXorXa _ _ _ ql _ _ | .amoMinXa _ _ _ ql _ _ | .amoMaxXa _ _ _ ql _ _
  | .amoMinuXa _ _ _ ql _ _ | .amoMaxuXa _ _ _ ql _ _ | .amoSwapXa _ _ _ ql _ _
  | .amoFaddXa _ _ _ ql _ | .amoFminXa _ _ _ ql _ | .amoFmaxXa _ _ _ ql _
  | .casXa _ _ _ ql _ _ => ql.wf
  | .vadd f .. | .vsub f .. | .vmul f .. | .vmin f .. | .vmax f .. | .vabs f .. | .vneg f ..
  | .vcmpEq f .. | .vcmpNe f .. | .vcmpLt f .. | .vcmpLe f .. | .vsel f .. | .vperm f ..
  | .vslideUp f .. | .vslideDn f .. | .vbcast f .. | .vredAdd f .. | .vredMin f .. | .vredMax f ..
  | .vscanAdd f .. | .vmvg f .. => f.isVector
  | .vfma f _ q d _ _ | .vfms f _ q d _ _ => f.isFloat && !(q && decide (24 ≤ d.val))
  | .vrcp f .. | .vrsq f .. | .vexp2 f .. | .vlog2 f .. => f.isFloat
  | .vshl f .. | .vshr f .. | .vshrA f .. => f.isVector && !f.isFloat
  | .vaddXv x .. | .vsubXv x .. | .vmulXv x .. | .vminXv x .. | .vmaxXv x .. | .vabsXv x ..
  | .vnegXv x .. | .vredAddXv x .. | .vredMinXv x .. | .vredMaxXv x .. | .vscanAddXv x .. => x.wfOp
  | .vcmpEqXv x .. | .vcmpNeXv x .. | .vcmpLtXv x .. | .vcmpLeXv x .. | .vselXv x .. | .vpermXv x ..
  | .vslideUpXv x .. | .vslideDnXv x .. | .vbcastXv x .. => x.wfMove
  | .vmvgXv x .. => x.wfMove && x.k == 0
  | .vfmaXv x .. | .vfmsXv x .. | .vrcpXv x .. | .vrsqXv x .. | .vexp2Xv x .. | .vlog2Xv x .. =>
    x.fmt.isFloat
  | .vshlXv x .. | .vshrXv x .. | .vshrAXv x .. => x.wfMove && !x.fmt.isFloat
  | .vcvt x s p .. => !x.fmt.isBlock && !s.isBlock && decide (p.toNat < partCount x.fmt s)
  | .vmxscale x b16 p .. => x.noRounding && wfScales x.fmt b16 p
  | .vmxq x b16 qp p .. => wfScales x.fmt b16 p && (x.fmt != .mxf8 || decide (qp.toNat < 4))
  | .vdotMx x b16 .. => x.noRounding && x.fmt.isBlock && (!b16 || x.fmt == .gf4)
  | .vlds x ql .. | .vsts x ql .. | .vldx x ql .. | .vstx x ql .. => x.wfMem ql
  | .c16AddRr d s => d.val != 0 && s.val != 0
  | .c16Mov d _ => d.val != 0
  | .lidx f .. | .sscat f .. => f.isElement
  | .lsisect f .. | .lmerge f .. | .lmpart f .. => f.isKey
  | .lcoord f .. => f == .i16 || f == .i32
  | .bstg f .. | .bchn f .. | .baccKeep f .. | .baccTake f .. => f.isFloat
  | .baccRes f _ _ sh .. | .baccRestake f _ _ sh .. => f.isResidueOut && (f != .rns3 || sh == 0)
  | .gmv op .. => op != .mom
  | .cpyq _ a | .cpyqb _ a => a.val % 4 == 0
  | i => !i.isEvent

end Sys2Proof
end

