-- ==== Sys2Proof/Machine/Number.lean ====
section
/-! DEFINITION. Number formats (R91 to R108): exact values, `decode` and `encode` of every format,
the rounding modes, block scales, RNS3, and the functions of R116. A value is an exact rational;
narrowing happens once, in `encodeNum`. -/

namespace Sys2Proof.Machine

/-! ## Flags of FPSTAT (R99) -/

/-- NX. -/
def fNX : Nat := 1
/-- UF. -/
def fUF : Nat := 2
/-- OF. -/
def fOF : Nat := 4
/-- DZ. -/
def fDZ : Nat := 8
/-- NV. -/
def fNV : Nat := 16
/-- RNG. -/
def fRNG : Nat := 32

/-! ## Exact values -/

/-- The value of an element (R93): NaN, an infinity, or (−1)^neg × num / den with den > 0; a zero
keeps its sign. -/
inductive Value where
  | nan (signalling : Bool)
  | inf (neg : Bool)
  | fin (neg : Bool) (num den : Nat)
  deriving DecidableEq, Repr

namespace Value

/-- +0. -/
def zero : Value := .fin false 0 1

/-- An integer. -/
def ofInt (x : Int) : Value := .fin (decide (x < 0)) x.natAbs 1

/-- (−1)^neg × m × 2^e. -/
def scaled (neg : Bool) (m : Nat) (e : Int) : Value :=
  if 0 ≤ e then .fin neg (m * 2 ^ e.toNat) 1 else .fin neg m (2 ^ (-e).toNat)

/-- Is it a NaN? -/
def isNan : Value → Bool
  | .nan _ => true
  | _ => false

/-- Is it a signalling NaN (R92)? -/
def isSignalling : Value → Bool
  | .nan s => s
  | _ => false

/-- Is it a zero? -/
def isZero : Value → Bool
  | .fin _ 0 _ => true
  | _ => false

/-- The sign. -/
def isNeg : Value → Bool
  | .nan _ => false
  | .inf s => s
  | .fin s _ _ => s

/-- −x. -/
def neg : Value → Value
  | .nan s => .nan s
  | .inf s => .inf (!s)
  | .fin s n d => .fin (!s) n d

/-- |x|. -/
def abs : Value → Value
  | .nan s => .nan s
  | .inf _ => .inf false
  | .fin _ n d => .fin false n d

/-- NV where an operand is a signalling NaN (R97). -/
def nanFlags (x y : Value) : Nat := if x.isSignalling || y.isSignalling then fNV else 0

/-- The exact sum of two finite values; an exact zero is −0 when both are −0 or the mode is RDN
(R114). -/
def addFin (mode : Nat) (s1 : Bool) (n1 d1 : Nat) (s2 : Bool) (n2 d2 : Nat) : Value :=
  let l := Nat.lcm d1 d2
  let a := n1 * (l / d1)
  let b := n2 * (l / d2)
  if s1 = s2 then
    if a + b = 0 then .fin (s1 || mode == 2) 0 1 else .fin s1 (a + b) l
  else if a = b then .fin (mode == 2) 0 1
  else if b < a then .fin s1 (a - b) l
  else .fin s2 (b - a) l

/-- x + y exactly, with the flags of R114: ∞ − ∞ gives NaN and NV. -/
def add (mode : Nat) (x y : Value) : Value × Nat :=
  match x, y with
  | .nan _, _ => (.nan false, nanFlags x y)
  | _, .nan _ => (.nan false, nanFlags x y)
  | .inf s, .inf t => if s = t then (.inf s, 0) else (.nan false, fNV)
  | .inf s, _ => (.inf s, 0)
  | _, .inf s => (.inf s, 0)
  | .fin s1 n1 d1, .fin s2 n2 d2 => (addFin mode s1 n1 d1 s2 n2 d2, 0)

/-- x × y exactly: 0 × ∞ gives NaN and NV (R114). -/
def mul (x y : Value) : Value × Nat :=
  match x, y with
  | .nan _, _ => (.nan false, nanFlags x y)
  | _, .nan _ => (.nan false, nanFlags x y)
  | .inf s, .inf t => (.inf (s != t), 0)
  | .inf s, .fin t n _ => if n = 0 then (.nan false, fNV) else (.inf (s != t), 0)
  | .fin s n _, .inf t => if n = 0 then (.nan false, fNV) else (.inf (s != t), 0)
  | .fin s n d, .fin t m e => (.fin (s != t) (n * m) (d * e), 0)

/-- x ÷ y exactly: 0 ÷ 0 and ∞ ÷ ∞ give NaN and NV; a nonzero value by zero gives an infinity. -/
def div (x y : Value) : Value × Nat :=
  match x, y with
  | .nan _, _ => (.nan false, nanFlags x y)
  | _, .nan _ => (.nan false, nanFlags x y)
  | .inf _, .inf _ => (.nan false, fNV)
  | .inf s, .fin t _ _ => (.inf (s != t), 0)
  | .fin s _ _, .inf t => (.fin (s != t) 0 1, 0)
  | .fin s n d, .fin t m e =>
    if m = 0 then (if n = 0 then (.nan false, fNV) else (.inf (s != t), 0))
    else (.fin (s != t) (n * e) (d * m), 0)

/-- The exact order of two values that are not NaN: negative, zero or positive. -/
def cmp (x y : Value) : Int :=
  match x, y with
  | .inf s, .inf t => if s = t then 0 else if s then -1 else 1
  | .inf s, _ => if s then -1 else 1
  | _, .inf t => if t then 1 else -1
  | .fin s n d, .fin t m e =>
    let a : Int := if s then -(n * e : Nat) else (n * e : Nat)
    let b : Int := if t then -(m * d : Nat) else (m * d : Nat)
    a - b
  | _, _ => 0

/-- ⌊log2 (n/d)⌋ for positive n and d. -/
def floorLog2 (n d : Nat) : Int :=
  let g : Int := (Nat.log2 n : Int) - (Nat.log2 d : Int)
  -- 2^(g-1) < n/d < 2^(g+1)
  let ge : Bool := if 0 ≤ g then decide (d * 2 ^ g.toNat ≤ n) else decide (d ≤ n * 2 ^ (-g).toNat)
  if ge then g else g - 1

end Value

/-! ## Floating formats (R92) -/

/-- Mantissa bits of a floating format. -/
def manBits : Fmt → Nat
  | .f32 => 23 | .bf16 => 7 | .f16 => 10 | .e4m3 => 3 | .e5m2 => 2 | .e2m1 => 1 | _ => 0

/-- Exponent bits of a floating format. -/
def expBits : Fmt → Nat
  | .f32 => 8 | .bf16 => 8 | .f16 => 5 | .e4m3 => 4 | .e5m2 => 5 | .e2m1 => 2 | _ => 0

/-- Exponent bias of a floating format. -/
def bias : Fmt → Nat
  | .f32 => 127 | .bf16 => 127 | .f16 => 15 | .e4m3 => 7 | .e5m2 => 15 | .e2m1 => 1 | _ => 0

/-- The code of the largest finite value. -/
def maxCode : Fmt → Nat
  | .f32 => 0x7F7FFFFF | .bf16 => 0x7F7F | .f16 => 0x7BFF | .e4m3 => 0x7E | .e5m2 => 0x7B
  | .e2m1 => 0x7 | _ => 0

/-- The canonical NaN (R92); E2M1 and the integer formats have none and take 0 (R97). -/
def nanCode : Fmt → Nat
  | .f32 => 0x7FC00000 | .bf16 => 0x7FC0 | .f16 => 0x7E00 | .e4m3 => 0x7F | .e5m2 => 0x7E | _ => 0

/-- The code of +∞, where the format has one. -/
def infCode : Fmt → Option Nat
  | .f32 => some 0x7F800000 | .bf16 => some 0x7F80 | .f16 => some 0x7C00 | .e5m2 => some 0x7C
  | _ => none

/-- Is a format one of the floating formats of R92? -/
def isFloating : Fmt → Bool
  | .f32 | .bf16 | .f16 | .e4m3 | .e5m2 | .e2m1 => true
  | _ => false

/-- Bounds of an integer format (R94). -/
def intBounds : Fmt → Int × Int
  | .i8 => (-128, 127) | .i16 => (-32768, 32767) | .i32 => (-2147483648, 2147483647)
  | .ui8 => (0, 255) | .i4 => (-8, 7) | _ => (0, 0)

/-- `Decode` of a floating code (R93). -/
def decodeFloat (f : Fmt) (code : Nat) : Value :=
  let m := manBits f
  let neg := decide (code / 2 ^ (f.width - 1) % 2 = 1)
  let e := code / 2 ^ m % 2 ^ expBits f
  let x := code % 2 ^ m
  let special := decide (e = 2 ^ expBits f - 1)
  match f with
  | .e4m3 =>
    if special && decide (x = 7) then .nan false
    else if e = 0 then Value.scaled neg x (1 - (bias f : Int) - m)
    else Value.scaled neg (2 ^ m + x) ((e : Int) - bias f - m)
  | .e2m1 =>
    if e = 0 then Value.scaled neg x (1 - (bias f : Int) - m)
    else Value.scaled neg (2 ^ m + x) ((e : Int) - bias f - m)
  | _ =>
    if special then
      if x = 0 then .inf neg
      else .nan (f != .e5m2 && decide (x / 2 ^ (m - 1) = 0))
    else if e = 0 then Value.scaled neg x (1 - (bias f : Int) - m)
    else Value.scaled neg (2 ^ m + x) ((e : Int) - bias f - m)

/-- `Decode` of an E8M0 scale (R93). -/
def decodeE8 (code : Nat) : Value :=
  if code % 256 = 255 then .nan false else Value.scaled false 1 (((code % 256 : Nat) : Int) - 127)

/-! ## RNS3 (R107, R108) -/

/-- M = 1,023 × 1,024 × 1,025. -/
def rnsM : Nat := 1073740800

/-- The three residues of a word, read reduced. -/
def residues (w : Nat) : Nat × Nat × Nat :=
  (w % 1024 % 1023, w / 1024 % 1024, w / 2 ^ 20 % 2048 % 1025)

/-- The range hint. -/
def rnsHint (w : Nat) : Bool := w / 2 ^ 31 % 2 == 1

/-- The word of three residues and a hint. -/
def rnsWord (hint : Bool) (a b c : Nat) : Nat := a + b * 1024 + c * 2 ^ 20 + hint.toNat * 2 ^ 31

/-- `Decode` of a residue word: the value in [−M/2, M/2). -/
def rnsValue (w : Nat) : Int :=
  let (a, b, c) := residues w
  let x := (a * 537395200 + b * 1072692225 + c * 537394176) % rnsM
  if x < rnsM / 2 then x else (x : Int) - rnsM

/-- `Encode` of an integer: its residues, no clamp. -/
def rnsOfInt (x : Int) : Nat :=
  rnsWord false (x % 1023).toNat (x % 1024).toNat (x % 1025).toNat

/-- RNADD on one element (R126). -/
def rnsAdd (x y : Nat) : Nat :=
  let (a, b, c) := residues x
  let (a', b', c') := residues y
  rnsWord (rnsHint x || rnsHint y) ((a + a') % 1023) ((b + b') % 1024) ((c + c') % 1025)

/-- RNMUL on one element (R126). -/
def rnsMul (x y : Nat) : Nat :=
  let (a, b, c) := residues x
  let (a', b', c') := residues y
  rnsWord (rnsHint x || rnsHint y) (a * a' % 1023) (b * b' % 1024) (c * c' % 1025)

/-! ## Decode -/

/-- `Decode(bits, f)` (R93, R94, R107). A block format decodes its element code alone (R103). -/
def decodeNum (f : Fmt) (code : Nat) : Value :=
  match f with
  | .i8 => Value.ofInt (signedNat code 8)
  | .i16 => Value.ofInt (signedNat code 16)
  | .i32 => Value.ofInt (signedNat code 32)
  | .i4 => Value.ofInt (signedNat code 4)
  | .ui8 => Value.ofInt ((code % 256 : Nat) : Int)
  | .rns3 => Value.ofInt (rnsValue code)
  | .mxf4 | .gf4 => decodeFloat .e2m1 code
  | .mxf8 => decodeFloat .e4m3 code
  | _ => decodeFloat f code

/-! ## Encode -/

/-- The rounded integer of nn/dd (R95), for a value of the given sign; `r` is the draw. -/
def roundQ (mode : Nat) (neg : Bool) (r nn dd : Nat) : Nat :=
  let q := nn / dd
  let rem := nn % dd
  match mode with
  | 0 => if dd < 2 * rem ∨ (2 * rem = dd ∧ q % 2 = 1) then q + 1 else q
  | 1 => q
  | 2 => if neg ∧ rem ≠ 0 then q + 1 else q
  | 3 => if ¬ neg ∧ rem ≠ 0 then q + 1 else q
  | 4 => if dd ≤ 2 * rem then q + 1 else q
  | _ => (nn * 65536 + r * dd) / (dd * 65536)

/-- n/d divided by 2^e, as a fraction. -/
def unscale (n d : Nat) (e : Int) : Nat × Nat :=
  if 0 ≤ e then (n, d * 2 ^ e.toNat) else (n * 2 ^ (-e).toNat, d)

/-- The overflow result (R96) for a sign, as a magnitude code. -/
def overflowCode (f : Fmt) (mode : Nat) (sat neg : Bool) : Nat :=
  match infCode f with
  | none => if sat || f == .e2m1 then maxCode f else nanCode f
  | some inf =>
    if sat then maxCode f
    else
      match mode with
      | 1 => maxCode f
      | 2 => if neg then inf else maxCode f
      | 3 => if neg then maxCode f else inf
      | _ => inf

/-- `Encode` of a positive finite magnitude n/d into a floating format (R95, R96): the magnitude code
and the flags. -/
def encodeMag (f : Fmt) (mode : Nat) (sat : Bool) (r : Nat) (neg : Bool) (n d : Nat) : Nat × Nat :=
  let m := manBits f
  let emin : Int := 1 - (bias f : Int)
  let lg := Value.floorLog2 n d
  let e : Int := max lg emin - m
  let (nn, dd) := unscale n d e
  let t := roundQ mode neg r nn dd
  let inexact := decide (nn % dd ≠ 0)
  -- exactness: y = a exactly when the remainder is zero (a draw cannot change an exact value)
  let tiny : Bool :=
    if emin ≤ lg then false
    else
      let (n', d') := unscale n d (lg - m)
      let t' := roundQ mode neg r n' d'
      !(decide (lg = emin - 1) && decide (t' = 2 ^ (m + 1)))
  let mag : Nat := if t < 2 ^ m then t else (e + m + bias f).toNat * 2 ^ m + (t - 2 ^ m)
  let fl := (if inexact then fNX else 0) + (if inexact && tiny then fUF else 0)
  if maxCode f < mag then
    (overflowCode f mode sat neg, fOF ||| fNX)
  else (mag, fl)

/-- The sign bit of a floating format. -/
def signCode (f : Fmt) (neg : Bool) : Nat := if neg then 2 ^ (f.width - 1) else 0

/-- `Encode` into a floating format (R95 to R97). -/
def encodeFloat (f : Fmt) (mode : Nat) (sat : Bool) (r : Nat) (x : Value) : Nat × Nat :=
  match x with
  | .nan sig => (nanCode f, if sig || f == .e2m1 then fNV else 0)
  | .inf s =>
    match infCode f with
    | some c => (c + signCode f s, 0)
    | none =>
      if sat || f == .e2m1 then (maxCode f + signCode f s, fNV) else (nanCode f, fNV)
  | .fin s 0 _ => (signCode f s, 0)
  | .fin s n d =>
    let (mag, fl) := encodeMag f mode sat r s n d
    if mag = nanCode f ∧ infCode f = none ∧ f ≠ .e2m1 then (mag, fl) else (mag + signCode f s, fl)

/-- The integer that a value rounds to, clamped to bounds, with its flags: NX when inexact, NV when
out of range, infinite or NaN (R95, R97). -/
def roundClamp (mode r : Nat) (lo hi : Int) (x : Value) : Int × Nat :=
  match x with
  | .nan _ => (0, fNV)
  | .inf s => (if s then lo else hi, fNV)
  | .fin s n d =>
    let t := roundQ mode s r n d
    let v : Int := if s then -(t : Int) else t
    let nx := if n % d ≠ 0 then fNX else 0
    if v < lo then (lo, fNV ||| nx) else if hi < v then (hi, fNV ||| nx) else (v, nx)

/-- `Encode(x, f, mode, sat)` with the draw `r` of a mode 5 (R95 to R97, R108). `fromInt` says that
the source of a residue is an integer format. -/
def encodeNum (f : Fmt) (mode : Nat) (sat : Bool) (r : Nat) (fromInt : Bool) (x : Value) : Nat × Nat :=
  match f with
  | .rns3 =>
    if fromInt then
      match x with
      | .fin s n d => (rnsOfInt (if s then -((n / d : Nat) : Int) else ((n / d : Nat) : Int)), 0)
      | _ => (0, fNV)
    else
      let (v, fl) := roundClamp mode r (-536870400) 536870399 x
      (rnsOfInt v, fl)
  | .mxf4 | .gf4 => encodeFloat .e2m1 mode sat r x
  | .mxf8 => encodeFloat .e4m3 mode sat r x
  | .f32 | .bf16 | .f16 | .e4m3 | .e5m2 | .e2m1 => encodeFloat f mode sat r x
  | _ =>
    let (lo, hi) := intBounds f
    let (v, fl) := roundClamp mode r lo hi x
    (wrapInt v f.width, fl)

/-- `RoundFP32(x, RNE)`: the FP32 code and the flags. -/
def roundFp32 (x : Value) : Nat × Nat := encodeFloat .f32 0 false 0 x

/-- Widening of a float code to the FP32 pattern, exact, without a flag (R93). -/
def widen32 (f : Fmt) (code : Nat) : Nat := (encodeFloat .f32 0 false 0 (decodeNum f code)).1

/-- Is a format an integer format as a source of RNS3 (R108)? -/
def isIntFmt : Fmt → Bool
  | .i8 | .i16 | .i32 | .ui8 | .i4 => true
  | _ => false

/-! ## Selection (R115, R220) -/

/-- minimumNumber (`max = false`) or maximumNumber of two codes: the selected code and flags. -/
def selectCode (f : Fmt) (max : Bool) (a b : Nat) : Nat × Nat :=
  let x := decodeNum f a
  let y := decodeNum f b
  if x.isSignalling || y.isSignalling then (nanCode f, fNV)
  else
    match x.isNan, y.isNan with
    | true, true => (nanCode f, 0)
    | true, false => (b, 0)
    | false, true => (a, 0)
    | false, false =>
      let c := Value.cmp x y
      -- −0 orders below +0
      let less : Bool := decide (c < 0) || (decide (c = 0) && x.isNeg && !y.isNeg)
      let take := if max then !less else less || decide (c = 0 ∧ x.isNeg = y.isNeg)
      (if take then a else b, 0)

/-! ## Stochastic generator (R101) -/

/-- One step of the generator's state. -/
def srStep (s : Word) : Word :=
  let s := s ^^^ (s <<< 13)
  let s := s ^^^ (s >>> 7)
  s ^^^ (s <<< 17)

/-- The 16 bits that a stepped state returns. -/
def srBits (s : Word) : Nat := field s 48 16

/-- `SRSEED` as written: 0 stores 1 (R101). -/
def srSeed (x : Word) : Word := if x = 0 then 1 else x

/-! ## Block scales (R103 to R106) -/

/-- The GF4 skip code (R104). -/
def isSkip (f : Fmt) (scale : Nat) : Bool := f == .gf4 && scale % 256 == 0x80

/-- `Decode` of a block scale: E5M2 for GF4, E8M0 for MX. -/
def scaleNum (f : Fmt) (scale : Nat) : Value :=
  if f == .gf4 then decodeFloat .e5m2 (scale % 256) else decodeE8 scale

/-- The element value of a block format (R103), +0 in a skip-code block (R104): with the tensor
scale of GF4. -/
def blockNum (f : Fmt) (scale tscale code : Nat) : Value × Nat :=
  if isSkip f scale then (Value.zero, 0)
  else
    let (x, fl) := Value.mul (decodeNum f code) (scaleNum f scale)
    if f == .gf4 then
      let (y, fl') := Value.mul x (decodeFloat .bf16 tscale)
      (y, fl ||| fl')
    else (x, fl)

/-- The smallest positive code `c` of an ascending scan whose value is at least n/d. -/
def leastCode (dec : Nat → Value) (n d : Nat) : Nat → Nat → Nat
  | 0, c => c
  | fuel + 1, c => if 0 ≤ Value.cmp (dec c) (.fin false n d) then c else leastCode dec n d fuel (c + 1)

/-- The scale of a block from its amax (R106): code and flags. -/
def scaleOf (f : Fmt) (amax : Value) : Nat × Nat :=
  let e := if f == .mxf8 then 448 else 6
  match amax with
  | .nan _ => (if f == .gf4 then 0x7E else 0xFF, fNV)
  | .inf _ => if f == .gf4 then (0x7C, 0) else (0xFE, fOF)
  | .fin _ 0 _ => if f == .gf4 then (0x80, 0) else (0x00, 0)
  | .fin _ n d =>
    let x : Value := .fin false n (d * e)
    if f == .gf4 then
      if Value.cmp x (decodeFloat .e5m2 1) < 0 then (0x01, fUF)
      else if 0 < Value.cmp x (decodeFloat .e5m2 0x7B) then (0x7B, fOF)
      else (leastCode (decodeFloat .e5m2) n (d * e) 0x7B 1, 0)
    else
      if Value.cmp x (decodeE8 0) < 0 then (0x00, fUF)
      else if 0 < Value.cmp x (decodeE8 0xFE) then (0xFE, fOF)
      else (leastCode decodeE8 n (d * e) 0xFE 0, 0)

/-! ## Roots, powers and logarithms (R116) -/

/-- Newton's iteration for ⌊√n⌋ from above. -/
def isqrtFrom (n : Nat) : Nat → Nat → Nat
  | 0, x => x
  | fuel + 1, x => let y := (x + n / x) / 2; if y < x then isqrtFrom n fuel y else x

/-- ⌊√n⌋. -/
def isqrt (n : Nat) : Nat :=
  if n = 0 then 0 else isqrtFrom n (Nat.log2 n + 2) (2 ^ (Nat.log2 n / 2 + 1))

/-- √(n/d) for positive n and d: exact where it is rational; otherwise the middle of an interval of
width 2^−125 around it, which no rounding boundary of any format divides. -/
def sqrtNum (n d : Nat) : Value :=
  let g := Nat.gcd n d
  let n' := n / g
  let d' := d / g
  let a := isqrt n'
  let b := isqrt d'
  if a * a = n' ∧ b * b = d' then .fin false a b
  else .fin false (2 * isqrt (n' * 2 ^ 250 / d') + 1) (2 ^ 126)

/-- Fraction bits of the enclosures of VEXP2 and VLOG2. -/
def encBits : Nat := 250

/-- Enclosure of 2^f, f = n / 2^k in [0, 1): the product over the bits of f, highest first, of
2^(2^−i), kept as lower and upper bounds in units of 2^−encBits. `lo hi` is the running product,
`rl rh` encloses 2^(2^−i). -/
def pow2Frac (n : Nat) : Nat → Nat → Nat → Nat → Nat → Nat × Nat
  | 0, lo, hi, _, _ => (lo, hi)
  | k + 1, lo, hi, rl, rh =>
    let rl' := isqrt (rl * 2 ^ encBits)
    let rh' := isqrt (rh * 2 ^ encBits) + 1
    if n / 2 ^ k % 2 = 1 then
      pow2Frac n k (lo * rl' / 2 ^ encBits) (hi * rh' / 2 ^ encBits + 1) rl' rh'
    else pow2Frac n k lo hi rl' rh'

/-- Enclosure of log2 of y in [1, 2) by repeated squaring: `digits` bits are taken while the bounds
agree; `acc` holds the bits taken, `left` those still to take. Gives the lower bound in units of
2^−(digits) and the bits taken. -/
def logFrac : Nat → Nat → Nat → Nat → Nat → Nat × Nat
  | 0, _, _, acc, k => (acc, k)
  | fuel + 1, lo, hi, acc, k =>
    let lo2 := lo * lo / 2 ^ encBits
    let hi2 := hi * hi / 2 ^ encBits + 1
    let two := 2 ^ (encBits + 1)
    if two ≤ lo2 then logFrac fuel (lo2 / 2) (hi2 / 2 + 1) (2 * acc + 1) (k + 1)
    else if hi2 < two then logFrac fuel lo2 hi2 (2 * acc) (k + 1)
    else (acc, k)

/-- The code that both ends of an enclosure encode to, or the free code (log 14). -/
def encodeEnclosed (isLog : Bool) (f : Fmt) (sat : Bool) (code : Nat) (lo hi : Value) : Nat × Nat :=
  let a := encodeFloat f 0 sat 0 lo
  let b := encodeFloat f 0 sat 0 hi
  if a = b then a
  else (Config.transcendentalCode isLog code f.width % 2 ^ f.width, fNX)

/-- VEXP2 of a code (R116): the nearest code of 2^x. -/
def exp2Code (f : Fmt) (sat : Bool) (code : Nat) : Nat × Nat :=
  match decodeFloat f code with
  | .nan s => (nanCode f, if s then fNV else 0)
  | .inf s => if s then (0, 0) else encodeFloat f 0 sat 0 (.inf false)
  | .fin s n d =>
    -- d is a power of two: x = i + fr / d, with i the floor
    let q := n / d
    let r := n % d
    let i : Int := if s then (if r = 0 then -(q : Int) else -(q : Int) - 1) else q
    let fr := if s then (if r = 0 then 0 else d - r) else r
    let i := max (-1024) (min 1024 i)
    if fr = 0 then encodeFloat f 0 sat 0 (Value.scaled false 1 i)
    else
      let (lo, hi) := pow2Frac fr (Nat.log2 d) (2 ^ encBits) (2 ^ encBits) (2 ^ (encBits + 1))
        (2 ^ (encBits + 1))
      encodeEnclosed false f sat code (Value.scaled false lo (i - encBits)) (Value.scaled false hi (i - encBits))

/-- VLOG2 of a code (R116). In E5M2 a power of two whose logarithm is a tie of the format, such as −9, rounds to even
with NX, as every other value rounds (DESIGN CHOICE, log 88). -/
def log2Code (f : Fmt) (sat : Bool) (code : Nat) : Nat × Nat :=
  match decodeFloat f code with
  | .nan s => (nanCode f, if s then fNV else 0)
  | .inf s => if s then (nanCode f, fNV) else encodeFloat f 0 sat 0 (.inf false)
  | .fin s n d =>
    if n = 0 then
      let (c, fl) := encodeFloat f 0 sat 0 (.inf true)
      (c, fl ||| fDZ)
    else if s then (nanCode f, fNV)
    else
      let k := Value.floorLog2 n d
      let (a, b) := unscale n d k
      -- a / b in [1, 2)
      if a = b then encodeFloat f 0 sat 0 (Value.ofInt k)
      else
        let lo := a * 2 ^ encBits / b
        let hi := lo + 1
        let (acc, t) := logFrac 200 lo hi 0 0
        let x (u : Nat) : Value :=
          let v : Int := k * (2 ^ t : Nat) + u
          .fin (decide (v < 0)) v.natAbs (2 ^ t)
        encodeEnclosed true f sat code (x acc) (x (acc + 1))

/-- VRCP of a code (R116): 1/x, correctly rounded. -/
def rcpCode (f : Fmt) (mode : Nat) (sat : Bool) (r : Nat) (code : Nat) : Nat × Nat :=
  match decodeFloat f code with
  | .nan s => (nanCode f, if s then fNV else 0)
  | .inf s => (signCode f s, 0)
  | .fin s n d =>
    if n = 0 then
      let (c, fl) := encodeFloat f mode sat r (.inf s)
      (c, fl ||| fDZ)
    else encodeFloat f mode sat r (.fin s d n)

/-- VRSQ of a code (R116): 1/√x, correctly rounded. -/
def rsqCode (f : Fmt) (mode : Nat) (sat : Bool) (r : Nat) (code : Nat) : Nat × Nat :=
  match decodeFloat f code with
  | .nan s => (nanCode f, if s then fNV else 0)
  | .inf s => if s then (nanCode f, fNV) else (0, 0)
  | .fin s n d =>
    if n = 0 then
      let (c, fl) := encodeFloat f mode sat r (.inf s)
      (c, fl ||| fDZ)
    else if s then (nanCode f, fNV)
    else encodeFloat f mode sat r (sqrtNum d n)

end Sys2Proof.Machine
end

