-- ==== Sys2Proof/Machine/Ops.lean ====
section
/-! DEFINITION. The named operations over registers, memory and buffers, taking an exception (R40,
R84, R165) and returning from one (R85), and the runner that turns the meaning of an instruction
into an outcome of the machine (R32). -/

namespace Sys2Proof.Machine

/-! ## Numbering (R5, R43) -/

/-- The cluster of a core. -/
def clusterOf (core : Nat) : Nat := core / 8

/-- The die of a cluster (R43). -/
def dieOfCluster (cluster : Nat) : Nat := cluster / Config.clustersPerDie

/-- The die of a core. -/
def dieOf (core : Nat) : Nat := dieOfCluster (clusterOf core)

/-- The core with which a core is paired: i XOR 1 (R367). -/
def partnerOf (core : Nat) : Nat := if core % 2 = 0 then core + 1 else core - 1

/-- The even core of a pair. -/
def evenOf (core : Nat) : Nat := core / 2 * 2

/-- An index below `n + 1`. -/
def ix (n i : Nat) : Fin (n + 1) := ⟨i % (n + 1), Nat.mod_lt _ (Nat.succ_pos n)⟩

/-- A vector with one element replaced. -/
def vset {α : Type} {n : Nat} (v : Vector α n) (i : Fin n) (x : α) : Vector α n := v.set i.val x i.isLt

/-! ## Parts of the state -/

/-- A core. -/
def State.core (s : State) (n : Nat) : Core := (sget s.cores n).getD Core.reset

/-- A core replaced. -/
def State.setCore (s : State) (n : Nat) (c : Core) : State := { s with cores := sset s.cores n c }

/-- A core changed. -/
def State.modCore (s : State) (n : Nat) (f : Core → Core) : State := s.setCore n (f (s.core n))

/-- A cluster. -/
def State.cluster (s : State) (n : Nat) : Cluster := (sget s.clusters n).getD Cluster.reset

/-- A cluster replaced. -/
def State.setCluster (s : State) (n : Nat) (c : Cluster) : State :=
  { s with clusters := sset s.clusters n c }

/-- A cluster changed. -/
def State.modCluster (s : State) (n : Nat) (f : Cluster → Cluster) : State :=
  s.setCluster n (f (s.cluster n))

/-- A die. -/
def State.die (s : State) (d : Nat) : Die := s.dies.get (ix 3 d)

/-- A die replaced. -/
def State.setDie (s : State) (d : Nat) (x : Die) : State := { s with dies := vset s.dies (ix 3 d) x }

/-- A die changed. -/
def State.modDie (s : State) (d : Nat) (f : Die → Die) : State := s.setDie d (f (s.die d))

/-- A running grid. -/
def State.grid (s : State) (g : Nat) : Option Grid := sget s.grids g

/-- A grid replaced. -/
def State.setGrid (s : State) (g : Nat) (x : Grid) : State := { s with grids := sset s.grids g x }

/-- A grid changed, where it runs. -/
def State.modGrid (s : State) (g : Nat) (f : Grid → Grid) : State :=
  match s.grid g with
  | some x => s.setGrid g (f x)
  | none => s

/-- The grid to which a core is bound. -/
def State.gridOf (s : State) (core : Nat) : Option Grid := (s.core core).ident.grid.bind s.grid

/-- The launch fields of a core's grid. -/
def State.infoOf (s : State) (core : Nat) : Option LaunchInfo := (s.gridOf core).map (·.info)

/-- Launch modes (R167). -/
inductive Mode where
  | checked | recoverable | oversub | remote | srseed | pinned
  deriving DecidableEq, Repr

/-- The MODES bit of a mode. -/
def Mode.bit : Mode → Nat
  | .checked => 0 | .recoverable => 1 | .oversub => 2 | .remote => 3 | .srseed => 4 | .pinned => 5

/-- Does a launch have a mode? -/
def LaunchInfo.has (i : LaunchInfo) (m : Mode) : Bool := i.modes / 2 ^ m.bit % 2 == 1

/-- Does the launch of a core have a mode? -/
def State.hasMode (s : State) (core : Nat) (m : Mode) : Bool :=
  match s.infoOf core with
  | some i => i.has m
  | none => false

/-- A number for a free value, and the state with the next one. -/
def State.draw (s : State) : Nat × State := (s.fresh, { s with fresh := s.fresh + 1 })

/-! ## STATUS (R44) -/

/-- PRIV: 0 U, 1 K, 3 M. -/
def Context.priv (c : Context) : Nat := field c.status 10 2
/-- PP. -/
def Context.pp (c : Context) : Nat := field c.status 8 2
/-- UPE. -/
def Context.upe (c : Context) : Bool := flag c.status 7
/-- IE. -/
def Context.ie (c : Context) : Bool := flag c.status 5
/-- DZE. -/
def Context.dze (c : Context) : Bool := flag c.status 4
/-- RNGE. -/
def Context.rnge (c : Context) : Bool := flag c.status 3

/-- The context that a stream belongs to: F for the L-stream and the S-stream (R40). -/
def Core.context (c : Core) : Ctx → Context
  | .h => c.hc
  | .d => c.dc
  | _ => c.fc

/-- A context replaced. -/
def Core.setContext (c : Core) (x : Ctx) (k : Context) : Core :=
  match x with
  | .h => { c with hc := k }
  | .d => { c with dc := k }
  | _ => { c with fc := k }

/-- A context changed. -/
def Core.modContext (c : Core) (x : Ctx) (f : Context → Context) : Core :=
  c.setContext x (f (c.context x))

/-- The stream number of CAUSE.STREAM (R45). -/
def streamNo : Ctx → Nat
  | .l => 1
  | .s => 2
  | _ => 0

/-- Is paired checking active on a core (R370)? -/
def Core.paired (c : Core) : Bool := flag c.pair.ctl 0

/-! ## Cores of a grid (R160, R169) -/

/-- LVLID0 of a core; a pair carries that of its even core (R367). -/
def State.lvlid0 (s : State) (core : Nat) : Nat :=
  ((s.core (if (s.core core).paired then evenOf core else core)).ident.lvlid.get 0).toNat

/-- The core of a launch that a logical core number names, where its team is resident. -/
def Grid.coreOf (g : Grid) (n : Nat) : Option Nat :=
  (sget g.place (n / 8)).map fun phys => 8 * phys + n % 8

/-- A core of a grid by its LVLID0, changed where it is: on its cluster, or in the saved team (R162). -/
def State.modGridCore (s : State) (gid n : Nat) (f : Core → Core) : State :=
  match s.grid gid with
  | none => s
  | some g =>
    match g.coreOf n with
    | some k => s.modCore k f
    | none =>
      match sget g.saved (n / 8) with
      | some cs =>
        match cs[n % 8]? with
        | some c => s.setGrid gid { g with saved := sset g.saved (n / 8) (setAt cs (n % 8) (f c)) }
        | none => s
      | none => s

/-! ## Memory by place -/

/-- The die that homes a local physical address (R204). -/
def homeDie (pa : Nat) : Nat := pa / Config.dieBytes

/-- Does an address name a fabric endpoint (R204, R377)? -/
def isFabric (pa : Nat) : Bool := decide (Config.fabricBase ≤ pa)

/-- The first absent address of a die when the Keep takes its share (R336). -/
def absentFrom (s : State) (d : Nat) : Nat :=
  d * Config.dieBytes + 3 * (16777216 - 262144 * s.keep.gib - 4096) * 4096

/-- Does a local physical address name no memory (R336)? -/
def absent (s : State) (pa : Nat) : Bool :=
  decide (0 < s.keep.gib) && decide (absentFrom s (homeDie pa) ≤ pa)

/-- A byte of an RDC line. -/
def vbyte (v : VWord) (i : Nat) : Byte := BitVec.ofNat 8 (v.toNat / 256 ^ i)

/-- A 1,024-bit value with byte `i` replaced. -/
def setVbyte (v : VWord) (i : Nat) (b : Byte) : VWord :=
  BitVec.ofNat 1024 (v.toNat - (v.toNat / 256 ^ i % 256) * 256 ^ i + b.toNat * 256 ^ i)

/-- The byte of a physical address as a context of die `d` reads it: through the die's RDC when the
line is homed elsewhere and held there (R203). -/
def State.readPa (s : State) (d pa : Nat) : Byte :=
  if homeDie pa = d then memGet s.mem pa
  else
    match sget (s.die d).rdc (pa / 128) with
    | some l => vbyte l.bytes (pa % 128)
    | none => memGet s.mem pa

/-- The poison marks left by a write of `n` bytes: a word wholly written loses its mark (R361). -/
def clearPoison (p : List Nat) (a n : Nat) : List Nat :=
  p.filter fun w => !(decide (a ≤ w * 8) && decide (w * 8 + 8 ≤ a + n))

/-- The poison marks with every word of a range marked. -/
def markPoison (p : List Nat) (a n : Nat) : List Nat :=
  if n = 0 then p
  else (List.range ((a + n - 1) / 8 - a / 8 + 1)).foldl (fun p i => insertNat p (a / 8 + i)) p

/-- The lowest byte of a range that lies in a poisoned word. -/
def firstPoison (p : List Nat) (a n : Nat) : Option Nat :=
  ((List.range n).find? fun i => p.contains ((a + i) / 8)).map (a + ·)

/-- Copies of a line in the RRCs and parameter caches are dropped when it is written (R256, R332). -/
def State.snoop (s : State) (line : Nat) : State :=
  { s with caches := { s.caches with
      rrc := s.caches.rrc.filter fun p => p.2 != line
      param := s.caches.param.filter fun p => p.2 != line } }

/-- A write of bytes at the home of a local physical address. -/
def State.writeHome (s : State) (pa : Nat) (bs : List Byte) : State :=
  let s := { s with mem := memSetList s.mem pa bs, poison := clearPoison s.poison pa bs.length }
  if bs.isEmpty then s else (s.snoop (pa / 128)).snoop ((pa + bs.length - 1) / 128)

/-- The home contents of a line. -/
def State.homeLine (s : State) (line : Nat) : VWord := vwordOf (memGetList s.mem (line * 128) 128)

/-- Lines of one set of an RDC: 16 MiB in 8,192 sets of 16 (R17, R203). -/
def rdcSets : Nat := 8192

/-- A line as its home has it, poison included (R361). -/
def State.fetchLine (s : State) (line : Nat) : RdcLine :=
  { bytes := s.homeLine line, dirty := []
    poison := (List.range 16).filter fun w => s.poison.contains (line * 16 + w) }

/-- The poison marks of home memory after the dirty bytes of an RDC line have left under their masks (R203, R361):
a poisoned word takes its mark along, a word wholly written loses one. -/
def flushPoison (p : List Nat) (line : Nat) (l : RdcLine) : List Nat :=
  (List.range 16).foldl (fun p w =>
    let n := ((List.range 8).filter fun i => l.dirty.any fun q => q.1 == 8 * w + i).length
    if n = 0 then p
    else if l.poison.contains w then insertNat p (line * 16 + w)
    else if n = 8 then p.filter fun k => k != line * 16 + w
    else p) p

/-- The dirty bytes of one RDC line written to a memory. -/
def flushLine (mem : List Host.Cell) (line : Nat) (l : RdcLine) : List Host.Cell :=
  l.dirty.foldl (fun m p => memSet m (line * 128 + p.1) (vbyte l.bytes p.1)) mem

/-- The dirty bytes of one RDC line written home. -/
def State.flush (s : State) (line : Nat) (l : RdcLine) : State :=
  if l.dirty.isEmpty then s
  else
    State.snoop { s with mem := flushLine s.mem line l, poison := flushPoison s.poison line l } line

/-- The RDC of a die writes back its dirty bytes at a release of die scope or wider (R203, R230). The
bytes of every context of the die leave: a release is cumulative over what its context has seen
of the others (DEDUCED, log 16). -/
def State.writeBackRdc (s : State) (d : Nat) : State :=
  let rdc := (s.die d).rdc
  let clean : Sparse RdcLine := rdc.map fun p => (p.1, ({ p.2 with dirty := [] } : RdcLine))
  (rdc.foldl (fun s p => s.flush p.1 p.2) s).modDie d fun x => { x with rdc := clean }

/-- The RDC of a die drops its clean lines, and the clean bytes of its dirty lines, at an acquire of
die scope or wider (R203). -/
def State.dropCleanRdc (s : State) (d : Nat) : State :=
  let rdc := (s.die d).rdc.filterMap fun p =>
    if p.2.dirty.isEmpty then none
    else
      some (p.1, { p.2 with
        bytes := p.2.dirty.foldl (fun v q => setVbyte v q.1 (vbyte p.2.bytes q.1)) (s.homeLine p.1)
        poison := (List.range 16).filter fun w =>
          if p.2.dirty.any fun q => q.1 / 8 == w then p.2.poison.contains w else s.poison.contains (p.1 * 16 + w) })
  s.modDie d fun x => { x with rdc := rdc }

/-- One line leaves the RDC of a die, its dirty bytes written back (R229). -/
def State.evictRdc (s : State) (d line : Nat) : State :=
  match sget (s.die d).rdc line with
  | none => s
  | some l => (s.flush line l).modDie d fun x => { x with rdc := sdel x.rdc line }

/-- A line of a full set makes room for a new one in the RDC of a die; which line goes is free. -/
def State.roomRdc (s : State) (d line : Nat) : State :=
  let same := ((s.die d).rdc.filter fun p => p.1 % rdcSets == line % rdcSets).map (·.1)
  if same.length < 16 || same.contains line then s
  else
    let (k, s) := s.draw
    match same[Config.freeIndex k % same.length]? with
    | some old => s.evictRdc d old
    | none => s

/-- A line enters the RDC of a die. -/
def State.putRdc (s : State) (d line : Nat) (l : RdcLine) : State :=
  (s.roomRdc d line).modDie d fun x => { x with rdc := sset x.rdc line l }

/-- The line of an RDC that a write of its die changes: the one held, or as its home has it. -/
def State.rdcLine (s : State) (d line : Nat) : RdcLine := (sget (s.die d).rdc line).getD (s.fetchLine line)

/-- One byte written by a context of die `d`: at home, or into the die's RDC as a dirty byte of its
issuer when the line is homed on another die (R203, R229). -/
def State.writePaByte (s : State) (d : Nat) (iss : Issuer) (pa : Nat) (b : Byte) : State :=
  if homeDie pa = d then { s with mem := memSet s.mem pa b }
  else
    let line := s.rdcLine d (pa / 128)
    s.putRdc d (pa / 128) { line with
      bytes := setVbyte line.bytes (pa % 128) b
      dirty := (pa % 128, iss) :: line.dirty.filter fun p => p.1 != pa % 128 }

/-- The marks of the words of an RDC line changed. -/
def State.modRdcPoison (s : State) (d line : Nat) (f : List Nat → List Nat) : State :=
  match sget (s.die d).rdc line with
  | none => s
  | some l => s.modDie d fun x => { x with rdc := sset x.rdc line { l with poison := f l.poison } }

/-- The marks that a write of `n` bytes by a context of die `d` leaves where the bytes went (R361). -/
def State.clearPaPoison (s : State) (d pa n : Nat) : State :=
  if n = 0 then s
  else if homeDie pa = d then { s with poison := clearPoison s.poison pa n }
  else
    let k := Nat.min n (128 - pa % 128)
    let s := s.modRdcPoison d (pa / 128) fun p => clearPoison p (pa % 128) k
    if k = n then s else s.modRdcPoison d (pa / 128 + 1) fun p => clearPoison p 0 (n - k)

/-- Bytes written by a context of die `d` from a physical address upward. -/
def State.writePa (s : State) (d : Nat) (iss : Issuer) (pa : Nat) (bs : List Byte) : State :=
  let s := (List.range bs.length).foldl (fun s i => s.writePaByte d iss (pa + i) (bs.getD i 0)) s
  let s := s.clearPaPoison d pa bs.length
  if bs.isEmpty then s else (s.snoop (pa / 128)).snoop ((pa + bs.length - 1) / 128)

/-- Words written by a context of die `d` marked poisoned where they stand (R361). -/
def State.markPa (s : State) (d pa n : Nat) : State :=
  if homeDie pa = d then { s with poison := markPoison s.poison pa n }
  else
    (List.range n).foldl (fun s i =>
      s.modRdcPoison d ((pa + i) / 128) fun p => insertNat p ((pa + i) % 128 / 8)) s

/-- Is the word of a physical address poisoned as a context of die `d` reads it? -/
def State.paPoisoned (s : State) (d pa : Nat) : Bool :=
  let home := s.poison.contains (pa / 8)
  if homeDie pa = d then home
  else
    match sget (s.die d).rdc (pa / 128) with
    | some l => l.poison.contains (pa % 128 / 8)
    | none => home

/-- A load by a context of die `d` brings a line homed on another die into the RDC, where it may
stay (R203, R399): whether it stays is free. -/
def State.touchRdc (s : State) (d pa : Nat) : State :=
  if homeDie pa = d || isFabric pa || (sget (s.die d).rdc (pa / 128)).isSome then s
  else
    let (k, s) := s.draw
    if Config.rdcKeeps k then s.putRdc d (pa / 128) (s.fetchLine (pa / 128)) else s

/-! ## Scratchpads (R192, R193, R367) -/

/-- The core whose copy of a scratchpad an access uses: each core of a pair holds its own copy of the
even core's scratchpad; others read the even copy (R367). -/
def State.scratchAt (s : State) (owner by_ : Nat) : Nat :=
  if (s.core owner).paired && (by_ == owner || by_ == partnerOf owner) then by_ else owner

/-- Raw scratchpad bytes. -/
def State.readScratch (s : State) (owner by_ off n : Nat) : List Byte :=
  memGetList (s.core (s.scratchAt owner by_)).mem.scratch off n

/-- Raw bytes written into the scratchpad of one core. -/
def Core.writeScratch (c : Core) (off : Nat) (bs : List Byte) : Core :=
  { c with mem := { c.mem with scratch := memSetList c.mem.scratch off bs
                               poison := clearPoison c.mem.poison off bs.length } }

/-- Raw bytes written: by a firing of a pair into its core's own copy, by anybody else into both
copies (R367). Activations of a pair run on the even core alone (DESIGN CHOICE, log 19). -/
def State.writeScratch (s : State) (owner : Nat) (iss : Issuer) (off : Nat) (bs : List Byte) : State :=
  if (s.core owner).paired then
    if (iss.core = owner ∨ iss.core = partnerOf owner) ∧ iss.ctx ≠ .h ∧ iss.ctx ≠ .d then
      s.modCore iss.core fun c => c.writeScratch off bs
    else (s.modCore owner fun c => c.writeScratch off bs).modCore (partnerOf owner) fun c => c.writeScratch off bs
  else s.modCore owner fun c => c.writeScratch off bs

/-- The place `i` bytes further on. -/
def Place.add : Place → Nat → Place
  | .scratch c o, i => .scratch c (o + i)
  | .mem pa, i => .mem (pa + i)

/-- The 128-byte line of a place. -/
def Place.line : Place → Place
  | .scratch c o => .scratch c (o / 128 * 128)
  | .mem pa => .mem (pa / 128 * 128)

/-- The offset of a place `p` in a run of bytes that starts at `q`, where it lies in it. -/
def Place.within (p q : Place) (n : Nat) : Option Nat :=
  match p, q with
  | .scratch c o, .scratch c' o' => if c = c' ∧ o' ≤ o ∧ o < o' + n then some (o - o') else none
  | .mem a, .mem a' => if a' ≤ a ∧ a < a' + n then some (a - a') else none
  | _, _ => none

/-- One byte as it stands outside every buffer of the core. -/
def State.readPlace (s : State) (core : Nat) (p : Place) : Byte :=
  match p with
  | .scratch c o => memGet (s.core (s.scratchAt c core)).mem.scratch o
  | .mem pa => s.readPa (dieOf core) pa

/-- The lines that engines have claimed make accesses wait (R233). -/
def State.claimed (s : State) (p : Place) : Bool := s.claims.any fun c => decide (c.place = p.line)

/-- Is a byte's word poisoned, outside every buffer? -/
def State.isPoisoned (s : State) (core : Nat) (p : Place) : Bool :=
  match p with
  | .scratch c o => (s.core (s.scratchAt c core)).mem.poison.contains (o / 8)
  | .mem pa => s.paPoisoned (dieOf core) pa

/-- The Keep controller of a physical address (R335): the stack that homes the lowest frame of its
64 KiB block, as 3 × die + stack. -/
def keepCtrl (pa : Nat) : Nat := 3 * (pa / 65536 * 65536 / Config.dieBytes) + pa / 65536 * 16 % 3

/-- A write that lies in one 64 KiB block goes on to the controller of the block, where it is reserved (R338). -/
def State.sendKeep (s : State) (src : Option Issuer) (job : Option Requester) (pa : Nat) (bs : List Byte) : State :=
  match s.keep.blocks.find? fun b => b.pa == pa / 65536 * 65536 with
  | none => s
  | some b =>
    { s with keep := { s.keep with
        msgs := s.keep.msgs ++ [{ ctrl := keepCtrl pa, grid := b.grid, src := src, job := job, pa := pa, bytes := bs }] } }

/-- A write to an RC page (R338): at home, and on to the controllers of the reserved blocks that it touches. -/
def State.writeRc (s : State) (src : Option Issuer) (job : Option Requester) (pa : Nat) (bs : List Byte) :
    State :=
  let s := s.writeHome pa bs
  let k := 65536 - pa % 65536
  if bs.length ≤ k then s.sendKeep src job pa bs
  else (s.sendKeep src job pa (bs.take k)).sendKeep src job (pa + k) (bs.drop k)

/-! ## Remote requests (R225, R377 to R379) -/

/-- Ports with lanes that a route entry names (R378). -/
def State.portsUp (s : State) (mask : Nat) : List Nat :=
  (List.range 16).filter fun p => mask / 2 ^ p % 2 == 1 && decide (0 < ((s.die (p / 4)).ports.get (ix 3 p)).lanes)

/-- A port changed. -/
def State.modPort (s : State) (p : Nat) (f : Port → Port) : State :=
  s.modDie (p / 4) fun d => { d with ports := vset d.ports (ix 3 p) (f (d.ports.get (ix 3 p))) }

/-- The size of a request for an egress queue (R384). -/
def RemoteKind.size : RemoteKind → Nat
  | .write _ bs _ => (bs.length + 63) / 64 * 64
  | .message .. => 64
  | _ => 64

/-- A request put into the queue of its tenant at a port (R384). -/
def Port.enqueue (p : Port) (tenant id size : Nat) : Port :=
  if p.egress.any fun e => e.tenant == tenant then
    { p with egress := p.egress.map fun e =>
        if e.tenant = tenant then { e with queue := e.queue ++ [(id, size)] } else e }
  else { p with egress := p.egress ++ [{ tenant := tenant, queue := [(id, size)], deficit := 0 }] }

/-- The cause with which the device itself refuses a request to an endpoint (R225, R377, R378). -/
def State.remoteRefused (s : State) (core endpoint : Nat) : Option Nat :=
  let route := (sget (s.die (dieOf core)).routes endpoint).getD 0
  if !s.hasMode core .remote then some 0x13
  else if 1023 < endpoint then some 0x36
  else if endpoint = s.fabric.endpoint then some 0x13
  else if !flag route 31 || (s.portsUp (field route 0 16)).isEmpty then some 0x36
  else none

/-- A request leaves for an endpoint (R377 to R379, R384): it takes one of the ports that are up. -/
def State.sendRemote (s : State) (src : Issuer) (endpoint line : Nat) (kind : RemoteKind) (late : Bool) :
    State :=
  let route := (sget (s.die (dieOf src.core)).routes endpoint).getD 0
  let ports := s.portsUp (field route 0 16)
  let port := ports.getD (Config.portHash endpoint line % ports.length) 0
  let tenant := ((s.infoOf src.core).map (·.tenant)).getD 0
  let key := if flag route 30 then some (((s.infoOf src.core).map (·.key)).getD 0) else none
  let id := s.fabric.nextReq
  let req : RemoteReq :=
    { id := id, src := src, tenant := tenant, key := key, die := dieOf src.core, port := port,
      endpoint := endpoint, kind := kind, late := late }
  let s := { s with fabric := { s.fabric with nextReq := id + 1, reqs := s.fabric.reqs ++ [req] } }
  s.modPort port fun p => p.enqueue tenant id kind.size

/-- The endpoint of a fabric address, and the offset in it (R377). -/
def endpointOf (pa : Nat) : Nat × Nat :=
  ((pa - Config.fabricBase) / 2 ^ 40, (pa - Config.fabricBase) % 2 ^ 40)

/-- Is a team resident in the current quantum of its grid (R161)? -/
def Grid.resident (g : Grid) (team : Nat) : Bool :=
  let c := g.granted.length
  decide (g.info.clusters ≤ c) || (List.range c).any fun i => (g.quantum * c + i) % g.info.clusters == team

/-- An error logged for firmware (R360): its cause, 0 for a corrected one, and where. -/
def State.logError (s : State) (d cause where_ : Nat) : State := s.modDie d fun x => { x with log := x.log ++ [(cause, where_)] }

/-- A notice for F's next boundary (R360, R362, R364, R365). -/
def Core.notify (c : Core) (cause : Nat) (tval : Word) : Core :=
  { c with notices := c.notices ++ [{ cause := cause, tval := tval }] }

/-- A notice for a core's F; both cores of a pair take it (R367). -/
def State.notify (s : State) (core cause : Nat) (tval : Word) : State :=
  let s := s.modCore core fun c => c.notify cause tval
  if (s.core core).paired then s.modCore (partnerOf core) fun c => c.notify cause tval else s

/-- A notice for the core of a grid that an LVLID0 names, resident or saved. -/
def State.notifyGrid (s : State) (gid n cause : Nat) (tval : Word) : State :=
  match (s.grid gid).bind fun g => g.coreOf n with
  | some k => s.notify k cause tval
  | none => s.modGridCore gid n fun c => c.notify cause tval

/-- Does a remote read cover bytes of a line of another endpoint? -/
def RemoteWait.reads (w : RemoteWait) (line : Nat) : Bool :=
  match w.kind with
  | .read off n =>
    let pa := Config.fabricBase + w.endpoint * 2 ^ 40 + off
    decide (pa / 128 ≤ line ∧ line ≤ (pa + n - 1) / 128)
  | _ => false

/-- A line of another endpoint that this die has written: its RDC drops the copy, and what its contexts have asked
of the line before is asked afresh (R228). -/
def State.forgetHostLine (s : State) (d line : Nat) : State :=
  let s := s.modDie d fun x => { x with rdc := sdel x.rdc line }
  let clean (c : Core) : Core :=
    { c with waits := { c.waits with remote := c.waits.remote.filter fun w => !w.reads line } }
  { s with cores := s.cores.map fun (p : Nat × Core) => if dieOf p.1 = d then (p.1, clean p.2) else p }

/-- A store or atomic of a die to another endpoint: the die's RDC drops its copies of the lines. -/
def State.dropHostLine (s : State) (d pa n : Nat) : State :=
  let a := pa / 128
  let b := (pa + n - 1) / 128
  if a = b then s.forgetHostLine d a else (s.forgetHostLine d a).forgetHostLine d b

/-- A store leaves for another endpoint without a wait: a refusal reaches F as R362 gives for a sender. -/
def State.lateStore (s : State) (iss : Issuer) (pa : Nat) (bs : List Byte) (poisoned : Bool) : State :=
  let (e, off) := endpointOf pa
  match s.remoteRefused iss.core e with
  | some c => s.notify iss.core c (word pa)
  | none => (s.sendRemote iss e (pa / 128) (.write off bs poisoned) true).dropHostLine (dieOf iss.core) pa bs.length

/-- A byte that a store of `b` under a mask leaves. -/
def mergeByte (old b mask : Byte) : Byte := (old &&& ~~~mask) ||| (b &&& mask)

/-- A nibble of a scratchpad byte stored: one indivisible update of the byte (R197). -/
def State.mergeScratch (s : State) (owner : Nat) (iss : Issuer) (off : Nat) (b mask : Byte) : State :=
  s.writeScratch owner iss off [mergeByte (s.readPlace iss.core (.scratch owner off)) b mask]

/-- One part of a store is performed (R80): at the owning scratchpad, at home for an RC page and for an uncached
one, at its endpoint, or in the memory of the issuer's die (R203, R207). A poisoned store marks its words
(R361). -/
def State.perform (s : State) (iss : Issuer) (p : StorePart) (poisoned : Bool) : State :=
  match p.place with
  | .scratch c o =>
    let s := if p.mask = 0xFF then s.writeScratch c iss o p.bytes else s.mergeScratch c iss o (p.bytes.getD 0 0) p.mask
    if poisoned then
      s.modCore (s.scratchAt c iss.core) fun k =>
        { k with mem := { k.mem with poison := markPoison k.mem.poison o p.bytes.length } }
    else s
  | .mem pa =>
    if isFabric pa then s.lateStore iss pa p.bytes poisoned
    else if p.rc || p.uncached then
      let s := if p.rc then s.writeRc (some iss) none pa p.bytes else s.writeHome pa p.bytes
      if poisoned then { s with poison := markPoison s.poison pa p.bytes.length } else s
    else
      let s := s.writePa (dieOf iss.core) iss pa p.bytes
      if poisoned then s.markPa (dieOf iss.core) pa p.bytes.length else s

/-! ## Store buffer and gating buffer (R14, R80) -/

/-- What the parts of a store hold for one byte of a place: byte, mask, poison. -/
def partsHold (parts : List StorePart) (poisoned : Bool) (p : Place) : List (Byte × Byte × Bool) :=
  parts.filterMap fun e => (p.within e.place e.bytes.length).map fun i => (e.bytes.getD i 0, e.mask, poisoned)

/-- Is a context one of a firing's streams: F, L or S? -/
def inFiring (x : Ctx) : Bool := x != .h && x != .d

/-- What entries of the store buffer and the gating buffer hold for one byte of a place as a context
sees it, oldest first. F, H and D see the store buffer, a stream its own entries there; a context sees its own
gated stores, and the streams of a firing those of its interval (R80, R144, R368). -/
def Core.forwarded (c : Core) (x : Ctx) (p : Place) : List (Byte × Byte × Bool) :=
  (c.mem.buffer.flatMap fun e =>
    if (x = .l ∨ x = .s) ∧ e.ctx ≠ x then [] else partsHold e.parts e.poisoned p) ++
  c.mem.gate.flatMap fun e =>
    if e.ctx = x ∨ (inFiring e.ctx = true ∧ inFiring x = true) then partsHold e.parts e.poisoned p else []

/-- One byte as a context of a core reads it (R80). -/
def State.readByte (s : State) (core : Nat) (x : Ctx) (p : Place) : Byte :=
  ((s.core core).forwarded x p).foldl (fun old e => mergeByte old e.1 e.2.1) (s.readPlace core p)

/-- Does a byte as a context reads it carry poison (R361)? A forwarded store of the whole byte brings
its own mark. -/
def State.bytePoisoned (s : State) (core : Nat) (x : Ctx) (p : Place) : Bool :=
  ((s.core core).forwarded x p).foldl (fun old e => if e.2.1 = 0xFF then e.2.2 else old || e.2.2)
    (s.isPoisoned core p)

/-- Entries of the gating buffer that a core occupies, its RC writes on their way to the Keep
included (R14). -/
def State.gateUse (s : State) (core : Nat) : Nat :=
  (s.core core).mem.gate.length +
    (s.keep.msgs.filter fun m => match m.src with | some i => i.core == core | none => false).length

/-- Is a store to another endpoint of an issuer still without its answer (R386)? -/
def State.lateWrites (s : State) (iss : Issuer) : Bool :=
  s.fabric.reqs.any fun r => r.late && decide (r.src = iss) && (match r.kind with | .write .. => true | _ => false)

/-- Does a part of a store touch a line that an engine has claimed (R233)? -/
def StorePart.claimed (p : StorePart) (s : State) : Bool :=
  s.claimed p.place || s.claimed (p.place.add (p.bytes.length - 1))

/-- Must an entry of the store buffer wait: for a claimed line, or, a release, for its context's earlier stores to
other endpoints (R230, R233)? -/
def StoreEntry.blocked (e : StoreEntry) (s : State) (core : Nat) : Bool :=
  e.parts.any (fun p => p.claimed s) || (e.wide && s.lateWrites { core := core, ctx := e.ctx })

/-- The parts of one store performed in one step (R113); a release of die scope or wider writes the RDC back
(R203). -/
def State.performAll (s : State) (iss : Issuer) (parts : List StorePart) (wide poisoned : Bool) : State :=
  let s := parts.foldl (fun s p => s.perform iss p poisoned) s
  if wide then s.writeBackRdc (dieOf iss.core) else s

/-- The oldest entry of the store buffer is performed, unless it must wait. -/
def State.drainOne (s : State) (core : Nat) : State :=
  match (s.core core).mem.buffer with
  | [] => s
  | e :: rest =>
    if e.blocked s core then s
    else
      (s.modCore core fun c => { c with mem := { c.mem with buffer := rest } }).performAll
        { core := core, ctx := e.ctx } e.parts e.wide e.poisoned

/-- The whole store buffer is performed, as far as its entries need not wait. -/
def State.drainAll (s : State) (core : Nat) : State :=
  (List.range (s.core core).mem.buffer.length).foldl (fun s _ => s.drainOne core) s

/-- A gated store that every holder has released, in the order of the store buffer (R14, R80). -/
def GateEntry.freed (e : GateEntry) : StoreEntry :=
  { ctx := e.ctx, parts := e.parts, wide := e.wide, gated := true, poisoned := e.poisoned }

/-- Gated stores that no holder covers any more leave in order, behind the stores that stand in the store buffer
(R14, R80, R229). -/
def State.releaseGate (s : State) (core : Nat) : State :=
  let s := s.modCore core fun c => { c with mem := { c.mem with
    buffer := c.mem.buffer ++ (c.mem.gate.filter fun e => !e.act && !e.interval).map GateEntry.freed
    gate := c.mem.gate.filter fun e => e.act || e.interval } }
  s.drainAll core

/-- The gated stores of an activation are dropped (R362, R363). -/
def Core.dropGated (c : Core) (x : Ctx) : Core :=
  { c with mem := { c.mem with gate := c.mem.gate.filter fun e => !(decide (e.ctx = x) && e.act) } }

/-- The gated stores of a firing's open interval are dropped (R368); those of activations stay. -/
def Core.dropInterval (c : Core) : Core :=
  { c with mem := { c.mem with gate := c.mem.gate.filter fun e => !e.interval || e.act || e.ctx == .h || e.ctx == .d } }

/-! ## Registers of the executing turn -/

/-- A register of a stream: `g0` reads zero (R36). -/
def StreamState.readG (t : StreamState) (r : Reg) : Word :=
  if r.val = 0 then 0 else if h : r.val < 16 then t.g.get ⟨r.val, h⟩ else 0

/-- A register of a stream written; `g0` discards. -/
def StreamState.writeG (t : StreamState) (r : Reg) (v : Word) : StreamState :=
  if r.val = 0 then t else if h : r.val < 16 then { t with g := vset t.g ⟨r.val, h⟩ v } else t

/-- A register of a context (R36). -/
def Context.readG (c : Context) (r : Reg) : Word := if r.val = 0 then 0 else c.g.get r

/-- A register of a context written; `g0` discards. -/
def Context.writeG (c : Context) (r : Reg) (v : Word) : Context :=
  if r.val = 0 then c else { c with g := vset c.g r v }

/-- A register of a core's stream or context. -/
def Core.readG (c : Core) (x : Ctx) (r : Reg) : Word :=
  match x with
  | .l => c.f.l.readG r
  | .s => c.f.s.readG r
  | x => (c.context x).readG r

/-- A register of a core's stream or context written. -/
def Core.writeG (c : Core) (x : Ctx) (r : Reg) (v : Word) : Core :=
  match x with
  | .l => { c with f := { c.f with l := c.f.l.writeG r v } }
  | .s => { c with f := { c.f with s := c.f.s.writeG r v } }
  | x => c.setContext x ((c.context x).writeG r v)

/-- The offset of a core's stream or context. -/
def Core.pc (c : Core) : Ctx → Word
  | .l => c.f.l.pc
  | .s => c.f.s.pc
  | x => (c.context x).pc

/-- The offset of a core's stream or context set. -/
def Core.setPc (c : Core) (x : Ctx) (v : Word) : Core :=
  match x with
  | .l => { c with f := { c.f with l := { c.f.l with pc := v } } }
  | .s => { c with f := { c.f with s := { c.f.s with pc := v } } }
  | x => c.setContext x { c.context x with pc := v }

/-- A walker thread of a die. -/
def State.thread (s : State) (d tid : Nat) : Option Thread := (s.die d).threads.find? fun t => t.tid == tid

/-- A walker thread replaced. -/
def State.setThread (s : State) (d tid : Nat) (f : Thread → Thread) : State :=
  s.modDie d fun x => { x with threads := x.threads.map fun t => if t.tid = tid then f t else t }

/-- An I/O core of a die. -/
def State.ioCore (s : State) (d n : Nat) : IoCore := (sget (s.die d).io n).getD IoCore.reset

/-- An I/O core changed. -/
def State.modIo (s : State) (d n : Nat) (f : IoCore → IoCore) : State :=
  s.modDie d fun x => { x with io := sset x.io n (f ((sget x.io n).getD IoCore.reset)) }

/-- A general register of whoever executes. -/
def State.readG (s : State) (r : Reg) : Word :=
  match s.turn with
  | .core n x => (s.core n).readG x r
  | .walker d t =>
    match s.thread d t with
    | some th => if r.val = 0 then 0 else if h : r.val < 16 then th.g.get ⟨r.val, h⟩ else 0
    | none => 0
  | .io d n => (s.ioCore d n).ctx.readG r
  | .env => 0

/-- A general register of whoever executes, written. -/
def State.writeG (s : State) (r : Reg) (v : Word) : State :=
  match s.turn with
  | .core n x => s.modCore n fun c => c.writeG x r v
  | .walker d t =>
    s.setThread d t fun th =>
      if r.val = 0 then th else if h : r.val < 16 then { th with g := vset th.g ⟨r.val, h⟩ v } else th
  | .io d n => s.modIo d n fun c => { c with ctx := c.ctx.writeG r v }
  | .env => s

/-- The offset of the instruction being executed. -/
def State.pc (s : State) : Word :=
  match s.turn with
  | .core n x => (s.core n).pc x
  | .walker d t => match s.thread d t with | some th => th.pc | none => 0
  | .io d n => (s.ioCore d n).ctx.pc
  | .env => 0

/-- The offset of whoever executes, set. -/
def State.setPc (s : State) (v : Word) : State :=
  match s.turn with
  | .core n x => s.modCore n fun c => c.setPc x v
  | .walker d t => s.setThread d t fun th => { th with pc := v }
  | .io d n => s.modIo d n fun c => { c with ctx := { c.ctx with pc := v } }
  | .env => s

/-- STATUS, FPSTAT and FRM of whoever executes: the context's; a walker thread has none. -/
def State.context (s : State) : Context :=
  match s.turn with
  | .core n x => (s.core n).context x
  | .io d n => (s.ioCore d n).ctx
  | _ => Context.reset 0

/-- The privilege of whoever executes (R39). -/
def State.priv (s : State) : Nat := s.context.priv

/-! ## Who accesses -/

/-- Who accesses memory: the issuing core, what its translations are checked with (R209), who waits
for a walk, and the window configuration in use (R198). -/
structure Viewer where
  core    : Nat
  ctx     : Ctx
  cluster : Nat
  asid    : Word
  log     : Nat
  user    : Bool
  engine  : Bool
  grid    : Option Nat
  who     : Requester
  wcfg    : Vector Word 5
  deriving DecidableEq, Repr

/-- A context of a core as a viewer. -/
def State.viewer (s : State) (n : Nat) (x : Ctx) : Viewer :=
  let c := s.core n
  { core := n, ctx := x, cluster := clusterOf n, asid := c.sr.asid, log := c.ident.log
    user := (c.context x).priv == 0, engine := false, grid := c.ident.grid
    who := .core n x, wcfg := c.sr.wcfg }

/-! ## Addresses (R78, R190) -/

/-- Bits <63:57> all equal bit <56>. -/
def canonical (va : Nat) : Bool := va / 2 ^ 56 == 0 || va / 2 ^ 56 == 255

/-- The scratch region (R190). -/
def inScratch (va : Nat) : Bool := va / 2 ^ 48 == 255

/-- The slot number, the window and the window offset of a scratch address (R191, R194). -/
def slotOf (va : Nat) : Nat × Nat × Nat :=
  let o := (va - Config.scratchBase) % Config.slotBytes
  ((va - Config.scratchBase) / Config.slotBytes, o / Config.windowBytes, o % Config.windowBytes)

/-- Is an access plain? -/
def isPlain (ql : Qual) : Bool := ql.ord == .plain

/-- Checks 2 to 4 of R78 for `n` bytes at `va`: the cause of the first that fails. -/
def addressCause (va n : Nat) (aligned : Bool) : Option Nat :=
  if !canonical va then some 0x15
  else if 2 ^ 64 ≤ va + n - 1 || !canonical (va + n - 1) then some 0x16
  else if aligned && va % n != 0 then some 0x04
  else none

/-- The block size of window 4 (R196). -/
def windowBlock (w4 : Word) : Nat := 8 * 2 ^ field w4 2 2

/-- The format of window 4's blocks: MXF4 under E8M0 scales, GF4 otherwise (R196). -/
def windowFormat (w4 : Word) : Fmt := if flag w4 1 then .mxf4 else .gf4

/-- The configuration of a window. -/
def windowConfig (wcfg : Vector Word 5) (w : Nat) : Word := wcfg.get (ix 4 (w - 1))

/-- An element of a window (R194): its raw bytes, and the raw byte of its scale in window 4. -/
structure WindowElem where
  window : Nat
  index  : Nat
  raw    : Nat
  bytes  : Nat
  scale  : Option Nat
  deriving DecidableEq, Repr

/-- The element at offset `o` of a window (R194). -/
def windowElem (wcfg : Vector Word 5) (w o : Nat) : WindowElem :=
  let c := windowConfig wcfg w
  let base := field c 7 12 * 128
  let e := o / 4
  match w with
  | 1 => { window := w, index := e, raw := base + 2 * e, bytes := 2, scale := none }
  | 4 => { window := w, index := e, raw := base + e / 2, bytes := 1,
           scale := some (field c 26 19 + e / windowBlock c) }
  | 5 => { window := w, index := e, raw := base + 4 * e, bytes := 4, scale := none }
  | _ => { window := w, index := e, raw := base + e, bytes := 1, scale := none }

/-- Does an element need a raw byte at 384 KiB or beyond (R194)? -/
def WindowElem.outOfRange (e : WindowElem) : Bool :=
  decide (Config.scratchBytes < e.raw + e.bytes) ||
    (match e.scale with | some s => decide (Config.scratchBytes ≤ s) | none => false)

/-- Check 5 of R78 for an access of `n` bytes at `va`: the cause of the first rule that fails. `word`
says that the access is one that windows 1 to 5 take: words of 4 bytes. -/
def windowCause (wcfg : Vector Word 5) (va n : Nat) (word atomic : Bool) : Option Nat :=
  if !inScratch va then none
  else
    let (_, w, o) := slotOf va
    if 6 ≤ w then some 0x1A
    else if w = 0 then (if Config.scratchBytes < o + n then some 0x1A else none)
    else if atomic then some 0x1C
    else if w = 4 && !flag (windowConfig wcfg 4) 0 then some 0x19
    else if !word || va % 4 != 0 || decide (Config.scratchBytes ≤ o) || (windowElem wcfg w o).outOfRange then
      some 0x1A
    else none

/-- The window of an address: 0 outside windows 1 to 5 of a slot. -/
def windowAt (va : Nat) : Nat := if inScratch va then (slotOf va).2.1 else 0

/-! ## Translation (R205 to R209) -/

/-- Where a byte of an access lies: in place (with its RC and ATTR attributes), at a fabric endpoint,
nowhere (with the cause), not known before a walk, a migration, or a request for one (R217), on a page that was
refused (0x38), or in the memory of a die under reset (R366). -/
inductive Spot where
  | at_ (p : Place) (rc uncached : Bool)
  | remote (pa : Nat)
  | bad (cause : Nat)
  | miss
  | moving
  | away (page : Nat)
  | refused (page : Nat)
  | shut
  deriving DecidableEq, Repr

/-- The first check of R209 that a leaf fails. -/
def leafCause (v : Viewer) (store high : Bool) (leaf comp : Word) : Option Nat :=
  let fault := if v.engine then 0x12 else if store then 0x11 else 0x10
  if !flag leaf 0 then some fault
  else if v.user && high then some 0x13
  else if v.user && !flag leaf 3 then some 0x13
  else if store && !flag leaf 2 then some 0x13
  else if !flag leaf 5 then some fault
  else if store && !flag leaf 6 then some fault
  else if !flag comp (32 + v.log / 2 ^ field comp 27 5 % 32) then some 0x14
  else none

/-- A TLB entry that covers an address under an ASID, or for every ASID (R205). -/
def tlbFind (tlb : List TlbEntry) (asid va : Nat) : Option TlbEntry :=
  tlb.find? fun e => decide (e.va ≤ va ∧ va < e.va + 2 ^ e.size) && (e.asid == asid || flag e.leaf 9)

/-- The physical address of a byte of an entry's page. -/
def TlbEntry.pa (e : TlbEntry) (va : Nat) : Nat :=
  field e.leaf 12 40 * 4096 / 2 ^ e.size * 2 ^ e.size + va % 2 ^ e.size

/-- Is a team held out for a test (R372): due to be resident, without a cluster, while an empty cluster of its
grid is under test? -/
def State.heldOut (s : State) (g : Grid) (team : Nat) : Bool :=
  g.resident team && (sget g.place team).isNone &&
    g.granted.any fun cl => (s.cluster cl).test.isSome && !(g.place.any fun p => p.2 == cl)

/-- A slot of a viewer's grid (R191, R192): its core, or 0x1B. A slot held out for a test gives 0x3E
(R372). The odd core of a pair has no slot (R367). -/
def State.slotCore (s : State) (v : Viewer) (slot : Nat) : Except Nat Nat :=
  match v.grid.bind s.grid with
  | none => .error 0x1B
  | some g =>
    if 8 * g.info.clusters ≤ slot then .error 0x1B
    else
      match sget g.place (slot / 8) with
      | none => .error (if s.heldOut g (slot / 8) then 0x3E else 0x1B)
      | some phys =>
        let n := 8 * phys + slot % 8
        if (s.core n).paired && n % 2 == 1 then .error 0x1B
        else if (s.die (dieOf n)).inReset then .error 0x1B
        else .ok n

/-- A place in a slot of raw bytes (R192, R201): a U store below 4,096 raises 0x13. -/
def State.slotSpot (s : State) (v : Viewer) (store : Bool) (slot raw : Nat) : Spot :=
  match s.slotCore v slot with
  | .error c => .bad c
  | .ok n => if store && v.user && decide (raw < 4096) then .bad 0x13 else .at_ (.scratch n raw) false false

/-- Where the byte at a virtual address lies for a viewer (R190, R209). -/
def State.spot (s : State) (v : Viewer) (store : Bool) (va : Nat) : Spot :=
  if inScratch va then
    let (slot, _, o) := slotOf va
    s.slotSpot v store slot o
  else
    let cl := s.cluster v.cluster
    match tlbFind cl.tlb (field v.asid 0 16) va with
    | some e =>
      match leafCause v store (decide (0xFF00000000000000 ≤ va)) e.leaf e.comp with
      | some c => .bad c
      | none =>
        let pa := e.pa va
        if isFabric pa then .remote pa
        else if (s.die (homeDie pa)).inReset then .shut
        else
          match sget s.fabric.pages (pa / 4096) with
          | some m =>
            if m.moving.isSome then
              (if m.home = s.fabric.endpoint ∨ m.moving = some s.fabric.endpoint then .moving else .refused (pa / 4096))
            else if m.refused.contains v.who then .refused (pa / 4096)
            else if m.home ≠ s.fabric.endpoint then .away (pa / 4096)
            else .at_ (.mem pa) (flag e.comp 26) (flag e.leaf 7)
          | none => .at_ (.mem pa) (flag e.comp 26) (flag e.leaf 7)
    | none =>
      match cl.fails.find? fun f => decide (f.1 = v.who) && decide (f.2.1 / 4096 = va / 4096) with
      | some (_, _, .routine) => .bad 0x18
      | some (_, _, .absent) => .bad (if v.engine then 0x12 else if store then 0x11 else 0x10)
      | some (_, _, .noKeep) => .bad 0x2E
      | none => .miss

/-- Does a walk answer the same request (R214): the same page under the same ASID? -/
def WalkReq.same (w : WalkReq) (v : Viewer) (va : Nat) : Bool :=
  decide (w.va / 4096 = va / 4096 ∧ field w.asid 0 16 = field v.asid 0 16)

/-- The cluster through whose TLB a requester translates (R205); the scheduler of a die uses that of its first
(DESIGN CHOICE, log 49). -/
def Requester.cluster : Requester → Nat
  | .core n _ => clusterOf n
  | .bse c _ => c
  | .gre c _ => c
  | .copy n _ => clusterOf n
  | .launch d => d * Config.clustersPerDie

/-- The clusters whose requesters await a walk. -/
def WalkReq.clusters (w : WalkReq) : List Nat := (w.waiters.map Requester.cluster).eraseDups

/-- Does an entry match a removal (R89)? A global entry is removed only for every ASID. -/
def TlbEntry.removedBy (e : TlbEntry) (i : Inval) : Bool :=
  (match i.va with | none => true | some va => decide (e.va ≤ va ∧ va < e.va + 2 ^ e.size)) &&
    (match i.asid with | none => true | some a => e.asid == a && !flag e.leaf 9)

/-- A requester joins the waiters of a walk. -/
def WalkReq.join (w : WalkReq) (r : Requester) : WalkReq :=
  if w.waiters.contains r then w else { w with waiters := w.waiters ++ [r] }

/-- A walk requested (R211, R214): the requester joins a walk of the same page, or a new one waits. -/
def State.requestWalk (s : State) (v : Viewer) (store : Bool) (va : Nat) : State :=
  s.modDie (dieOfCluster v.cluster) fun d =>
    if d.threads.any (fun t => t.req.same v va) then
      { d with threads := d.threads.map fun t =>
          if t.req.same v va then { t with req := t.req.join v.who } else t }
    else if d.walks.any (fun w => w.same v va) then
      { d with walks := d.walks.map fun w => if w.same v va then w.join v.who else w }
    else
      let kind := (if v.engine then 2 else 0) + store.toNat
      let w : WalkReq :=
        { va := va, asid := v.asid, log := v.log, user := v.user, kind := kind,
          grid := v.grid, waiters := [v.who], cancel := [] }
      { d with walks := d.walks ++ [w] }

/-- A requester of this device asks the directory for a page that is elsewhere (R217). -/
def State.askPage (s : State) (who : Requester) (page : Nat) : State :=
  match sget s.fabric.pages page with
  | none => s
  | some m =>
    let self_ := s.fabric.endpoint
    let m : Migration :=
      if m.hold then { m with refused := if m.refused.contains who then m.refused else m.refused ++ [who] }
      else { m with asking := insertNat m.asking self_
                    waiting := if m.waiting.contains who then m.waiting else m.waiting ++ [who] }
    { s with fabric := { s.fabric with pages := sset s.fabric.pages page m } }

/-- A refused request for a page has been reported to its requester (R217): the next access asks afresh. -/
def State.forgetRefusal (s : State) (who : Requester) (page : Nat) : State :=
  match sget s.fabric.pages page with
  | none => s
  | some m =>
    { s with fabric := { s.fabric with
        pages := sset s.fabric.pages page { m with refused := m.refused.filter fun r => decide (r ≠ who) } } }

/-! ## Ranges that the hardware itself reaches (R7, R165, R180) -/

/-- Runs of bytes within one page of 4 KiB: offset and length. -/
def pagePieces (va n : Nat) : List (Nat × Nat) :=
  (List.range ((va % 4096 + n + 4095) / 4096)).map fun i =>
    let lo := if i = 0 then 0 else 4096 * i - va % 4096
    (lo, Nat.min n (4096 * (i + 1) - va % 4096) - lo)

/-- A run of bytes of a range: its offset and length in the range, its physical address, its page's attributes. -/
structure PagePart where
  off      : Nat
  len      : Nat
  pa       : Nat
  rc       : Bool
  uncached : Bool
  deriving DecidableEq, Repr

/-- A range of virtual addresses in local memory as its pages map it, what must be awaited first, or nothing:
some page does not translate. -/
inductive Reach where
  | pages (l : List PagePart)
  | ask (f : State → State)
  | bad

/-- The parts of a range, page by page. -/
def State.reachParts (s : State) (v : Viewer) (store : Bool) (va : Nat) : List (Nat × Nat) → Reach
  | [] => .pages []
  | (o, n) :: rest =>
    match s.spot v store (va + o) with
    | .at_ (.mem pa) rc unc =>
      match s.reachParts v store va rest with
      | .pages l => .pages ({ off := o, len := n, pa := pa, rc := rc, uncached := unc } :: l)
      | r => r
    | .miss => .ask fun s => s.requestWalk v store (va + o)
    | .away p => .ask fun s => s.askPage v.who p
    | .moving => .ask id
    | .shut => .ask id
    | _ => .bad

/-- A range of `n` bytes from `va`. -/
def State.reach (s : State) (v : Viewer) (store : Bool) (va n : Nat) : Reach :=
  if canonical va && canonical (va + n - 1) && decide (va + n ≤ 2 ^ 64) then s.reachParts v store va (pagePieces va n)
  else .bad

/-- The bytes of a range as a die reads them. -/
def State.readReached (s : State) (d : Nat) (l : List PagePart) : List Byte :=
  l.flatMap fun p => (List.range p.len).map fun i => s.readPa d (p.pa + i)

/-- Bytes stored to a range. -/
def State.writeReached (s : State) (iss : Issuer) (l : List PagePart) (bs : List Byte) : State :=
  l.foldl (fun s p =>
    s.perform iss { place := .mem p.pa, bytes := slice bs p.off p.len, mask := 0xFF, rc := p.rc, uncached := p.uncached }
      false) s

/-! ## Taking an exception (R40, R84) -/

/-- Trap entry of a context: EPC, CAUSE, TVAL, PP and PIE are saved, IE is cleared, the privilege rises
to K (M for 0x3F, and M stays M), and the context goes to TVEC. -/
def Context.enterTrap (c : Context) (tvec epc : Word) (stream cause : Nat) (tval : Word) : Context :=
  let p := c.priv
  let st := setField c.status 8 2 p
  let st := setField st 6 1 (flag c.status 5).toNat
  let st := setField st 5 1 0
  let st := setField st 10 2 (if cause = 0x3F ∨ p = 3 then 3 else 1)
  { c with
    epc := setField 0 1 15 (field epc 1 15)
    cause := word (stream * 256 + cause)
    tval := tval
    status := st
    pc := setField 0 1 15 (field tvec 1 15)
    inTrap := true }

/-- An offset in a store as R164 saves it: 16 bits. -/
def off16 (pc : Word) : Nat := pc.toNat % 65536

/-- The progress of a stream: its registers `g0` to `g15` as 16 doublewords. -/
def streamBytes (t : StreamState) : List Byte :=
  (List.range 16).flatMap fun i => bytesOf 8 (t.readG (ix 31 i)).toNat

/-- Queue entries as 128 bytes each, padded to 8 entries; a mark is 128 zero bytes. -/
def queueBytes (q : List QEntry) : List Byte :=
  (List.range 8).flatMap fun i =>
    match q.getD i .mark with
    | .data v => bytesOfV v
    | .mark => bytesOf 128 0

/-- Is entry `e` of a queue a mark? -/
def isMarkAt (q : List QEntry) (e : Nat) : Bool :=
  match q.getD e (.data 0) with
  | .mark => true
  | .data _ => false

/-- The 16 KiB of a fibre slot (R164): the state of F's firing, its cause and the trapping stream. -/
def fibreBytes (c : Core) (stream cause : Nat) (tval : Word) : List Byte :=
  let f := c.f
  let rec0 := bytesOf 8 (cause * 256 + stream * 2 + 1) ++ bytesOf 8 tval.toNat ++
    bytesOf 8 (off16 c.fc.pc + off16 f.l.pc * 2 ^ 16 + off16 f.s.pc * 2 ^ 32 +
      (f.cEnded.toNat + f.l.ended.toNat * 2 + f.s.ended.toNat * 4) * 2 ^ 48) ++
    bytesOf 8 (field c.fc.fpstat 0 6 + field c.fc.frm 0 3 * 256) ++
    bytesOf 8 f.srseed.toNat ++ bytesOf 8 f.fire.toNat
  let rec1 := (f.bs.toList.flatMap fun b => bytesOf 4 b.toNat) ++
    (f.mIdx.toList.map fun m => match m with | some i => BitVec.ofNat 8 i | none => 0xFF) ++
    bytesOf 8 ((match f.rstLabel with | some l => 1 + l * 2 | none => 0) + f.holdsBse.toNat * 2 ^ 16 +
      c.sr.bstat.toNat / 2 ^ 9 % 2 ^ 40 * 2 ^ 17)
  let rec2 := ((List.range 31).flatMap fun i => bytesOf 8 (c.fc.readG (ix 31 (i + 1))).toNat) ++
    ((List.range 7).flatMap fun i => bytesOf 16 (f.k.get (ix 7 (i + 1))).toNat) ++ bytesOf 16 0
  let rec3 := streamBytes f.l ++ streamBytes f.s ++
    bytesOf 8 (sumNat (f.q.toList.zipIdx.map fun p => p.1.length * 16 ^ p.2)) ++
    bytesOf 8 (sumNat ((List.range 64).map fun b =>
      (isMarkAt (f.q.get (ix 7 (b / 8))) (b % 8)).toNat * 2 ^ b))
  rec0 ++ rec1 ++ rec2 ++ rec3 ++ bytesOf 3312 0 ++ (c.fc.v.toList.flatMap bytesOfV) ++
    (f.q.toList.flatMap queueBytes)

/-- The address of fibre slot `f` of a core (R164). -/
def fibreSlot (i : LaunchInfo) (lvlid0 f : Nat) : Nat :=
  i.fibre.toNat + (lvlid0 * i.fibres + f) * 16384

/-- The hardware of a core as it reaches the fibre area for a stream: not as user (R164, R165). -/
def State.fibreViewer (s : State) (core : Nat) (x : Ctx) : Viewer := { s.viewer core x with user := false }

/-- The search for a free fibre slot (R165): the slot and the pages of its 16 KiB, none, or what must be awaited
first. -/
inductive FibreSearch where
  | found (slot : Nat) (l : List PagePart)
  | none
  | ask (f : State → State)

/-- The lowest slot of a list with VALID = 0 (R165). A slot whose pages do not translate is none that can be used
(DESIGN CHOICE, log 49). -/
def State.searchFibre (s : State) (v : Viewer) : List Nat → FibreSearch
  | [] => .none
  | a :: rest =>
    match s.reach v true a 16384 with
    | .ask f => .ask f
    | .bad => s.searchFibre v rest
    | .pages l => if flag ((s.readReached (dieOf v.core) l).getD 0 0) 0 then s.searchFibre v rest else .found a l

/-- The lowest fibre slot of a core with VALID = 0 (R165), as a stream of its firing finds it. -/
def State.freeFibre (s : State) (core : Nat) (x : Ctx) : FibreSearch :=
  match s.infoOf core with
  | none => .none
  | some i => s.searchFibre (s.fibreViewer core x) ((List.range i.fibres).map fun f => fibreSlot i (s.lvlid0 core) f)

/-- F with every register 0, as an upcall routine finds it (R165): STATUS keeps its other fields, and EPC, CAUSE and
TVAL keep their values here and at a firing start (R151; DESIGN CHOICE, log 89). -/
def Context.fresh (c : Context) (priv : Nat) (pc : Word) : Context :=
  { c with
    g := Vector.replicate 32 0
    v := Vector.replicate 32 0
    pc := pc
    fpstat := 0
    frm := 0
    status := setField c.status 10 2 priv
    inTrap := false }

/-- The firing state of a fresh firing, whose streams start at the given offsets (none: absent). -/
def FState.fresh (f : FState) (l s : Option Word) : FState :=
  { FState.reset with
    l := { g := Vector.replicate 16 0, pc := l.getD 0, ended := l.isNone, walk := none }
    s := { g := Vector.replicate 16 0, pc := s.getD 0, ended := s.isNone, walk := none }
    srseed := f.srseed
    fire := f.fire
    cEnded := false }

/-- F starts the upcall routine at U (R165). -/
def Core.startUpcall (c : Core) (slot cause : Nat) (tval : Word) : Core :=
  let k := c.fc.fresh 0 (setField 0 1 15 (field c.sr.uvec 1 15))
  let k := ((k.writeG 16 (word slot)).writeG 17 (word cause)).writeG 18 tval
  { c with fc := k, f := c.f.fresh none none, firing := .upcall }

/-- `FibreUpcall(cause, tval)` (R165) into a free slot: the firing is written to the slot and leaves
the core with what the slot does not hold: its barrier registrations, its push counts and BSTAT. The
even core of a pair writes the slot, behind the stores of its core. -/
def State.fibreUpcall (s : State) (core slot : Nat) (l : List PagePart) (stream cause : Nat) (tval : Word) : State :=
  let c := s.core core
  let s := if c.paired && core % 2 == 1 then s
    else (s.drainAll core).writeReached { core := core, ctx := .f } l (fibreBytes c stream cause tval)
  let kept : Fibre :=
    { slot := slot, fire := c.f.fire, pages := l.map (·.pa), noticed := false, label := c.f.rstLabel, bse := c.f.holdsBse, gone := false
      bars := c.f.bars, pushes := c.f.pushes, bstat := c.sr.bstat }
  s.modCore core fun c => { c with fibres := kept :: c.fibres.filter fun k => k.slot != slot }.startUpcall slot cause tval

/-- List walks under way lose a position that no register keeps (R135). -/
def FState.dropWalks (f : FState) : FState :=
  { f with l := { f.l with walk := none }, s := { f.s with walk := none } }

/-- The values that one stream of a core has passed on. -/
def Core.passOn (c : Core) (x : Ctx) (bs : List Byte) : Core :=
  let i := ix 2 (streamNo x)
  { c with pair := { c.pair with passed := vset c.pair.passed i (c.pair.passed.get i ++ [bs]) } }

/-- The streams of a firing are held when a trap arises in it (R40); C's own offset is kept (R85). -/
def FState.hold (f : FState) (pc : Word) : FState :=
  if f.held then f else { f.dropWalks with held := true, heldPc := pc }

/-- Does a trap of F become an upcall (R40)? -/
def Context.upcalls (c : Context) (cause : Nat) : Bool :=
  c.priv == 0 && c.upe && decide (0x10 ≤ cause ∧ cause ≤ 0x12) && !c.inTrap

/-- What an upcall must await before it is taken: a walk of the fibre area. -/
def State.upcallAwaits (s : State) (core : Nat) (x : Ctx) (cause : Nat) : Option (State → State) :=
  let c := s.core core
  if c.fc.upcalls cause && !(c.paired && core % 2 == 1) then
    match s.freeFibre core x with
    | .ask f => some f
    | _ => none
  else none

/-- A trap in the F context, for F or a stream of its firing: an upcall where R40 says so, and trap
entry otherwise. -/
def State.trapF (s : State) (core : Nat) (x : Ctx) (cause : Nat) (tval : Word) : State :=
  let c := s.core core
  let entry := s.setCore core { c with
    fc := c.fc.enterTrap c.sr.tvec (c.pc x) (streamNo x) cause tval
    f := c.f.hold c.fc.pc }
  if c.fc.upcalls cause then
    if c.paired && core % 2 == 1 then
      -- the odd core of a pair takes the slot that its even core found (R367)
      let i := ix 2 (streamNo x)
      let p := s.core (partnerOf core)
      match p.pair.passed.get i with
      | [] => s
      | bs :: rest =>
        let s := s.setCore (partnerOf core) { p with pair := { p.pair with passed := vset p.pair.passed i rest } }
        if natOf bs = 0 then s.setCore core (entry.core core)
        else s.fibreUpcall core (natOf bs - 1) [] (streamNo x) cause tval
    else
      let pass (s : State) (n : Nat) : State :=
        if c.paired then s.modCore core fun c => c.passOn x (bytesOf 8 n) else s
      match s.freeFibre core x with
      | .found slot l => pass (s.fibreUpcall core slot l (streamNo x) cause tval) (slot + 1)
      | _ => pass entry 0
  else entry

/-! ## Activations (R14, R35, R362, R363) -/

/-- The registers with which an activation starts (R157, R330). -/
def Trigger.registers (t : Trigger) (c : Context) : Context :=
  match t with
  | .message i =>
    let g13 := word (i.lvlid * 2 ^ 32 + (if i.src.isNone then 256 else 0) + i.cls % 64)
    ((c.writeG 14 i.w0).writeG 15 i.w1).writeG 13 g13
  | .packet p =>
    let c := ((c.writeG 14 p.dest).writeG 13 (word p.bytes.length)).writeG 12 (word (p.ch * 2 ^ 32 + p.id))
    { c with v := ((List.range 4).foldl (fun v k =>
        vset v (ix 31 k) (vwordOf (slice p.bytes (128 * k) 128))) c.v) }

/-- The privilege and routine offset of a trigger (R156, R157, R330). -/
def Trigger.entry : Trigger → Nat × Nat
  | .message i => match i.kind with | .high t p => (p, t) | _ => (0, 0)
  | .packet p => (0, p.target)

/-- The context of an activation: H for a message, D for a packet. -/
def Trigger.ctx : Trigger → Ctx
  | .message _ => .h
  | .packet _ => .d

/-- The running activation of H or D. -/
def Core.act (c : Core) : Ctx → Option Activation
  | .h => c.hAct
  | .d => c.dAct
  | _ => none

/-- The running activation of H or D set. -/
def Core.setAct (c : Core) (x : Ctx) (a : Option Activation) : Core :=
  match x with
  | .h => { c with hAct := a }
  | .d => { c with dAct := a }
  | _ => c

/-- An activation starts (R35, R151, R157, R330). -/
def Core.startActivation (c : Core) (t : Trigger) (second : Bool) : Core :=
  let x := t.ctx
  let (priv, off) := t.entry
  let k := t.registers ((c.context x).fresh priv (word off))
  (c.setContext x k).setAct x (some { trigger := t, count := 0, out := [], second := second })

/-- The transfer of a landing packet fails with a cause (R330, R362). -/
def Core.failLanding (c : Core) (p : Packet) (cause : Nat) : Core :=
  let ch := c.jobs.chans.get (ix 3 p.ch)
  match ch.run with
  | none => c
  | some t =>
    let t := { t with landing := false, ended := true, cause := if t.cause = 0 then cause else t.cause }
    { c with jobs := { c.jobs with chans := vset c.jobs.chans (ix 3 p.ch) { ch with run := some t } } }

/-- A landing packet has been handled: the transfer's next packet may start. -/
def Core.landed (c : Core) (p : Packet) : Core :=
  let ch := c.jobs.chans.get (ix 3 p.ch)
  match ch.run with
  | none => c
  | some t =>
    let ch : Chan := { ch with run := some { t with landing := false } }
    { c with jobs := { c.jobs with chans := vset c.jobs.chans (ix 3 p.ch) ch } }

/-- The transfer of a packet fails: the transfer belongs to the core that issued it. -/
def State.failLanding (s : State) (p : Packet) (cause : Nat) : State :=
  s.modCore p.core fun c => c.failLanding p cause

/-- A context that has issued a seal is gone (R344): a seal before its cut goes with its last issuer; one that
commits runs on. -/
def CoreWaits.dropSeal (w : CoreWaits) (x : Ctx) : CoreWaits :=
  { w with sealOf := w.sealOf.bind fun v =>
      let v := { v with ctxs := v.ctxs.filter fun y => decide (y ≠ x) }
      match v.ctxs, v.phase with
      | [], .committing _ => some v
      | [], _ => none
      | _, _ => some v }

/-- An activation that ends waits for nothing. -/
def CoreWaits.endActivation (w : CoreWaits) (x : Ctx) : CoreWaits :=
  { w.dropSeal x with
    remote := w.remote.filter fun r => decide (r.ctx ≠ x)
    rcRel := w.rcRel.filter fun r => decide (r.ctx ≠ x) }

/-- The status of a message from another device (R382). -/
def State.answerSender (s : State) (i : Item) (st : RemoteStatus) : State :=
  match i.port with
  | some p => { s with fabric := { s.fabric with answers := s.fabric.answers ++ [(p, st, [])] } }
  | none => s

/-- An activation ends with everything it holds dropped (R363): a landing transfer fails with 0x2D. -/
def State.dropActivation (s : State) (core : Nat) (x : Ctx) : State :=
  let c := s.core core
  let c' : Core := { c with waits := c.waits.endActivation x }
  let s := s.setCore core ((c'.dropGated x).setAct x none)
  match c.act x with
  | some { trigger := .packet p, .. } => s.failLanding p 0x2D
  | some { trigger := .message i, .. } => s.answerSender i .ok
  | none => s

/-- An activation consumed poison (R362): it is dropped and started once more with the same trigger;
the second time its sender is told. -/
def State.poisonActivation (s : State) (core : Nat) (x : Ctx) (addr : Word) : State :=
  let c := s.core core
  match c.act x with
  | none => s
  | some a =>
    let c : Core := { c with waits := c.waits.endActivation x }
    let c := (c.dropGated x).setAct x none
    if a.second then
      let s := s.setCore core c
      match a.trigger with
      | .message i =>
        match i.src with
        | some _ => s.notifyGrid (c.ident.grid.getD 0) i.lvlid 0x31 addr
        | none => s.answerSender i .poison
      | .packet p => s.failLanding p 0x31
    else s.setCore core (c.startActivation a.trigger true)

/-- The firing that an outstanding request belongs to: none for an activation. -/
def Core.fireOf (c : Core) (x : Ctx) : Word := if x = .h ∨ x = .d then 0 else c.f.fire

/-- The remote answers of a context's present instruction have been used, or are given up. -/
def Core.dropAnswers (c : Core) (x : Ctx) : Core :=
  { c with waits := { c.waits with remote := c.waits.remote.filter fun w =>
      !(decide (w.ctx = x) && w.fire == c.fireOf x && w.pc == c.pc x) } }

/-- What the present instruction of a context still waited for is forgotten, and its failed walks; a handler
of F finds none of F's. -/
def State.forgetWaits (s : State) (core : Nat) (x : Ctx) : State :=
  let s := s.modCore core fun c => c.dropAnswers x
  let f := if x = .l ∨ x = .s then Ctx.f else x
  s.modCluster (clusterOf core) fun c =>
    { c with fails := c.fails.filter fun e => decide (e.1 ≠ .core core x) && decide (e.1 ≠ .core core f) }

/-- The outstanding requests of a firing that ends are given up; those of a firing in a fibre stay. -/
def CoreWaits.endFiring (w : CoreWaits) (fire : Word) (upcall : Bool) : CoreWaits :=
  let mine (x : Ctx) : Bool := x != .h && x != .d
  { w with
    remote := if upcall then w.remote else w.remote.filter fun r => !(mine r.ctx && r.fire == fire)
    atoms := if upcall then w.atoms else w.atoms.filter fun a => !(mine a.ctx && a.fire == fire)
    rcRel := w.rcRel.filter fun r => !mine r.ctx }

/-- A trap taken by whoever executes (R40): by F for a firing and its streams; by H or D for an
activation, except that poison restarts it (R362) and the limits of R14 and R35 end it (R363). On
an I/O core, which has no handler, a trap ends the routine (DESIGN CHOICE, log 17). -/
def takeTrap (s : State) (cause : Nat) (tval : Word) : State :=
  match s.turn with
  | .core n x =>
    let s := s.forgetWaits n x
    match x with
    | .h | .d =>
      let c := s.core n
      let k := c.context x
      if cause = 0x31 then s.poisonActivation n x tval
      else if cause = 0x0E ∨ cause = 0x0F then
        (s.setCore n (c.setContext x { k with cause := word cause, tval := tval })).dropActivation n x
      else s.setCore n (c.setContext x (k.enterTrap c.sr.tvec k.pc 0 cause tval))
    | x => s.trapF n x cause tval
  | .io d n =>
    s.modIo d n fun c => { c with
      running := false, ctx := { c.ctx with epc := c.ctx.pc, cause := word cause, tval := tval } }
  | _ => s

/-- RETK (R85): PRIV and IE come back from PP and PIE, the stream that CAUSE names resumes at EPC, and
the held streams are released. In H and D, IE reads 0 (R44). -/
def State.returnFromTrap (s : State) (core : Nat) (x : Ctx) : State :=
  let c := s.core core
  let k := c.context x
  let st := setField k.status 10 2 k.pp
  let st := setField st 5 1 (if x = .f then (flag k.status 6).toNat else 0)
  let k := { k with status := st, inTrap := false }
  let at_ := setField 0 1 15 (field k.epc 1 15)
  if x = .f then
    let f := { c.f with held := false }
    match field k.cause 8 2 with
    | 1 => s.setCore core { c with fc := { k with pc := c.f.heldPc }, f := { f with l := { f.l with pc := at_ } } }
    | 2 => s.setCore core { c with fc := { k with pc := c.f.heldPc }, f := { f with s := { f.s with pc := at_ } } }
    | _ => s.setCore core { c with fc := { k with pc := at_ }, f := f }
  else s.setCore core (c.setContext x { k with pc := at_ })

/-! ## Walks that fail (R211) -/

/-- A walk of a die ends in a failure for all its waiters, each in its own cluster. -/
def State.failWalk (s : State) (d : Nat) (t : Thread) (w : WalkFail) : State :=
  let s := s.modDie d fun x => { x with threads := x.threads.filter fun u => u.tid != t.tid }
  t.req.waiters.foldl (fun s r => s.modCluster r.cluster fun c => { c with fails := c.fails ++ [(r, t.req.va, w)] }) s

/-! ## Meanings -/

/-- How the meaning of an instruction can stop short: a trap with no effect (R32; the state where
it was found is given), a trap with an effect of the access that failed on the state before the instruction, a
trap after the effects that its description keeps, a wait (without effect, with the effects so far, or with an effect
on the state before it), or the end of the instruction in a state already complete. -/
inductive Stop where
  | trap (s : State) (cause : Nat) (tval : Word)
  | trapDo (s : State) (f : State → State) (cause : Nat) (tval : Word)
  | trapIn (s : State) (cause : Nat) (tval : Word)
  | wait
  | waitIn (s : State)
  | waitDo (f : State → State)
  | leave (s : State)
  | fault (f : Fault)

/-- A meaning: a state transformer that may stop. -/
abbrev M := StateT State (Except Stop)

/-- Stop. -/
def stop {α : Type} (e : Stop) : M α := fun _ => .error e

/-- `Signal(cause, tval)` (R31, R32). -/
def signal {α : Type} (cause : Nat) (tval : Word := 0) : M α := fun s => .error (.trap s cause tval)

/-- `Signal` after effects that stand. -/
def signalKept {α : Type} (cause : Nat) (tval : Word) : M α := fun s => .error (.trapIn s cause tval)

/-- `Signal` with an effect on the state before the instruction. -/
def signalDo {α : Type} (f : State → State) (cause : Nat) (tval : Word) : M α := fun s => .error (.trapDo s f cause tval)

/-- Wait without an effect: the instruction issues again. -/
def wait {α : Type} : M α := stop .wait

/-- Wait after effects that stand. -/
def waitKept {α : Type} : M α := fun s => .error (.waitIn s)

/-- Wait, with an effect on the state before the instruction. -/
def waitDo {α : Type} (f : State → State) : M α := stop (.waitDo f)

/-- The state is complete: nothing more is retired. -/
def leave {α : Type} : M α := fun s => .error (.leave s)

/-- Signal unless a check holds. -/
def require (ok : Bool) (cause : Nat) (tval : Word := 0) : M Unit :=
  if ok then pure () else signal cause tval

/-- Wait while a condition holds. -/
def waitWhile (c : Bool) : M Unit := if c then wait else pure ()

/-- The state changed. -/
def update (f : State → State) : M Unit := modify f

/-- A part of the state read. -/
def ask {α : Type} (f : State → α) : M α := fun s => .ok (f s, s)

/-- The core and context that execute. -/
def self : M (Nat × Ctx) := fun s =>
  match s.turn with
  | .core n x => .ok ((n, x), s)
  | _ => .error (.fault .noContext)

/-- Bytes that a fingerprint covers are noted while paired checking is active (R368). -/
def State.note (s : State) (core : Nat) (x : Ctx) (bs : List Byte) : State :=
  let c := s.core core
  if c.paired && x != .h && x != .d then
    let i := ix 2 (streamNo x)
    s.setCore core { c with pair := { c.pair with
      bytes := vset c.pair.bytes i (c.pair.bytes.get i ++ bs) } }
  else s

/-- Noting for whoever executes. -/
def State.noteHere (s : State) (bs : List Byte) : State :=
  match s.turn with
  | .core n x => s.note n x bs
  | _ => s

/-- A general register read. -/
def getG (r : Reg) : M Word := ask fun s => s.readG r

/-- A general register written (R36), noted for the fingerprint (R368). -/
def setG (r : Reg) (v : Word) : M Unit :=
  update fun s => (s.writeG r v).noteHere (if r.val = 0 then [] else bytesOf 8 v.toNat)

/-- Has a core of a pair retired anything in its open interval (R368)? -/
def Core.intervalOpen (c : Core) : Bool := c.paired && c.pair.retired.toList.any (· != 0)

/-- PAIRCTL.WAIT: the interval is closed and awaits the partner (R370); the stream whose operation
closed it comes first afterwards. -/
def Core.closeInterval (c : Core) (closer : Option Ctx) : Core :=
  { c with pair := { c.pair with ctl := setField c.pair.ctl 2 1 1, closer := closer } }

/-- A new interval of a pair starts from the state as it stands (R368). -/
def Core.openInterval (c : Core) : Core :=
  { c with pair := { c.pair with
      ctl := setField c.pair.ctl 2 1 0
      start := some { fc := c.fc, f := c.f }
      retired := Vector.replicate 3 0
      bytes := Vector.replicate 3 []
      closer := none } }

/-- An instruction of a firing counts towards its pair's interval (R368): the 1,024th of F closes it.
An operation that closed the interval before it ran (`start = none`) opens the next one. -/
def Core.countPaired (c : Core) (x : Ctx) : Core :=
  if !c.paired || x == .h || x == .d then c
  else if c.pair.start.isNone then c.openInterval
  else
    let i := ix 2 (streamNo x)
    let n := c.pair.retired.get i + 1
    let c : Core := { c with pair := { c.pair with retired := vset c.pair.retired i n } }
    if x = .f ∧ 1024 ≤ n then c.closeInterval none else c

/-- An instruction of an activation counts towards its limit outside trap handlers (R35). -/
def Core.countActivation (c : Core) (x : Ctx) : Core :=
  match c.act x with
  | some a => if (c.context x).inTrap then c else c.setAct x (some { a with count := a.count + 1 })
  | none => c

/-- The end of an instruction that ran: the offset moves on, and the instruction counts towards an
activation's limit (R35), a pair's interval (R368) and a walk's limit (R211). -/
def State.retire (s : State) (next : Word) : State :=
  match s.turn with
  | .core n x =>
    State.modCore ((s.modCore n fun c => c.dropAnswers x).setPc next) n fun c => (c.countActivation x).countPaired x
  | .walker d t => (s.setPc next).setThread d t fun th => { th with count := th.count + 1 }
  | _ => s.setPc next

/-- A trap taken by whoever executes. A trap of a firing closes the interval of a pair first (R368):
its instruction issues again once the pair has agreed; it issues again too where an upcall must first await a walk
of the fibre area. A trap in a walk fails the walk (R211). -/
def State.trapTurn (s : State) (cause : Nat) (tval : Word) : State :=
  match s.turn with
  | .walker d t =>
    match s.thread d t with
    | some th => s.failWalk d th .routine
    | none => s
  | .core n x =>
    if (s.core n).intervalOpen && x != .h && x != .d then s.modCore n fun c => c.closeInterval (some x)
    else
      match (if x = .h ∨ x = .d then none else s.upcallAwaits n x cause) with
      | some f => f s
      | none =>
        (takeTrap s cause tval).modCore n fun c => if c.paired && x != .h && x != .d then c.openInterval else c
  | _ => takeTrap s cause tval

/-- Does a trap only close the interval of a pair, so that its instruction issues again (R368)? -/
def State.trapDelayed (s : State) : Bool :=
  match s.turn with
  | .core n x => (s.core n).intervalOpen && inFiring x
  | _ => false

/-- The values that the cores of a pair have passed on and taken up to a trap: both cores reach the same trap
(R367). With the interval open the instruction issues again, and passes them on anew. -/
def State.keepPassed (s t : State) : State :=
  match s.turn with
  | .core n _ =>
    if (s.core n).paired && !(s.core n).intervalOpen then
      let keep (s : State) (k : Nat) : State :=
        s.modCore k fun c => { c with pair := { c.pair with passed := (t.core k).pair.passed } }
      keep (keep s n) (partnerOf n)
    else s
  | _ => s

/-- A trap after effects that stand: trap entry closes the interval of a pair (R368). -/
def State.trapKept (s : State) (cause : Nat) (tval : Word) : State :=
  match s.turn with
  | .core n x =>
    (takeTrap s cause tval).modCore n fun c =>
      if !c.paired || x == .h || x == .d then c
      else if c.intervalOpen then c.closeInterval none
      else c.openInterval
  | _ => s.trapTurn cause tval

/-- The outcome of a meaning at a state: its state where it ran (with the offset it gives next), a trap
taken from the state before it (R32), the same state where it waits. -/
def runMeaning (m : M Word) (s : State) : Host.Outcome State Fault Refusal :=
  match s.turn with
  | .env => .fault .noContext
  | _ =>
    match m s with
    | .ok (next, t) => .next (t.retire next)
    | .error (.trap t cause tval) => .next ((s.keepPassed t).trapTurn cause tval)
    | .error (.trapDo t f cause tval) =>
      .next (if s.trapDelayed then s.trapTurn cause tval else (f (s.keepPassed t)).trapTurn cause tval)
    | .error (.trapIn t cause tval) => .next (t.trapKept cause tval)
    | .error .wait => .next s
    | .error (.waitIn t) => .next t
    | .error (.waitDo f) => .next (f s)
    | .error (.leave t) => .next t
    | .error (.fault f) => .fault f

end Sys2Proof.Machine
end

