-- ==== Sys2Proof/Machine/Flags.lean ====
section
/-! DEFINITION. Every flag computation: the sticky flags of FPSTAT (R98, R99), the effective rounding
mode (R100, R41), stochastic draws (R101, R102), and the range trap of RNS3 (R108). -/

namespace Sys2Proof.Machine

/-- The context of whoever executes, changed: F's for the streams of a firing (R98). -/
def State.modContext (s : State) (f : Context → Context) : State :=
  match s.turn with
  | .core n x => s.modCore n fun c => c.modContext x f
  | .io d n => s.modIo d n fun c => { c with ctx := f c.ctx }
  | _ => s

/-- Flags ORed into FPSTAT (R98). -/
def Context.addFlags (c : Context) (fl : Nat) : Context := { c with fpstat := c.fpstat ||| word fl }

/-- `SetFlag` for a set of flags: the context that executes keeps them (R98). -/
def setFlags (fl : Nat) : M Unit :=
  if fl = 0 then pure () else update fun s => s.modContext fun c => c.addFlags fl

/-- The code of a rounding field (R20). -/
def rndCode : Rnd → Nat
  | .rne => 0 | .rtz => 1 | .rdn => 2 | .rup => 3 | .rna => 4 | .sr => 5 | .dyn => 7

/-- The effective mode of a rounding field: FRM.MODE under `.dyn` (R100). -/
def modeOf (r : Rnd) (c : Context) : Nat :=
  match r with
  | .dyn => field c.frm 0 3
  | r => rndCode r

/-- The effective rounding mode; mode 5 in H or D raises 0x01 (R41). -/
def roundingMode (r : Rnd) : M Nat := do
  let c ← ask State.context
  let (_, x) ← self
  let m := modeOf r c
  require (m != 5 || (x != .h && x != .d)) 0x01
  pure m

/-- SRSEED of the core that executes (R101). -/
def getSeed : M Word := do
  let (n, _) ← self
  ask fun s => (s.core n).f.srseed

/-- SRSEED of the core that executes, set. -/
def setSeed (x : Word) : M Unit := do
  let (n, _) ← self
  update fun s => s.modCore n fun c => { c with f := { c.f with srseed := x } }

/-- A range hint found in a conversion out of RNS3: 0x3A under STATUS.RNGE with the index as TVAL, and
otherwise FPSTAT.RNG (R44, R108). -/
def rangeCheck (hinted : Option Nat) : M Unit := do
  match hinted with
  | none => pure ()
  | some i => do
    let c ← ask State.context
    require (!c.rnge) 0x3A (word i)
    setFlags fRNG

end Sys2Proof.Machine
end

