-- ==== Sys2Proof/Machine/Operands.lean ====
section
/-! DEFINITION. Every operand form: where an instruction may run (R64), the register files of a context
(R36), memory addresses (R77, R111), vector registers and queue entries as sources and
destinations (R37, R38, R109), masks and elements (R31, R91, R109). -/

namespace Sys2Proof.Machine

/-! ## Placement (R64) -/

/-- The groups of R64. -/
inductive Group where
  | scalar | fend | bqe | fence | recovery | syscall | system | srRead | srWrite | vector
  | queueOp | lstr | sstr | send | barrier | launch | engine | walk
  deriving DecidableEq, Repr

/-- The cause with which a place refuses a group, where it does (R64). -/
def Group.refused (g : Group) : Turn → Option Nat
  | .env => none
  | .io _ _ => if g = .scalar ∨ g = .fend then none else some 0x01
  | .walker _ _ => if g = .scalar ∨ g = .fence ∨ g = .walk then none else some 0x18
  | .core _ x =>
    match g with
    | .scalar | .fend | .fence | .syscall | .srRead => none
    | .bqe | .queueOp => if x = .h ∨ x = .d then some 0x0A else none
    | .recovery | .system | .srWrite | .vector => if x = .l ∨ x = .s then some 0x01 else none
    | .lstr => if x = .l then none else some 0x01
    | .sstr => if x = .s then none else some 0x01
    | .send => if x = .f ∨ x = .h then none else some 0x01
    | .barrier => if x = .f then none else if x = .h then some 0x1E else some 0x01
    | .launch | .engine => if x = .f then none else some 0x01
    | .walk => some 0x01

/-- General registers that a place may name: all 32 in F and on an I/O core, `g0` to `g15` elsewhere
(R33, R36, R211). -/
def fileSize : Turn → Nat
  | .core _ .f => 32
  | .io _ _ => 32
  | _ => 16

/-- Does a place hold the named general registers? -/
def holds (t : Turn) (rs : List Reg) : Bool := rs.all fun r => decide (r.val < fileSize t)

/-- The checks that come first: placement, the ord code, the register files (R65). -/
def startOrd (g : Group) (ordOk : Bool) (rs : List Reg) : M Unit := do
  let t ← ask State.turn
  match g.refused t with
  | some c => signal c
  | none => do
    require ordOk 0x1D
    require (holds t rs) 0x01

/-- The checks that come first, where no ord code is named. -/
def start (g : Group) (rs : List Reg) : M Unit := startOrd g true rs

/-- The offset after an instruction of `len` bytes. -/
def after (len : Nat) (m : M Unit) : M Word := do
  m
  ask fun s => s.pc + word len

/-- A privilege that U lacks: 0x02 (R85, R89, R90). -/
def privileged : M Unit := do
  let p ← ask State.priv
  require (p != 0) 0x02

/-! ## Addresses (R77, R111) -/

/-- Base plus a scaled immediate of 9 bits, modulo 2^64. -/
def rlAddress (base : Word) (i : BitVec 9) (n : Nat) : Word := base + sext i * word n

/-- Base plus a byte offset of 32 bits, modulo 2^64. -/
def xlAddress (base : Word) (off : BitVec 32) : Word := base + sext off

/-- Offset plus twice a signed halfword count (R55, R72). -/
def codeTarget {n : Nat} (pc : Word) (o : BitVec n) : Word := pc + 2 * sext o

/-! ## Elements and masks (R31, R91) -/

/-- Element `i` of width `w` in a value. -/
def elem (v w i : Nat) : Nat := v / 2 ^ (i * w) % 2 ^ w

/-- A value of elements of width `w`, lowest first. -/
def packElems (w : Nat) : List Nat → Nat
  | [] => 0
  | x :: xs => x % 2 ^ w + 2 ^ w * packElems w xs

/-- `Active(k, i, f)`: the mask bit at the lowest byte of element `i` of width `w`. -/
def active (k : KWord) (w i : Nat) : Bool := k.getLsbD (i * w / 8)

/-- A mask register of F: `k0` reads as all ones (R36). -/
def FState.readK (f : FState) (k : KReg) : KWord := if k.val = 0 then BitVec.allOnes 128 else f.k.get k

/-- The mask of an instruction; in D a nonzero k field raises 0x01 (R109). -/
def getMask (k : KReg) : M KWord := do
  let (n, x) ← self
  require (x != .d || k == 0) 0x01
  ask fun s => (s.core n).f.readK k

/-- A mask register written, in F: `k0` raises 0x01 (R36). -/
def setMask (k : KReg) (v : KWord) : M Unit := do
  let (n, x) ← self
  require (x == .f && k != 0) 0x01
  update fun s => (s.modCore n fun c => { c with f := { c.f with k := vset c.f.k k v } }).noteHere
    (bytesOf 16 v.toNat)

/-! ## Queues (R37, R38) -/

/-- The stream that reads a queue. -/
def reader (q : QReg) : Ctx :=
  if q.val < 4 ∨ q.val = 6 then .f else if q.val < 6 then .s else .l

/-- The stream that writes a queue. -/
def writer (q : QReg) : Ctx :=
  if q.val < 4 then .l else if q.val = 6 then .s else .f

/-- A queue of the core that executes. -/
def getQueue (q : QReg) : M (List QEntry) := do
  let (n, _) ← self
  ask fun s => (s.core n).f.q.get q

/-- A queue of a core set: whoever waited on a queue looks again. -/
def Core.setQueue (c : Core) (q : QReg) (l : List QEntry) : Core :=
  { c with f := { c.f with q := vset c.f.q q l, stalls := Vector.replicate 3 none } }

/-- The executing stream waits on a queue with its present instruction (R153). -/
def State.markStall (s : State) : State :=
  match s.turn with
  | .core n x => s.modCore n fun c => { c with f := { c.f with stalls := vset c.f.stalls (ix 2 (streamNo x)) (some (c.pc x)) } }
  | _ => s

/-- The wait of a pop or a push. -/
def queueStall {α : Type} : M α := waitDo State.markStall

/-- Wait on a queue while a condition holds. -/
def stallWhile (c : Bool) : M Unit := if c then queueStall else pure ()

/-- The head of a queue removed. -/
def popQueue (q : QReg) : M Unit := do
  let (n, _) ← self
  update fun s => s.modCore n fun c => c.setQueue q (c.f.q.get q).tail

/-- A push of the C-stream is a release at core scope (R144): the stores of its core leave the store buffer, in
which the other streams do not see them. The stores of the other streams never stand there unseen. -/
def releaseToStreams : M Unit := do
  let (n, x) ← self
  if x = .f then do
    update fun s => s.drainAll n
    let left ← ask fun s => (s.core n).mem.buffer
    if left.isEmpty then pure () else waitDo fun s => s.drainAll n
  else pure ()

/-- An entry pushed, noted for the fingerprint (R368), after the release of the pushing stream (R144). -/
def pushQueue (q : QReg) (e : QEntry) : M Unit := do
  releaseToStreams
  let (n, _) ← self
  let bytes : List Byte :=
    match e with
    | .data v => bytesOfV v ++ [0]
    | .mark => bytesOf 128 0 ++ [1]
  update fun s => (s.modCore n fun c => c.setQueue q (c.f.q.get q ++ [e])).noteHere bytes

/-- Wait until a queue has room (R38). -/
def waitRoom (q : QReg) : M Unit := do
  let l ← getQueue q
  stallWhile (decide (8 ≤ l.length))

/-! ## Vector operands (R109, R110) -/

/-- A vector field: a vector register, or under Q a queue (R50, R60). -/
inductive VField where
  | reg (r : Reg)
  | queue (q : QReg)
  deriving DecidableEq, Repr

/-- A vector field read: 24 to 31 name queues under Q. -/
def vfield (q : Bool) (r : Reg) : VField :=
  if q ∧ 24 ≤ r.val then .queue (ix 7 (r.val - 24)) else .reg r

/-- Vector registers of a context (R36). -/
def vectorFile : Ctx → Nat
  | .f => 32
  | .h => 8
  | .d => 4
  | _ => 0

/-- The register-file check of a vector field. -/
def VField.inFile (f : VField) (x : Ctx) : Bool :=
  match f with
  | .reg r => decide (r.val < vectorFile x)
  | .queue _ => true

/-- The direction check of a source. -/
def VField.poppable (f : VField) (x : Ctx) : Bool :=
  match f with
  | .reg _ => true
  | .queue q => x == .f && reader q == .f

/-- The direction check of a destination. -/
def VField.pushable (f : VField) (x : Ctx) : Bool :=
  match f with
  | .reg _ => true
  | .queue q => x == .f && writer q == .f

/-- Is a field a queue? -/
def VField.isQueue : VField → Bool
  | .queue _ => true
  | .reg _ => false

/-- The register checks of a vector instruction, then its queue directions (R65, R110). -/
def checkVector (srcs dst : List VField) : M Unit := do
  let (_, x) ← self
  require ((srcs ++ dst).all (·.inFile x)) 0x01
  require (srcs.all (·.poppable x) && dst.all (·.pushable x)) 0x0A

/-- Occurrences of a queue among sources. -/
def countQueue (srcs : List VField) (q : QReg) : Nat := (srcs.filter (· == .queue q)).length

/-- The wait of R109: every source queue holds what is popped, every destination queue has room. -/
def waitVector (srcs dst : List VField) : M Unit := do
  let (n, _) ← self
  let qs ← ask fun s => (s.core n).f.q
  let ready := (List.finRange 8).all fun q => decide (countQueue srcs q ≤ (qs.get q).length)
  let room := dst.all fun d =>
    match d with
    | .queue q => decide ((qs.get q).length < 8)
    | .reg _ => true
  stallWhile (!(ready && room))

/-- The `i`-th popped entry of a queue must be data: a mark raises 0x08 and stays (R38, R110). -/
def checkMarks (srcs : List VField) : M Unit := do
  let (n, _) ← self
  let qs ← ask fun s => (s.core n).f.q
  let bad := (List.finRange 8).any fun q =>
    ((qs.get q).take (countQueue srcs q)).any fun e => decide (e = .mark)
  require (!bad) 0x08

/-- The data of an entry. -/
def QEntry.bits : QEntry → VWord
  | .data v => v
  | .mark => 0

/-- One source read: a register, or the head of its queue, which is popped. -/
def takeSource (f : VField) : M VWord := do
  let (n, x) ← self
  match f with
  | .reg r => ask fun s => ((s.core n).context x).v.get r
  | .queue q => do
    let l ← getQueue q
    popQueue q
    pure ((l.head?.map QEntry.bits).getD 0)

/-- The sources of a vector instruction, popped in order (R109). -/
def takeSources : List VField → M (List VWord)
  | [] => pure []
  | f :: fs => do
    let v ← takeSource f
    let vs ← takeSources fs
    pure (v :: vs)

/-- The checks, the wait and the sources of a vector instruction that names memory not at all. -/
def vectorSources (srcs dst : List VField) : M (List VWord) := do
  checkVector srcs dst
  waitVector srcs dst
  checkMarks srcs
  takeSources srcs

/-- The old value that inactive elements of a destination keep: 0 in a queue entry (R109). -/
def oldValue (f : VField) : M VWord := do
  let (n, x) ← self
  match f with
  | .reg r => ask fun s => ((s.core n).context x).v.get r
  | .queue _ => pure 0

/-- A vector register of a context written. -/
def Context.writeV (c : Context) (r : Reg) (v : VWord) : Context := { c with v := vset c.v r v }

/-- The result of a vector instruction: a register, or an entry pushed (R109). -/
def putVector (f : VField) (v : VWord) : M Unit := do
  let (n, x) ← self
  match f with
  | .reg r => update fun s =>
      (s.modCore n fun c => c.modContext x fun k => k.writeV r v).noteHere (bytesOfV v)
  | .queue q => pushQueue q (.data v)

end Sys2Proof.Machine
end

