-- ==== Sys2Proof/Machine/Access.lean ====
section
/-! DEFINITION. Access to memory: the checks of R78, slots and alias windows (R191 to R199),
reads, writes, ordering (R79, R227 to R233), pairs
(R367), and remote accesses (R225). -/

namespace Sys2Proof.Machine

/-- A request to a die under reset is held (R366, R224); whether it waits beyond the remote timeout, which raises
0x37, is free. -/
def heldByReset {α : Type} (tval : Word) : M α := fun s =>
  if Config.freeIndex s.fresh % 2 = 0 then .error (.waitDo fun s => s.draw.2)
  else .error (.trapDo s (fun s => s.draw.2) 0x37 tval)

/-- Check 6 for one page: the spot of its first byte, or the trap or wait that it leads to. -/
def locate (v : Viewer) (store : Bool) (va : Nat) : M Spot := do
  let s ← get
  match s.spot v store va with
  | .bad c => signal c (word va)
  | .refused p => signalDo (fun s => s.forgetRefusal v.who p) 0x38 (word va)
  | .miss => waitDo fun s => s.requestWalk v store va
  | .moving => wait
  | .away p => waitDo fun s => s.askPage v.who p
  | .shut => heldByReset (word va)
  | sp => pure sp

/-- A run of bytes of an access within one page: its offset in the access, its length, its spot. -/
structure Piece where
  off  : Nat
  len  : Nat
  spot : Spot
  deriving DecidableEq, Repr

/-- Check 6 for every page of an access, lowest first (R78). An access touches at most two pages of
4 KiB; larger pages answer alike for both parts. -/
def locateAll (v : Viewer) (store : Bool) (va n : Nat) : M (List Piece) := do
  let k := 4096 - va % 4096
  if n ≤ k then
    let a ← locate v store va
    pure [{ off := 0, len := n, spot := a }]
  else
    let a ← locate v store va
    let b ← locate v store (va + k)
    pure [{ off := 0, len := k, spot := a }, { off := k, len := n - k, spot := b }]

/-! ## Claims, poison, reading -/

/-- Does a run of `n` bytes from a place touch a claimed line (R233)? -/
def State.anyClaimed (s : State) (p : Place) (n : Nat) : Bool :=
  (List.range (n / 128 + 1)).any (fun i => s.claimed (p.add (Nat.min (128 * i) (n - 1)))) || s.claimed (p.add (n - 1))

/-- Does a piece touch a claimed line? -/
def Piece.claimed (p : Piece) (s : State) : Bool :=
  match p.spot with
  | .at_ q _ _ => s.anyClaimed q p.len
  | .remote pa => s.anyClaimed (.mem pa) p.len
  | _ => false

/-- An access to a claimed line waits until the engine has finished it (R233). -/
def waitClaims (ps : List Piece) : M Unit := do
  let s ← get
  waitWhile (ps.any fun p => p.claimed s)

/-- The offset of the lowest poisoned byte of a piece as a context reads it (R361). -/
def Piece.poisonedAt (p : Piece) (s : State) (n : Nat) (x : Ctx) : Option Nat :=
  match p.spot with
  | .at_ q _ _ => ((List.range p.len).find? fun i => s.bytePoisoned n x (q.add i)).map (p.off + ·)
  | _ => none

/-- Check 7 of R78: poisoned data raises 0x31. -/
def checkPoison (va : Nat) (ps : List Piece) : M Unit := do
  let (n, x) ← self
  let s ← get
  match ps.findSome? fun p => p.poisonedAt s n x with
  | some i => signal 0x31 (word (va + i))
  | none => pure ()

/-- The cause of a status (R382, R378). -/
def remoteCause : RemoteStatus → Option Nat
  | .ok => none
  | .key => some 0x17
  | .perm => some 0x13
  | .notgt b => some (if b then 0x1F else 0x1B)
  | .poison => some 0x31
  | .busy => some 0x38
  | .linkDown => some 0x36
  | .timeout => some 0x37

/-- A request of this context to an endpoint and its answer (R225, R378, R382): it is sent once, and
the instruction waits. -/
def askRemote (endpoint line : Nat) (kind : RemoteKind) (tval : Word) : M (List Byte) := do
  let (n, x) ← self
  let s ← get
  let fire := (s.core n).fireOf x
  match (s.core n).waits.remote.find? fun w =>
      decide (w.ctx = x ∧ w.fire = fire ∧ w.pc = s.pc ∧ w.endpoint = endpoint ∧ w.kind = kind) with
  | some { answer := some (st, data), .. } =>
    match remoteCause st with
    | none => pure data
    | some c => signal c tval
  | some _ => wait
  | none =>
    match s.remoteRefused n endpoint with
    | some c => signal c tval
    | none => waitDo fun s =>
        let w : RemoteWait :=
          { ctx := x, fire := fire, pc := s.pc, id := s.fabric.nextReq, endpoint := endpoint, kind := kind, answer := none }
        let s := s.modCore n fun c => { c with waits := { c.waits with remote := c.waits.remote ++ [w] } }
        s.sendRemote { core := n, ctx := x } endpoint line kind false

/-- A remote access: the endpoint and offset of the address (R377). -/
def accessRemote (pa : Nat) (kind : Nat → RemoteKind) (tval : Word) : M (List Byte) :=
  askRemote (endpointOf pa).1 (pa / 128) (kind (endpointOf pa).2) tval

/-- May a die's RDC hold the lines of the endpoint of an address (R378, R386)? -/
def State.cacheable (s : State) (d pa : Nat) : Bool := flag ((sget (s.die d).routes (endpointOf pa).1).getD 0) 29

/-- A line of another endpoint that a load has brought in: whether the RDC keeps it is free (R399). -/
def State.keepHostLine (s : State) (d line : Nat) (bs : List Byte) : State :=
  let (k, s) := s.draw
  if Config.rdcKeeps k then s.putRdc d line { bytes := vwordOf bs, dirty := [], poison := [] } else s

/-- Bytes of a line of another endpoint that the RDC may hold (R386): from the RDC, or with the whole line. -/
def readHostLine (d pa len : Nat) (va : Word) : M (List Byte) := do
  let s ← get
  match sget (s.die d).rdc (pa / 128) with
  | some l => pure ((List.range len).map fun i => vbyte l.bytes (pa % 128 + i))
  | none => do
    let bs ← accessRemote (pa / 128 * 128) (fun o => .read o 128) va
    update fun s => s.keepHostLine d (pa / 128) bs
    pure (slice bs (pa % 128) len)

/-- The bytes of one piece as the context reads them. -/
def readPiece (va : Nat) (p : Piece) : M (List Byte) := do
  let (n, x) ← self
  match p.spot with
  | .at_ q _ _ => ask fun s => (List.range p.len).map fun i => s.readByte n x (q.add i)
  | .remote pa => do
    let s ← get
    if s.cacheable (dieOf n) pa && decide (pa % 128 + p.len ≤ 128) then
      readHostLine (dieOf n) pa p.len (word (va + p.off))
    else do
      let bs ← accessRemote pa (fun o => .read o p.len) (word (va + p.off))
      pure (slice bs 0 p.len)
  | _ => pure (bytesOf p.len 0)

/-- The bytes of all pieces. -/
def readPieces (va : Nat) : List Piece → M (List Byte)
  | [] => pure []
  | p :: ps => do
    let a ← readPiece va p
    let b ← readPieces va ps
    pure (a ++ b)

/-! ## What a load leaves in caches (R203, R205, R222) -/

/-- The way of an L1 set that a new line replaces is the oldest (DESIGN CHOICE, log 20). -/
def l1Insert (l1 : List (Nat × Nat × Nat × Nat)) (e : Nat × Nat × Nat × Nat) : List (Nat × Nat × Nat × Nat) :=
  let same := l1.filter fun p => p.1 == e.1 && p.2.1 % 128 == e.2.1 % 128
  if same.length < 4 then l1 ++ [e]
  else
    match same.head? with
    | some old => l1.erase old ++ [e]
    | none => l1 ++ [e]

/-- A tag enters a cache of a place that holds `cap` lines; a full one loses its oldest (log 20). -/
def insertTag (tags : List (Nat × Nat)) (cap : Nat) (k : Nat × Nat) : List (Nat × Nat) :=
  if tags.contains k then tags
  else
    let mine := tags.filter fun e => e.1 == k.1
    (if cap ≤ mine.length then match mine.head? with | some old => tags.erase old | none => tags else tags) ++ [k]

/-- Lines of a cluster cache: 2 MiB (R17). -/
def clusterLines : Nat := 16384

/-- Lines of the L2 of a die: 64 MiB (R17). -/
def l2Lines : Nat := 524288

/-- A line enters the L2 of its home die. -/
def State.fillL2 (s : State) (pa : Nat) : State :=
  { s with caches := { s.caches with l2 := insertTag s.caches.l2 l2Lines (homeDie pa, pa / 128) } }

/-- A line of a core's own die enters its cluster's cache, and the L2 (R203). -/
def State.fillCluster (s : State) (n pa : Nat) : State :=
  let s := s.fillL2 pa
  if homeDie pa ≠ dieOf n then s
  else { s with caches := { s.caches with cluster := insertTag s.caches.cluster clusterLines (clusterOf n, pa / 128) } }

/-- A line fills the L1 of a core under a virtual address; an alias held in the cluster's L1s goes
first (R205). -/
def State.fillL1 (s : State) (n va asid pa : Nat) : State :=
  let tag := (n, va / 128, asid, pa / 128)
  if s.caches.l1.contains tag then s
  else
    let l1 := s.caches.l1.filter fun p =>
      !(clusterOf p.1 == clusterOf n && p.2.2.2 == pa / 128 && (p.2.1 != va / 128 || p.2.2.1 != asid))
    { s with caches := { s.caches with l1 := l1Insert l1 tag } }

/-- An access of a cluster to a line of its own die, in the predictor (R222): another cluster's access
restarts a run of far atomics; a store or a near atomic takes ownership. -/
def predictAccess (cluster : Nat) (owns : Bool) (within : Bool) (p : Predict) : Predict :=
  if p.far then (if p.runOf ≠ cluster then { p with run := 0, runOf := cluster } else p)
  else if !owns then p
  else if p.owner = some cluster then p
  else
    let t := if p.owner.isNone then 0 else p.transfers + 1
    if 3 ≤ t && within then { far := true, transfers := 0, owner := none, runOf := cluster, run := 0 }
    else { p with owner := some cluster, transfers := if 3 ≤ t then 2 else t }

/-- A line that no atomic or store has touched. -/
def Predict.fresh : Predict := { far := false, transfers := 0, owner := none, runOf := 0, run := 0 }

/-- The predictor entry of a line, where the directory of its home still tracks it: whether it has been evicted
since, which returns the line to NEAR, is free (R222). -/
def State.predictor (s : State) (pa : Nat) : Option Predict × State :=
  match sget (s.die (homeDie pa)).predict (pa / 128) with
  | none => (none, s)
  | some p =>
    let (k, s) := s.draw
    (if Config.directoryEvicts k then none else some p, s)

/-- The predictor entry of a line set, or dropped. -/
def State.setPredict (s : State) (pa : Nat) (p : Option Predict) : State :=
  s.modDie (homeDie pa) fun x => { x with predict :=
    match p with
    | some p => sset x.predict (pa / 128) p
    | none => sdel x.predict (pa / 128) }

/-- The predictor of a line after an access (R222). An access from another die restarts a run and takes no
ownership. Whether three transfers lie within 1 µs is free. -/
def State.predictLine (s : State) (n pa : Nat) (owns : Bool) : State :=
  if isFabric pa then s
  else
    let owns := owns && homeDie pa == dieOf n
    if !owns && (sget (s.die (homeDie pa)).predict (pa / 128)).isNone then s
    else
      let (old, s) := s.predictor pa
      let (k, s) := s.draw
      let p := predictAccess (clusterOf n) owns (Config.withinMicrosecond k) (old.getD Predict.fresh)
      s.setPredict pa (if old.isNone && !owns then none else some p)

/-- What a load of a piece leaves behind: the RDC may keep the line of a cacheable page that is no RC page (R203),
the L2, the cluster cache and the L1 are filled. -/
def State.leaveTraces (s : State) (v : Viewer) (va : Nat) (p : Piece) : State :=
  match p.spot with
  | .at_ (.mem pa) rc uncached =>
    let s :=
      if rc || uncached then s
      else (s.touchRdc (dieOf v.core) pa).touchRdc (dieOf v.core) (pa + p.len - 1)
    let s := s.predictLine v.core pa false
    if uncached then s else (s.fillCluster v.core pa).fillL1 v.core (va + p.off) (field v.asid 0 16) pa
  | _ => s

/-! ## Pairs (R367) -/

/-- Does an access go to the scratchpad of the executing core, for a pair to that of its even core (R367)? -/
def State.ownSlot (s : State) (v : Viewer) (va : Nat) : Bool :=
  inScratch va &&
    match s.slotCore v (slotOf va).1 with
    | .ok n => n == (if (s.core v.core).paired then evenOf v.core else v.core)
    | .error _ => false

/-- What the even core passes on: data, or the trap that the operation raised. -/
def passedData (bs : List Byte) : List Byte := 0 :: bs
/-- A trap passed on. -/
def passedTrap (cause : Nat) (tval : Word) : List Byte := 1 :: BitVec.ofNat 8 cause :: bytesOf 8 tval.toNat

/-- A value that the even core of a pair obtains and passes on (R367). A trap closes the interval first
(R368), and then reaches both cores. -/
def obtain_ (n : Nat) (x : Ctx) (m : M (List Byte)) : M (List Byte) := fun s =>
  let pass (bs : List Byte) (t : State) : State := t.modCore n fun c => c.passOn x bs
  match m s with
  | .ok (bs, t) => .ok (bs, pass (passedData bs) t)
  | .error (.trap t c v) => .error (.trap (pass (passedTrap c v) t) c v)
  | .error (.trapDo t f c v) => .error (.trapDo (pass (passedTrap c v) t) f c v)
  | .error (.trapIn t c v) => .error (.trapIn (pass (passedTrap c v) t) c v)
  | .error e => .error e

/-- A value that the odd core of a pair takes, in the order in which it was passed on (R367). -/
def takePassed (n : Nat) (x : Ctx) : M (List Byte) := fun s =>
  let i := ix 2 (streamNo x)
  let p := s.core (partnerOf n)
  match p.pair.passed.get i with
  | [] => .error .wait
  | e :: rest =>
    let s := s.setCore (partnerOf n) { p with pair := { p.pair with passed := vset p.pair.passed i rest } }
    match e with
    | 1 :: c :: v => .error (.trap s c.toNat (word (natOf v)))
    | _ => .ok (e.tail, s)

/-- A value from outside the pair (R367): the even core obtains it and passes it on. An activation, and
a core that is not paired, obtains its own. -/
def external (m : M (List Byte)) : M (List Byte) := do
  let (n, x) ← self
  let c ← ask fun s => s.core n
  if !c.paired || x == .h || x == .d then m
  else if n % 2 = 0 then obtain_ n x m
  else takePassed n x

/-- An operation that closes the interval of a pair (R367): once the pair has agreed, the even core
performs it, both receive its result, and the next interval opens after it. -/
def closing (m : M (List Byte)) : M (List Byte) := do
  let (n, x) ← self
  let c ← ask fun s => s.core n
  if !c.paired || x == .h || x == .d then m
  else if c.intervalOpen then waitDo fun s => s.modCore n fun c => c.closeInterval (some x)
  else
    let bs ← external m
    update fun s => s.modCore n fun c => { c with pair := { c.pair with start := none } }
    pure bs

/-! ## Ordering (R79, R224, R230, R232) -/

/-- The code of a scope (R20). -/
def scopeNo : Scope → Nat
  | .co => 0 | .cl => 1 | .di => 2 | .dv => 3 | .sy => 4 | .rc => 5

/-- Does an activation of a context run outside every pair and firing? -/
def isActivation (x : Ctx) : Bool := !inFiring x

/-- Does a release of a context still await gated stores of its pair's interval (R230, R232)? Within the core they
are seen by forwarding. -/
def Core.gatedAhead (c : Core) (x : Ctx) (sc : Scope) : Bool :=
  c.paired && inFiring x && decide (1 ≤ scopeNo sc) &&
    c.mem.gate.any fun e => e.interval && inFiring e.ctx && (x == .f || e.ctx == x)

/-- Does a release of a context still await stores (R230, R232): of its core in the store buffer, for the L-stream and
the S-stream their own alone, and from die scope on those on their way to other endpoints? -/
def State.storesAhead (s : State) (n : Nat) (x : Ctx) (sc : Scope) : Bool :=
  let mine (y : Ctx) : Bool := (x != .l && x != .s) || y == x
  (s.core n).mem.buffer.any (fun e => mine e.ctx) ||
    (decide (2 ≤ scopeNo sc) && [Ctx.f, .h, .d, .l, .s].any fun y => mine y && s.lateWrites { core := n, ctx := y })

/-- `Release(scope)` for a context of a core: earlier stores are performed; from die scope on the RDC writes back
(R203, R230). Gated stores of a pair's interval leave when the interval, closed for them, agrees; those of an
activation are not awaited (R232). -/
def release (sc : Scope) : M Unit := do
  let (n, x) ← self
  let c ← ask fun s => s.core n
  if c.gatedAhead x sc then
    if c.intervalOpen then waitDo fun s => s.modCore n fun c => c.closeInterval (some x) else wait
  else do
    update fun s => s.drainAll n
    let left ← ask fun s => s.storesAhead n x sc
    if left then waitDo fun s => s.drainAll n
    else if 2 ≤ scopeNo sc then update fun s => s.writeBackRdc (dieOf n)
    else pure ()

/-- `Acquire(scope)`: from die scope on the RDC drops its clean lines (R203, R230). -/
def acquire (sc : Scope) : M Unit := do
  let (n, _) ← self
  if 2 ≤ scopeNo sc then update fun s => s.dropCleanRdc (dieOf n) else pure ()

/-- A ticket of the Belfry (R224). While die 0 is in reset the operation waits. -/
def takeTicket : M Unit := do
  let s ← get
  if (s.die 0).inReset then heldByReset 0
  else update fun s => { s with ticket := s.ticket + 1 }

/-- The ticket of a `.sc` access; the even core of a pair takes it (R367). -/
def ticketFor (ql : Qual) : M Unit := do
  if ql.ord = .sc then do
    let _ ← external (do takeTicket; pure [])
    pure ()
  else pure ()

/-- The scope at which an access acquires or releases memory: recovery scope acts as `.sy` (R79). -/
def memScope (ql : Qual) : Scope := if ql.scope = .rc then .sy else ql.scope

/-- Does a qualifier make a store or an atomic a recovery-scope release (R79)? -/
def isRcRelease (ql : Qual) : Bool := (ql.ord == .rel || ql.ord == .sc) && ql.scope == .rc

/-- RC writes of a context, and of the jobs it has observed complete, that the Keep has still to
acknowledge (R79, R339). Jobs complete only when their RC writes are acknowledged (log 21), so
only the issuer's own writes remain: those on their way, and those that have still to leave the store buffer. -/
def State.rcPending (s : State) (i : Issuer) : Bool :=
  s.keep.msgs.any (fun m => decide (m.src = some i)) ||
    (s.core i.core).mem.buffer.any fun e => decide (e.ctx = i.ctx) && e.parts.any (·.rc)

/-- The recovery-scope release of the present instruction of a context. -/
def RcWait.isOf (w : RcWait) (x : Ctx) (pc : Word) : Bool := decide (w.ctx = x) && w.pc == pc

/-- Is a recovery-scope release of this instruction registered already? -/
def rcBegun : M Bool := do
  let (n, x) ← self
  ask fun s => (s.core n).waits.rcRel.any fun w => w.isOf x s.pc

/-- The wait for a recovery-scope release (R79, R339): registered once with the result of its instruction, which is
given when RC_RELEASE_COMPLETE has counted it. The first call keeps what stands. -/
def rcWait (data : List Byte) : M (List Byte) := do
  let (n, x) ← self
  let pc ← ask State.pc
  let l ← ask fun s => (s.core n).waits.rcRel
  match l.find? fun w => w.isOf x pc with
  | some w => do
    waitWhile (!w.done)
    update fun s => s.modCore n fun c =>
      { c with waits := { c.waits with rcRel := c.waits.rcRel.filter fun w => !w.isOf x pc } }
    pure w.data
  | none => fun s => .error (.waitIn (s.modCore n fun c =>
      { c with waits := { c.waits with rcRel := c.waits.rcRel ++ [{ ctx := x, pc := pc, done := false, data := data }] } }))

/-- The check of a recovery-scope release: RC pages, in a launch with the recoverable mode (R79, R167, R168). -/
def rcAllowed (ql : Qual) (rcPages : Bool) (va : Word) : M Unit := do
  let (n, _) ← self
  let on ← ask fun s => s.hasMode n .recoverable
  require (!isRcRelease ql || (rcPages && on)) 0x2E va

/-! ## Reading memory -/

/-- The acquire that a load carries (R79): no later access comes before it. -/
def acquireFor (ql : Qual) : M Unit := if isPlain ql then pure () else acquire (memScope ql)

/-- Located bytes of a load: claims, poison, the bytes, the traces in caches. -/
def loadPieces (v : Viewer) (va : Nat) (ps : List Piece) : M (List Byte) := do
  waitClaims ps
  checkPoison va ps
  let bs ← readPieces va ps
  update fun s => ps.foldl (fun s p => s.leaveTraces v va p) s
  pure bs

/-- A read made in its own right, or, outside the scratchpad of a pair, by the even core for both (R367). -/
def readFor (own : Bool) (m : M (List Byte)) : M (List Byte) := if own then m else external m

/-- `MemRead(va, n, qual)` of raw bytes: checks 2 to 7 of R78, then the bytes. -/
def memRead (va n : Nat) (ql : Qual) : M (List Byte) := do
  let (c, x) ← self
  let v ← ask fun s => s.viewer c x
  match addressCause va n (!isPlain ql) with
  | some e => signal e (word va)
  | none => do
    match windowCause v.wcfg va n false false with
    | some e => signal e (word va)
    | none => do
      let own ← ask fun s => s.ownSlot v va
      acquireFor ql
      let bs ← readFor own do
        let ps ← locateAll v false va n
        loadPieces v va ps
      ticketFor ql
      pure bs

/-! ## Elements of windows (R81, R111, R193 to R199) -/

/-- The format of windows 1 to 3. -/
def windowFmt (w : Nat) : Fmt := if w = 1 then .bf16 else if w = 2 then .e4m3 else .e5m2

/-- The 32-bit pattern that a load through a window returns, its flags, and whether a range hint was
set (R81, R103, R108, R197): raw element bytes as a number, the scale byte. -/
def windowDecode (w4 : Word) (e : WindowElem) (raw scale : Nat) : Nat × Nat × Bool :=
  match e.window with
  | 4 =>
    let (x, fl) := blockNum (windowFormat w4) scale (field w4 48 16) (raw / 16 ^ (e.index % 2) % 16)
    let (c, fl') := roundFp32 x
    (c, fl ||| fl', false)
  | 5 => (wrapInt (rnsValue raw) 32, 0, rnsHint raw)
  | w => (widen32 (windowFmt w) raw, 0, false)

/-- Raw bytes of a slot read for a load through a window; TVAL is the element's address. -/
def readRaw (v : Viewer) (va slot raw n : Nat) : M Nat := do
  let s ← get
  match s.slotSpot v false slot raw with
  | .bad c => signal c (word va)
  | sp => do
    let bs ← loadPieces v va [{ off := 0, len := n, spot := sp }]
    pure (natOf bs)

/-- The raw element (4 bytes) and the scale byte that a load through a window reads: of a GF4 skip-code block the
scale alone (R104, R197). -/
def readWindow (v : Viewer) (va slot : Nat) (e : WindowElem) : M (List Byte) := do
  match e.scale with
  | none => do
    let x ← readRaw v va slot e.raw e.bytes
    pure (bytesOf 4 x ++ [0])
  | some sc => do
    let k ← readRaw v va slot sc 1
    if isSkip (windowFormat (windowConfig v.wcfg 4)) k then pure (bytesOf 4 0 ++ bytesOf 1 k)
    else do
      let x ← readRaw v va slot e.raw 1
      pure (bytesOf 4 x ++ bytesOf 1 k)

/-- A load of an element through windows 1 to 5 (R81): the pattern, its flags, its hint. -/
def windowLoad (v : Viewer) (va : Nat) : M (Nat × Nat × Bool) := do
  let (slot, w, o) := slotOf va
  let e := windowElem v.wcfg w o
  let own ← ask fun s => s.ownSlot v va
  let bs ← readFor own (readWindow v va slot e)
  pure (windowDecode (windowConfig v.wcfg 4) e (natAt bs 0 4) (natAt bs 4 1))

/-- The checks 2 to 5 of R78 for a word at `va` that may lie in a window. -/
def checkWord (v : Viewer) (va n : Nat) (aligned word_ : Bool) : M Unit := do
  match addressCause va n aligned with
  | some e => signal e (word va)
  | none =>
    match windowCause v.wcfg va n word_ false with
    | some e => signal e (word va)
    | none => pure ()

/-! ## Writing memory -/

/-- A store of a firing noted for the fingerprint (R368): its VA and its data. -/
def noteStore (va : Nat) (bs : List Byte) : M Unit :=
  update fun s => s.noteHere (bytesOf 8 va ++ bs)

/-- Does a part lie at another endpoint? -/
def StorePart.remote (p : StorePart) : Bool :=
  match p.place with
  | .mem pa => isFabric pa
  | _ => false

/-- What a piece of a store writes. -/
def Piece.part (p : Piece) (bs : List Byte) (mask : Byte) : List StorePart :=
  let part (q : Place) (rc unc : Bool) : StorePart :=
    { place := q, bytes := slice bs p.off p.len, mask := mask, rc := rc, uncached := unc }
  match p.spot with
  | .at_ q rc unc => [part q rc unc]
  | .remote pa => [part (.mem pa) false false]
  | _ => []

/-- One access of a store: its address, its bytes as a fingerprint notes them, whether it goes to the pair's own
scratchpad, and its parts. The odd core of a pair knows no parts elsewhere (R367). -/
structure Stored where
  va    : Nat
  bytes : List Byte
  own   : Bool
  parts : List StorePart
  deriving DecidableEq, Repr

/-- Has a gating buffer reached its 256 entries (R14)? -/
def State.gateFull (s : State) (n : Nat) : Bool := decide (256 ≤ s.gateUse n)

/-- A store held by an activation or a paired interval (R14): the 33rd of an activation raises 0x0F. The store that
fills the buffer closes the interval; in a full buffer a store waits. -/
def gateStore (act : Bool) (parts : List StorePart) (wide : Bool) : M Unit := do
  let (n, x) ← self
  let s ← get
  let c := s.core n
  let own := (c.mem.gate.filter fun e => e.act && decide (e.ctx = x)).length
  require (!(act && decide (32 ≤ own))) 0x0F
  if s.gateFull n then
    if c.intervalOpen then waitDo fun s => s.modCore n fun c => c.closeInterval (some x) else wait
  else
    let e : GateEntry :=
      { ctx := x, act := act, interval := if act then c.intervalOpen else c.paired, parts := parts, wide := wide,
        poisoned := false }
    update fun s =>
      let s := s.modCore n fun c => { c with mem := { c.mem with gate := c.mem.gate ++ [e] } }
      if s.gateFull n && c.intervalOpen then s.modCore n fun c => c.closeInterval none else s

/-- Entries of the store buffer that take one of its 32 places (R80). -/
def CoreMem.taken (m : CoreMem) : Nat := (m.buffer.filter fun e => !e.gated).length

/-- The oldest store that takes a place in the store buffer leaves it, behind what stands before it. -/
def State.makeRoom (s : State) (n : Nat) : State :=
  (List.range (((s.core n).mem.buffer.takeWhile (·.gated)).length + 1)).foldl (fun s _ => s.drainOne n) s

/-- A store of F entering the store buffer (R80): with 32 entries in it the oldest drains first. -/
def bufferStore (parts : List StorePart) : M Unit := do
  let (n, x) ← self
  let s ← get
  let s := if 32 ≤ (s.core n).mem.taken then s.makeRoom n else s
  let c := s.core n
  let held := (c.mem.buffer.filter fun e => e.parts.any (·.rc)).length
  waitWhile (decide (32 ≤ c.mem.taken) || (parts.any (·.rc) && decide (256 ≤ s.gateUse n + held)))
  let e : StoreEntry := { ctx := x, parts := parts, wide := false, gated := false, poisoned := false }
  set (s.modCore n fun c => { c with mem := { c.mem with buffer := c.mem.buffer ++ [e] } })

/-- The parts of an access at other endpoints, each sent and answered (R225); TVAL is the part's address. -/
def sendParts (va : Nat) : List StorePart → M Unit
  | [] => pure ()
  | p :: ps => do
    let (n, _) ← self
    (match p.place with
      | .mem pa =>
        if isFabric pa then do
          let _ ← accessRemote pa (fun o => .write o p.bytes false) (word va)
          update fun s => s.dropHostLine (dieOf n) pa p.bytes.length
        else pure ()
      | _ => pure ())
    sendParts (va + p.bytes.length) ps

/-- Do two parts write a common byte? -/
def StorePart.touches (p q : StorePart) : Bool :=
  (List.range q.bytes.length).any fun i => ((q.place.add i).within p.place p.bytes.length).isSome

/-- Does a store overlap an older one of its context that stands in the store buffer? -/
def Core.bufferedOver (c : Core) (x : Ctx) (parts : List StorePart) : Bool :=
  c.mem.buffer.any fun e => decide (e.ctx = x) && e.parts.any fun p => parts.any p.touches

/-- A store performed at once: an ordered store of F, and every store of the L-stream and the S-stream
(log 12); behind older stores of its context to the same bytes. -/
def performNow (va : Nat) (parts : List StorePart) (wide : Bool) : M Unit := do
  let (n, x) ← self
  let s ← get
  if (s.core n).bufferedOver x parts then waitDo fun s => s.drainAll n else pure ()
  waitWhile (parts.any (fun p => p.claimed s) || (parts.any (·.rc) && s.gateFull n))
  sendParts va parts
  update fun s => s.performAll { core := n, ctx := x } (parts.filter fun p => !p.remote) wide false

/-- Does a store of a stream overlap a store that its pair's interval holds? -/
def Core.gatedOver (c : Core) (parts : List StorePart) : Bool :=
  c.mem.gate.any fun e => e.interval && inFiring e.ctx && e.parts.any fun p => parts.any p.touches

/-- One store enters the machine where its context's stores go (R14, R80, R145, R367). In the pair's own scratchpad
F's stores are held for the interval, and those of the L-stream and the S-stream are performed at once, behind what
the interval holds for the same bytes (log 19). -/
def putStore (ql : Qual) (st : Stored) : M Unit := do
  let (n, x) ← self
  let c ← ask fun s => s.core n
  let wide := !isPlain ql && decide (2 ≤ scopeNo ql.scope)
  noteStore st.va st.bytes
  update fun s => st.parts.foldl (fun s p => match p.place with | .mem pa => s.predictLine n pa true | _ => s) s
  if isActivation x then gateStore true st.parts wide
  else if c.paired then
    if st.own && x != .f then
      if c.gatedOver st.parts && c.intervalOpen then waitDo fun s => s.modCore n fun c => c.closeInterval (some x)
      else performNow st.va st.parts wide
    else do
      gateStore false st.parts wide
      if st.own then pure () else update fun s => s.modCore n fun c => c.closeInterval none
  else if x = .f && isPlain ql then do
    sendParts st.va st.parts
    let here := st.parts.filter fun p => !p.remote
    if here.isEmpty then pure () else bufferStore here
  else performNow st.va st.parts wide

/-- Stores one after the other. -/
def putStores (ql : Qual) : List Stored → M Unit
  | [] => pure ()
  | st :: rest => do
    putStore ql st
    putStores ql rest

/-- Stores performed between two intervals of a pair (R168, R367). -/
def performStores (ql : Qual) : List Stored → M Unit
  | [] => pure ()
  | st :: rest => do
    performNow st.va st.parts (decide (2 ≤ scopeNo ql.scope) && !isPlain ql)
    performStores ql rest

/-- A release before a store that carries one, and the store's ticket under `.sc` (R79). The stores of an activation
and of a paired interval are ordered by the gating buffer, in which they stand. -/
def orderStore (ql : Qual) (gated : Bool) : M Unit := do
  (if isPlain ql || gated then pure () else release (memScope ql))
  ticketFor ql

/-- Is every piece on an RC page? -/
def allRc (ps : List Piece) : Bool :=
  ps.all fun p => match p.spot with | .at_ _ rc _ => rc | _ => false

/-- Does a store go to another endpoint? -/
def anyRemote (ps : List Piece) : Bool := ps.any fun p => match p.spot with | .remote _ => true | _ => false

/-- What check 6 and the check of a recovery-scope release leave of a store of `n` bytes: its pieces, and whether it
goes to another endpoint. Outside its scratchpad the even core of a pair makes the checks for both (R367). -/
def locateStore (v : Viewer) (va n : Nat) (ql : Qual) (own : Bool) : M (List Piece × Bool) := do
  let (c, x) ← self
  let find : M (List Piece) := do
    let ps ← locateAll v true va n
    rcAllowed ql (allRc ps) (word va)
    pure ps
  let paired ← ask fun s => (s.core c).paired && inFiring x
  if own || !paired then do
    let ps ← find
    pure (ps, anyRemote ps)
  else do
    let far ← external do
      let ps ← find
      pure [if anyRemote ps then 1 else 0]
    let ps ← if c % 2 = 0 then find else pure []
    pure (ps, far == [1])

/-- Stores whose checks have passed, under their qualifier (R79). The release of the whole comes first; one at recovery
scope is over when the Keep has acknowledged and counted it. In a pair, stores at recovery scope or to another
endpoint (`apart`) close the interval before them: they are found first, and the even core performs those outside the
pair's scratchpad once (R168, R367). -/
def orderedRun (ql : Qual) (apart : Bool) (find : M (List Stored)) (run : M Unit) : M Unit := do
  let (n, x) ← self
  let paired ← ask fun s => (s.core n).paired && inFiring x
  let rc := isRcRelease ql
  let begun ← if rc then rcBegun else pure false
  if paired && apart then do
    let sts ← if begun then pure [] else find
    let _ ← closing do
      (if begun then pure () else do
        (if isPlain ql then pure () else release (memScope ql))
        (if ql.ord = .sc then takeTicket else pure ())
        performStores ql (sts.filter fun st => !st.own))
      if rc then rcWait [] else pure []
    performStores ql (sts.filter (·.own))
  else do
    (if begun then pure () else do
      orderStore ql (paired || isActivation x)
      run)
    if rc then do
      let _ ← rcWait []
      pure ()
    else pure ()

/-- A store whose recovery-scope release waits already goes on with that wait. -/
def resumeRc (ql : Qual) (m : M Unit) : M Unit := do
  let begun ← if isRcRelease ql then rcBegun else pure false
  if begun then orderedRun ql true (pure []) (pure ()) else m

/-- Stores known beforehand, under their qualifier; `far` where one goes to another endpoint. -/
def orderedStores (ql : Qual) (far : Bool) (sts : List Stored) : M Unit :=
  orderedRun ql (far || isRcRelease ql) (pure sts) (putStores ql sts)

/-- `MemWrite(va, n, data, qual)` of raw bytes: checks 2 to 6 of R78, then the store. -/
def memWrite (va : Nat) (bs : List Byte) (ql : Qual) : M Unit := resumeRc ql do
  let (c, x) ← self
  let v ← ask fun s => s.viewer c x
  match addressCause va bs.length (!isPlain ql) with
  | some e => signal e (word va)
  | none =>
    match windowCause v.wcfg va bs.length false false with
    | some e => signal e (word va)
    | none => do
      let own ← ask fun s => s.ownSlot v va
      let (ps, far) ← locateStore v va bs.length ql own
      orderedStores ql far [{ va := va, bytes := bs, own := own, parts := ps.flatMap fun p => p.part bs 0xFF }]

/-- What a store of a 32-bit pattern through a window writes into its element (R81, R108, R197): the
new raw bytes as a number (in window 4 the code in its nibble), or nothing; and the flags. -/
def windowEncode (w4 : Word) (e : WindowElem) (scale pattern : Nat) : Option Nat × Nat :=
  match e.window with
  | 5 => (some (rnsOfInt (signedNat pattern 32)), 0)
  | 4 =>
    let f := windowFormat w4
    let x := decodeFloat .f32 pattern
    if isSkip f scale then (none, if x.isZero then 0 else fNX)
    else
      let (s, fl) :=
        if f = .gf4 then Value.mul (scaleNum f scale) (decodeFloat .bf16 (field w4 48 16))
        else (scaleNum f scale, 0)
      let (q, fl') := Value.div x s
      let (c, fl'') := encodeNum .e2m1 0 true 0 false q
      (some (c * 16 ^ (e.index % 2)), fl ||| fl' ||| fl'')
  | w =>
    let (c, fl) := encodeNum (windowFmt w) 0 true 0 false (decodeFloat .f32 pattern)
    (some c, fl)

/-- Checks 6 and 7 of a store through a window, and the scale byte of its block (R81, R104, R361): in a GF4 skip-code
block the element is not written and takes no permission fault. -/
def windowScale (v : Viewer) (va slot : Nat) (e : WindowElem) : M (List Byte) := do
  let (n, x) ← self
  let s ← get
  match s.slotSpot v false slot e.raw with
  | .bad c => signal c (word va)
  | _ => do
    match e.scale with
    | none =>
      match s.slotSpot v true slot e.raw with
      | .bad c => signal c (word va)
      | _ => pure [0]
    | some sc => do
      match s.slotSpot v false slot sc with
      | .at_ p rc unc => do
        let piece : Piece := { off := 0, len := 1, spot := .at_ p rc unc }
        waitClaims [piece]
        let k := s.readByte n x p
        (if isSkip (windowFormat (windowConfig v.wcfg 4)) k.toNat then pure ()
          else match s.slotSpot v true slot e.raw with
            | .bad c => signal c (word va)
            | _ => pure ())
        checkPoison va [piece]
        pure [k]
      | .bad c => signal c (word va)
      | _ => pure [0]

/-- The checks of a store through a window, a recovery-scope release among them: a scratchpad is no RC page (R79). -/
def checkWindowStore (v : Viewer) (va : Nat) (ql : Qual) : M (List Byte) := do
  let (slot, w, o) := slotOf va
  let own ← ask fun s => s.ownSlot v va
  let k ← readFor own (windowScale v va slot (windowElem v.wcfg w o))
  require (!isRcRelease ql) 0x2E (word va)
  pure k

/-- What a store of a 32-bit pattern through windows 1 to 5 writes (R81, R197): the bytes, their parts, and the flags. -/
def windowParts (v : Viewer) (va pattern : Nat) (ql : Qual) : M (List Byte × List StorePart × Nat) := do
  let (slot, w, o) := slotOf va
  let e := windowElem v.wcfg w o
  let k ← checkWindowStore v va ql
  let (new, fl) := windowEncode (windowConfig v.wcfg 4) e (natAt k 0 1) pattern
  let mask : Byte := if w ≠ 4 then 0xFF else if e.index % 2 = 0 then 0x0F else 0xF0
  let (n, x) ← self
  let s ← get
  let known := !((s.core n).paired && inFiring x && n % 2 == 1) || s.ownSlot v va
  match new with
  | none => pure ([], [], fl)
  | some y =>
    let bs := bytesOf e.bytes y
    let piece : Piece := { off := 0, len := e.bytes, spot := s.slotSpot v true slot e.raw }
    pure (bs, if known then piece.part bs mask else [], fl)

/-- A store of a 32-bit pattern through windows 1 to 5 (R81, R197). -/
def windowStore (v : Viewer) (va pattern : Nat) (ql : Qual) : M Unit := do
  let own ← ask fun s => s.ownSlot v va
  let (bs, parts, fl) ← windowParts v va pattern ql
  orderedStores ql false (if bs.isEmpty then [] else [{ va := va, bytes := bs, own := own, parts := parts }])
  setFlags fl

/-! ## Scalar accesses (R77, R81) -/

/-- The scratch area of a walk (R212): plain accesses of `n` bytes at 0 to 256 − n. -/
def walkOffset (va n : Nat) (ql : Qual) : M Nat := do
  require (isPlain ql && decide (va + n ≤ 256)) 0x18
  pure va

/-- An I/O core addresses local physical memory (DESIGN CHOICE, log 22). -/
def ioAddress (va n : Nat) (aligned : Bool) : M Nat := do
  match addressCause va n aligned with
  | some e => signal e (word va)
  | none => do
    let s ← get
    require (!isFabric (va + n - 1) && !absent s (va + n - 1)) 0x10 (word va)
    waitWhile (s.claimed (.mem va) || s.claimed (.mem (va + n - 1)))
    pure va

/-- A load of an I/O core: through the RDC of its die, with check 7 of R78 and what its qualifier asks (R79). -/
def ioLoad (d va n : Nat) (ql : Qual) : M Nat := do
  let p ← ioAddress va n (!isPlain ql)
  (if !isPlain ql && decide (2 ≤ scopeNo (memScope ql)) then update fun s => s.dropCleanRdc d else pure ())
  let s ← get
  match (List.range n).find? fun i => s.paPoisoned d (p + i) with
  | some i => signal 0x31 (word (va + i))
  | none => do
    (if ql.ord = .sc then takeTicket else pure ())
    pure (natOf ((List.range n).map fun i => s.readPa d (p + i)))

/-- Lines leave the RDC of a die before a write at their home (R229). -/
def State.evictRange (s : State) (d pa n : Nat) : State :=
  let s := if homeDie pa = d then s else s.evictRdc d (pa / 128)
  if homeDie (pa + n - 1) = d || pa / 128 == (pa + n - 1) / 128 then s else s.evictRdc d ((pa + n - 1) / 128)

/-- A store of an I/O core, performed at the home of its bytes; a reserved block goes on to the Keep (R338). It runs in
no launch, so a recovery-scope release raises 0x2E (R167). -/
def ioStore (d va : Nat) (bs : List Byte) (ql : Qual) : M Unit := do
  let p ← ioAddress va bs.length (!isPlain ql)
  require (!isRcRelease ql) 0x2E (word va)
  (if !isPlain ql && decide (2 ≤ scopeNo ql.scope) then update fun s => s.writeBackRdc d else pure ())
  (if ql.ord = .sc then takeTicket else pure ())
  update fun s => (s.evictRange d p bs.length).writeRc none none p bs

/-- A scalar load of `n` bytes: the value, zero-extended, by whoever executes (R77, R81, R212). The element index that
0x3A reports for window 5 counts within the access: 0 here, the lane in a 128-byte access (DESIGN CHOICE, log 88). -/
def loadValue (va : Word) (n : Nat) (ql : Qual) : M Nat := do
  let a := va.toNat
  let t ← ask State.turn
  match t with
  | .walker d tid => do
    let o ← walkOffset a n ql
    ask fun s => match s.thread d tid with
      | some th => natOf (memGetList th.scratch o n)
      | none => 0
  | .io d _ => ioLoad d a n ql
  | _ => do
    let (c, x) ← self
    let v ← ask fun s => s.viewer c x
    if 1 ≤ windowAt a ∧ windowAt a ≤ 5 then do
      checkWord v a n (!isPlain ql) (n == 4)
      acquireFor ql
      let (p, fl, hint) ← windowLoad v a
      ticketFor ql
      rangeCheck (if hint then some 0 else none)
      setFlags fl
      pure p
    else do
      let bs ← memRead a n ql
      pure (natOf bs)

/-- A scalar store of the low `n` bytes of a register, by whoever executes (R77, R81, R212). -/
def storeValue (va : Word) (n : Nat) (x : Word) (ql : Qual) : M Unit := do
  let a := va.toNat
  let bs := bytesOf n x.toNat
  let t ← ask State.turn
  match t with
  | .walker d tid => do
    let o ← walkOffset a n ql
    update fun s => s.setThread d tid fun th => { th with scratch := memSetList th.scratch o bs }
  | .io d _ => ioStore d a bs ql
  | _ => do
    let (c, y) ← self
    let v ← ask fun s => s.viewer c y
    if 1 ≤ windowAt a ∧ windowAt a ≤ 5 then do
      checkWord v a n (!isPlain ql) (n == 4)
      windowStore v a (x.toNat % 2 ^ 32) ql
    else memWrite a bs ql

end Sys2Proof.Machine
end

