-- ==== Sys2Proof/Machine/Work.lean ====
section
/-! DEFINITION. Stages, deques, firings and barriers (R147 to R160, R174 to R178): the operations that
the task instructions and the scheduler's events share. -/

namespace Sys2Proof.Machine

/-! ## Levels (R159) -/

/-- LEVELS: level 0 and the levels of the record. -/
def LaunchInfo.levelCount (i : LaunchInfo) : Nat := i.levels.length + 1

/-- The scope of a domain (R159). -/
def domainScope (domain : Nat) : Scope :=
  match domain with
  | 0 => .co | 1 => .cl | 2 | 3 | 4 => .di | 5 | 6 => .dv | _ => .sy

/-- The scope of a level. -/
def LaunchInfo.levelScope (i : LaunchInfo) (l : Nat) : Scope :=
  if l = 0 then .co else domainScope (i.levels.getD (l - 1) (7, 1)).1

/-- Teams in one unit of a level: T / COUNT. -/
def LaunchInfo.teamsPerUnit (i : LaunchInfo) (l : Nat) : Nat :=
  i.clusters / (i.levels.getD (l - 1) (7, 1)).2

/-- The unit of a level that holds the core with LVLID0 `n`; level 0 is the core itself. -/
def LaunchInfo.unitOf (i : LaunchInfo) (l n : Nat) : Nat :=
  if l = 0 then n else n / 8 / i.teamsPerUnit l

/-! ## Stages and deques (R147 to R150) -/

/-- The stage in a slot of a launch, where the slot holds one. -/
def LaunchInfo.stage (i : LaunchInfo) (slot : Nat) : Option Stage :=
  match i.stages[slot]? with
  | some st => if st.valid then some st else none
  | none => none

/-- The stage in a slot of a core's launch. -/
def State.stage (s : State) (core slot : Nat) : Option Stage := (s.infoOf core).bind (·.stage slot)

/-- P, the sum of a stage's production rates (R150). -/
def Stage.produces (st : Stage) : Nat := sumNat (st.ports.map (·.2))

/-- The records that one firing may push to a slot (R148). -/
def Stage.pushesTo (st : Stage) (slot : Nat) : Nat :=
  sumNat ((st.ports.filter fun p => p.1 == slot).map (·.2))

/-- Records in a core's store (R149). -/
def Work.used (w : Work) : Nat := sumNat (w.deques.toList.map (·.length))

/-- Records of a core's store that are free. -/
def Work.free (w : Work) : Nat := 512 - w.used

/-- What a firing of a slot that has made `pushes` may still push (R148, R150). -/
def LaunchInfo.unpushed (i : LaunchInfo) (slot : Nat) (pushes : Vector Nat 16) : Nat :=
  match i.stage slot with
  | some st => st.produces - sumNat pushes.toList
  | none => 0

/-- The room that the firings suspended in a core's fibres hold: each resumes with its pushes still to make, and a PUSH
to its own core never waits (R150; DESIGN CHOICE, log 89). -/
def Core.fibreReserve (c : Core) (i : LaunchInfo) : Nat :=
  sumNat (c.fibres.map fun k => i.unpushed (field k.fire 0 4) k.pushes)

/-- The reserve of the firing in progress (R150, R157), and of those in fibres. -/
def Core.reserve (c : Core) (i : LaunchInfo) : Nat :=
  (match c.firing with | .slot k => i.unpushed k c.f.pushes | _ => 0) + c.fibreReserve i

/-- Does a core's record store take a record that is no push of its own firing: beyond the reserve (R149, R157)? -/
def Core.hasRoom (c : Core) (i : LaunchInfo) : Bool := decide (c.reserve i < c.work.free)

/-- Is a stage ready (R150)? `held` records of the store are reserved for firings in fibres. -/
def Work.isReady (w : Work) (st : Stage) (held : Nat) : Bool :=
  decide (st.rate ≤ (w.deques.get (ix 15 st.slot)).length ∧ st.produces + held ≤ w.free + st.rate)

/-- The order in which the ready stages of a core became ready, brought up to date (R150). -/
def State.refreshReady (s : State) (core : Nat) : State :=
  match s.infoOf core with
  | none => s
  | some i =>
    s.modCore core fun c =>
      let ok (k : Nat) : Bool := match i.stage k with | some st => c.work.isReady st (c.fibreReserve i) | none => false
      let kept := c.work.ready.filter ok
      let new := (List.range 16).filter fun k => ok k && !kept.contains k
      { c with work := { c.work with
          ready := kept ++ new
          passed := (List.finRange 16).foldl (fun v k => if ok k.val then v else vset v k 0) c.work.passed } }

/-- An event that ends the WFI of a core (R86); both cores of a pair see it. -/
def State.wake (s : State) (core : Nat) : State :=
  let s := s.modCore core fun c => { c with wfi := false }
  if (s.core core).paired then s.modCore (partnerOf core) fun c => { c with wfi := false } else s

/-- A record at the head of a deque (R149): an event that ends WFI (R86), and the wait of a thief after a
fruitless round (R154). -/
def Core.push (c : Core) (slot : Nat) (r : Rec) : Core :=
  let k := ix 15 slot
  let st := c.work.steal
  { c with wfi := false, work := { c.work with
      deques := vset c.work.deques k (r :: c.work.deques.get k)
      steal := if st.failed then { st with failed := false, tried := 0 } else st } }

/-- A record enters a core's deque; the deques of a pair are held alike on both cores (R149). -/
def State.pushRecord (s : State) (core slot : Nat) (r : Rec) : State :=
  let s := (s.modCore core fun c => c.push slot r).refreshReady core
  if (s.core core).paired then (s.modCore (partnerOf core) fun c => c.push slot r).refreshReady (partnerOf core) else s

/-- Room for a record beyond the reserve of a core's firing (R149, R157). -/
def State.roomBeyondReserve (s : State) (core : Nat) : Bool :=
  match s.infoOf core with
  | some i => (s.core core).hasRoom i
  | none => decide (0 < (s.core core).work.free)

/-! ## Binding and cores of a grid (R160, R169) -/

/-- A core of a grid by its LVLID0: resident, or saved with its team. -/
def State.gridCore (s : State) (g : Grid) (n : Nat) : Option Core :=
  match g.coreOf n with
  | some k => some (s.core k)
  | none =>
    match sget g.saved (n / 8) with
    | some cs => cs[n % 8]?
    | none => none

/-- A record delivered to a core of a grid, resident or saved; both cores of a pair hold it (R149, R162). -/
def State.deliverRecord (s : State) (gid n slot : Nat) (r : Rec) : State :=
  match s.grid gid with
  | none => s
  | some g =>
    match g.coreOf n with
    | some k => s.pushRecord k slot r
    | none =>
      let s := s.modGridCore gid n fun c => c.push slot r
      if g.info.has .checked then s.modGridCore gid (if n % 2 = 0 then n + 1 else n - 1) fun c => c.push slot r
      else s

/-- Is the team of a core about to be swapped out (R162)? -/
def State.leaving (s : State) (core : Nat) : Bool :=
  match s.gridOf core with
  | some g => !g.resident (s.core core).ident.log
  | none => false

/-- The core that acts for a core: of a pair the even one (R367). -/
def State.actor (s : State) (core : Nat) : Nat := if (s.core core).paired then evenOf core else core

/-- A change made on a core and, in a pair, on its partner alike. -/
def State.onPair (s : State) (core : Nat) (f : State → Nat → State) : State :=
  if (s.core core).paired then f (f s core) (partnerOf core) else f s core

/-! ## Barriers (R174 to R177) -/

/-- A barrier of a unit, as it stands before anybody has used it. -/
def Barrier.empty (lvl unit n : Nat) : Barrier :=
  { lvl := lvl, unit := unit, n := n, g := 0, a := 0, w := 0, p := 0, last := 0 }

/-- A barrier of a grid. -/
def Grid.barrier (g : Grid) (lvl unit n : Nat) : Barrier :=
  (g.barriers.find? fun b => decide (b.lvl = lvl ∧ b.unit = unit ∧ b.n = n)).getD (Barrier.empty lvl unit n)

/-- A barrier of a grid set. -/
def Grid.setBarrier (g : Grid) (b : Barrier) : Grid :=
  { g with barriers := (g.barriers.filter fun x => !decide (x.lvl = b.lvl ∧ x.unit = b.unit ∧ x.n = b.n)) ++ [b] }

/-- The end of a phase where A = G and A > 0 (R175). -/
def Barrier.settle (b : Barrier) : Barrier :=
  if b.a = b.g ∧ 0 < b.a then { b with a := 0, last := b.w, w := 0, p := b.p + 1 } else b

/-- A registration withdrawn (R176): an arrival in the current phase goes with it. -/
def Barrier.withdraw (b : Barrier) (arrived : Option Nat) : Barrier :=
  let here := arrived = some b.p
  ({ b with g := b.g - 1, w := b.w + 1, a := if here then b.a - 1 else b.a }).settle

/-- A barrier that a core's firing addresses: the one of the unit that holds the core (R174). -/
def State.modBarrier (s : State) (core lvl n : Nat) (f : Barrier → Barrier) : State :=
  match (s.core core).ident.grid with
  | none => s
  | some gid =>
    s.modGrid gid fun g => g.setBarrier (f (g.barrier lvl (g.info.unitOf lvl (s.lvlid0 core)) n))

/-- The barrier that a core's firing addresses. -/
def State.barrierOf (s : State) (core lvl n : Nat) : Barrier :=
  match s.gridOf core with
  | none => Barrier.empty lvl 0 n
  | some g => g.barrier lvl (g.info.unitOf lvl (s.lvlid0 core)) n

/-- Does a core act for its pair at barriers, jobs and messages (R174, R367)? -/
def State.actsForPair (s : State) (core : Nat) : Bool := !(s.core core).paired || core % 2 == 0

/-- Every registration of the core's firing is withdrawn (R176); a pair withdraws once. -/
def State.withdrawAll (s : State) (core : Nat) : State :=
  let bars := (s.core core).f.bars
  let s := if s.actsForPair core then
      bars.foldl (fun s b => s.modBarrier core b.lvl b.n fun x => x.withdraw b.arrived) s
    else s
  s.modCore core fun c => { c with f := { c.f with bars := [] } }

/-! ## Firings (R150 to R152) -/

/-- F idle after a firing: its streams have ended, its queues are dropped, and no restart label stands (R152). The other
registers keep their values until the next firing start (R151; DESIGN CHOICE, log 89). -/
def Core.endFiring (c : Core) : Core :=
  { c with
    firing := .idle
    fc := { c.fc with inTrap := false }
    lost := false
    wfi := false
    waits := (c.waits.endFiring c.f.fire (c.firing == .upcall)).dropSeal .f
    f := { c.f with
      l := { c.f.l with ended := true, walk := none }
      s := { c.f.s with ended := true, walk := none }
      q := Vector.replicate 8 []
      cEnded := true
      held := false
      heldPc := 0
      rstLabel := none
      holdsBse := false
      pushes := Vector.replicate 16 0
      bars := []
      stalls := Vector.replicate 3 none } }

/-- A firing retires, or is killed: its registrations are withdrawn (R152, R176). -/
def State.endFiring (s : State) (core : Nat) : State :=
  (s.withdrawAll core).modCore core fun c => c.endFiring

/-- Have all streams of F's firing ended (R152)? -/
def Core.allEnded (c : Core) : Bool := c.f.cEnded && c.f.l.ended && c.f.s.ended

/-- Are all queues empty? -/
def Core.queuesEmpty (c : Core) : Bool := c.f.q.toList.all (·.isEmpty)

/-- The registers that records of a firing fill: record `k`, oldest first, in `g[16+2k]` and `g[17+2k]`
(R151). -/
def Context.loadRecords (c : Context) : Nat → List Rec → Context
  | _, [] => c
  | k, r :: rs => ((c.writeG (ix 31 (16 + 2 * k)) r.w0).writeG (ix 31 (17 + 2 * k)) r.w1).loadRecords (k + 1) rs

/-- FIRE of the firing numbered `seq` in its launch (R42, R151). -/
def nextFire (seq count slot : Nat) : Word :=
  word (seq % 2 ^ 32 * 256 + (count - 1) % 4 * 16 + slot % 16)

/-- SRSEED at the start of a firing in the srseed mode (R167). -/
def reseed (seed g16 g17 : Word) : Word := srSeed (seed ^^^ g16 ^^^ (g17.rotateLeft 32))

/-- The entry offset of a stream that a stage has (R147). -/
def entryOf (e : Nat) : Option Word := if e = 0xFFFF then none else some (word e)

/-- A firing of a stage starts with its records, oldest first (R151). -/
def Core.startFiring (c : Core) (i : LaunchInfo) (st : Stage) (rs : List Rec) : Core :=
  let k := (c.fc.fresh 0 (word st.centry)).loadRecords 0 rs
  let f := c.f.fresh (entryOf st.lentry) (entryOf st.sentry)
  let f := { f with
    fire := nextFire (c.seq + 1) rs.length st.slot
    srseed := if i.has .srseed then reseed i.seed (k.readG 16) (k.readG 17) else c.f.srseed }
  { c with fc := k, f := f, firing := .slot st.slot, seq := c.seq + 1 }

/-- A firing starts on a core: an acquire at the stage's binding scope (R151, R155); the first of a launch acquires at
system scope (R231). -/
def State.startFiring (s : State) (core : Nat) (st : Stage) (rs : List Rec) : State :=
  match s.infoOf core with
  | none => s
  | some i =>
    let first := (s.core core).seq == 0
    let s := if first || decide (2 ≤ scopeNo (i.levelScope st.level)) then s.dropCleanRdc (dieOf core) else s
    let s := s.modCore core fun c => c.startFiring i st rs
    s.modCore core fun c => if c.paired then c.openInterval else c

/-- The slot that a core selects among its ready stages (R150). -/
def Work.select (w : Work) (i : LaunchInfo) : Option Nat :=
  let starved := w.ready.filter fun k => decide (64 ≤ w.passed.get (ix 15 k))
  if starved ≠ [] then starved.min?
  else
    let prio (k : Nat) : Nat := match i.stage k with | some st => st.prio | none => 0
    w.ready.foldl (fun best k =>
      match best with
      | none => some k
      | some b => if prio b < prio k then some k else some b) none

/-- The counts of stages passed over, after a selection (R150). -/
def Work.passOver (w : Work) (chosen : Nat) : Work :=
  { w with passed := (List.finRange 16).foldl (fun v k =>
      if k.val = chosen then vset v k 0
      else if w.ready.contains k.val then vset v k (v.get k + 1) else v) w.passed }

/-- The `c` records at the head of a deque, oldest first, and what remains (R149, R151). -/
def takeHead (d : List Rec) (c : Nat) : List Rec × List Rec := ((d.take c).reverse, d.drop c)

/-- The `c` records at the tail of a deque, oldest first, and what remains (R149, R154). -/
def takeTail (d : List Rec) (c : Nat) : List Rec × List Rec :=
  ((d.drop (d.length - c)).reverse, d.take (d.length - c))

/-! ## What ended activations send (R14, R170, R229) -/

/-- May what an ended activation of a context sends leave: have all stores of its ended activations been performed
(R14, R229, R230)? -/
def State.mayLeave (s : State) (core : Nat) (x : Ctx) : Bool :=
  let m := (s.core core).mem
  !(m.buffer.any fun e => decide (e.ctx = x)) && !(m.gate.any fun e => decide (e.ctx = x) && !e.act) &&
    !s.lateWrites { core := core, ctx := x }

/-- An item leaves the network interface of a core, behind a release at its scope (R171, R173, R333). -/
def State.sendOut (s : State) (core : Nat) (o : Outgoing) : State :=
  let gid := (s.core core).ident.grid.getD 0
  let released (sc : Scope) : State := if 2 ≤ scopeNo sc then s.writeBackRdc (dieOf core) else s
  match o.item with
  | .record target slot w0 w1 sc =>
    let i : Item :=
      { src := some { core := core, ctx := o.ctx }, kind := .record slot, lvlid := s.lvlid0 core, cls := 0,
        w0 := w0, w1 := w1, scope := sc, port := none }
    let s := released sc
    { s with net := s.net ++ [{ grid := gid, target := target, item := i, held := true }] }
  | .message target i =>
    let s := released i.scope
    { s with net := s.net ++ [{ grid := gid, target := target, item := i, held := true }] }
  | .remote e kind =>
    let s := released .sy
    match s.remoteRefused core e with
    | some cause => s.notify core cause 0
    | none => s.sendRemote { core := core, ctx := o.ctx } e 0 kind true
  | .landed p => (released .sy).modCore p.core fun c => c.landed p

/-- What the ended activations of a core send leaves, in order, as far as it may. -/
def State.flushOutbox (s : State) (core : Nat) : State :=
  let l := (s.core core).outbox
  let go := l.filter fun o => s.mayLeave core o.ctx
  if go.isEmpty then s
  else
    let t := s.modCore core fun c => { c with outbox := l.filter fun o => !s.mayLeave core o.ctx }
    go.foldl (fun t o => t.sendOut core o) t

/-- F is idle and holds neither a firing nor an upcall routine (R150). -/
def Core.fIdle (c : Core) : Bool := c.firing == .idle

end Sys2Proof.Machine
end

