-- ==== Sys2Proof/Machine/Atomic.lean ====
section
/-! DEFINITION. Atomics (R56, R218 to R226): the RA forms, the XA forms, and the atomic activation on
the core that owns a scratchpad. -/

namespace Sys2Proof.Machine

/-- The operations of R218, codes 0 to 12. -/
inductive AtomOp where
  | add | and | or | xor | min | max | minu | maxu | swap | fadd | fmin | fmax | cas
  deriving DecidableEq, Repr

/-- The code of an operation (R56). -/
def AtomOp.code : AtomOp → Nat
  | .add => 0 | .and => 1 | .or => 2 | .xor => 3 | .min => 4 | .max => 5 | .minu => 6 | .maxu => 7
  | .swap => 8 | .fadd => 9 | .fmin => 10 | .fmax => 11 | .cas => 12

/-- The operation of a code. -/
def AtomOp.ofCode : Nat → AtomOp
  | 0 => .add | 1 => .and | 2 => .or | 3 => .xor | 4 => .min | 5 => .max | 6 => .minu | 7 => .maxu
  | 8 => .swap | 9 => .fadd | 10 => .fmin | 11 => .fmax | _ => .cas

/-- An FP32 operation. -/
def AtomOp.isFloat : AtomOp → Bool
  | .fadd | .fmin | .fmax => true
  | _ => false

/-- The new value of an atomic of `n` bytes, where it writes one, and the flags (R219, R220). -/
def AtomOp.apply (op : AtomOp) (n old b cmp : Nat) : Option Nat × Nat :=
  let bits := 8 * n
  let m := 2 ^ bits
  let lt (x y : Nat) : Bool := decide (signedNat x bits < signedNat y bits)
  match op with
  | .add => (some ((old + b) % m), 0)
  | .and => (some (old &&& b), 0)
  | .or => (some (old ||| b), 0)
  | .xor => (some (old ^^^ b), 0)
  | .min => (some (if lt b old then b else old), 0)
  | .max => (some (if lt old b then b else old), 0)
  | .minu => (some (Nat.min old b), 0)
  | .maxu => (some (Nat.max old b), 0)
  | .swap => (some b, 0)
  | .fadd =>
    let (x, fl) := Value.add 0 (decodeFloat .f32 old) (decodeFloat .f32 b)
    let (c, fl') := roundFp32 x
    (some c, fl ||| fl')
  | .fmin => let (c, fl) := selectCode .f32 false old b; (some c, fl)
  | .fmax => let (c, fl) := selectCode .f32 true old b; (some c, fl)
  | .cas => (if old = cmp then some b else none, 0)

/-- The value that an atomic returns (R219). -/
def AtomOp.result (op : AtomOp) (n old : Nat) : Word :=
  if op.isFloat then word (old % 2 ^ 32) else signExtendNat old (8 * n)

/-- An atomic in the predictor of its line (R222): a far atomic counts towards a run, a near one takes
ownership. -/
def predictAtomic (cluster : Nat) (far within : Bool) (p : Predict) : Predict :=
  if far then
    if !p.far then p
    else
      let run := if p.runOf = cluster then p.run + 1 else 1
      if 64 ≤ run then { p with far := false, transfers := 0, owner := none, runOf := cluster, run := 0 }
      else { p with runOf := cluster, run := run }
  else predictAccess cluster true within p

/-- Does an atomic run far (R222)? `.sc`, uncached and RC pages, and other dies' lines always do. -/
def Predict.runsFar (p : Predict) (n pa : Nat) (ql : Qual) (pl : AtomPlace) (rc uncached : Bool) : Bool :=
  ql.ord == .sc || rc || uncached || homeDie pa != dieOf n || pl == .far || (pl == .predictor && p.far)

/-- The predictor after an atomic (R222): `.near` and `.far` leave it as it is; an atomic of another die's cluster
runs far and counts as an access from another cluster. -/
def State.predictAfter (s : State) (n pa : Nat) (ql : Qual) (pl : AtomPlace) (rc uncached : Bool) : State :=
  if pl ≠ .predictor then s
  else if homeDie pa ≠ dieOf n then s.predictLine n pa false
  else
    let (old, s) := s.predictor pa
    let (k, s) := s.draw
    let p := old.getD Predict.fresh
    s.setPredict pa (some (predictAtomic (clusterOf n) (p.runsFar n pa ql pl rc uncached) (Config.withinMicrosecond k) p))

/-- The lowest poisoned byte of `n` bytes at a place, outside every buffer (R361). -/
def State.poisonIn (s : State) (core : Nat) (p : Place) (n : Nat) : Option Nat :=
  (List.range n).find? fun i => s.isPoisoned core (p.add i)

/-- The body of R219 at a place of memory: old value and flags. The home holds the value; the RDC of the
issuer's die gives its bytes of the line up first (R229). -/
def State.atomMemory (s : State) (iss : Issuer) (pa : Nat) (rc : Bool) (op : AtomOp) (n b cmp : Nat) :
    State × Nat × Nat :=
  let s := if homeDie pa = dieOf iss.core then s else s.evictRdc (dieOf iss.core) (pa / 128)
  let old := natOf (memGetList s.mem pa n)
  match op.apply n old b cmp with
  | (none, fl) => (s, old, fl)
  | (some x, fl) =>
    (if rc then s.writeRc (some iss) none pa (bytesOf n x) else s.writeHome pa (bytesOf n x), old, fl)

/-- The body of R219 at a scratchpad: both copies of a pair take the new value (R226). -/
def State.atomScratch (s : State) (owner off : Nat) (op : AtomOp) (n b cmp : Nat) : State × Nat × Nat :=
  let old := natOf (memGetList (s.core owner).mem.scratch off n)
  match op.apply n old b cmp with
  | (none, fl) => (s, old, fl)
  | (some x, fl) =>
    let s := s.modCore owner fun c => c.writeScratch off (bytesOf n x)
    (if (s.core owner).paired then s.modCore (partnerOf owner) fun c => c.writeScratch off (bytesOf n x) else s,
      old, fl)

/-- Old value and flags as one list of bytes, and back. -/
def packAtom (old fl : Nat) : List Byte := bytesOf 8 old ++ bytesOf 8 fl

/-- Is an atomic of this instruction under way on another core (R223)? -/
def AtomWait.isOf (w : AtomWait) (x : Ctx) (fire pc va : Word) : Bool :=
  decide (w.ctx = x ∧ w.fire = fire ∧ w.pc = pc ∧ w.va = va)

/-- The answer of an atomic on another core's slot, once it came: the waiting instruction takes it (R223). Poison that
the activation met raises 0x31 (R362). -/
def takeAtom (w : AtomWait) : M (List Byte) := do
  let (c, _) ← self
  let taken (s : State) : State :=
    s.modCore c fun k => { k with waits := { k.waits with atoms := k.waits.atoms.filter fun u => decide (u ≠ w) } }
  match w.answer with
  | some (.ok (old, fl)) => do
    update taken
    pure (packAtom old.toNat fl.toNat)
  | some (.error bad) => signalDo taken 0x31 bad
  | none => wait

/-- An atomic on another core's slot leaves for the owner's inbox (R223); the instruction waits. Under `.sc` its ticket
comes first (R224). -/
def sendAtom (owner off : Nat) (op : AtomOp) (n b cmp : Nat) (va : Word) (ql : Qual) : M (List Byte) := do
  let (c, x) ← self
  (if ql.ord = .sc then takeTicket else pure ())
  update fun s =>
    let i : Item :=
      { src := some { core := c, ctx := x }, kind := .atomic off n, lvlid := s.lvlid0 c, cls := op.code,
        w0 := word b, w1 := word cmp, scope := .co, port := none }
    let w : AtomWait := { ctx := x, fire := (s.core c).fireOf x, pc := s.pc, va := va, item := i, answer := none }
    let s := s.modCore c fun k => { k with waits := { k.waits with atoms := k.waits.atoms ++ [w] } }
    { s with net := s.net ++ [{ grid := (s.core c).ident.grid.getD 0, target := s.lvlid0 owner, item := i, held := false }] }
  waitKept

/-- What refuses an atomic at its place before it waits for anything (R219, R223, R225): `.sc` and FP32 at another
endpoint, another core's slot from H or D. -/
def atomRefused (sp : Spot) (own : Bool) (op : AtomOp) (x : Ctx) (ql : Qual) : Bool :=
  match sp with
  | .remote _ => op.isFloat || ql.ord == .sc
  | .at_ (.scratch _ _) _ _ => !own && isActivation x
  | _ => false

/-- Check 7 of an atomic (R219): the place is read as it stands behind the store buffer; another core's slot is read
by its activation. -/
def atomPoison (sp : Spot) (own : Bool) (n : Nat) (va : Word) : M Unit := do
  let (c, _) ← self
  let s ← get
  let at_ : Option Place :=
    match sp with
    | .at_ (.mem pa) _ _ => some (.mem pa)
    | .at_ p _ _ => if own then some p else none
    | _ => none
  match at_.bind fun p => s.poisonIn c p n with
  | some i => signal 0x31 (va + word i)
  | none => pure ()

/-- The atomic performed at its place: old value and flags (R219, R222 to R225). -/
def atomAt (sp : Spot) (own : Bool) (op : AtomOp) (n b cmp : Nat) (va : Word) (ql : Qual) (pl : AtomPlace) :
    M (List Byte) := do
  let (c, x) ← self
  match sp with
  | .remote pa => do
    let bs ← accessRemote pa (fun o => .atomic o op.code n (word b) (word cmp)) va
    update fun s => s.dropHostLine (dieOf c) pa n
    pure (packAtom (natAt bs 0 n) 0)
  | .at_ (.scratch o off) _ _ =>
    if own then do
      (if ql.ord = .sc then takeTicket else pure ())
      let s ← get
      let (t, old, fl) := s.atomScratch o off op n b cmp
      set t
      pure (packAtom old fl)
    else sendAtom o off op n b cmp va ql
  | .at_ (.mem pa) rc unc => do
    (if ql.ord = .sc then takeTicket else pure ())
    let s ← get
    waitWhile (rc && s.gateFull c)
    let (t, old, fl) := (s.predictAfter c pa ql pl rc unc).atomMemory { core := c, ctx := x } pa rc op n b cmp
    set t
    pure (packAtom old fl)
  | _ => pure []

/-- An atomic of `n` bytes at `va`, once its interval has agreed (R219, R221, R226): check 6, the refusals of its place,
its claims, the release that it carries, check 7, the check of a recovery-scope release; then its ticket and its
body. A recovery-scope release waits for the Keep with the atomic's own write among those it covers (R339). -/
def atomBody (v : Viewer) (op : AtomOp) (n b cmp : Nat) (va : Word) (ql : Qual) (pl : AtomPlace) : M (List Byte) := do
  let (_, x) ← self
  let own ← ask fun s => s.ownSlot v va.toNat
  let sp ← locate v true va.toNat
  (if atomRefused sp own op x ql then signal 0x1C va else pure ())
  let rc := match sp with | .at_ _ rc _ => rc | _ => false
  waitClaims [{ off := 0, len := n, spot := sp }]
  release (if ql.ord = .rel ∨ ql.ord = .sc then memScope ql else .co)
  atomPoison sp own n va
  rcAllowed ql rc va
  let bs ← atomAt sp own op n b cmp va ql pl
  if isRcRelease ql then rcWait bs else pure bs

/-- An atomic that its instruction has begun goes on with its wait: for the Keep, or for another core. -/
def atomResumed (va : Word) (ql : Qual) (m : M (List Byte)) : M (List Byte) := do
  let (c, x) ← self
  let begun ← if isRcRelease ql then rcBegun else pure false
  if begun then rcWait []
  else do
    let s ← get
    match (s.core c).waits.atoms.find? fun w => w.isOf x ((s.core c).fireOf x) s.pc va with
    | some w => takeAtom w
    | none => m

/-- An AMO or CAS of `n` bytes (R219, R221): the store buffer drains first. -/
def atomic (len : Nat) (op : AtomOp) (n : Nat) (d base b : Reg) (ql : Qual) (pl : AtomPlace) : M Word :=
  after len do
    startOrd .vector (!(ql.ord == .sc && pl == .near)) [d, base, b]
    let va ← getG base
    let x ← getG b
    let cmp ← getG d
    let (c, y) ← self
    let v ← ask fun s => s.viewer c y
    match addressCause va.toNat n true with
    | some e => signal e va
    | none =>
      match windowCause v.wcfg va.toNat n false true with
      | some e => signal e va
      | none => do
        let bs ← closing (atomResumed va ql (atomBody v op n (field x 0 (8 * n)) (field cmp 0 (8 * n)) va ql pl))
        (if ql.ord = .acq ∨ ql.ord = .sc then acquire (memScope ql) else pure ())
        setFlags (natAt bs 8 8)
        setG d (op.result n (natAt bs 0 8))

/-- The width of an XA form: `width<39>`. -/
def xaWidth (wide : Bool) : Nat := if wide then 8 else 4

/-- The activation at the head of an inbox: items leave in their order (R35, R157, R170). -/
def Core.nextActivation (c : Core) : Option Item :=
  match c.inbox with
  | i :: _ =>
    match i.kind with
    | .high _ _ => some i
    | .atomic _ _ => some i
    | _ => none
  | [] => none

/-- The oldest unanswered atomic of a list that sent an item is answered. -/
def answerFirst (i : Item) (a : Except Word (Word × Word)) : List AtomWait → List AtomWait
  | [] => []
  | w :: rest =>
    if w.item = i ∧ w.answer = none then { w with answer := some a } :: rest else w :: answerFirst i a rest

/-- The answer of an atomic activation reaches its issuer (R223). -/
def State.answerAtom (s : State) (i : Item) (a : Except Word (Word × Word)) : State :=
  match i.src with
  | none => s
  | some iss => s.modCore iss.core fun c => { c with waits := { c.waits with atoms := answerFirst i a c.waits.atoms } }

/-- The address that the issuer of an atomic activation named. -/
def State.atomVa (s : State) (i : Item) : Word :=
  match i.src with
  | none => 0
  | some iss => (((s.core iss.core).waits.atoms.find? fun w => decide (w.item = i)).map (·.va)).getD 0

/-- AMO.add.w in the RA form (R219). -/
def execAmoAddW (d base b : Reg) (ql : Qual) (s : State) : Host.Outcome State Fault Refusal :=
  runMeaning (atomic 4 .add 4 d base b ql .predictor) s

/-- AMO.and.w in the RA form (R219). -/
def execAmoAndW (d base b : Reg) (ql : Qual) (s : State) : Host.Outcome State Fault Refusal :=
  runMeaning (atomic 4 .and 4 d base b ql .predictor) s

/-- AMO.or.w in the RA form (R219). -/
def execAmoOrW (d base b : Reg) (ql : Qual) (s : State) : Host.Outcome State Fault Refusal :=
  runMeaning (atomic 4 .or 4 d base b ql .predictor) s

/-- AMO.xor.w in the RA form (R219). -/
def execAmoXorW (d base b : Reg) (ql : Qual) (s : State) : Host.Outcome State Fault Refusal :=
  runMeaning (atomic 4 .xor 4 d base b ql .predictor) s

/-- AMO.min.w in the RA form (R219). -/
def execAmoMinW (d base b : Reg) (ql : Qual) (s : State) : Host.Outcome State Fault Refusal :=
  runMeaning (atomic 4 .min 4 d base b ql .predictor) s

/-- AMO.max.w in the RA form (R219). -/
def execAmoMaxW (d base b : Reg) (ql : Qual) (s : State) : Host.Outcome State Fault Refusal :=
  runMeaning (atomic 4 .max 4 d base b ql .predictor) s

/-- AMO.minu.w in the RA form (R219). -/
def execAmoMinuW (d base b : Reg) (ql : Qual) (s : State) : Host.Outcome State Fault Refusal :=
  runMeaning (atomic 4 .minu 4 d base b ql .predictor) s

/-- AMO.maxu.w in the RA form (R219). -/
def execAmoMaxuW (d base b : Reg) (ql : Qual) (s : State) : Host.Outcome State Fault Refusal :=
  runMeaning (atomic 4 .maxu 4 d base b ql .predictor) s

/-- AMO.swap.w in the RA form (R219). -/
def execAmoSwapW (d base b : Reg) (ql : Qual) (s : State) : Host.Outcome State Fault Refusal :=
  runMeaning (atomic 4 .swap 4 d base b ql .predictor) s

/-- AMO.fadd.w in the RA form (R219). -/
def execAmoFaddW (d base b : Reg) (ql : Qual) (s : State) : Host.Outcome State Fault Refusal :=
  runMeaning (atomic 4 .fadd 4 d base b ql .predictor) s

/-- AMO.fmin.w in the RA form (R219, R220). -/
def execAmoFminW (d base b : Reg) (ql : Qual) (s : State) : Host.Outcome State Fault Refusal :=
  runMeaning (atomic 4 .fmin 4 d base b ql .predictor) s

/-- AMO.fmax.w in the RA form (R219, R220). -/
def execAmoFmaxW (d base b : Reg) (ql : Qual) (s : State) : Host.Outcome State Fault Refusal :=
  runMeaning (atomic 4 .fmax 4 d base b ql .predictor) s

/-- CAS.w in the RA form (R219). -/
def execCasW (d base b : Reg) (ql : Qual) (s : State) : Host.Outcome State Fault Refusal :=
  runMeaning (atomic 4 .cas 4 d base b ql .predictor) s

/-- AMO.add.d in the RA form (R219). -/
def execAmoAddD (d base b : Reg) (ql : Qual) (s : State) : Host.Outcome State Fault Refusal :=
  runMeaning (atomic 4 .add 8 d base b ql .predictor) s

/-- AMO.and.d in the RA form (R219). -/
def execAmoAndD (d base b : Reg) (ql : Qual) (s : State) : Host.Outcome State Fault Refusal :=
  runMeaning (atomic 4 .and 8 d base b ql .predictor) s

/-- AMO.or.d in the RA form (R219). -/
def execAmoOrD (d base b : Reg) (ql : Qual) (s : State) : Host.Outcome State Fault Refusal :=
  runMeaning (atomic 4 .or 8 d base b ql .predictor) s

/-- AMO.xor.d in the RA form (R219). -/
def execAmoXorD (d base b : Reg) (ql : Qual) (s : State) : Host.Outcome State Fault Refusal :=
  runMeaning (atomic 4 .xor 8 d base b ql .predictor) s

/-- AMO.min.d in the RA form (R219). -/
def execAmoMinD (d base b : Reg) (ql : Qual) (s : State) : Host.Outcome State Fault Refusal :=
  runMeaning (atomic 4 .min 8 d base b ql .predictor) s

/-- AMO.max.d in the RA form (R219). -/
def execAmoMaxD (d base b : Reg) (ql : Qual) (s : State) : Host.Outcome State Fault Refusal :=
  runMeaning (atomic 4 .max 8 d base b ql .predictor) s

/-- AMO.minu.d in the RA form (R219). -/
def execAmoMinuD (d base b : Reg) (ql : Qual) (s : State) : Host.Outcome State Fault Refusal :=
  runMeaning (atomic 4 .minu 8 d base b ql .predictor) s

/-- AMO.maxu.d in the RA form (R219). -/
def execAmoMaxuD (d base b : Reg) (ql : Qual) (s : State) : Host.Outcome State Fault Refusal :=
  runMeaning (atomic 4 .maxu 8 d base b ql .predictor) s

/-- AMO.swap.d in the RA form (R219). -/
def execAmoSwapD (d base b : Reg) (ql : Qual) (s : State) : Host.Outcome State Fault Refusal :=
  runMeaning (atomic 4 .swap 8 d base b ql .predictor) s

/-- CAS.d in the RA form (R219). -/
def execCasD (d base b : Reg) (ql : Qual) (s : State) : Host.Outcome State Fault Refusal :=
  runMeaning (atomic 4 .cas 8 d base b ql .predictor) s

/-- AMO.add in the XA form (R218, R219). -/
def execAmoAddXa (d base b : Reg) (ql : Qual) (pl : AtomPlace) (wide : Bool) (s : State) : Host.Outcome State Fault Refusal :=
  runMeaning (atomic 8 .add (xaWidth wide) d base b ql pl) s

/-- AMO.and in the XA form (R218, R219). -/
def execAmoAndXa (d base b : Reg) (ql : Qual) (pl : AtomPlace) (wide : Bool) (s : State) : Host.Outcome State Fault Refusal :=
  runMeaning (atomic 8 .and (xaWidth wide) d base b ql pl) s

/-- AMO.or in the XA form (R218, R219). -/
def execAmoOrXa (d base b : Reg) (ql : Qual) (pl : AtomPlace) (wide : Bool) (s : State) : Host.Outcome State Fault Refusal :=
  runMeaning (atomic 8 .or (xaWidth wide) d base b ql pl) s

/-- AMO.xor in the XA form (R218, R219). -/
def execAmoXorXa (d base b : Reg) (ql : Qual) (pl : AtomPlace) (wide : Bool) (s : State) : Host.Outcome State Fault Refusal :=
  runMeaning (atomic 8 .xor (xaWidth wide) d base b ql pl) s

/-- AMO.min in the XA form (R218, R219). -/
def execAmoMinXa (d base b : Reg) (ql : Qual) (pl : AtomPlace) (wide : Bool) (s : State) : Host.Outcome State Fault Refusal :=
  runMeaning (atomic 8 .min (xaWidth wide) d base b ql pl) s

/-- AMO.max in the XA form (R218, R219). -/
def execAmoMaxXa (d base b : Reg) (ql : Qual) (pl : AtomPlace) (wide : Bool) (s : State) : Host.Outcome State Fault Refusal :=
  runMeaning (atomic 8 .max (xaWidth wide) d base b ql pl) s

/-- AMO.minu in the XA form (R218, R219). -/
def execAmoMinuXa (d base b : Reg) (ql : Qual) (pl : AtomPlace) (wide : Bool) (s : State) : Host.Outcome State Fault Refusal :=
  runMeaning (atomic 8 .minu (xaWidth wide) d base b ql pl) s

/-- AMO.maxu in the XA form (R218, R219). -/
def execAmoMaxuXa (d base b : Reg) (ql : Qual) (pl : AtomPlace) (wide : Bool) (s : State) : Host.Outcome State Fault Refusal :=
  runMeaning (atomic 8 .maxu (xaWidth wide) d base b ql pl) s

/-- AMO.swap in the XA form (R218, R219). -/
def execAmoSwapXa (d base b : Reg) (ql : Qual) (pl : AtomPlace) (wide : Bool) (s : State) : Host.Outcome State Fault Refusal :=
  runMeaning (atomic 8 .swap (xaWidth wide) d base b ql pl) s

/-- AMO.fadd in the XA form (R218, R219). -/
def execAmoFaddXa (d base b : Reg) (ql : Qual) (pl : AtomPlace) (s : State) : Host.Outcome State Fault Refusal :=
  runMeaning (atomic 8 .fadd 4 d base b ql pl) s

/-- AMO.fmin in the XA form (R218, R219). -/
def execAmoFminXa (d base b : Reg) (ql : Qual) (pl : AtomPlace) (s : State) : Host.Outcome State Fault Refusal :=
  runMeaning (atomic 8 .fmin 4 d base b ql pl) s

/-- AMO.fmax in the XA form (R218, R219). -/
def execAmoFmaxXa (d base b : Reg) (ql : Qual) (pl : AtomPlace) (s : State) : Host.Outcome State Fault Refusal :=
  runMeaning (atomic 8 .fmax 4 d base b ql pl) s

/-- CAS in the XA form (R218, R219). -/
def execCasXa (d base b : Reg) (ql : Qual) (pl : AtomPlace) (wide : Bool) (s : State) : Host.Outcome State Fault Refusal :=
  runMeaning (atomic 8 .cas (xaWidth wide) d base b ql pl) s

/-- An atomic on another core's slot runs as an activation on the owner: as an H message, when no H activation runs and
STATUS.IE is set, where it does not stand on a claimed line (R223, R35, R221). It uses no class, counts no
instruction and is not gated. Poison it consumes twice is told to the issuer (R362). -/
def execAtomicActivation (core : Nat) (s : State) : Host.Outcome State Fault Refusal :=
  let core := if (s.core core).paired then evenOf core else core
  let c := s.core core
  match c.hAct, c.nextActivation with
  | none, some i =>
    match i.kind with
    | .atomic off n =>
      let p := Place.scratch core off
      if !c.fc.ie || s.claimed p then .next s
      else
        let s := s.setCore core { c with inbox := c.inbox.erase i }
        match s.poisonIn core p n with
        | some k => .next (s.answerAtom i (.error (s.atomVa i + word k)))
        | none =>
          let (t, old, fl) := s.atomScratch core off (AtomOp.ofCode i.cls) n i.w0.toNat i.w1.toNat
          .next (t.answerAtom i (.ok (word old, word fl)))
    | _ => .next s
  | _, _ => .next s

end Sys2Proof.Machine
end

