-- ==== Sys2Proof/Machine/Branch.lean ====
section
/-! DEFINITION. Branches, jumps, BQE, FEND and BRK in their 16- and 32-bit forms (R63, R71 to R74, R76),
and the hints (R75). -/

namespace Sys2Proof.Machine

/-- A branch of 4 bytes: taken, to the instruction's offset plus twice the field; otherwise past it
(R71). -/
def branchIf (a b : Reg) (o : BitVec 11) (taken : Word → Word → Bool) : M Word := do
  start .scalar [a, b]
  let x ← getG a
  let y ← getG b
  ask fun s => if taken x y then codeTarget s.pc o else s.pc + 4

/-- A jump of `len` bytes that links past itself (R72). -/
def jumpLink {n : Nat} (len : Nat) (d : Reg) (o : BitVec n) : M Word := do
  start .scalar [d]
  let pc ← ask State.pc
  setG d (pc + word len)
  pure (codeTarget pc o)

/-- A jump to a register plus an even displacement; an odd target raises 0x03 (R72). -/
def jumpRegister (len : Nat) (d a : Reg) (i : BitVec 11) : M Word := do
  start .scalar [d, a]
  let x ← getG a
  let t := x + 2 * sext i
  require (!t.getLsbD 0) 0x03 t
  let pc ← ask State.pc
  setG d (pc + word len)
  pure t

/-- The stream of a firing has ended (R34, R74). -/
def Core.endStream (c : Core) (x : Ctx) : Core :=
  match x with
  | .l => { c with f := { c.f with l := { c.f.l with ended := true } } }
  | .s => { c with f := { c.f with s := { c.f.s with ended := true } } }
  | _ => { c with f := { c.f with cEnded := true } }

/-- What an activation holds leaves at its FEND, in program order (R14, R74): its stores join the order of the store
buffer, and its records and messages follow them (R229). A landing packet has then been handled (R333). -/
def State.releaseActivation (s : State) (core : Nat) (x : Ctx) : State :=
  let out : List OutItem :=
    match (s.core core).act x with
    | some a => a.out ++ (match a.trigger with | .packet p => [.landed p] | .message _ => [])
    | none => []
  let s := s.modCore core fun c => { c with
    outbox := c.outbox ++ out.map fun o => { ctx := x, item := o }
    mem := { c.mem with gate := c.mem.gate.map fun e => if e.ctx = x then { e with act := false } else e } }
  (s.releaseGate core).flushOutbox core

/-- An activation ends at its FEND (R14, R35, R74). -/
def State.endActivation (s : State) (core : Nat) (x : Ctx) : State :=
  let s' := (s.releaseActivation core x).modCore core fun c => c.setAct x none
  match (s.core core).act x with
  | some { trigger := .message i, .. } => s'.answerSender i .ok
  | _ => s'

/-- FEND (R74): a firing's stream ends; in a handler that has not returned, the firing is killed
(R40, DESIGN CHOICE, log 23). An activation ends, or in such a handler is dropped (R363). -/
def endWork : M Word := do
  start .fend []
  let t ← ask State.turn
  match t with
  | .core n x => do
    let c ← ask fun s => s.core n
    match x with
    | .h | .d => do
      let k := c.context x
      update fun s => if k.inTrap then s.dropActivation n x else s.endActivation n x
      leave
    | _ =>
      if c.fc.inTrap && x == .f then do
        update fun s => s.endFiring n
        leave
      else do
        update fun s => s.modCore n fun c => (c.endStream x).countPaired x
        leave
  | .io d n => do
    update fun s => s.modIo d n fun c => { c with running := false }
    leave
  | _ => leave

/-- BRK: 0x05 with its length as TVAL (R76). -/
def breakpoint (len : Nat) : M Word := do
  start .syscall []
  signal 0x05 (word len)


/-- BEQ: taken when a = b (R71). -/
def execBeq (a b : Reg) (o : BitVec 11) (s : State) : Host.Outcome State Fault Refusal :=
  runMeaning (branchIf a b o fun x y => x == y) s

/-- BNE: taken when a ≠ b (R71). -/
def execBne (a b : Reg) (o : BitVec 11) (s : State) : Host.Outcome State Fault Refusal :=
  runMeaning (branchIf a b o fun x y => x != y) s

/-- BLT: taken when a < b, signed (R71). -/
def execBlt (a b : Reg) (o : BitVec 11) (s : State) : Host.Outcome State Fault Refusal :=
  runMeaning (branchIf a b o fun x y => x.slt y) s

/-- BGE: taken when a ≥ b, signed (R71). -/
def execBge (a b : Reg) (o : BitVec 11) (s : State) : Host.Outcome State Fault Refusal :=
  runMeaning (branchIf a b o fun x y => !x.slt y) s

/-- BLTU: taken when a < b, unsigned (R71). -/
def execBltu (a b : Reg) (o : BitVec 11) (s : State) : Host.Outcome State Fault Refusal :=
  runMeaning (branchIf a b o fun x y => x.ult y) s

/-- BGEU: taken when a ≥ b, unsigned (R71). -/
def execBgeu (a b : Reg) (o : BitVec 11) (s : State) : Host.Outcome State Fault Refusal :=
  runMeaning (branchIf a b o fun x y => !x.ult y) s

/-- BQE (R73): waits on an empty queue; removes a mark and branches; leaves data in place. -/
def execBqe (q : QReg) (o : BitVec 11) (s : State) : Host.Outcome State Fault Refusal :=
  runMeaning (do
    start .bqe []
    let (_, x) ← self
    require (decide (reader q = x)) 0x0A
    let l ← getQueue q
    match l with
    | [] => queueStall
    | .mark :: _ => do
      popQueue q
      ask fun s => codeTarget s.pc o
    | .data _ :: _ => ask fun s => s.pc + 4) s

/-- JAL (R72). -/
def execJal (d : Reg) (o : BitVec 19) (s : State) : Host.Outcome State Fault Refusal :=
  runMeaning (jumpLink 4 d o) s

/-- JALR: the displacement is twice imm11 (R72). -/
def execJalr (d a : Reg) (i : BitVec 11) (s : State) : Host.Outcome State Fault Refusal :=
  runMeaning (jumpRegister 4 d a i) s

/-- JAL g0, off (R63). -/
def execC16J (o : BitVec 10) (s : State) : Host.Outcome State Fault Refusal :=
  runMeaning (jumpLink 2 0 o) s

/-- JAL g1, off: links pc + 2 (R63, R72). -/
def execC16Jal (o : BitVec 10) (s : State) : Host.Outcome State Fault Refusal :=
  runMeaning (jumpLink 2 1 o) s

/-- JALR g0, rs, 0 (R63). -/
def execC16Jr (a : Reg) (s : State) : Host.Outcome State Fault Refusal :=
  runMeaning (jumpRegister 2 0 a 0) s

/-- JALR g1, rs, 0: links pc + 2 (R63, R72). -/
def execC16Jalr (a : Reg) (s : State) : Host.Outcome State Fault Refusal :=
  runMeaning (jumpRegister 2 1 a 0) s

/-- FEND (R74). -/
def execFend (s : State) : Host.Outcome State Fault Refusal :=
  runMeaning (endWork) s

/-- FEND in 16 bits (R63, R74). -/
def execC16Fend (s : State) : Host.Outcome State Fault Refusal :=
  runMeaning (endWork) s

/-- BRK (R76). -/
def execBrk (s : State) : Host.Outcome State Fault Refusal :=
  runMeaning (breakpoint 4) s

/-- BRK in 16 bits (R63, R76). -/
def execC16Brk (s : State) : Host.Outcome State Fault Refusal :=
  runMeaning (breakpoint 2) s

/-- NOP in 16 bits (R63, R75). -/
def execC16Nop (s : State) : Host.Outcome State Fault Refusal :=
  runMeaning (after 2 (start .scalar [])) s

/-- HINT: a no-op whatever its content (R75). -/
def execHint (_ : BitVec 24) (s : State) : Host.Outcome State Fault Refusal :=
  runMeaning (after 4 (start .scalar [])) s

/-- HINT64: a no-op whatever its content (R75). -/
def execHint64 (_ : BitVec 56) (s : State) : Host.Outcome State Fault Refusal :=
  runMeaning (after 8 (start .scalar [])) s

/-- An encoding that is not an instruction raises 0x01, wherever it is met (R65); in a walk it fails the
walk (R211). -/
def execReservedEncoding (_ : Reserved) (s : State) : Host.Outcome State Fault Refusal :=
  runMeaning (signal 0x01) s

end Sys2Proof.Machine
end

