-- ==== Sys2Proof/Machine/System.lean ====
section
/-! DEFINITION. SYSC, RETK, WFI, translation control, FENCE, and the special registers (R41 to R46, R83 to
R90, R232). -/

namespace Sys2Proof.Machine

/-! ## Special registers (R41) -/

/-- What each level may do with a special register: U reads, K reads, U writes, K writes. M acts as K. -/
structure SrRights where
  uRead  : Bool
  kRead  : Bool
  uWrite : Bool
  kWrite : Bool
  deriving DecidableEq, Repr

/-- A register that everybody reads and nobody writes. -/
def SrRights.readOnly : SrRights := { uRead := true, kRead := true, uWrite := false, kWrite := false }
/-- A register that U reads and K writes. -/
def SrRights.kernelWrites : SrRights := { SrRights.readOnly with kWrite := true }
/-- A register of K. -/
def SrRights.kernel : SrRights := { uRead := false, kRead := true, uWrite := false, kWrite := true }
/-- A register of K that nobody writes. -/
def SrRights.kernelReads : SrRights := { SrRights.kernel with kWrite := false }
/-- A register that everybody writes. -/
def SrRights.open_ : SrRights := { uRead := true, kRead := true, uWrite := true, kWrite := true }

/-- The rights of a selector; none for a selector that R41 does not list. K's writes to RPSTAT, RPSEQ,
RPCOUNT and RPDIGEST change nothing (R342). -/
def srRights (sel : Nat) : Option SrRights :=
  if sel ≤ 0x02 then some .readOnly
  else if sel = 0x03 then some .kernelReads
  else if 0x08 ≤ sel ∧ sel ≤ 0x0F then some .readOnly
  else if 0x10 ≤ sel ∧ sel ≤ 0x12 then some .open_
  else if 0x19 ≤ sel ∧ sel ≤ 0x1D then some .open_
  else if 0x20 ≤ sel ∧ sel ≤ 0x23 then some .readOnly
  else if 0x28 ≤ sel ∧ sel ≤ 0x2B then some .readOnly
  else if sel = 0x30 ∨ sel = 0x31 then some .kernel
  else if sel = 0x32 then some .kernelWrites
  else if 0x33 ≤ sel ∧ sel ≤ 0x36 then some .kernel
  else if 0x40 ≤ sel ∧ sel ≤ 0x47 then some .kernelWrites
  else if sel = 0x50 then some .kernel
  else if sel = 0x51 then some .kernelReads
  else if sel = 0x58 then some .kernelWrites
  else none

/-- CWMn (R326). -/
def Chan.watermark (c : Chan) : Word :=
  word (c.done % 2 ^ 32 + c.fail.toNat * 2 ^ 61 + c.dlv.toNat * 2 ^ 62 + c.stall.toNat * 2 ^ 63)

/-- BSE jobs of a core that are outstanding (R301, R309). -/
def State.bseOut (s : State) (core : Nat) : Nat :=
  ((s.cluster (clusterOf core)).bse.filter fun j => j.cap.core == core).length

/-- GRE jobs of a core that are outstanding (R262, R270). -/
def State.greOut (s : State) (core : Nat) : Nat :=
  ((s.cluster (clusterOf core)).gre.filter fun j => j.cap.core == core).length

/-- The recovery record of a core's grid (R339); an unbound core reads zeros. -/
def State.recoveryOf (s : State) (core : Nat) : Option Recovery := (s.gridOf core).map (·.recov)

/-- RPSTAT of a core: RPEND is the grid's (R340). -/
def State.rpstat (s : State) (core : Nat) : Word :=
  setField (s.core core).sr.rpstat 8 1 (match s.recoveryOf core with | some r => r.rpend.toNat | none => 0)

/-- RPDIGEST.dn: bytes 8n to 8n + 7 of the digest, byte 8n in bits <63:56>; zero while RPSEQ is 0 (R342). -/
def Recovery.digestWord (r : Recovery) (n : Nat) : Word :=
  if r.seq = 0 then 0 else word (natOf (slice r.digest (8 * n) 8).reverse)

/-- The value of a special register as a context of a core reads it (R42 to R45, R326, R339 to R342,
R370, R393). -/
def State.readSr (s : State) (n : Nat) (x : Ctx) (sel : Nat) : Word :=
  let c := s.core n
  let k := c.context x
  let r := s.recoveryOf n
  match sel with
  | 0x00 => if x = .h ∨ x = .d then setField c.f.fire 0 4 0 else c.f.fire
  | 0x01 => word (n % 8)
  | 0x02 => word (c.ident.log % 2 ^ 24 + (if k.priv = 0 then 0 else clusterOf n * 2 ^ 40))
  | 0x03 => word (dieOf n)
  | 0x10 => k.fpstat
  | 0x11 => k.frm
  | 0x12 => c.f.srseed
  | 0x28 => setField c.sr.bjob 32 3 (s.bseOut n)
  | 0x29 => setField c.sr.gjob 32 3 (s.greOut n)
  | 0x2A => c.sr.bstat
  | 0x2B => c.sr.gstat
  | 0x30 => k.status
  | 0x31 => c.sr.tvec
  | 0x32 => c.sr.uvec
  | 0x33 => k.epc
  | 0x34 => k.cause
  | 0x35 => k.tval
  | 0x36 => c.sr.asid
  | 0x40 => s.rpstat n
  | 0x41 => word ((r.map (·.seq)).getD 0)
  | 0x42 => word ((r.map (·.expect)).getD 0)
  | 0x43 => word ((r.map (·.count)).getD 0)
  | 0x50 => c.pair.ctl
  | 0x51 => c.pair.fprint
  | 0x58 => (s.die (dieOf n)).forecast
  | _ =>
    if 0x08 ≤ sel ∧ sel ≤ 0x0F then c.ident.lvlid.get (ix 7 (sel - 0x08))
    else if 0x19 ≤ sel ∧ sel ≤ 0x1D then c.sr.wcfg.get (ix 4 (sel - 0x19))
    else if 0x20 ≤ sel ∧ sel ≤ 0x23 then (c.jobs.chans.get (ix 3 (sel - 0x20))).watermark
    else if 0x44 ≤ sel ∧ sel ≤ 0x47 then ((r.map fun r => r.digestWord (sel - 0x44)).getD 0)
    else 0

/-- The values that a register takes: reserved fields zero, and no value that its map excludes (R44, R45,
R99, R100, R195, R196, R340 to R342, R370, R393). -/
def srLegal (sel : Nat) (v : Word) : Bool :=
  match sel with
  | 0x10 => zeroField v 6 58
  | 0x11 => zeroField v 3 61 && decide (field v 0 3 < 6)
  | 0x1C =>
    zeroField v 45 3 && zeroField v 19 7 && zeroField v 4 3 && decide (field v 7 12 < 0xC00) &&
      decide (field v 26 19 < 0x60000) && decide (field v 2 2 < 3) &&
      (flag v 1 == decide (field v 2 2 = 2))
  | 0x19 | 0x1A | 0x1B | 0x1D => zeroField v 19 45 && zeroField v 0 7 && decide (field v 7 12 < 0xC00)
  | 0x30 => zeroField v 14 50 && zeroField v 0 3 && decide (field v 8 2 ≠ 2)
  | 0x31 | 0x32 | 0x33 => zeroField v 16 48 && zeroField v 0 1
  | 0x34 => zeroField v 10 54 && zeroField v 6 2 && decide (field v 8 2 ≠ 3)
  | 0x36 => zeroField v 24 40
  | 0x40 => zeroField v 32 32 && zeroField v 9 7 && zeroField v 4 3
  | 0x42 | 0x43 => zeroField v 16 48
  | 0x50 => zeroField v 48 16 && zeroField v 6 26 && zeroField v 1 1
  | 0x58 => zeroField v 48 16 && decide (field v 0 10 ≤ 320)
  | _ => true

/-- STATUS as a write leaves it (R44): PRIV and CTX stay, and outside F so does IE. -/
def statusWrite (old v : Word) (isF : Bool) : Word :=
  let st := setField old 8 2 (field v 8 2)
  let st := setField st 7 1 (field v 7 1)
  let st := setField st 6 1 (field v 6 1)
  let st := if isF then setField st 5 1 (field v 5 1) else st
  setField st 3 2 (field v 3 2)

/-- PAIRCTL as a write leaves it (R370): ROLLBK and SUSPECT change. -/
def pairWrite (old v : Word) : Word := setField (setField old 32 16 (field v 32 16)) 4 1 (field v 4 1)

/-- A context's own register written. -/
def Context.writeSr (k : Context) (isF : Bool) (sel : Nat) (v : Word) : Context :=
  match sel with
  | 0x10 => { k with fpstat := v }
  | 0x11 => { k with frm := v }
  | 0x30 => { k with status := statusWrite k.status v isF }
  | 0x33 => { k with epc := v }
  | 0x34 => { k with cause := v }
  | 0x35 => { k with tval := v }
  | _ => k

/-- A register of a core written, where the core holds it. -/
def Core.writeSr (c : Core) (x : Ctx) (sel : Nat) (v : Word) : Core :=
  match sel with
  | 0x12 => { c with f := { c.f with srseed := srSeed v } }
  | 0x31 => { c with sr := { c.sr with tvec := v } }
  | 0x32 => { c with sr := { c.sr with uvec := v } }
  | 0x36 => { c with sr := { c.sr with asid := v } }
  | 0x50 => { c with pair := { c.pair with ctl := pairWrite c.pair.ctl v } }
  | _ =>
    if 0x19 ≤ sel ∧ sel ≤ 0x1D then
      { c with sr := { c.sr with wcfg := vset c.sr.wcfg (ix 4 (sel - 0x19)) v } }
    else c.modContext x fun k => k.writeSr (x == .f) sel v

/-- `WriteSR` (R41): the grid's EXPECT (R341), the die's FORECAST (R393), or a register of the core. The
fields of RPSTAT, RPSEQ, RPCOUNT and RPDIGEST do not change (R342). -/
def State.writeSr (s : State) (n : Nat) (x : Ctx) (sel : Nat) (v : Word) : State :=
  match sel with
  | 0x42 =>
    match (s.core n).ident.grid with
    | some g => s.modGrid g fun g => { g with recov := { g.recov with expect := field v 0 16 } }
    | none => s
  | 0x58 => s.modDie (dieOf n) fun d => { d with forecast := v }
  | sel => s.modCore n fun c => c.writeSr x sel v

/-- The checks of a read (R41, R87): the selector, then the privilege. -/
def checkRead (sel : Nat) : M Unit := do
  let p ← ask State.priv
  match srRights sel with
  | none => signal 0x01
  | some r => require (if p = 0 then r.uRead else r.kRead) (if p = 0 then 0x02 else 0x01)

/-- The checks of a write (R41, R87): the selector, the privilege (0x02 where U may not write what K may,
or may not even read it), the read-only registers. -/
def checkWrite (sel : Nat) : M Unit := do
  let p ← ask State.priv
  match srRights sel with
  | none => signal 0x01
  | some r => do
    require (p != 0 || r.uWrite || (r.uRead && (!r.kWrite || decide (0x44 ≤ sel ∧ sel ≤ 0x47)))) 0x02
    require (if p = 0 then r.uWrite else r.kWrite) 0x01

/-- SRW, SRS and SRC: one read-modify-write (R87). -/
def srModify (sel : BitVec 8) (a : Reg) (f : Word → Word → Word) : M Word :=
  after 4 do
    start .srWrite [a]
    checkWrite sel.toNat
    let (n, x) ← self
    let old ← ask fun s => s.readSr n x sel.toNat
    let v ← getG a
    let v := f old v
    require (srLegal sel.toNat v) 0x01
    update fun s => (s.writeSr n x sel.toNat v).noteHere (bytesOf 8 v.toNat)

/-- SRR (R87): one of the values that the even core of a pair passes on (R367). -/
def execSrr (d : Reg) (sel : BitVec 8) (s : State) : Host.Outcome State Fault Refusal :=
  runMeaning (after 4 do
    start .srRead [d]
    checkRead sel.toNat
    let (n, x) ← self
    let bs ← external (ask fun s => bytesOf 8 (s.readSr n x sel.toNat).toNat)
    setG d (wordAt bs 0)) s

/-- SRW (R87). -/
def execSrw (sel : BitVec 8) (a : Reg) (s : State) : Host.Outcome State Fault Refusal :=
  runMeaning (srModify sel a fun _ v => v) s

/-- SRS (R87). -/
def execSrs (sel : BitVec 8) (a : Reg) (s : State) : Host.Outcome State Fault Refusal :=
  runMeaning (srModify sel a fun old v => old ||| v) s

/-- SRC (R87). -/
def execSrc (sel : BitVec 8) (a : Reg) (s : State) : Host.Outcome State Fault Refusal :=
  runMeaning (srModify sel a fun old v => old &&& ~~~v) s

/-! ## Traps, waits (R83 to R86) -/

/-- SYSC (R83). -/
def execSysc (s : State) : Host.Outcome State Fault Refusal :=
  runMeaning (do
    start .syscall []
    let p ← ask State.priv
    signal (if p = 0 then 0x06 else 0x07) 4) s

/-- RETK (R85). A firing whose context is lost is killed (R364). -/
def execRetk (s : State) : Host.Outcome State Fault Refusal :=
  runMeaning (do
    start .system []
    privileged
    let k ← ask State.context
    require (!(k.priv == 1 && k.pp == 3)) 0x01
    let (n, x) ← self
    update fun s =>
      if x = .f ∧ (s.core n).lost then s.endFiring n
      else (s.returnFromTrap n x).modCore n fun c => c.countPaired x
    leave) s

/-- WFI (R86): F is suspended; in H and D a no-op. -/
def execWfi (s : State) : Host.Outcome State Fault Refusal :=
  runMeaning (after 4 do
    start .system []
    let (n, x) ← self
    update fun s => if x = .f then s.modCore n fun c => { c with wfi := true } else s) s

/-! ## Translation control (R89, R90) -/

/-- Does a line of an L1 lie in a translation? -/
def TlbEntry.holdsLine (e : TlbEntry) (line asid : Nat) : Bool :=
  decide (e.va ≤ line * 128 ∧ line * 128 < e.va + 2 ^ e.size) && (e.asid == asid || flag e.leaf 9)

/-- The clusters that a REACH names (R89). -/
def reached (cluster reach : Nat) : List Nat :=
  match reach with
  | 0 => [cluster]
  | 1 => (List.range Config.clustersPerDie).map fun i => dieOfCluster cluster * Config.clustersPerDie + i
  | _ => List.range Config.clusterCount

/-- Translations removed from one cluster, with the L1 lines that lie in them; walks under way for it will
install nothing that matches (R89). -/
def State.removeTranslations (s : State) (i : Inval) (cluster : Nat) : State :=
  let gone := (s.cluster cluster).tlb.filter fun e => e.removedBy i
  let s := s.modCluster cluster fun c => { c with tlb := c.tlb.filter fun e => !e.removedBy i }
  let s := { s with caches := { s.caches with
      l1 := s.caches.l1.filter fun t =>
        !(clusterOf t.1 == cluster && gone.any fun e => e.holdsLine t.2.1 t.2.2.1) } }
  let mark (w : WalkReq) : WalkReq :=
    if w.clusters.contains cluster then { w with cancel := w.cancel ++ [(cluster, i)] } else w
  s.modDie (dieOfCluster cluster) fun d => { d with
    walks := d.walks.map mark
    threads := d.threads.map fun t => { t with req := mark t.req } }

/-- Does a part of a store lie in memory, through a translation? -/
def StorePart.translated (p : StorePart) : Bool := match p.place with | .mem _ => true | .scratch _ _ => false

/-- Does a line that an engine has still to write lie in memory? -/
def OutLine.translated (l : OutLine) : Bool := match l.place with | .mem _ => true | .scratch _ _ => false

/-- Is an access of a reached cluster that was translated before still to be performed (R89): a store held in a buffer, a
line of an engine job, a write or an atomic on its way to another endpoint? The gated stores of the issuing
activation are left out: they leave at its FEND, after this instruction (R14). -/
def State.storesHeld (s : State) (core : Nat) (x : Ctx) (clusters : List Nat) : Bool :=
  s.cores.any (fun p => clusters.contains (clusterOf p.1) &&
    (p.2.mem.buffer.any (fun e => e.parts.any (·.translated)) ||
      p.2.mem.gate.any fun e => e.parts.any (·.translated) && !(p.1 == core && e.act && decide (e.ctx = x)))) ||
  clusters.any (fun k => (s.cluster k).bse.any (fun j => j.lines.any (·.translated)) ||
    (s.cluster k).gre.any fun j => j.lines.any (·.translated)) ||
  s.fabric.reqs.any fun r => clusters.contains (clusterOf r.src.core) &&
    match r.kind with | .write .. => true | .atomic .. => true | _ => false

/-- TLBINV (R89). -/
def execTlbinv (a b : Reg) (s : State) : Host.Outcome State Fault Refusal :=
  runMeaning (after 4 do
    start .system [a, b]
    privileged
    let va ← getG a
    let w ← getG b
    require (zeroField w 20 44 && decide (field w 18 2 ≠ 3)) 0x01
    let (n, x) ← self
    release .cl
    let i : Inval :=
      { va := if flag w 17 then none else some va.toNat
        asid := if flag w 16 then none else some (field w 0 16) }
    let cs := reached (clusterOf n) (field w 18 2)
    update fun s => s.cores.foldl (fun s p => if cs.contains (clusterOf p.1) then s.drainAll p.1 else s) s
    let held ← ask fun s => s.storesHeld n x cs
    (if held then waitKept else pure ())
    update fun s => cs.foldl (fun s c => s.removeTranslations i c) s) s

/-- L1INV (R90): the whole L1 when the field is 0, otherwise one line under the current ASID. -/
def execL1inv (a : Reg) (s : State) : Host.Outcome State Fault Refusal :=
  runMeaning (after 4 do
    start .system [a]
    privileged
    let va ← getG a
    let (n, _) ← self
    update fun s =>
      let asid := field (s.core n).sr.asid 0 16
      { s with caches := { s.caches with
          l1 := s.caches.l1.filter fun t =>
            !(t.1 == n && (a.val == 0 || (t.2.1 == va.toNat / 128 && t.2.2.1 == asid))) } }) s

/-! ## FENCE (R232) -/

/-- May whoever executes release at recovery scope (R232): a recoverable launch, and no stream but C? -/
def State.mayRelease (s : State) : Bool :=
  match s.turn with
  | .core n x => s.hasMode n .recoverable && x != .l && x != .s
  | _ => false

/-- The release of a FENCE: at recovery scope it waits for the Keep, and is counted once (R79, R339). -/
def fenceRelease (sc : Scope) : M Unit := do
  if sc = .rc then do
    let begun ← rcBegun
    (if begun then pure () else release .sy)
    let _ ← rcWait []
  else release sc

/-- FENCE (R232). In a walk, which makes no access beyond its own area, only the ticket remains. -/
def execFence (ql : Qual) (s : State) : Host.Outcome State Fault Refusal :=
  runMeaning (after 4 do
    start .fence []
    let rc := ql.scope == .rc && ql.ord != .acq
    let may ← ask State.mayRelease
    require (!rc || may) 0x2E
    let t ← ask State.turn
    match t with
    | .core _ _ => do
      (if ql.ord = .acq then pure ()
        else if rc then do let _ ← closing (do fenceRelease .rc; pure [])
        else fenceRelease ql.scope)
      ticketFor ql
      (if ql.ord = .rel then pure () else acquire (memScope ql))
    | _ => if ql.ord = .sc then takeTicket else pure ()) s

end Sys2Proof.Machine
end

