-- ==== Sys2Proof/Machine/Engine.lean ====
section
/-! DEFINITION. What the engines of a cluster share (R10, R11, R62, R233, R261, R300): the checks of an issue,
claims, the accesses of a job to memory, element operands, and the end of a job. -/

namespace Sys2Proof.Machine

/-! ## The issuing core -/

/-- F of a core as the issuer of an engine job: checks give engine causes (R261, R300). -/
def State.issuer (s : State) (n : Nat) : Viewer := { s.viewer n .f with engine := true }

/-- A poisoned byte that an engine reads at issue: 0x32 (R261, R300). -/
def enginePoison (va : Nat) (ps : List Piece) : M Unit := do
  let (n, x) ← self
  let s ← get
  match ps.findSome? fun p => p.poisonedAt s n x with
  | some i => signal 0x32 (word (va + i))
  | none => pure ()

/-- An access of an engine at issue checked and located: checks 2 to 6 of R78. -/
def engineLocate (store : Bool) (va n : Nat) : M (List Piece) := do
  let (c, _) ← self
  let v ← ask fun s => s.issuer c
  match addressCause va n false with
  | some e => signal e (word va)
  | none =>
    match windowCause v.wcfg va n false false with
    | some e => signal e (word va)
    | none => locateAll v store va n

/-- Bytes that an engine copies at issue (R259, R299): the checks of R78 with engine causes. -/
def engineRead (va n : Nat) : M (List Byte) := do
  let ps ← engineLocate false va n
  waitClaims ps
  enginePoison va ps
  readPieces va ps

/-- Bytes from an address to the end of its line, at most `n`. -/
def lineRest (va n : Nat) : Nat := Nat.min n (128 - va % 128)

/-- The first line of a memory operand checked at issue (R300). -/
def checkFirstLine (store : Bool) (va n : Nat) : M Unit := do
  let ps ← engineLocate store va (lineRest va n)
  if store then pure () else enginePoison va ps

/-- Elements `lo` to `lo + n − 1` of an operand whose first element stands at `va` in a window, checked (R194, R300):
the cause of the first that fails. One beyond the window needs raw bytes beyond the scratchpad. -/
def windowRange (wcfg : Vector Word 5) (va lo n : Nat) : Option (Nat × Nat) :=
  (List.range n).findSome? fun i =>
    let a := va + 4 * (lo + i)
    if inScratch a && (slotOf a).1 == (slotOf va).1 && (slotOf a).2.1 == (slotOf va).2.1 then
      (windowCause wcfg a 4 true false).map fun c => (c, a)
    else some (0x1A, a)

/-! ## Claims (R233) -/

/-- Lines that a job may hold claimed at once: 4 MiB. -/
def claimLimit : Nat := 32768

/-- The owner of a line: of those who have claimed it, the first. -/
def State.claimant (s : State) (p : Place) : Option Requester :=
  (s.claims.find? fun c => decide (c.place = p)).map (·.holder)

/-- May an engine write a line now: nobody has claimed it before? -/
def State.owns (s : State) (who : Requester) (p : Place) : Bool :=
  match s.claimant p with
  | some h => decide (h = who)
  | none => true

/-- The dirty bytes of a line leave every RDC before an engine owns it: earlier writes come first. -/
def State.recallLine (s : State) (p : Place) : State :=
  match p with
  | .mem pa => (List.range 4).foldl (fun s d => s.evictRdc d (pa / 128)) s
  | .scratch _ _ => s

/-- One line claimed, where the job may hold one more: a line that another engine has claimed passes on in the order
of the claims. -/
def State.claimLine (s : State) (who : Requester) (p : Place) : State :=
  let own := s.claims.filter fun c => decide (c.holder = who)
  if own.any (fun c => decide (c.place = p)) || decide (claimLimit ≤ own.length) then s
  else { s.recallLine p with claims := s.claims ++ [{ place := p, holder := who }] }

/-- Lines claimed in order. -/
def State.claimLines (s : State) (who : Requester) (ps : List Place) : State :=
  ps.foldl (fun s p => s.claimLine who p) s

/-- Every claim of a job given up. -/
def State.dropClaims (s : State) (who : Requester) : State :=
  { s with claims := s.claims.filter fun c => decide (c.holder ≠ who) }

/-- The claim of one line given up. -/
def State.dropClaim (s : State) (who : Requester) (p : Place) : State :=
  { s with claims := s.claims.filter fun c => !(decide (c.holder = who) && decide (c.place = p)) }

/-- The lines of `n` bytes from a place. -/
def Place.lines (p : Place) (n : Nat) : List Place :=
  let off := match p with | .scratch _ o => o % 128 | .mem pa => pa % 128
  (List.range ((off + n + 127) / 128)).map fun i => p.line.add (128 * i)

/-- The lines of a destination, or what must be awaited before they are known. -/
inductive DestLines where
  | lines (l : List Place)
  | ask (f : State → State)

/-- The lines of a destination, page by page and lowest first, at most `left`: up to the first page that fails its
checks, where the job will stop (R233). -/
def State.destPages (s : State) (v : Viewer) (va : Nat) : Nat → List (Nat × Nat) → DestLines
  | _, [] => .lines []
  | 0, _ => .lines []
  | left, (o, n) :: rest =>
    let go (p : Place) : DestLines :=
      let here := p.lines n
      match s.destPages v va (left - here.length) rest with
      | .lines l => .lines ((here ++ l).take left)
      | a => a
    match s.spot v true (va + o) with
    | .at_ p _ _ => go p
    | .remote pa => go (.mem pa)
    | .miss => .ask fun s => s.requestWalk v true (va + o)
    | .away p => .ask fun s => s.askPage v.who p
    | .moving => .ask id
    | _ => .lines []

/-- The lines that a job claims at issue (R233): the issue waits for the walks of its destination's pages. Elements
behind windows 1 to 5 are never a destination of a BSE or GRE job. -/
def destLines (v : Viewer) (va n : Nat) : M (List Place) := do
  let s ← get
  if n = 0 ∨ 1 ≤ windowAt va then pure []
  else
    match s.destPages v va claimLimit (pagePieces va n) with
    | .lines l => pure l
    | .ask f => waitDo f

/-! ## Intake (R262, R295) -/

/-- Does an issue that waits for the queue still wait: F of its core stands at the same instruction? -/
def State.stillIssues (s : State) (cl : Nat) (w : Nat × Word × Word) : Bool :=
  let c := s.core (8 * cl + w.1)
  !c.fIdle && c.f.fire == w.2.1 && c.fc.pc == w.2.2

/-- Is it a core's turn: of the cores that wait, itself included, it comes next after the core served last? -/
def State.intakeTurn (s : State) (cl j : Nat) (q : Intake) : Bool :=
  let ready (k : Nat) : Bool := k == j || q.waiting.any fun w => w.1 == k && s.stillIssues cl w
  ((List.range 8).map fun i => (q.last + 1 + i) % 8).find? ready == some j

/-- An issue joins those that wait. -/
def Intake.join (q : Intake) (w : Nat × Word × Word) : Intake :=
  { q with waiting := (q.waiting.filter fun x => x.1 != w.1) ++ [w] }

/-- A core's issue has been taken. -/
def Intake.take (q : Intake) (j : Nat) : Intake := { last := j, waiting := q.waiting.filter fun x => x.1 != j }

/-- The wait for a job queue of a cluster that takes one core at a time, in turn (R262, R295): while it holds 32 jobs,
or another core's issue comes first. -/
def awaitIntake (full : Bool) (get_ : Cluster → Intake) (put : Cluster → Intake → Cluster) : M Unit := do
  let (n, _) ← self
  let s ← get
  let cl := clusterOf n
  if full || !s.intakeTurn cl (n % 8) (get_ (s.cluster cl)) then
    waitDo fun s => s.modCluster cl fun c =>
      put c ((get_ c).join (n % 8, (s.core n).f.fire, (s.core n).fc.pc))
  else update fun s => s.modCluster cl fun c => put c ((get_ c).take (n % 8))

/-! ## The run of a job -/

/-- How the run of a job stops: a failure with the page it reports, or something that it must await (a walk,
an answer of another endpoint, a page, an earlier job's line, a die under reset). -/
inductive JStop where
  | fail (cause page : Nat)
  | miss (va : Nat) (store : Bool)
  | ask (endpoint line page : Nat) (kind : RemoteKind)
  | away (page : Nat)
  | wait
  | shut
  deriving DecidableEq, Repr

/-- What a job runs in: the machine, the job as a viewer, the earlier jobs whose lines it awaits (R276), and whether it
reads past the RDC of its die (R328, R332). -/
structure JobEnv where
  s      : State
  v      : Viewer
  before : List Requester
  direct : Bool

/-- A byte that a run writes: its place, its page's RC attribute, VA<56:12>. -/
structure OutByte where
  place : Place
  byte  : Byte
  rc    : Bool
  page  : Nat
  deriving DecidableEq, Repr

/-- What a run gathers: flags, the generator, bytes written to memory (last first), bytes and elements delivered
elsewhere (last first), the widest scope touched, a count of per-occurrence evaluations, the first hinted word, the
largest |x| read (R252), and the lines read that a cache of the engine keeps (R256, R332). -/
structure JobRun where
  flags  : Nat
  seed   : Word
  out    : List OutByte
  stream : List Byte
  elems  : List Nat
  scope  : Nat
  count  : Nat
  hinted : Option Nat
  bound  : Nat
  tags   : List Nat

/-- A run that has done nothing. -/
def JobRun.start (seed : Word) : JobRun :=
  { flags := 0, seed := seed, out := [], stream := [], elems := [], scope := 0, count := 0, hinted := none, bound := 0
    tags := [] }

/-- A part of the run of a job: what it gathered stands where it stops (R269, R308). -/
abbrev J := ExceptT JStop (StateM JobRun)

/-- VA<56:12> of an address. -/
def pageOf (va : Nat) : Nat := va / 4096 % 2 ^ 45

/-- The run fails at an address. -/
def jfail {α : Type} (cause va : Nat) : J α := throw (.fail cause (pageOf va))

/-- The run fails with a cause that involves no page. -/
def jreject {α : Type} (cause : Nat) : J α := throw (.fail cause 0)

/-- Flags gathered. -/
def jflags (fl : Nat) : J Unit := modify fun r => { r with flags := r.flags ||| fl }

/-- The scope of a place for an issuing core (R233). -/
def placeScope (core : Nat) : Place → Nat
  | .scratch c _ => if c = core then 0 else if clusterOf c = clusterOf core then 1 else if dieOf c = dieOf core then 2 else 3
  | .mem pa => if isFabric pa then 4 else if homeDie pa = dieOf core then 2 else 3

/-- A place touched. -/
def jtouch (e : JobEnv) (p : Place) : J Unit :=
  modify fun r => { r with scope := max r.scope (placeScope e.v.core p) }

/-- Where a byte of a job's access lies: a place (with RC), or an address at another endpoint. A page that was refused
fails it with 0x38 (R217). -/
def jspot (e : JobEnv) (store : Bool) (va : Nat) : J (Place × Bool) :=
  match e.s.spot e.v store va with
  | .at_ p rc _ => pure (p, rc)
  | .remote pa => pure (.mem pa, false)
  | .bad c => jfail c va
  | .refused _ => jfail 0x38 va
  | .miss => throw (.miss va store)
  | .moving => throw .wait
  | .away p => throw (.away p)
  | .shut => if Config.freeIndex e.s.fresh % 2 = 0 then throw .shut else jfail 0x37 va

/-- A source line of another endpoint, which the job reads once (R16, R225, R233), or the stop that asks for it. -/
def jremote (e : JobEnv) (pa va : Nat) : J (List Byte) :=
  let (ep, off) := endpointOf (pa / 128 * 128)
  let kind : RemoteKind := .read off 128
  match e.s.fabric.engine.find? fun a => decide (a.who = e.v.who ∧ a.endpoint = ep ∧ a.kind = kind) with
  | some { answer := some (st, data), .. } =>
    match remoteCause st with
    | none => pure data
    | some 0x31 => jfail 0x32 va
    | some c => jfail c va
  | some _ => throw .wait
  | none =>
    match e.s.remoteRefused e.v.core ep with
    | some c => jfail c va
    | none => throw (.ask ep (pa / 128) (pageOf va) kind)

/-- `n` bytes at another endpoint, line by line. -/
def jremotes (e : JobEnv) (pa va n : Nat) : J (List Byte) := do
  let lines ← (List.range ((pa % 128 + n + 127) / 128)).mapM fun i => do
    let a := if i = 0 then pa else pa / 128 * 128 + 128 * i
    let bs ← jremote e a (va + (a - pa))
    pure (slice bs (a % 128) (Nat.min (128 - a % 128) (pa + n - a)))
  pure lines.flatten

/-- A byte as a job reads it: through the RDC of its die, or at its home. -/
def JobEnv.byteAt (e : JobEnv) (p : Place) : Byte :=
  match e.direct, p with
  | true, .mem pa => memGet e.s.mem pa
  | _, _ => e.s.readPlace e.v.core p

/-- Is a byte's word poisoned as a job reads it? -/
def JobEnv.poisonedAt (e : JobEnv) (p : Place) : Bool :=
  match e.direct, p with
  | true, .mem pa => e.s.poison.contains (pa / 8)
  | _, _ => e.s.isPoisoned e.v.core p

/-- Has an earlier job of the queue claimed a line, and not finished it (R276)? -/
def JobEnv.heldBefore (e : JobEnv) (p : Place) : Bool :=
  e.s.claims.any fun c => decide (c.place = p.line) && e.before.contains c.holder

/-- Bytes at a place as the job reads them: poison fails the job with 0x32 (R361); a line claimed by an
earlier job of its queue makes it wait (R276). -/
def jplace (e : JobEnv) (va : Nat) (p : Place) (n : Nat) : J (List Byte) := do
  (if e.heldBefore p || e.heldBefore (p.add (n - 1)) then throw .wait else pure ())
  match (List.range n).find? fun i => e.poisonedAt (p.add i) with
  | some i => jfail 0x32 (va + i)
  | none => pure ((List.range n).map fun i => e.byteAt (p.add i))

/-- One run of bytes within a page. -/
def jreadPiece (e : JobEnv) (va n : Nat) : J (List Byte) := do
  let (p, _) ← jspot e false va
  jtouch e p
  match p with
  | .mem pa => if isFabric pa then jremotes e pa va n else jplace e va p n
  | .scratch _ _ => jplace e va p n

/-- Parts of an access in order. -/
def jreadPieces (e : JobEnv) (va : Nat) : List (Nat × Nat) → J (List Byte)
  | [] => pure []
  | (o, n) :: rest => do
    let a ← jreadPiece e (va + o) n
    let b ← jreadPieces e va rest
    pure (a ++ b)

/-- Bytes that a job reads after issue: checks of R78 with engine causes (R269, R308). -/
def jread (e : JobEnv) (va n : Nat) : J (List Byte) :=
  match addressCause va n false with
  | some c => jfail c va
  | none =>
    match windowCause e.v.wcfg va n false false with
    | some c => jfail c va
    | none => jreadPieces e va (pagePieces va n)

/-- The line of an address that has been read, which a cache of the engine keeps (R256, R332). -/
def jtag (e : JobEnv) (va : Nat) : J Unit := do
  let (p, _) ← jspot e false va
  match p with
  | .mem pa => if isFabric pa then pure () else modify fun r => { r with tags := r.tags ++ [pa / 128] }
  | .scratch _ _ => pure ()

/-- One destination run of bytes within a page. -/
def jwritePiece (e : JobEnv) (va : Nat) (bs : List Byte) (o n : Nat) : J Unit := do
  let (p, rc) ← jspot e true (va + o)
  jtouch e p
  let outs := (List.range n).map fun i =>
    ({ place := p.add i, byte := bs.getD (o + i) 0, rc := rc, page := pageOf (va + o) } : OutByte)
  modify fun r => { r with out := outs.reverse ++ r.out }

/-- Destination bytes that a job writes: the checks of R78 with engine causes. -/
def jwrite (e : JobEnv) (va : Nat) (bs : List Byte) : J Unit :=
  match addressCause va bs.length false with
  | some c => jfail c va
  | none =>
    match windowCause e.v.wcfg va bs.length false false with
    | some c => jfail c va
    | none => (pagePieces va bs.length).forM fun p => jwritePiece e va bs p.1 p.2

/-! ## Element operands (R11, R91, R194) -/

/-- The format of a code (R91): 0xF has none. -/
def fmtOfCode (c : Nat) : Option Fmt :=
  [Fmt.f32, .bf16, .f16, .e4m3, .e5m2, .e2m1, .mxf4, .gf4, .mxf8, .i8, .i16, .i32, .rns3, .ui8, .i4][c]?

/-- A vector of elements in memory: its address, its format, and its window (0: none). -/
structure Operand where
  va  : Nat
  fmt : Fmt
  win : Nat
  deriving DecidableEq, Repr

/-- The format in which a window holds its elements (R193). -/
def windowHolds (w4 : Word) (w : Nat) : Fmt :=
  match w with
  | 1 => .bf16 | 2 => .e4m3 | 3 => .e5m2 | 4 => windowFormat w4 | _ => .rns3

/-- An operand at an address: the window decides the format, elsewhere the command does (R11). -/
def operandAt (wcfg : Vector Word 5) (va : Nat) (f : Fmt) : Operand :=
  let w := windowAt va
  if 1 ≤ w ∧ w ≤ 5 then { va := va, fmt := windowHolds (windowConfig wcfg 4) w, win := w }
  else { va := va, fmt := f, win := 0 }

/-- Raw bytes of a slot that a job reads for an element at `va` of a window. -/
def jraw (e : JobEnv) (va slot raw n : Nat) : J Nat := do
  match e.s.slotSpot e.v false slot raw with
  | .at_ p _ _ => do
    jtouch e p
    let bs ← jplace e va p n
    pure (natOf bs)
  | .bad c => jfail c va
  | _ => throw .wait

/-- The window element at an address, after the checks of R78 check 5. -/
def jwindowElem (e : JobEnv) (va : Nat) : J (Nat × WindowElem) :=
  match windowCause e.v.wcfg va 4 true false with
  | some c => jfail c va
  | none =>
    let (slot, w, o) := slotOf va
    pure (slot, windowElem e.v.wcfg w o)

/-- The raw code and the scale of a window element: a GF4 skip-code block reads its scale alone (R104). -/
def jwindowCode (e : JobEnv) (va : Nat) : J (WindowElem × Nat × Nat) := do
  let (slot, el) ← jwindowElem e va
  match el.scale with
  | none => do
    let x ← jraw e va slot el.raw el.bytes
    pure (el, x, 0)
  | some sc => do
    let k ← jraw e va slot sc 1
    if isSkip (windowFormat (windowConfig e.v.wcfg 4)) k then pure (el, 0, k)
    else do
      let x ← jraw e va slot el.raw 1
      pure (el, x / 16 ^ (el.index % 2) % 16, k)

/-- The pattern that a load through a window returns (R81): code and flags. -/
def jwindowPattern (e : JobEnv) (va : Nat) : J (Nat × Nat × Bool) := do
  let (slot, el) ← jwindowElem e va
  let (_, x, k) ← jwindowCode e va
  let _ := slot
  let w4 := windowConfig e.v.wcfg 4
  pure (windowDecode w4 el (if el.window = 4 then x * 16 ^ (el.index % 2) else x) k)

/-- The code of element `i` of an operand outside windows 1 to 5 (R91). -/
def jcode (e : JobEnv) (o : Operand) (i : Nat) : J Nat :=
  let w := o.fmt.width
  if w < 8 then do
    let bs ← jread e (o.va + i / 2) 1
    pure (natOf bs / 16 ^ (i % 2) % 16)
  else do
    let bs ← jread e (o.va + i * (w / 8)) (w / 8)
    pure (natOf bs)

/-! ## The end of a run -/

/-- The offset of a place in its line. -/
def Place.inLine : Place → Nat
  | .scratch _ o => o % 128
  | .mem pa => pa % 128

/-- Bytes written, grouped by line in ascending order of the lines' first byte. -/
def groupLines (out : List OutByte) : List OutLine :=
  out.foldl (fun ls b =>
    if ls.any fun l => decide (l.place = b.place.line) then
      ls.map fun l => if l.place = b.place.line then { l with bytes := l.bytes ++ [(b.place.inLine, b.byte)] } else l
    else ls ++ [{ place := b.place.line, page := b.page, bytes := [(b.place.inLine, b.byte)], rc := b.rc }]) []

/-- The scope of a code (R20). -/
def scopeOfNo (n : Nat) : Scope :=
  match n with | 0 => .co | 1 => .cl | 2 => .di | 3 => .dv | _ => .sy

/-- Does a cause of failure report a page (R271, R310)? -/
def reportsPage (c : Nat) : Bool := decide ((0x12 ≤ c ∧ c ≤ 0x1B) ∨ c = 0x32)

/-- The end of a run: complete, or failed with a cause and a page. -/
def jobEnd {α : Type} (r : Except JStop α) (run : JobRun) : JobEnd :=
  let hint := run.hinted.isSome
  let info := run.hinted.getD 0
  match r with
  | .error (.fail c p) =>
    { state := 2, cause := c, info := if reportsPage c then p else 0, hint := hint, count := Nat.min run.count 1023, flags := run.flags }
  | _ => { state := 1, cause := 0, info := info, hint := hint, count := Nat.min run.count 1023, flags := run.flags }

/-- A request of an engine to another endpoint leaves. -/
def State.sendEngine (s : State) (who : Requester) (core endpoint line page : Nat) (kind : RemoteKind) : State :=
  let a : EngineAccess :=
    { who := who, page := page, id := s.fabric.nextReq, endpoint := endpoint, kind := kind, answer := none }
  let s := { s with fabric := { s.fabric with engine := s.fabric.engine ++ [a] } }
  s.sendRemote { core := core, ctx := .f } endpoint line kind false

/-- What a stopped run asks for before it can run again. -/
def State.jobAwaits (s : State) (v : Viewer) : JStop → State
  | .miss va store => s.requestWalk v store va
  | .away p => s.askPage v.who p
  | .ask ep line page kind => s.sendEngine v.who v.core ep line page kind
  | .shut => s.draw.2
  | _ => s

/-- The refusals and the pages that a requester has asked for are forgotten (R217). -/
def State.forgetPages (s : State) (who : Requester) : State :=
  { s with fabric := { s.fabric with pages := s.fabric.pages.map fun (p : Nat × Migration) =>
      (p.1, { p.2 with refused := p.2.refused.filter fun r => decide (r ≠ who)
                       waiting := p.2.waiting.filter fun r => decide (r ≠ who) }) } }

/-- What a job asked for outside the device is forgotten, and its failed walks. -/
def State.forgetJob (s : State) (cluster : Nat) (who : Requester) : State :=
  let s := s.forgetPages who
  let s := { s with fabric := { s.fabric with engine := s.fabric.engine.filter fun a => decide (a.who ≠ who) } }
  s.modCluster cluster fun c => { c with fails := c.fails.filter fun f => decide (f.1 ≠ who) }

/-- The byte that a line gives an offset: the last one written. -/
def OutLine.byteAt (l : OutLine) (off : Nat) : Option Byte := (l.bytes.reverse.find? fun p => p.1 == off).map (·.2)

/-- What a line writes, in ascending order: whole 64-bit words, which lose their poison (R361), and single bytes. -/
def OutLine.pieces (l : OutLine) : List (Nat × List Byte) :=
  (List.range 16).flatMap fun w =>
    let bs := (List.range 8).map fun i => l.byteAt (8 * w + i)
    if bs.all Option.isSome then [(8 * w, bs.filterMap id)]
    else bs.zipIdx.filterMap fun p => p.1.map fun b => (8 * w + p.2, [b])

/-- The bytes of a line in runs of successive offsets, ascending. -/
def OutLine.runs (l : OutLine) : List (Nat × List Byte) :=
  ((List.range 128).filterMap fun o => (l.byteAt o).map fun b => (o, b)).foldr (fun p rs =>
    match rs with
    | (o, bs) :: rest => if o = p.1 + 1 then (p.1, p.2 :: bs) :: rest else (p.1, [p.2]) :: rs
    | [] => [(p.1, [p.2])]) []

/-- The bytes of a finished line reach memory, each once (R228, R233): at the owning scratchpad (both copies of a
pair's, R367), at home, at home and the Keep (R338), or at another endpoint, one write for each run (R376). -/
def State.writeLine (s : State) (who : Requester) (core : Nat) (l : OutLine) : State :=
  match l.place with
  | .scratch c o =>
    l.pieces.foldl (fun s p => s.writeScratch c { core := core, ctx := .d } (o + p.1) p.2) s
  | .mem pa =>
    if isFabric pa then
      l.runs.foldl (fun s p =>
        let (ep, off) := endpointOf (pa + p.1)
        (s.sendEngine who core ep (pa / 128) l.page (.write off p.2 false)).dropHostLine (dieOf core) pa 128) s
    else if l.rc then l.pieces.foldl (fun s p => s.writeRc none (some who) (pa + p.1) p.2) s
    else l.pieces.foldl (fun s p => s.writeHome (pa + p.1) p.2) s

/-- The job writes of an engine that other endpoints or the Keep have still to acknowledge (R16, log 21). -/
def State.jobUnanswered (s : State) (who : Requester) : Bool :=
  (s.keep.msgs.any fun m => decide (m.job = some who)) ||
    (s.fabric.engine.any fun a => decide (a.who = who) && a.answer.isNone)

/-- The cause with which a remote write of a job failed, and its page, where one did. -/
def State.jobWriteFailed (s : State) (who : Requester) : Option (Nat × Nat) :=
  s.fabric.engine.findSome? fun a =>
    if a.who = who then
      match a.kind, a.answer with
      | .write .., some (st, _) => (remoteCause st).map fun c => (c, a.page)
      | _, _ => none
    else none

/-- A failed remote write fails the job that made it (R16, R269, R308): the page is that of the write (R271, R310). -/
def State.withWrites (s : State) (who : Requester) (e : JobEnd) : JobEnd :=
  match s.jobWriteFailed who with
  | some (c, p) => if e.state = 1 then { e with state := 2, cause := c, info := if reportsPage c then p else 0 } else e
  | none => e

/-! ## Completion records (R10, R274, R313) -/

/-- The 16 bytes of a completion record: id, STATE, CAUSE, address. -/
def completionRecord (id state cause : Nat) (addr : Word) : Rec :=
  { w0 := word (id + state * 2 ^ 16 + cause * 2 ^ 24), w1 := addr, pinned := false }

/-- A completion record lands at the issuing core, where its slot holds a stage and its store has room: the
state, and whether the job is done with it. A slot without a stage loses the record. -/
def State.landRecord (s : State) (core slot : Nat) (r : Rec) : State × Bool :=
  match s.stage core slot with
  | none => (s, true)
  | some _ => if !s.roomBeyondReserve core then (s, false) else (s.pushRecord core slot r, true)

/-- The status of a finished job kept: the last 16 (R272, R311). -/
def keepStatus (l : List JobStatus) (st : JobStatus) : List JobStatus :=
  let l := l ++ [st]
  l.drop (l.length - 16)

/-- `IssueJob` (R62): the next id of a cluster's counter that no outstanding job has. -/
def nextId (used : List Nat) (fuel id : Nat) : Nat :=
  match fuel with
  | 0 => id % 65536
  | fuel + 1 => if used.contains (id % 65536) then nextId used fuel (id + 1) else id % 65536

end Sys2Proof.Machine
end

