-- ==== Sys2Proof/Machine/Bse.lean ====
section
/-! DEFINITION. The BSE instructions (R297 to R314): the checks of an issue (R300), the issue (R301), BSET,
BRST, BWAIT and BPOLL. -/

namespace Sys2Proof.Machine

/-! ## Operands (R298, R299) -/

/-- What an issue that passed its checks sends to the queue: the command, the completion slot, and the
destination of a BACC: address and bytes. -/
structure BseIssue where
  cmd  : BseCmd
  push : Option Nat
  dest : Option (Nat × Nat)
  draw : Bool

/-- The completion slot of a count or region operand. -/
def pushSlot (w : Word) : Option Nat := if flag w 56 then some (field w 52 4) else none

/-- Words of the accumulator store (R286). -/
def accWords : Nat := 196608

/-- Bytes of the weight buffer (R284). -/
def weightBytes : Nat := 262144

/-- The words of a region. -/
def Region.words (r : Region) : Nat := r.rows * r.cols

/-- The region operand (R298). -/
def regionOf (w : Word) : Region :=
  { rows := field w 32 18, cols := field w 18 14, base := field w 0 18, part := flag w 51 }

/-- Is a region operand legal: zero fields, ranges, its end in the store (R286, R298)? -/
def regionLegal (w : Word) (bacc : Bool) : Bool :=
  let r := regionOf w
  zeroField w 57 7 && !flag w 50 && (bacc || !flag w 51) && decide (1 ≤ r.rows) &&
    decide (1 ≤ r.cols ∧ r.cols ≤ 4096) && decide (r.base + r.words ≤ accWords)

/-- Is a number a power of two from 2 to 4,096? -/
def isStageWidth (l : Nat) : Bool := (List.range 12).any fun i => l == 2 ^ (i + 1)

/-- The bytes of a stage's weight area (R284): its start and its size. -/
def weightArea (f : Fmt) (l : Nat) (bs : BitVec 32) : Nat × Nat :=
  (field bs 16 16 * 4, (if flag bs 6 then 3 else 2) * l * (f.width / 8))

/-- Is a stage legal for rows of `l` words (R288)? -/
def stageLegal (f : Fmt) (l : Nat) (bs : BitVec 32) : Bool :=
  let (o, n) := weightArea f l bs
  decide (2 ^ field bs 0 5 < l) && zeroField bs 7 9 && decide (o + n ≤ weightBytes)

/-- Does the launch of a core bind a level to the cluster-pair domain (R294)? -/
def State.bindsPair (s : State) (n : Nat) : Bool :=
  match s.infoOf n with
  | some i => i.levels.any fun l => l.1 == 2
  | none => false

/-! ## Memory operands (R300 order 8) -/

/-- A scratchpad operand of `n` bytes through window 0: its slot and its raw bytes. -/
def checkSlotRange (store : Bool) (va n : Nat) : M Unit := do
  let (c, _) ← self
  let v ← ask fun s => s.issuer c
  let (slot, _, o) := slotOf va
  require (decide (o + n ≤ Config.scratchBytes)) 0x1A (word va)
  let s ← get
  match s.slotSpot v store slot o with
  | .bad e => signal e (word va)
  | _ => pure ()

/-- A scratchpad operand through windows 1 to 5: elements `lo` to `lo + n − 1` from its address. -/
def checkWindowRange (store : Bool) (va lo n : Nat) : M Unit := do
  let (c, _) ← self
  let v ← ask fun s => s.issuer c
  match windowRange v.wcfg va lo n with
  | some (e, a) => signal e (word a)
  | none => do
    let s ← get
    let (slot, w, o) := slotOf va
    match s.slotSpot v store slot (windowElem v.wcfg w o).raw with
    | .bad e => signal e (word va)
    | _ => pure ()

/-- A memory operand: every raw byte in a scratchpad, otherwise its first line. -/
def checkOperand (store : Bool) (va n : Nat) : M Unit := do
  match addressCause va n false with
  | some e => signal e (word va)
  | none =>
    if inScratch va then
      if windowAt va = 0 then checkSlotRange store va n else signal 0x1A (word va)
    else checkFirstLine store va n

/-! ## The checks of each job (R300) -/

/-- BLDW from memory. -/
def checkLoad (a b : Reg) (off : BitVec 16) : M BseIssue := do
  let src ← getG a
  let w ← getG b
  let n := field w 0 19
  require (zeroField w 57 7 && zeroField w 19 33) 0x20
  require (decide (n % 16 = 0 ∧ 16 ≤ n ∧ n ≤ weightBytes)) 0x20
  require (decide (16 * off.toNat + n ≤ weightBytes ∧ src.toNat % 16 = 0)) 0x20
  checkOperand false src.toNat n
  pure { cmd := .load src n (16 * off.toNat), push := pushSlot w, dest := none, draw := false }

/-- The weight format of a GEXP stream (R285): a POS grammar without SCAN, whose terminals, or the window
that holds them, have a weight format. -/
def GreJob.weightFormat (j : GreJob) : Option Fmt :=
  let g := j.gd
  let pos := natAt g 8 1 % 2 == 0
  let scan := natAt j.args 28 1 % 2 == 1
  match j.cmd with
  | .expand .weightPort =>
    if !pos || scan then none
    else
      let w := windowAt (natAt g 24 8)
      if 1 ≤ w ∧ w ≤ 5 then [Fmt.bf16, .e4m3, .e5m2][w - 1]?
      else if natAt g 9 1 % 16 ≤ 4 then fmtOfCode (natAt g 9 1 % 16)
      else none
  | _ => none

/-- The elements that a GEXP was asked for (R259). -/
def GreJob.expandCount (j : GreJob) : Nat := natAt j.args 20 4

/-- BLDW from a GEXP stream (R285, R302). -/
def checkLoadGexp (a b : Reg) (off : BitVec 16) : M BseIssue := do
  let (n, _) ← self
  let id ← getG a
  let w ← getG b
  require (zeroField w 57 7 && zeroField w 0 52) 0x20
  let cl ← ask fun s => s.cluster (clusterOf n)
  let id := id.toNat % 65536
  let free := cl.bse.all fun j =>
    match j.cmd with | .loadGexp g _ => g != id | _ => true
  match cl.gre.find? fun j => j.id == id && j.cap.core == n with
  | none => signal 0x20
  | some j =>
    match j.weightFormat with
    | none => signal 0x20
    | some f => do
      require (free && decide (16 * off.toNat + j.expandCount * (f.width / 8) ≤ weightBytes)) 0x20
      pure { cmd := .loadGexp id (16 * off.toNat), push := pushSlot w, dest := none, draw := false }

/-- The memory input of a chain (R287, R300): its alignment. -/
def checkInputAlign (f : Fmt) (va : Nat) : M Unit :=
  require (decide (windowAt va ≠ 0 ∨ va % (f.width / 8) = 0)) 0x20

/-- The memory input of a chain of `n` elements: its window and its bytes. -/
def checkInput (f : Fmt) (va n : Nat) : M Unit := do
  let w := windowAt va
  if w = 0 then checkOperand false va (n * (f.width / 8))
  else if 4 ≤ w then signal 0x1A (word va)
  else checkWindowRange false va 0 n

/-- BSTG and BCHN: the region, the stages in order, the input. -/
def checkChain (f : Fmt) (mode : ChainMode) (a b : Reg) (regs : List (Fin 16)) : M BseIssue := do
  let (n, _) ← self
  let w ← getG b
  let r := regionOf w
  require (regionLegal w false && isStageWidth r.cols) 0x20
  let src ← getG a
  (if a = 0 then pure () else checkInputAlign f src.toNat)
  let bs ← ask fun s => regs.map fun k => (s.core n).f.bs.get k
  require (bs.all fun x => stageLegal f r.cols x) 0x21
  (if a = 0 then pure () else checkInput f src.toNat r.words)
  pure { cmd := .chain f mode (if a = 0 then none else some src) r bs, push := pushSlot w, dest := none
         draw := mode == .sr16 }

/-- The row of R291 to which an operand format belongs. -/
def tileRow (f : Fmt) : Nat :=
  match f with
  | .bf16 | .f16 => 1
  | .e4m3 | .e5m2 | .mxf8 => 2
  | .e2m1 | .mxf4 | .gf4 => 3
  | .i8 | .ui8 => 4
  | .i4 => 5
  | .rns3 => 6
  | _ => 0

/-- Is a format read with block scales? -/
def isBlockFmt (f : Fmt) : Bool := f == .mxf4 || f == .gf4 || f == .mxf8

/-- The block size of a tile operand (R103, R196, R299). -/
def tileBlock (o : Operand) (w4 : Word) (b16 : Bool) : Nat :=
  if o.win = 4 then windowBlock w4
  else match o.fmt with | .gf4 => if b16 then 16 else 8 | _ => 32

/-- An operand of a tile lies in a slot of the issuing team, or of the pair's teams (R293). -/
def tilePlaced (s : State) (n : Nat) (pair : Bool) (va : Nat) : Bool :=
  let team := s.lvlid0 n / 8
  let t := (slotOf va).1 / 8
  inScratch va && (if pair then t / 2 == team / 2 else t == team)

/-- The stride of a tile operand (R290, R299). -/
def strideLegal (o : Operand) (k ld : Nat) : Bool := decide (k ≤ ld) && (o.fmt.width != 4 || ld % 2 == 0)

/-- The block size of a block operand divides K and both strides (R290, R299). -/
def blockLegal (o : Operand) (b k lda ldb : Nat) : Bool :=
  !isBlockFmt o.fmt || (k % b == 0 && lda % b == 0 && ldb % b == 0)

/-- The scale fields of a tile operand (R299): scale arrays through window 0 only, tensor scales for GF4. -/
def scalesLegal (o : Operand) (scale tscale : Nat) : Bool :=
  (decide (scale = 0) || (isBlockFmt o.fmt && o.win == 0)) && (decide (tscale = 0) || (o.fmt == .gf4 && o.win == 0))

/-- The tile block (R299) and the conditions of R290 to R293. -/
def tileLegal (wcfg : Vector Word 5) (pair : Bool) (a b : Operand) (t : List Byte) : Bool :=
  let m := natAt t 0 2
  let n := natAt t 2 2
  let k := natAt t 4 4
  let b16 := natAt t 52 1 % 2 == 1
  let w4 := windowConfig wcfg 4
  let gf4 := (a.fmt == .gf4 && a.win == 0) || (b.fmt == .gf4 && b.win == 0)
  let rns := a.fmt == .rns3 || b.fmt == .rns3
  decide (1 ≤ m ∧ m ≤ 512 ∧ 1 ≤ k ∧ k ≤ 65536) &&
    (if pair then decide (2 ≤ n ∧ n ≤ 768 ∧ n % 2 = 0) else decide (1 ≤ n ∧ n ≤ 384)) &&
    strideLegal a k (natAt t 8 4) && strideLegal b k (natAt t 12 4) &&
    blockLegal a (tileBlock a w4 b16) k (natAt t 8 4) (natAt t 12 4) &&
    blockLegal b (tileBlock b w4 b16) k (natAt t 8 4) (natAt t 12 4) &&
    decide (natAt t 16 4 + m * (if pair then n / 2 else n) ≤ accWords) &&
    decide (natAt t 20 4 = 0) && (rns || decide (natAt t 24 8 = 0)) &&
    scalesLegal a (natAt t 32 8) (natAt t 48 2) && scalesLegal b (natAt t 40 8) (natAt t 50 2) &&
    decide (natAt t 52 1 < 2) && (gf4 || !b16) && decide (natAt t 53 1 < 32) && decide (natAt t 54 10 = 0) &&
    decide (tileRow a.fmt ≠ 0 ∧ tileRow a.fmt = tileRow b.fmt)

/-- A tile operand, `rows` runs of `k` elements `ld` elements apart, and its scale array at `scale` in blocks of `b`:
every raw byte of what lies in a scratchpad, otherwise the first line (R300 order 8). -/
def checkTileOperand (o : Operand) (rows k ld b scale : Nat) : M Unit := do
  let n := (rows - 1) * ld + k
  if o.win = 0 then do
    checkOperand false o.va ((n * o.fmt.width + 7) / 8)
    if isBlockFmt o.fmt then checkOperand false scale (n / b) else pure ()
  else (List.range rows).forM fun r => checkWindowRange false o.va (r * ld) k

/-- BMMA and BMMAP: the tile block, the shape, the pair, the operands. -/
def checkTile (pair acc : Bool) (fa fb : Fmt) (a b c : Reg) : M BseIssue := do
  let (n, _) ← self
  let tb ← getG c
  require (decide (tb.toNat % 64 = 0)) 0x20 tb
  let t ← engineRead tb.toNat 64
  let va ← getG a
  let vb ← getG b
  let s ← get
  let wcfg := (s.core n).sr.wcfg
  let oa := operandAt wcfg va.toNat fa
  let ob := operandAt wcfg vb.toNat fb
  require (tileLegal wcfg pair oa ob t) 0x20
  require (tilePlaced s n pair va.toNat && tilePlaced s n pair vb.toNat) 0x20
  require (!pair || s.bindsPair n) 0x3D
  let w4 := windowConfig wcfg 4
  let b16 := natAt t 52 1 % 2 == 1
  checkTileOperand oa (natAt t 0 2) (natAt t 4 4) (natAt t 8 4) (tileBlock oa w4 b16) (natAt t 32 8)
  checkTileOperand ob (natAt t 2 2) (natAt t 4 4) (natAt t 12 4) (tileBlock ob w4 b16) (natAt t 40 8)
  let p := natAt t 53 1
  pure { cmd := .tile pair fa fb acc va vb t, push := if p / 16 % 2 = 1 then some (p % 16) else none, dest := none
         draw := false }

/-- BACC: the region, the destination. -/
def checkReadout (op : BaccOp) (f : Fmt) (rnd : Rnd) (nsat : Bool) (sh : Nat) (a b : Reg) : M BseIssue := do
  let (n, _) ← self
  let w ← getG b
  let r := regionOf w
  require (regionLegal w true) 0x20
  let dst ← getG a
  let bytes := r.words * (f.width / 8)
  let clr := op == .clr
  require (clr || decide (dst.toNat % (f.width / 8) = 0)) 0x20
  let s ← get
  require (!r.part || s.bindsPair n) 0x3D
  (if clr then pure () else checkOperand true dst.toNat bytes)
  let mode := modeOf rnd (s.core n).fc
  let raw := clr || ((op == .res || op == .restake) && f == .rns3)
  pure { cmd := .readout op f rnd nsat sh dst r, push := pushSlot w
         dest := if clr then none else some (dst.toNat, bytes), draw := mode == 5 && !raw }

/-! ## The issue (R301) -/

/-- What a job of the executing core captures at issue (R88, R301, R102). -/
def capture (push : Option Nat) (scope : Scope) : M Captured := do
  let (n, _) ← self
  ask fun s =>
    let c := s.core n
    { core := n, log := c.ident.log, asid := c.sr.asid, user := c.fc.priv == 0, mode := field c.fc.frm 0 3
      wcfg := c.sr.wcfg, seed := c.f.srseed, push := push, scope := scope, fire := c.f.fire
      upcall := c.firing == .upcall }

/-- The job enters the queue of its cluster, with its destination lines claimed (R233, R301): its id. -/
def submitBse (i : BseIssue) : M Nat := do
  let (n, _) ← self
  release .dv
  let cap ← capture i.push .dv
  let s ← get
  let cl := s.cluster (clusterOf n)
  let id := nextId (cl.bse.map (·.id)) 64 cl.nextBse
  let job : BseJob :=
    { id := id, cap := cap, cmd := i.cmd, begun := false, result := none, lines := [], pushing := false }
  let lines ← match i.dest with
    | some (va, len) => destLines (s.issuer n) va len
    | none => pure []
  update fun s =>
    let s := s.modCluster (clusterOf n) fun c => { c with bse := c.bse ++ [job], nextBse := (id + 1) % 65536 }
    let s := s.modCore n fun c => { c with sr := { c.sr with bjob := word (65536 + id) } }
    s.claimLines (.bse (clusterOf n) id) lines
  pure id

/-- An instruction that issues a BSE job (R300, R301): room, checks, the queue; then `gd`, the hold, and the
step of the generator. -/
def issueBse (d : Reg) (rs : List Reg) (check : M BseIssue) : M Word :=
  after 8 do
    start .engine (d :: rs)
    let (n, _) ← self
    let bs ← closing do
      let s ← get
      waitWhile (decide (4 ≤ s.bseOut n))
      awaitIntake (decide (32 ≤ (s.cluster (clusterOf n)).bse.length)) (·.bseIn) fun c q => { c with bseIn := q }
      let i ← check
      let id ← submitBse i
      pure (bytesOf 2 id ++ [if i.draw then 1 else 0])
    update fun s => s.modCore n fun c => { c with f := { c.f with holdsBse := true } }
    (if natAt bs 2 1 = 1 then do
        let x ← getSeed
        setSeed (srStep x)
      else pure ())
    setG d (word (natAt bs 0 2))

/-- BLDW (R302). -/
def execBldw (d a b : Reg) (off : BitVec 16) (s : State) : Host.Outcome State Fault Refusal :=
  runMeaning (issueBse d [a, b] (checkLoad a b off)) s

/-- BLDW.gexp (R302). -/
def execBldwGexp (d a b : Reg) (off : BitVec 16) (s : State) : Host.Outcome State Fault Refusal :=
  runMeaning (issueBse d [a, b] (checkLoadGexp a b off)) s

/-- BSTG (R304): one stage under `.w`. -/
def execBstg (f : Fmt) (d a b : Reg) (bsn : Fin 16) (s : State) : Host.Outcome State Fault Refusal :=
  runMeaning (issueBse d [a, b] (checkChain f .w a b [bsn])) s

/-- BCHN (R304): stages `bs0` to `bs`n. -/
def execBchn (f : Fmt) (mode : ChainMode) (d a b : Reg) (n : Fin 16) (s : State) : Host.Outcome State Fault Refusal :=
  runMeaning (issueBse d [a, b]
    (checkChain f mode a b ((List.finRange 16).filter fun k => decide (k ≤ n)))) s

/-- BMMA (R305). -/
def execBmma (fa fb : Fmt) (acc : Bool) (d a b c : Reg) (s : State) : Host.Outcome State Fault Refusal :=
  runMeaning (issueBse d [a, b, c] (checkTile false acc fa fb a b c)) s

/-- BMMAP (R305). -/
def execBmmap (fa fb : Fmt) (acc : Bool) (d a b c : Reg) (s : State) : Host.Outcome State Fault Refusal :=
  runMeaning (issueBse d [a, b, c] (checkTile true acc fa fb a b c)) s

/-- BACC.keep (R306). -/
def execBaccKeep (f : Fmt) (rnd : Rnd) (nsat : Bool) (d a b : Reg) (s : State) : Host.Outcome State Fault Refusal :=
  runMeaning (issueBse d [a, b] (checkReadout .keep f rnd nsat 0 a b)) s

/-- BACC.take (R306). -/
def execBaccTake (f : Fmt) (rnd : Rnd) (nsat : Bool) (d a b : Reg) (s : State) : Host.Outcome State Fault Refusal :=
  runMeaning (issueBse d [a, b] (checkReadout .take f rnd nsat 0 a b)) s

/-- BACC.clr (R306): it names no destination. -/
def execBaccClr (d b : Reg) (s : State) : Host.Outcome State Fault Refusal :=
  runMeaning (issueBse d [b] (checkReadout .clr .f32 .rne false 0 0 b)) s

/-- BACC.res (R306). -/
def execBaccRes (f : Fmt) (rnd : Rnd) (nsat : Bool) (sh : BitVec 5) (d a b : Reg) (s : State) :
    Host.Outcome State Fault Refusal :=
  runMeaning (issueBse d [a, b] (checkReadout .res f rnd nsat sh.toNat a b)) s

/-- BACC.restake (R306). -/
def execBaccRestake (f : Fmt) (rnd : Rnd) (nsat : Bool) (sh : BitVec 5) (d a b : Reg) (s : State) :
    Host.Outcome State Fault Refusal :=
  runMeaning (issueBse d [a, b] (checkReadout .restake f rnd nsat sh.toNat a b)) s

/-! ## Port state (R303, R307) -/

/-- BSET (R303). -/
def execBset (bsd : Fin 16) (a : Reg) (s : State) : Host.Outcome State Fault Refusal :=
  runMeaning (after 8 do
    start .engine [a]
    let v ← getG a
    require (zeroField v 32 32 && zeroField v 7 9) 0x21
    let (n, _) ← self
    update fun s => (s.modCore n fun c =>
      { c with f := { c.f with bs := vset c.f.bs bsd (BitVec.ofNat 32 (field v 0 32)) } }).noteHere
        (bytesOf 4 (field v 0 32))) s

/-- BRST (R307): the label is kept as a halfword offset; the hold ends. -/
def execBrst (label : BitVec 15) (s : State) : Host.Outcome State Fault Refusal :=
  runMeaning (after 8 do
    start .engine []
    let (n, _) ← self
    update fun s => s.modCore n fun c =>
      { c with f := { c.f with rstLabel := some label.toNat, holdsBse := false } }) s

/-! ## Waiting (R309 to R312) -/

/-- The status of a finished job of a core, taken and acquired: the core forgets it (R311). -/
def takeBse (n id : Nat) : M (Option JobStatus) := do
  let c ← ask fun s => s.core n
  match c.jobs.bseDone.find? fun j => j.id == id with
  | none => pure none
  | some j => do
    update fun s => s.modCore n fun c =>
      { c with jobs := { c.jobs with bseDone := c.jobs.bseDone.filter fun k => k.id != id } }
    acquire j.scope
    pure (some j)

/-- Is a BSE job of a core outstanding? -/
def State.bseRuns (s : State) (n id : Nat) : Bool :=
  (s.cluster (clusterOf n)).bse.any fun j => j.id == id && j.cap.core == n

/-- BSTAT written for a job: LBL says that a label is registered (R310). -/
def writeBstat (stat : Word) : M Word := do
  let (n, _) ← self
  let c ← ask fun s => s.core n
  let v := setField stat 8 1 c.f.rstLabel.isSome.toNat
  update fun s => s.modCore n fun c => { c with sr := { c.sr with bstat := v } }
  pure v

/-- The finished job's status as one value from outside the pair: STATUS, flags. -/
def observeBse (id : Nat) : M (List Byte) := do
  let (n, _) ← self
  let j ← takeBse n id
  match j with
  | some j => pure (bytesOf 8 j.stat.toNat ++ [BitVec.ofNat 8 j.flags])
  | none => pure (bytesOf 9 0)

/-- 0x3A for a completed job with a hinted word under STATUS.RNGE (R311). -/
def hintTrap (stat : Word) : M Unit := do
  let c ← ask State.context
  if field stat 16 3 = 1 ∧ flag stat 9 ∧ c.rnge then signalKept 0x3A (word (field stat 19 45)) else pure ()

/-- BWAIT (R311): its traps leave BSTAT, FPSTAT and the acquire. -/
def execBwait (a : Reg) (s : State) : Host.Outcome State Fault Refusal :=
  runMeaning (after 8 do
    start .engine [a]
    let g ← getG a
    let id := g.toNat % 65536
    let (n, _) ← self
    let bs ← external do
      let runs ← ask fun s => s.bseRuns n id
      waitWhile runs
      observeBse id
    let stat := wordAt bs 0
    let _ ← writeBstat stat
    setFlags (natAt bs 8 1)
    let st := field stat 16 3
    (if st = 2 ∨ st = 3 then signalKept 0x22 (word id) else pure ())
    hintTrap stat) s

/-- BPOLL (R312). -/
def execBpoll (d a : Reg) (s : State) : Host.Outcome State Fault Refusal :=
  runMeaning (after 8 do
    start .engine [d, a]
    let g ← getG a
    let id := g.toNat % 65536
    let (n, _) ← self
    let bs ← external do
      let runs ← ask fun s => s.bseRuns n id
      if runs then pure (bytesOf 8 (4 * 65536) ++ [0]) else observeBse id
    let stat := wordAt bs 0
    let v ← writeBstat stat
    setFlags (natAt bs 8 1)
    setG d v
    hintTrap stat) s

end Sys2Proof.Machine
end

