-- ==== Sys2Proof/Machine/LoadStore.lean ====
section
/-! DEFINITION. Loads, stores and prefetch in their RL, XL and 16-bit forms (R54, R63, R77, R82), and the
128-byte accesses VLD and VST (R111). -/

namespace Sys2Proof.Machine

/-- The ord codes of LD and LDU (R54). -/
def loadOrd (ql : Qual) : Bool := ql.ord == .plain || ql.ord == .acq || ql.ord == .sc
/-- The ord codes of ST (R54). -/
def storeOrd (ql : Qual) : Bool := ql.ord == .plain || ql.ord == .rel || ql.ord == .sc
/-- The ord codes of VLD (R54). -/
def vloadOrd (ql : Qual) : Bool := ql.ord == .plain || ql.ord == .acq
/-- The ord codes of VST (R54). -/
def vstoreOrd (ql : Qual) : Bool := ql.ord == .plain || ql.ord == .rel
/-- A plain access. -/
def plainQual : Qual := { ord := .plain, scope := .co }

/-- LD and LDU of `n` bytes at an address formed from the base (R77). -/
def loadTo (len n : Nat) (signed : Bool) (d base : Reg) (ql : Qual) (va : Word → Word) : M Word :=
  after len do
    startOrd .scalar (loadOrd ql) [d, base]
    let b ← getG base
    let x ← loadValue (va b) n ql
    setG d (if signed then signExtendNat x (8 * n) else word x)

/-- ST of `n` bytes at an address formed from the base (R77). -/
def storeFrom (len n : Nat) (r base : Reg) (ql : Qual) (va : Word → Word) : M Word :=
  after len do
    startOrd .scalar (storeOrd ql) [r, base]
    let b ← getG base
    let x ← getG r
    storeValue (va b) n x ql

/-- What becomes of a prefetch (R82): it brings in the line at an address of a page, RC or not; a walk must come first;
or it is dropped. -/
inductive Prefetch where
  | line (pa : Nat) (rc : Bool)
  | walk
  | drop
  deriving DecidableEq, Repr

/-- A prefetch of the line that holds an address (R82). It is dropped where a check of R78 after check 1 fails for the
line, a poisoned word among them, at a scratchpad and at a claimed line. Its page is checked as for a load, under
write intent too, and the line of an uncached page, of another endpoint, of a page on its way there and of a die
under reset is dropped (DESIGN CHOICE, log 87). -/
def State.prefetchPlace (s : State) (v : Viewer) (va : Nat) : Prefetch :=
  let a := va / 128 * 128
  if (addressCause a 128 false).isSome || (addressCause va 1 false).isSome || inScratch va then .drop
  else
    match s.spot v false a with
    | .at_ (.mem pa) rc false =>
      if s.claimed (.mem pa) || (List.range 16).any (fun w => s.bytePoisoned v.core v.ctx (.mem (pa + 8 * w))) then .drop
      else .line pa rc
    | .miss => .walk
    | _ => .drop

/-- What a prefetch brings in (R82): a line of the L1, of the cluster cache, or of the L2 or the RDC, which RC pages
bypass (R203); write intent takes ownership. -/
def State.prefetch (s : State) (v : Viewer) (target : Fin 3) (write : Bool) (va pa : Nat) (rc : Bool) : State :=
  let s := if write then s.predictLine v.core pa true else s
  let s := if rc then s else if target = 1 then s else s.touchRdc (dieOf v.core) pa
  match target with
  | 0 => (s.fillCluster v.core pa).fillL1 v.core va (field v.asid 0 16) pa
  | 1 => s.fillCluster v.core pa
  | 2 => s.fillL2 pa

/-- PREF (R82): never faults for its address; dropped in a walk (R212) and on an I/O core. -/
def prefetchAt (len : Nat) (target : Fin 3) (write : Bool) (base : Reg) (ql : Qual) (va : Word → Word) : M Word :=
  after len do
    startOrd .scalar (isPlain ql) [base]
    let b ← getG base
    let t ← ask State.turn
    match t with
    | .core n x => do
      let a := (va b).toNat
      let s ← get
      let v := s.viewer n x
      match s.prefetchPlace v a with
      | .line pa rc => update fun s => s.prefetch v target write a pa rc
      | .walk => waitDo fun s => s.requestWalk v false (a / 128 * 128)
      | .drop => update fun s => s.forgetWaits n x
    | _ => pure ()

/-- A 128-byte load through windows 1 to 5 (R111): lane `i` takes element `i`. -/
def loadLanes (v : Viewer) (va : Nat) : Nat → M (List (Nat × Nat × Bool))
  | 0 => pure []
  | k + 1 => do
    let rest ← loadLanes v va k
    let x ← windowLoad v (va + 4 * k)
    pure (rest ++ [x])

/-- Check 5 of a 128-byte access through windows 1 to 5: the steps of R78 in their order, each over all 32 words
(R81, R111). -/
def laneCause (wcfg : Vector Word 5) (va : Nat) : Option Nat :=
  let lanes := (List.range 32).map fun i => va + 4 * i
  let causes := lanes.filterMap fun a => windowCause wcfg a 4 true false
  if lanes.any fun a => decide (6 ≤ windowAt a) then some 0x1A
  else if causes.contains 0x19 then some 0x19
  else causes.head?

/-- The checks 2 to 5 of a 128-byte access through windows 1 to 5: TVAL is its address (R78, R194). -/
def checkEntry (v : Viewer) (va : Nat) (ql : Qual) : M Unit := do
  match addressCause va 128 (!isPlain ql) with
  | some e => signal e (word va)
  | none =>
    match laneCause v.wcfg va with
    | some e => signal e (word va)
    | none => pure ()

/-- The index of the first element whose hint is set. -/
def firstHint (xs : List Bool) : Option Nat := (List.range xs.length).find? fun i => xs.getD i false

/-- `MemRead(va, 128, qual)` as VLD and LSTR make it (R111, R137). -/
def loadEntry (va : Word) (ql : Qual) : M VWord := do
  let a := va.toNat
  let (n, x) ← self
  let v ← ask fun s => s.viewer n x
  if 1 ≤ windowAt a ∧ windowAt a ≤ 5 then do
    checkEntry v a ql
    acquireFor ql
    let xs ← loadLanes v a 32
    ticketFor ql
    rangeCheck (firstHint (xs.map (·.2.2)))
    setFlags (xs.foldl (fun fl p => fl ||| p.2.1) 0)
    pure (BitVec.ofNat 1024 (packElems 32 (xs.map (·.1))))
  else do
    let bs ← memRead a 128 ql
    pure (vwordOf bs)

/-- What a 128-byte store through a window writes, lane by lane (R111): bytes, parts, flags. -/
def laneParts (v : Viewer) (va x : Nat) (ql : Qual) : List Nat → M (List Byte × List StorePart × Nat)
  | [] => pure ([], [], 0)
  | i :: is => do
    let (bs, ps, fl) ← windowParts v (va + 4 * i) (elem x 32 i) ql
    let (bs', ps', fl') ← laneParts v va x ql is
    pure (bs ++ bs', ps ++ ps', fl ||| fl')

/-- `MemWrite(va, 128, data, qual)` as VST and SSTR make it (R111, R137): one store, one entry (R113). -/
def storeEntry (va : Word) (x : VWord) (ql : Qual) : M Unit := do
  let a := va.toNat
  let (n, y) ← self
  let v ← ask fun s => s.viewer n y
  if 1 ≤ windowAt a ∧ windowAt a ≤ 5 then do
    checkEntry v a ql
    let own ← ask fun s => s.ownSlot v a
    let (bs, parts, fl) ← laneParts v a x.toNat ql (List.range 32)
    orderedStores ql false (if bs.isEmpty then [] else [{ va := a, bytes := bs, own := own, parts := parts }])
    setFlags fl
  else memWrite a (bytesOfV x) ql

/-- VLD (R111). -/
def vectorLoad (len : Nat) (d base : Reg) (ql : Qual) (va : Word → Word) : M Word :=
  after len do
    startOrd .vector (vloadOrd ql) [base]
    let dst := VField.reg d
    checkVector [] [dst]
    let b ← getG base
    let x ← loadEntry (va b) ql
    putVector dst x

/-- VST (R111). -/
def vectorStore (len : Nat) (r base : Reg) (ql : Qual) (va : Word → Word) : M Word :=
  after len do
    startOrd .vector (vstoreOrd ql) [base]
    let src := VField.reg r
    checkVector [src] []
    let b ← getG base
    let x ← oldValue src
    storeEntry (va b) x ql


/-- LD of 1 bytes, sign-extended (R77, R81). -/
def execLdB (d base : Reg) (i : BitVec 9) (ql : Qual) (s : State) : Host.Outcome State Fault Refusal :=
  runMeaning (loadTo 4 1 true d base ql fun b => rlAddress b i 1) s

/-- LD of 2 bytes, sign-extended (R77, R81). -/
def execLdH (d base : Reg) (i : BitVec 9) (ql : Qual) (s : State) : Host.Outcome State Fault Refusal :=
  runMeaning (loadTo 4 2 true d base ql fun b => rlAddress b i 2) s

/-- LD of 4 bytes, sign-extended (R77, R81). -/
def execLdW (d base : Reg) (i : BitVec 9) (ql : Qual) (s : State) : Host.Outcome State Fault Refusal :=
  runMeaning (loadTo 4 4 true d base ql fun b => rlAddress b i 4) s

/-- LD of 8 bytes, sign-extended (R77, R81). -/
def execLdD (d base : Reg) (i : BitVec 9) (ql : Qual) (s : State) : Host.Outcome State Fault Refusal :=
  runMeaning (loadTo 4 8 true d base ql fun b => rlAddress b i 8) s

/-- LDU of 1 bytes, zero-extended (R77, R81). -/
def execLduB (d base : Reg) (i : BitVec 9) (ql : Qual) (s : State) : Host.Outcome State Fault Refusal :=
  runMeaning (loadTo 4 1 false d base ql fun b => rlAddress b i 1) s

/-- LDU of 2 bytes, zero-extended (R77, R81). -/
def execLduH (d base : Reg) (i : BitVec 9) (ql : Qual) (s : State) : Host.Outcome State Fault Refusal :=
  runMeaning (loadTo 4 2 false d base ql fun b => rlAddress b i 2) s

/-- LDU of 4 bytes, zero-extended (R77, R81). -/
def execLduW (d base : Reg) (i : BitVec 9) (ql : Qual) (s : State) : Host.Outcome State Fault Refusal :=
  runMeaning (loadTo 4 4 false d base ql fun b => rlAddress b i 4) s

/-- ST of 1 bytes (R77, R81). -/
def execStB (r base : Reg) (i : BitVec 9) (ql : Qual) (s : State) : Host.Outcome State Fault Refusal :=
  runMeaning (storeFrom 4 1 r base ql fun b => rlAddress b i 1) s

/-- ST of 2 bytes (R77, R81). -/
def execStH (r base : Reg) (i : BitVec 9) (ql : Qual) (s : State) : Host.Outcome State Fault Refusal :=
  runMeaning (storeFrom 4 2 r base ql fun b => rlAddress b i 2) s

/-- ST of 4 bytes (R77, R81). -/
def execStW (r base : Reg) (i : BitVec 9) (ql : Qual) (s : State) : Host.Outcome State Fault Refusal :=
  runMeaning (storeFrom 4 4 r base ql fun b => rlAddress b i 4) s

/-- ST of 8 bytes (R77, R81). -/
def execStD (r base : Reg) (i : BitVec 9) (ql : Qual) (s : State) : Host.Outcome State Fault Refusal :=
  runMeaning (storeFrom 4 8 r base ql fun b => rlAddress b i 8) s

/-- PREF (R82). -/
def execPref (target : Fin 3) (write : Bool) (base : Reg) (i : BitVec 9) (ql : Qual) (s : State) : Host.Outcome State Fault Refusal :=
  runMeaning (prefetchAt 4 target write base ql fun b => rlAddress b i 128) s

/-- VLD (R111). -/
def execVld (d base : Reg) (i : BitVec 9) (ql : Qual) (s : State) : Host.Outcome State Fault Refusal :=
  runMeaning (vectorLoad 4 d base ql fun b => rlAddress b i 128) s

/-- VST (R111). -/
def execVst (r base : Reg) (i : BitVec 9) (ql : Qual) (s : State) : Host.Outcome State Fault Refusal :=
  runMeaning (vectorStore 4 r base ql fun b => rlAddress b i 128) s

/-- LD of 1 bytes, sign-extended in the XL form (R77, R81). -/
def execLdBXl (d base : Reg) (off : BitVec 32) (ql : Qual) (s : State) : Host.Outcome State Fault Refusal :=
  runMeaning (loadTo 8 1 true d base ql fun b => xlAddress b off) s

/-- LD of 2 bytes, sign-extended in the XL form (R77, R81). -/
def execLdHXl (d base : Reg) (off : BitVec 32) (ql : Qual) (s : State) : Host.Outcome State Fault Refusal :=
  runMeaning (loadTo 8 2 true d base ql fun b => xlAddress b off) s

/-- LD of 4 bytes, sign-extended in the XL form (R77, R81). -/
def execLdWXl (d base : Reg) (off : BitVec 32) (ql : Qual) (s : State) : Host.Outcome State Fault Refusal :=
  runMeaning (loadTo 8 4 true d base ql fun b => xlAddress b off) s

/-- LD of 8 bytes, sign-extended in the XL form (R77, R81). -/
def execLdDXl (d base : Reg) (off : BitVec 32) (ql : Qual) (s : State) : Host.Outcome State Fault Refusal :=
  runMeaning (loadTo 8 8 true d base ql fun b => xlAddress b off) s

/-- LDU of 1 bytes, zero-extended in the XL form (R77, R81). -/
def execLduBXl (d base : Reg) (off : BitVec 32) (ql : Qual) (s : State) : Host.Outcome State Fault Refusal :=
  runMeaning (loadTo 8 1 false d base ql fun b => xlAddress b off) s

/-- LDU of 2 bytes, zero-extended in the XL form (R77, R81). -/
def execLduHXl (d base : Reg) (off : BitVec 32) (ql : Qual) (s : State) : Host.Outcome State Fault Refusal :=
  runMeaning (loadTo 8 2 false d base ql fun b => xlAddress b off) s

/-- LDU of 4 bytes, zero-extended in the XL form (R77, R81). -/
def execLduWXl (d base : Reg) (off : BitVec 32) (ql : Qual) (s : State) : Host.Outcome State Fault Refusal :=
  runMeaning (loadTo 8 4 false d base ql fun b => xlAddress b off) s

/-- ST of 1 bytes in the XL form (R77, R81). -/
def execStBXl (r base : Reg) (off : BitVec 32) (ql : Qual) (s : State) : Host.Outcome State Fault Refusal :=
  runMeaning (storeFrom 8 1 r base ql fun b => xlAddress b off) s

/-- ST of 2 bytes in the XL form (R77, R81). -/
def execStHXl (r base : Reg) (off : BitVec 32) (ql : Qual) (s : State) : Host.Outcome State Fault Refusal :=
  runMeaning (storeFrom 8 2 r base ql fun b => xlAddress b off) s

/-- ST of 4 bytes in the XL form (R77, R81). -/
def execStWXl (r base : Reg) (off : BitVec 32) (ql : Qual) (s : State) : Host.Outcome State Fault Refusal :=
  runMeaning (storeFrom 8 4 r base ql fun b => xlAddress b off) s

/-- ST of 8 bytes in the XL form (R77, R81). -/
def execStDXl (r base : Reg) (off : BitVec 32) (ql : Qual) (s : State) : Host.Outcome State Fault Refusal :=
  runMeaning (storeFrom 8 8 r base ql fun b => xlAddress b off) s

/-- PREF in the XL form (R82). -/
def execPrefXl (target : Fin 3) (write : Bool) (base : Reg) (off : BitVec 32) (ql : Qual) (s : State) : Host.Outcome State Fault Refusal :=
  runMeaning (prefetchAt 8 target write base ql fun b => xlAddress b off) s

/-- VLD in the XL form (R111). -/
def execVldXl (d base : Reg) (off : BitVec 32) (ql : Qual) (s : State) : Host.Outcome State Fault Refusal :=
  runMeaning (vectorLoad 8 d base ql fun b => xlAddress b off) s

/-- VST in the XL form (R111). -/
def execVstXl (r base : Reg) (off : BitVec 32) (ql : Qual) (s : State) : Host.Outcome State Fault Refusal :=
  runMeaning (vectorStore 8 r base ql fun b => xlAddress b off) s

/-- LD.d rd, [g2 + uimm5 × 8] (R63). -/
def execC16LdDSp (d : Reg) (u : BitVec 5) (s : State) : Host.Outcome State Fault Refusal :=
  runMeaning (loadTo 2 8 true d 2 plainQual fun b => b + word (u.toNat * 8)) s

/-- ST.d rd, [g2 + uimm5 × 8] (R63). -/
def execC16StDSp (d : Reg) (u : BitVec 5) (s : State) : Host.Outcome State Fault Refusal :=
  runMeaning (storeFrom 2 8 d 2 plainQual fun b => b + word (u.toNat * 8)) s

/-- LD rd, [rs] of 4 bytes (R63). -/
def execC16LdW (d a : Reg) (s : State) : Host.Outcome State Fault Refusal :=
  runMeaning (loadTo 2 4 true d a plainQual id) s

/-- ST rd, [rs] of 4 bytes (R63). -/
def execC16StW (d a : Reg) (s : State) : Host.Outcome State Fault Refusal :=
  runMeaning (storeFrom 2 4 d a plainQual id) s

/-- LD rd, [rs] of 8 bytes (R63). -/
def execC16LdD (d a : Reg) (s : State) : Host.Outcome State Fault Refusal :=
  runMeaning (loadTo 2 8 true d a plainQual id) s

/-- ST rd, [rs] of 8 bytes (R63). -/
def execC16StD (d a : Reg) (s : State) : Host.Outcome State Fault Refusal :=
  runMeaning (storeFrom 2 8 d a plainQual id) s

end Sys2Proof.Machine
end

