-- ==== Sys2Proof/Machine/VectorOps.lean ====
section
/-! DEFINITION. The operations of the vector unit on 1,024-bit values (R109 to R128): element loops,
stochastic draws, reductions, block scales, and the forms that the 32- and 64-bit encodings share. -/

namespace Sys2Proof.Machine

/-! ## Elements and draws (R102) -/

/-- The result of a loop over elements: codes lowest first, flags, the generator. -/
structure Lanes where
  codes : List Nat
  flags : Nat
  seed  : Word
  deriving DecidableEq, Repr

/-- One draw under mode 5; no draw under the other modes (R101). -/
def drawOne (mode : Nat) (seed : Word) : Nat × Word :=
  if mode = 5 then (srBits (srStep seed), srStep seed) else (0, seed)

/-- `Encode` of an element, with its draw: code, flags, generator. -/
def encodeDrawn (f : Fmt) (mode : Nat) (sat fromInt : Bool) (seed : Word) (x : Value) (fl : Nat) :
    Nat × Nat × Word :=
  let (r, seed) := drawOne mode seed
  let (c, fl') := encodeNum f mode sat r fromInt x
  (c, fl ||| fl', seed)

/-- What an element operation gives: a code, flags, the generator. -/
abbrev ElemOp := Nat → Word → Nat × Nat × Word

/-- An operation on the active elements among `n` of width `w`, ascending; the others keep the old value
(R109, R114). -/
def mapActive (k : KWord) (w n old : Nat) (op : ElemOp) (seed : Word) : Lanes :=
  (List.range n).foldl (fun l i =>
    if active k w i then
      let (c, fl, seed) := op i l.seed
      { codes := l.codes ++ [c % 2 ^ w], flags := l.flags ||| fl, seed := seed }
    else { l with codes := l.codes ++ [elem old w i] }) { codes := [], flags := 0, seed := seed }

/-- An operation that draws nothing. -/
def noDraw (f : Nat → Nat × Nat) : ElemOp := fun i seed => let (c, fl) := f i; (c, fl, seed)

/-! ## Arithmetic (R114 to R116) -/

/-- The operations on one element of R59 with `Encode`. -/
inductive ArithOp where
  | add | sub | mul | fma | fms | abs | neg
  deriving DecidableEq, Repr

/-- VABS and VNEG of a value: a NaN operand gives the canonical NaN. -/
def signOp (x : Value) (f : Value → Value) : Value × Nat :=
  if x.isNan then (.nan false, Value.nanFlags x x) else (f x, 0)

/-- The exact result of an operation, with its flags (R114). -/
def ArithOp.exact (op : ArithOp) (mode : Nat) (x y c : Value) : Value × Nat :=
  match op with
  | .add => Value.add mode x y
  | .sub => Value.add mode x y.neg
  | .mul => Value.mul x y
  | .fma => let (p, fl) := Value.mul x y; let (z, fl') := Value.add mode p c; (z, fl ||| fl')
  | .fms => let (p, fl) := Value.mul x y; let (z, fl') := Value.add mode p c.neg; (z, fl ||| fl')
  | .abs => signOp x Value.abs
  | .neg => signOp x Value.neg

/-- An arithmetic element: one rounding (R114). -/
def ArithOp.elem (op : ArithOp) (f : Fmt) (mode : Nat) (sat : Bool) (a b c : Nat) : ElemOp :=
  fun i seed =>
    let w := f.width
    let (z, fl) := op.exact mode (decodeNum f (Machine.elem a w i)) (decodeNum f (Machine.elem b w i))
      (decodeNum f (Machine.elem c w i))
    encodeDrawn f mode sat false seed z fl

/-- The functions of R116. -/
inductive FnOp where
  | rcp | rsq | exp2 | log2
  deriving DecidableEq, Repr

/-- A function of one element (R116): VRCP and VRSQ draw, VEXP2 and VLOG2 do not. -/
def FnOp.elem (op : FnOp) (f : Fmt) (mode : Nat) (sat : Bool) (a : Nat) : ElemOp :=
  fun i seed =>
    let x := Machine.elem a f.width i
    match op with
    | .rcp =>
      let (r, seed) := drawOne mode seed
      let (c, fl) := rcpCode f mode sat r x
      (c, fl, seed)
    | .rsq =>
      let (r, seed) := drawOne mode seed
      let (c, fl) := rsqCode f mode sat r x
      (c, fl, seed)
    | .exp2 => let (c, fl) := exp2Code f sat x; (c, fl, seed)
    | .log2 => let (c, fl) := log2Code f sat x; (c, fl, seed)

/-! ## Shifts, compares, movement (R117 to R119) -/

/-- The shifts of R117. -/
inductive ShiftOp where
  | left | right | arith
  deriving DecidableEq, Repr

/-- A shifted element of width `w`. -/
def ShiftOp.apply (op : ShiftOp) (w x s : Nat) : Nat :=
  match op with
  | .left => if w ≤ s then 0 else x * 2 ^ s % 2 ^ w
  | .right => if w ≤ s then 0 else x / 2 ^ s
  | .arith => wrapInt (signedNat x w / (2 ^ min s w : Nat)) w

/-- The comparisons of R118. -/
inductive CmpOp where
  | eq | ne | lt | le
  deriving DecidableEq, Repr

/-- A comparison of two elements, and its flags: a NaN makes all but `ne` false. -/
def CmpOp.holds (op : CmpOp) (x y : Value) : Bool :=
  if x.isNan || y.isNan then op == .ne
  else
    let c := Value.cmp x y
    match op with
    | .eq => c == 0
    | .ne => c != 0
    | .lt => decide (c < 0)
    | .le => decide (c ≤ 0)

/-- The mask of a compare: every byte bit of an active element for which it holds; and the flags. -/
def compareMask (op : CmpOp) (f : Fmt) (k : KWord) (a b : Nat) : KWord × Nat :=
  (List.range f.count).foldl (fun m i =>
    if active k f.width i then
      let x := decodeNum f (elem a f.width i)
      let y := decodeNum f (elem b f.width i)
      let bits := f.width / 8
      (if op.holds x y then m.1 ||| BitVec.ofNat 128 ((2 ^ bits - 1) * 2 ^ (i * bits)) else m.1,
        m.2 ||| Value.nanFlags x y)
    else m) (0, 0)

/-- VSEL: the mask selects (R119). -/
def selectElems (f : Fmt) (k : KWord) (a b : Nat) : Nat :=
  packElems f.width ((List.range f.count).map fun i =>
    if active k f.width i then elem a f.width i else elem b f.width i)

/-- The element that VPERM, VSLIDE.up, VSLIDE.dn take for element `i` (R119). -/
inductive MoveOp where
  | perm | up | down
  deriving DecidableEq, Repr

/-- A moved element: `b` is the index vector of VPERM, `n` the distance of VSLIDE. -/
def MoveOp.elem (op : MoveOp) (f : Fmt) (a b n i : Nat) : Nat :=
  let w := f.width
  match op with
  | .perm => Machine.elem a w (Machine.elem b w i % f.count)
  | .up => if n ≤ i then Machine.elem a w (i - n) else 0
  | .down => if i + n < f.count then Machine.elem a w (i + n) else 0

/-! ## Reductions and scans (R120, R121) -/

/-- The operations of VRED. -/
inductive RedOp where
  | add | min | max
  deriving DecidableEq, Repr

/-- A node of the tree: no active element below it, a code (floating formats, and selections), or the exact
sum of an integer `.add`. -/
inductive Node where
  | none
  | code (c : Nat)
  | sum (x : Int)
  deriving DecidableEq, Repr

/-- The integer value of a decoded integer element. -/
def intOf (x : Value) : Int :=
  match x with
  | .fin s n _ => if s then -(n : Int) else (n : Int)
  | _ => 0

/-- Two nodes joined: rounded to the format, selected, or summed exactly; flags and generator. -/
def Node.join (op : RedOp) (f : Fmt) (mode : Nat) (sat : Bool) (seed : Word) (x y : Node) :
    Node × Nat × Word :=
  match x, y with
  | .none, y => (y, 0, seed)
  | x, .none => (x, 0, seed)
  | .sum a, .sum b => (.sum (a + b), 0, seed)
  | .code a, .code b =>
    match op with
    | .add =>
      let (z, fl) := Value.add mode (decodeNum f a) (decodeNum f b)
      let (c, fl, seed) := encodeDrawn f mode sat false seed z fl
      (.code c, fl, seed)
    | .min => let (c, fl) := selectCode f false a b; (.code c, fl, seed)
    | .max => let (c, fl) := selectCode f true a b; (.code c, fl, seed)
  | x, _ => (x, 0, seed)

/-- One pass of the tree over neighbouring nodes. -/
def treePass (op : RedOp) (f : Fmt) (mode : Nat) (sat : Bool) : List Node → Nat × Word → List Node × Nat × Word
  | x :: y :: rest, (fl, seed) =>
    let (z, fl', seed) := Node.join op f mode sat seed x y
    let (zs, fl, seed) := treePass op f mode sat rest (fl ||| fl', seed)
    (z :: zs, fl, seed)
  | xs, (fl, seed) => (xs, fl, seed)

/-- The passes of the tree. -/
def treeFold (op : RedOp) (f : Fmt) (mode : Nat) (sat : Bool) : Nat → List Node → Nat × Word → Node × Nat × Word
  | 0, xs, (fl, seed) => (xs.headD .none, fl, seed)
  | d + 1, xs, acc =>
    let (ys, acc) := treePass op f mode sat xs acc
    treeFold op f mode sat d ys acc

/-- VRED (R120): element 0 of the result, flags, generator. Integer `.add` draws once, at its only
`Encode` (DEDUCED, log 24). -/
def reduce (op : RedOp) (f : Fmt) (mode : Nat) (sat : Bool) (k : KWord) (a b : Nat) (seed : Word) :
    Nat × Nat × Word :=
  let leaf (i : Nat) : Node :=
    if !active k f.width i then .none
    else if op == .add && !f.isFloat then .sum (intOf (decodeNum f (elem a f.width i)))
    else .code (elem a f.width i)
  let (t, fl, seed) := treeFold op f mode sat 8 ((List.range f.count).map leaf) (0, seed)
  let x := elem b f.width 0
  match t with
  | .none => (x, fl, seed)
  | .sum v =>
    let (c, fl', seed) := encodeDrawn f mode sat false seed (Value.ofInt (intOf (decodeNum f x) + v)) fl
    (c, fl', seed)
  | .code c =>
    let (n, fl', seed) := Node.join op f mode sat seed (.code x) (.code c)
    (match n with | .code c => c | _ => 0, fl ||| fl', seed)

/-- VSCAN.add on a floating format (R121): the running value is a code. -/
def scanFloat (f : Fmt) (mode : Nat) (sat : Bool) (k : KWord) (a b : Nat) (seed : Word) : Lanes :=
  let init : Nat × Lanes := (elem b f.width (f.count - 1), { codes := [], flags := 0, seed := seed })
  let (_, l) := (List.range f.count).foldl (fun p i =>
    let (c, l) := p
    let (c, fl, seed) :=
      if active k f.width i then
        let (z, fl) := Value.add mode (decodeNum f c) (decodeNum f (elem a f.width i))
        encodeDrawn f mode sat false l.seed z fl
      else (c, 0, l.seed)
    -- the output `Encode` is exact: it canonicalises a NaN and draws nothing
    let (o, fl') := encodeNum f 0 sat 0 false (decodeNum f c)
    (c, { codes := l.codes ++ [o], flags := l.flags ||| fl ||| fl', seed := seed })) init
  l

/-- VSCAN.add on an integer format (R121): the running value is exact, each output saturates. An active element
passes through `Encode` once and draws once (R102). -/
def scanInt (f : Fmt) (mode : Nat) (k : KWord) (a b : Nat) (seed : Word) : Lanes :=
  let init : Int × Lanes :=
    (intOf (decodeNum f (elem b f.width (f.count - 1))), { codes := [], flags := 0, seed := seed })
  let (_, l) := (List.range f.count).foldl (fun p i =>
    let c := if active k f.width i then p.1 + intOf (decodeNum f (elem a f.width i)) else p.1
    let (o, fl) := encodeNum f 0 true 0 false (Value.ofInt c)
    let seed := if active k f.width i then (drawOne mode p.2.seed).2 else p.2.seed
    (c, { codes := p.2.codes ++ [o], flags := p.2.flags ||| fl, seed := seed })) init
  l

/-! ## Conversion and block scales (R122 to R125) -/

/-- VCVT of one code: a residue keeps its word in a conversion to itself (R122). -/
def convertCode (f sf : Fmt) (mode : Nat) (sat : Bool) (seed : Word) (x : Nat) : Nat × Nat × Word :=
  if f = .rns3 ∧ sf = .rns3 then (x, 0, (drawOne mode seed).2)
  else
    let v := decodeNum sf x
    encodeDrawn f mode sat (isIntFmt sf) seed v (if v.isSignalling then fNV else 0)

/-- VCVT (R122): the destination elements of part `p`, and the first source index whose hint is set. -/
def convert (f sf : Fmt) (mode : Nat) (sat : Bool) (p : Nat) (k : KWord) (a old : Nat) (seed : Word) :
    Lanes × Option Nat :=
  let n := Nat.min f.count sf.count
  let wide := decide (sf.count ≤ f.count)
  let source (i : Nat) : Option Nat :=
    if wide then (if p * n ≤ i ∧ i < p * n + n then some (i - p * n) else none)
    else if i < n then some (p * n + i) else none
  let hint := (List.range f.count).findSome? fun i =>
    match source i with
    | some si =>
      if active k f.width i && sf == .rns3 && f != .rns3 && rnsHint (elem a 32 si) then some si else none
    | none => none
  let l := (List.range f.count).foldl (fun (l : Lanes) i =>
    match source i with
    | some si =>
      if active k f.width i then
        let (c, fl, seed) := convertCode f sf mode sat l.seed (elem a sf.width si)
        { codes := l.codes ++ [c], flags := l.flags ||| fl, seed := seed }
      else { l with codes := l.codes ++ [elem old f.width i] }
    | none => { l with codes := l.codes ++ [elem old f.width i] })
    ({ codes := [], flags := 0, seed := seed } : Lanes)
  (l, hint)

/-- The largest magnitude of the active lanes of a block: NaN where a lane is NaN (R123). -/
def blockMax (k : KWord) (a lo n : Nat) : Value :=
  (List.range n).foldl (fun m i =>
    if active k 32 (lo + i) then
      let x := (decodeFloat .f32 (elem a 32 (lo + i))).abs
      if m.isNan then m else if x.isNan then .nan false else if Value.cmp m x < 0 then x else m
    else m) Value.zero

/-- VMXSCALE (R123): the scales of a block format, and the flags. -/
def blockScales (f : Fmt) (b16 : Bool) (k : KWord) (a : Nat) : List Nat × Nat :=
  let b := blockSize f b16
  (List.range (scaleCount f b16)).foldl (fun r j =>
    let (c, fl) := scaleOf f (blockMax k a (j * b) b)
    (r.1 ++ [c], r.2 ||| fl)) ([], 0)

/-- The code format of a block format: E4M3 for MXF8, E2M1 for the others (R103). -/
def codeFmt (f : Fmt) : Fmt := if f = .mxf8 then .e4m3 else .e2m1

/-- VMXQ (R124): code elements 32q to 32q + 31. -/
def quantize (f : Fmt) (b16 : Bool) (qp p mode : Nat) (sat : Bool) (k : KWord) (a sc old : Nat) (seed : Word) :
    Lanes :=
  let b := blockSize f b16
  let w := f.width
  (List.range f.count).foldl (fun (l : Lanes) i =>
    let lane := i - 32 * qp
    if 32 * qp ≤ i ∧ lane < 32 ∧ active k 32 lane then
      let s := elem sc 8 (p * scaleCount f b16 + lane / b)
      if isSkip f s then { l with codes := l.codes ++ [0] }
      else
        let x := decodeFloat .f32 (elem a 32 lane)
        let d := scaleNum f s
        let (y, fl) := Value.div x d
        let (c, fl', seed) := encodeDrawn (codeFmt f) mode sat false l.seed y (fl ||| Value.nanFlags x d)
        { codes := l.codes ++ [c], flags := l.flags ||| fl', seed := seed }
    else { l with codes := l.codes ++ [elem old w i] }) { codes := [], flags := 0, seed := seed }

/-- The exact sum of one block's products (R105 step 1). -/
def blockSum (f : Fmt) (k : KWord) (a b sa sb lo n : Nat) : Value × Nat :=
  (List.range n).foldl (fun r i =>
    if active k f.width (lo + i) then
      let (x, f1) := Value.mul (decodeNum f (elem a f.width (lo + i))) (scaleNum f sa)
      let (y, f2) := Value.mul (decodeNum f (elem b f.width (lo + i))) (scaleNum f sb)
      let x := if isSkip f sa then Value.zero else x
      let y := if isSkip f sb then Value.zero else y
      let (z, f3) := Value.mul x y
      let (t, f4) := Value.add 0 r.1 z
      (t, r.2 ||| f1 ||| f2 ||| f3 ||| f4)
    else r) (Value.zero, 0)

/-- Is a block passed over (R125): no active lane, or a skip code and no NaN scale? -/
def blockSkipped (f : Fmt) (k : KWord) (sa sb lo n : Nat) : Bool :=
  !((List.range n).any fun i => active k f.width (lo + i)) ||
    ((isSkip f sa || isSkip f sb) && !(scaleNum f sa).isNan && !(scaleNum f sb).isNan)

/-- The running value of a block-scaled sum: its FP32 code and the flags (R105 step 2). -/
def dotBlocks (f : Fmt) (b16 : Bool) (k : KWord) (a b sc : Nat) : Nat × Nat :=
  let n := blockSize f b16
  (List.range (f.count / n)).foldl (fun acc j =>
    let sa := elem sc 8 j
    let sb := elem sc 8 (32 + j)
    if blockSkipped f k sa sb (j * n) n then acc
    else
      let (p, fl) := blockSum f k a b sa sb (j * n) n
      let (z, fl') := Value.add 0 (decodeFloat .f32 acc.1) p
      let (c, fl'') := roundFp32 z
      (c, acc.2 ||| fl ||| fl' ||| fl'')) (0, 0)

/-- VDOT.mx (R125): the FP32 result, and the flags. -/
def dotProduct (f : Fmt) (b16 : Bool) (k : KWord) (a b sc : Nat) : Nat × Nat :=
  let (acc, fl) := dotBlocks f b16 k a b sc
  let one : Value := .fin false 1 1
  let ta := if f = .gf4 then decodeFloat .bf16 (elem sc 16 32) else one
  let tb := if f = .gf4 then decodeFloat .bf16 (elem sc 16 33) else one
  let (t, f1) := Value.mul (decodeFloat .f32 acc) ta
  let (t, f2) := Value.mul t tb
  let (c, f3) := roundFp32 t
  (c, fl ||| f1 ||| f2 ||| f3 ||| (if t.isNan then fNV else 0))

/-! ## Forms -/

/-- What the V and XV forms of an operation share: length, format, rounding, saturation, mask, Q. -/
structure VecForm where
  len : Nat
  fmt : Fmt
  rnd : Rnd
  sat : Bool
  k   : KReg
  q   : Bool
  deriving DecidableEq, Repr

/-- The 32-bit form: `.dyn` and `.sat` (R59). -/
def form32 (f : Fmt) (k : KReg) (q : Bool) : VecForm := { len := 4, fmt := f, rnd := .dyn, sat := true, k := k, q := q }

/-- The 64-bit form (R60). -/
def form64 (x : XvFields) : VecForm :=
  { len := 8, fmt := x.fmt, rnd := x.rnd, sat := !x.nsat, k := x.k, q := x.q }

/-- A vector field of a form. -/
def VecForm.field (v : VecForm) (r : Reg) : VField := vfield v.q r

/-- The checks that come first: placement, general registers, and in XV under Q a general register named 24
to 31 (R109), the mask field, the rounding mode (R41): an effective mode 5 raises 0x01 in H and D for an operation
that rounds nothing too (DESIGN CHOICE, log 88). -/
def VecForm.begin_ (v : VecForm) (gs : List Reg) : M (KWord × Nat) := do
  start .vector gs
  require (!(v.len == 8 && v.q && gs.any fun r => decide (24 ≤ r.val))) 0x01
  let k ← getMask v.k
  let mode ← roundingMode v.rnd
  pure (k, mode)

/-- The end of an instruction that computed lanes: generator, flags, destination. -/
def putLanes (d : VField) (w : Nat) (l : Lanes) : M Unit := do
  let seed ← getSeed
  (if l.seed = seed then pure () else setSeed l.seed)
  setFlags l.flags
  putVector d (BitVec.ofNat 1024 (packElems w l.codes))

/-- An operation on the active elements (R114): sources, then the loop. -/
def VecForm.elementwise (v : VecForm) (gs : List Reg) (srcs : List VField) (d : VField)
    (op : Nat → List Nat → ElemOp) : M Word :=
  after v.len do
    let (k, mode) ← v.begin_ gs
    let vs ← vectorSources srcs [d]
    let old ← oldValue d
    let seed ← getSeed
    putLanes d v.fmt.width
      (mapActive k v.fmt.width v.fmt.count old.toNat (op mode (vs.map (·.toNat))) seed)

/-- VADD to VNEG. -/
def VecForm.arith (v : VecForm) (op : ArithOp) (d : VField) (srcs : List VField) : M Word :=
  v.elementwise [] srcs d fun mode vs => op.elem v.fmt mode v.sat (vs.getD 0 0) (vs.getD 1 0) (vs.getD 2 0)

/-- VMIN and VMAX (R115). -/
def VecForm.select (v : VecForm) (max : Bool) (d a b : Reg) : M Word :=
  v.elementwise [] [v.field a, v.field b] (v.field d) fun _ vs =>
    noDraw fun i =>
      selectCode v.fmt max (elem (vs.getD 0 0) v.fmt.width i) (elem (vs.getD 1 0) v.fmt.width i)

/-- VRCP to VLOG2 (R116). -/
def VecForm.function (v : VecForm) (op : FnOp) (d a : Reg) : M Word :=
  v.elementwise [] [v.field a] (v.field d) fun mode vs => op.elem v.fmt mode v.sat (vs.getD 0 0)

/-- VSHL, VSHR, VSHR.a (R117). -/
def VecForm.shift (v : VecForm) (op : ShiftOp) (d a b : Reg) : M Word :=
  v.elementwise [] [v.field a, v.field b] (v.field d) fun _ vs =>
    noDraw fun i =>
      (op.apply v.fmt.width (elem (vs.getD 0 0) v.fmt.width i) (elem (vs.getD 1 0) v.fmt.width i), 0)

/-- VCMP (R118): only F writes a mask. -/
def VecForm.compare (v : VecForm) (op : CmpOp) (d : KReg) (a b : Reg) : M Word :=
  after v.len do
    let (k, _) ← v.begin_ []
    let (_, x) ← self
    require (x == .f && d != 0) 0x01
    let vs ← vectorSources [v.field a, v.field b] []
    let (m, fl) := compareMask op v.fmt k (vs.getD 0 0).toNat (vs.getD 1 0).toNat
    setFlags fl
    setMask d m

/-- VSEL (R119). -/
def VecForm.choose (v : VecForm) (d a b : Reg) : M Word :=
  after v.len do
    let (k, _) ← v.begin_ []
    let dst := v.field d
    let vs ← vectorSources [v.field a, v.field b] [dst]
    putVector dst (BitVec.ofNat 1024 (selectElems v.fmt k (vs.getD 0 0).toNat (vs.getD 1 0).toNat))

/-- VPERM (R119). -/
def VecForm.permute (v : VecForm) (d a b : Reg) : M Word :=
  v.elementwise [] [v.field a, v.field b] (v.field d) fun _ vs =>
    noDraw fun i => (MoveOp.perm.elem v.fmt (vs.getD 0 0) (vs.getD 1 0) 0 i, 0)

/-- VSLIDE (R119): the distance is a general register. -/
def VecForm.slide (v : VecForm) (op : MoveOp) (d a g : Reg) : M Word := do
  let n ← ask fun s => (s.readG g).toNat
  v.elementwise [g] [v.field a] (v.field d) fun _ vs => noDraw fun i => (op.elem v.fmt (vs.getD 0 0) 0 n i, 0)

/-- VBCAST (R119). -/
def VecForm.broadcast (v : VecForm) (d g : Reg) : M Word := do
  let x ← ask fun s => (s.readG g).toNat
  v.elementwise [g] [] (v.field d) fun _ _ => noDraw fun _ => (x % 2 ^ v.fmt.width, 0)

/-- VRED (R120): element 0 holds the result, the others 0. -/
def VecForm.reduction (v : VecForm) (op : RedOp) (d a b : Reg) : M Word :=
  after v.len do
    let (k, mode) ← v.begin_ []
    let dst := v.field d
    let vs ← vectorSources [v.field a, v.field b] [dst]
    let seed ← getSeed
    let (c, fl, seed) := reduce op v.fmt mode v.sat k (vs.getD 0 0).toNat (vs.getD 1 0).toNat seed
    putLanes dst v.fmt.width { codes := [c], flags := fl, seed := seed }

/-- VSCAN.add (R121). -/
def VecForm.scan (v : VecForm) (d a b : Reg) : M Word :=
  after v.len do
    let (k, mode) ← v.begin_ []
    let dst := v.field d
    let vs ← vectorSources [v.field a, v.field b] [dst]
    let seed ← getSeed
    let x := (vs.getD 0 0).toNat
    let y := (vs.getD 1 0).toNat
    putLanes dst v.fmt.width
      (if v.fmt.isFloat then scanFloat v.fmt mode v.sat k x y seed else scanInt v.fmt mode k x y seed)

/-- VMVG (R128): an element to a general register. -/
def VecForm.toGeneral (v : VecForm) (d a g : Reg) : M Word :=
  after v.len do
    let (_, _) ← v.begin_ [d, g]
    let j ← getG g
    let vs ← vectorSources [v.field a] []
    let x := elem (vs.getD 0 0).toNat v.fmt.width (j.toNat % v.fmt.count)
    setG d (if v.fmt.isFloat then word x else signExtendNat x v.fmt.width)

/-! ## Memory forms (R112) -/

/-- The checks 2 to 7 of R78 for one element of `n` bytes (R112): does a store of it go to another endpoint? -/
def checkElement (v : Viewer) (store : Bool) (f : Fmt) (va : Nat) (ql : Qual) : M Bool := do
  let n := f.width / 8
  let w := windowAt va
  let fits := (f == .f32 && w != 5) || (f == .i32 && w == 5)
  checkWord v va n (!isPlain ql) fits
  if 1 ≤ w ∧ w ≤ 5 then do
    (if store then do
      let _ ← checkWindowStore v va ql
      pure ()
    else do
      let _ ← windowLoad v va
      pure ())
    pure false
  else do
    let own ← ask fun s => s.ownSlot v va
    if store then do
      let (_, far) ← locateStore v va n ql own
      pure far
    else do
      let _ ← readFor own do
        let ps ← locateAll v false va n
        waitClaims ps
        checkPoison va ps
        pure []
      pure false

/-- The checks of every element of an access, in the order given: does a store go to another endpoint? -/
def checkElements (v : Viewer) (store : Bool) (f : Fmt) (ql : Qual) : List (Nat × Nat) → M Bool
  | [] => pure false
  | (_, va) :: rest => do
    let a ← checkElement v store f va ql
    let b ← checkElements v store f ql rest
    pure (a || b)

/-- The active elements of a memory form, ascending: index and address. -/
def activeAddresses (f : Fmt) (k : KWord) (n : Nat) (address : Nat → Word) : List (Nat × Nat) :=
  ((List.range n).filter fun i => active k f.width i).map fun i => (i, (address i).toNat)

/-- The elements of a load, ascending: index, code, flags, hint. -/
def loadElements (v : Viewer) (f : Fmt) (ql : Qual) : List (Nat × Nat) → M (List (Nat × Nat × Nat × Bool))
  | [] => pure []
  | (i, va) :: rest => do
    let w := windowAt va
    let (x, fl, h) ←
      if 1 ≤ w ∧ w ≤ 5 then do
        checkWord v va (f.width / 8) (!isPlain ql) ((f == .f32 && w != 5) || (f == .i32 && w == 5))
        windowLoad v va
      else do
        let bs ← memRead va (f.width / 8) ql
        pure (natOf bs, 0, false)
    let more ← loadElements v f ql rest
    pure ((i, x, fl, h) :: more)

/-- VLDS and VLDX (R112): inactive elements, and those beyond `n`, keep the old value. -/
def vectorGather (x : XvFields) (ql : Qual) (n : Nat) (d : Reg) (gs : List Reg) (srcs : List VField)
    (address : State → List VWord → Nat → Word) : M Word :=
  after 8 do
    startOrd .vector (vloadOrd ql) gs
    require (!(x.q && gs.any fun r => decide (24 ≤ r.val))) 0x01
    let k ← getMask x.k
    let dst := vfield x.q d
    let s ← get
    let vs ← vectorSources srcs [dst]
    let (c, y) ← self
    let v ← ask fun s => s.viewer c y
    acquireFor ql
    let xs ← loadElements v x.fmt ql (activeAddresses x.fmt k n (address s vs))
    rangeCheck ((xs.find? fun e => e.2.2.2).map (·.1))
    setFlags (xs.foldl (fun fl e => fl ||| e.2.2.1) 0)
    let old ← oldValue dst
    let codes := (List.range x.fmt.count).map fun i =>
      match xs.find? fun e => e.1 == i with
      | some e => e.2.1
      | none => elem old.toNat x.fmt.width i
    putVector dst (BitVec.ofNat 1024 (packElems x.fmt.width codes))

/-- What the store of one element writes (R81, R112): nothing in a skip-code block. -/
def elementStore (v : Viewer) (f : Fmt) (ql : Qual) (va code : Nat) : M (List Stored) := do
  let w := windowAt va
  let own ← ask fun s => s.ownSlot v va
  if 1 ≤ w ∧ w ≤ 5 then do
    let (bs, parts, fl) ← windowParts v va code ql
    setFlags fl
    pure (if bs.isEmpty then [] else [{ va := va, bytes := bs, own := own, parts := parts }])
  else do
    let bs := bytesOf (f.width / 8) code
    let (ps, _) ← locateStore v va (f.width / 8) ql own
    pure [{ va := va, bytes := bs, own := own, parts := ps.flatMap fun p => p.part bs 0xFF }]

/-- What the stores of elements write, all found before any is stored. -/
def findElements (v : Viewer) (f : Fmt) (ql : Qual) (x : Nat) : List (Nat × Nat) → M (List Stored)
  | [] => pure []
  | (i, va) :: rest => do
    let a ← elementStore v f ql va (elem x f.width i)
    let b ← findElements v f ql x rest
    pure (a ++ b)

/-- The elements of a store, ascending, each stored before the next is encoded (R113). -/
def storeElements (v : Viewer) (f : Fmt) (ql : Qual) (x : Nat) : List (Nat × Nat) → M Unit
  | [] => pure ()
  | (i, va) :: rest => do
    let sts ← elementStore v f ql va (elem x f.width i)
    putStores ql sts
    storeElements v f ql x rest

/-- Elements stored under a qualifier, once the checks of all have passed (R112). -/
def scatter (v : Viewer) (f : Fmt) (ql : Qual) (far : Bool) (x : Nat) (els : List (Nat × Nat)) : M Unit :=
  orderedRun ql (far || isRcRelease ql) (findElements v f ql x els) (storeElements v f ql x els)

/-- VSTS and VSTX (R112): the release of the whole comes first, and at recovery scope it counts once. -/
def vectorScatter (x : XvFields) (ql : Qual) (n : Nat) (d : Reg) (gs : List Reg) (idx : List VField)
    (address : State → List VWord → Nat → Word) : M Word :=
  after 8 do
    startOrd .vector (vstoreOrd ql) gs
    require (!(x.q && gs.any fun r => decide (24 ≤ r.val))) 0x01
    let k ← getMask x.k
    resumeRc ql do
      let s ← get
      let vs ← vectorSources (vfield x.q d :: idx) []
      let (c, y) ← self
      let v ← ask fun s => s.viewer c y
      let els := activeAddresses x.fmt k n (address s vs)
      let far ← checkElements v true x.fmt ql els
      scatter v x.fmt ql far (vs.getD 0 0).toNat els

end Sys2Proof.Machine
end

