-- ==== Sys2Proof/Machine/BseJobs.lean ====
section
/-! DEFINITION. The work of the BSE (R282 to R296, R302 to R308): stages, tile products, readout, the order of
jobs, and the events that run them. -/

namespace Sys2Proof.Machine

/-! ## Stages (R282, R287) -/

/-- A word of an accumulator store: words that are not listed read +0 (R286). -/
def accGet (acc : Sparse (BitVec 32)) (w : Nat) : Nat := ((sget acc w).getD 0).toNat

/-- Words written; a word that is +0 is not listed. -/
def accSet (acc : Sparse (BitVec 32)) (base : Nat) (ws : List Nat) : Sparse (BitVec 32) :=
  ws.zipIdx.foldl (fun acc (x, i) =>
    if x % 2 ^ 32 = 0 then sdel acc (base + i) else sset acc (base + i) (BitVec.ofNat 32 x)) acc

/-- Element `i` of a weight area in the weight buffer (R284). -/
def weightAt (wbuf : List Host.Cell) (f : Fmt) (start i : Nat) : Value :=
  decodeNum f (natOf (memGetList wbuf (start + i * (f.width / 8)) (f.width / 8)))

/-- The exact outputs of a stage on one row (R282), with their flags: a NaN sets NV. -/
def stageRow (wbuf : List Host.Cell) (f : Fmt) (bs : BitVec 32) (x : List Nat) : List (Value × Nat) :=
  let l := x.length
  let st := 2 ^ field bs 0 5
  let (start, _) := weightArea f l bs
  let xs := (x.map (decodeFloat .f32)).toArray
  (List.range l).map fun i =>
    let low := i / st % 2 == 0
    let i0 := if low then i else i - st
    let j := i0 / (2 * st) * st + i0 % st
    -- SWAP exchanges the rows (a, b) and (c, d)
    let r := 4 * j + (if low == flag bs 5 then 2 else 0)
    let (p, f1) := Value.mul (weightAt wbuf f start r) (xs.getD i0 Value.zero)
    let (q, f2) := Value.mul (weightAt wbuf f start (r + 1)) (xs.getD (i0 + st) Value.zero)
    let (u, f3) := Value.add 0 p q
    let (v, f4) := if flag bs 6 then Value.add 0 u (weightAt wbuf f start (2 * l + i)) else (u, 0)
    (v, f1 ||| f2 ||| f3 ||| f4 ||| (if v.isNan then fNV else 0))

/-- The one rounding of a chain's qualifier (R287): the FP32 pattern. -/
def stageRound (mode : ChainMode) (v : Value) (fl : Nat) : J Nat := do
  let r ← get
  match mode with
  | .w => do
    let (c, f) := roundFp32 v
    jflags (fl ||| f)
    pure c
  | m => do
    let (c, f, seed) := encodeDrawn .bf16 (if m = .sr16 then 5 else 0) false false r.seed v fl
    set { r with flags := r.flags ||| fl ||| f, seed := seed }
    pure (widen32 .bf16 c)

/-- A stage on all rows, in ascending order (R287). -/
def stageRows (wbuf : List Host.Cell) (f : Fmt) (mode : ChainMode) (bs : BitVec 32) (rows : List (List Nat)) :
    J (List (List Nat)) :=
  rows.mapM fun x => (stageRow wbuf f bs x).mapM fun p => stageRound mode p.1 p.2

/-- The stages of a chain. -/
def chainStages (wbuf : List Host.Cell) (f : Fmt) (mode : ChainMode) :
    List (BitVec 32) → List (List Nat) → J (List (List Nat))
  | [], rows => pure rows
  | bs :: rest, rows => do
    let rows ← stageRows wbuf f mode bs rows
    chainStages wbuf f mode rest rows

/-- The input of a chain from memory, widened exactly (R287, R304). -/
def chainInput (e : JobEnv) (f : Fmt) (va : Word) (n : Nat) : J (List Nat) :=
  let o := operandAt e.v.wcfg va.toNat f
  (List.range n).mapM fun i =>
    if o.win = 0 then do
      let c ← jcode e o i
      pure (widen32 f c)
    else do
      let (c, _, _) ← jwindowPattern e (o.va + 4 * i)
      pure c

/-- A list cut into rows. -/
def rowsOf (l : Nat) (xs : List Nat) (rows : Nat) : List (List Nat) :=
  (List.range rows).map fun r => (xs.drop (r * l)).take l

/-- BSTG and BCHN (R304): the new words of the region. -/
def runChain (e : JobEnv) (cl : Cluster) (f : Fmt) (mode : ChainMode) (input : Option Word) (r : Region)
    (stages : List (BitVec 32)) : J (List Nat) := do
  let xs ← match input with
    | some va => chainInput e f va r.words
    | none => pure ((List.range r.words).map fun i => accGet cl.acc (r.base + i))
  let rows ← chainStages cl.wbuf f mode stages (rowsOf r.cols xs r.rows)
  pure rows.flatten

/-! ## Tile products (R290 to R293) -/

/-- An element of a tile operand: its value, its code, and for a block format whether its block is skipped and
whether its scale is a NaN. -/
structure TileElem where
  value : Value
  flags : Nat
  code  : Nat
  skip  : Bool
  nan   : Bool

/-- An element of a block from its code and its scale. -/
def tileElem (f : Fmt) (code : Nat) (scale : Option Nat) : TileElem :=
  match scale with
  | none => { value := decodeNum f code, flags := 0, code := code, skip := false, nan := false }
  | some k =>
    let nan := (scaleNum f k).isNan
    let (x, fl) := Value.mul (decodeNum f code) (scaleNum f k)
    { value := x, flags := fl ||| (if nan then fNV else 0), code := code, skip := isSkip f k, nan := nan }

/-- Element `i` of a tile operand whose scale array stands at `scale` in blocks of `b` (R299). -/
def tileAt (e : JobEnv) (o : Operand) (b scale i : Nat) : J TileElem := do
  if o.win ≠ 0 then do
    let (_, c, k) ← jwindowCode e (o.va + 4 * i)
    pure (tileElem o.fmt c (if o.win = 4 then some k else none))
  else if isBlockFmt o.fmt then do
    let ks ← jread e (scale + i / b) 1
    let k := natOf ks
    let c ← if isSkip o.fmt k then pure 0 else jcode e o i
    pure (tileElem o.fmt c (some k))
  else do
    let c ← jcode e o i
    pure (tileElem o.fmt c none)

/-- The product of two elements (R290): a skipped block contributes nothing unless a scale is a NaN. -/
def tileProduct (a b : TileElem) : Value × Nat :=
  if (a.skip || b.skip) && !a.nan && !b.nan then (Value.zero, 0)
  else
    let (x, fl) := Value.mul (if a.skip then Value.zero else a.value) (if b.skip then Value.zero else b.value)
    (x, fl ||| (if a.skip then 0 else a.flags) ||| (if b.skip then 0 else b.flags))

/-- The exact sum of one chunk of 32 products. -/
def tileChunk (as bs : List TileElem) : Value × Nat :=
  (as.zip bs).foldl (fun r p =>
    let (x, f1) := tileProduct p.1 p.2
    let (s, f2) := Value.add 0 r.1 x
    (s, r.2 ||| f1 ||| f2)) (Value.zero, 0)

/-- A list cut into chunks of 32, `n` of them. -/
def chunksOf {α : Type} (xs : List α) (n : Nat) : List (List α) :=
  (List.range n).map fun c => (xs.drop (32 * c)).take 32

/-- A word of a floating tile (R290): the chunks ascending, each rounded once, under the tensor scales. -/
def tileFloat (scale : Value) (start : Nat) (as bs : List TileElem) : Nat × Nat :=
  let n := (as.length + 31) / 32
  ((chunksOf as n).zip (chunksOf bs n)).foldl (fun r p =>
    let (s, f1) := tileChunk p.1 p.2
    let (q, f2) := Value.mul s scale
    let (c, f3) := roundFp32 q
    let (t, f4) := Value.add 0 (decodeFloat .f32 r.1) (decodeFloat .f32 c)
    let (d, f5) := roundFp32 t
    (d, r.2 ||| f1 ||| f2 ||| f3 ||| f4 ||| f5 ||| (if scale.isNan then fNV else 0))) (start, 0)

/-- The integer of an element's code. -/
def tileInt (f : Fmt) (code : Nat) : Int := intOf (decodeNum f code)

/-- A word of a residue tile (R292): no rounding, no carry between channels. -/
def tileResidue (fa fb : Fmt) (start : Nat) (as bs : List TileElem) : Nat :=
  (as.zip bs).foldl (fun w p =>
    rnsAdd w (if fa = .rns3 then rnsMul p.1.code p.2.code
      else rnsOfInt (tileInt fa p.1.code * tileInt fb p.2.code))) start

/-- The per-term bound of a residue tile (R292). -/
def termBound (fa fb : Fmt) (declared : Nat) : Nat :=
  match fa, fb with
  | .i8, .i8 => 2 ^ 14
  | .ui8, .ui8 => 255 * 255
  | .i4, .i4 => 64
  | .rns3, _ => declared
  | _, _ => 255 * 128

/-- The tensor scale of a tile operand: GF4 through window 0 or window 4 only. -/
def tensorScale (o : Operand) (w4 : Word) (declared : Nat) : Value :=
  if o.fmt = .gf4 then decodeFloat .bf16 (if o.win = 4 then field w4 48 16 else declared) else .fin false 1 1

/-- The rows of a tile operand. -/
def tileRows (e : JobEnv) (o : Operand) (b scale rows k ld : Nat) : J (List (List TileElem)) :=
  (List.range rows).mapM fun m => (List.range k).mapM fun i => tileAt e o b scale (m * ld + i)

/-- BMMA and BMMAP (R290 to R294, R305): the words of the issuer's store and of the partner's. The stores give
the present words of an accumulating job. -/
def runTile (e : JobEnv) (acc partner : Sparse (BitVec 32)) (pair : Bool) (fa fb : Fmt) (accumulate : Bool)
    (a b : Word) (t : List Byte) : J (List Nat × List Nat) := do
  let w4 := windowConfig e.v.wcfg 4
  let b16 := natAt t 52 1 % 2 == 1
  let oa := operandAt e.v.wcfg a.toNat fa
  let ob := operandAt e.v.wcfg b.toNat fb
  let (m, n, k) := (natAt t 0 2, natAt t 2 2, natAt t 4 4)
  let rows ← tileRows e oa (tileBlock oa w4 b16) (natAt t 32 8) m k (natAt t 8 4)
  let cols ← tileRows e ob (tileBlock ob w4 b16) (natAt t 40 8) n k (natAt t 12 4)
  let half := if pair then n / 2 else n
  let base := natAt t 16 4
  let residue := decide (4 ≤ tileRow oa.fmt)
  let beyond := residue && decide (rnsM / 2 < k * termBound oa.fmt ob.fmt (natAt t 24 8))
  let (ts, f0) := Value.mul (tensorScale oa w4 (natAt t 48 2)) (tensorScale ob w4 (natAt t 50 2))
  let word_ (store : Sparse (BitVec 32)) (i j : Nat) (c : List TileElem) (r : List TileElem) : J Nat := do
    let start := if accumulate then accGet store (base + i * half + j) else 0
    if residue then do
      let w := tileResidue oa.fmt ob.fmt start r c
      pure (if beyond then w ||| 2 ^ 31 else w)
    else do
      let (w, fl) := tileFloat ts start r c
      jflags (fl ||| f0)
      pure w
  (if beyond then jflags fRNG else pure ())
  let part (store : Sparse (BitVec 32)) (cs : List (List TileElem)) : J (List Nat) := do
    let ws ← rows.zipIdx.mapM fun (r, i) => cs.zipIdx.mapM fun (c, j) => word_ store i j c r
    pure ws.flatten
  let own ← part acc (cols.take half)
  let other ← part partner (cols.drop half)
  pure (own, other)

/-! ## BLDW and BACC (R302, R306) -/

/-- BLDW from memory: line by line (R302). -/
def runLoad (e : JobEnv) (src : Word) (n : Nat) : J Unit :=
  let first := 128 - src.toNat % 128
  let lines := if n ≤ first then 1 else 1 + (n - first + 127) / 128
  (List.range lines).forM fun i => do
    let lo := if i = 0 then 0 else first + 128 * (i - 1)
    let hi := Nat.min n (first + 128 * i)
    let bs ← jread e (src.toNat + lo) (hi - lo)
    modify fun r => { r with stream := bs.reverse ++ r.stream }

/-- One word read out (R306): its bytes. -/
def readoutWord (op : BaccOp) (f : Fmt) (mode : Nat) (sat : Bool) (sh i x : Nat) : J (List Byte) := do
  let r ← get
  let raw := (op == .res || op == .restake) && f == .rns3
  if raw then pure (bytesOf 4 x)
  else do
    let residue := op == .res || op == .restake
    let v := if residue then
        let z := rnsValue x
        Value.scaled (decide (z < 0)) z.natAbs (-(sh : Int))
      else decodeFloat .f32 x
    let (c, fl, seed) := encodeDrawn f mode sat false r.seed v 0
    let hint := residue && rnsHint x
    set { r with
      flags := r.flags ||| fl ||| (if hint then fRNG else 0)
      seed := seed
      hinted := if hint && r.hinted.isNone then some i else r.hinted }
    pure (bytesOf (f.width / 8) c)

/-- BACC (R306): the region in row-major order. -/
def runReadout (e : JobEnv) (acc : Sparse (BitVec 32)) (op : BaccOp) (f : Fmt) (mode : Nat) (nsat : Bool) (sh : Nat)
    (dst : Word) (r : Region) : J Unit :=
  if op = .clr then pure ()
  else (List.range r.words).forM fun i => do
    let bs ← readoutWord op f mode (!nsat) sh i (accGet acc (r.base + i))
    jwrite e (dst.toNat + i * (f.width / 8)) bs

/-! ## Order between jobs (R295) -/

/-- What a job reads or writes inside the engines: accumulator words or weight bytes of a cluster. -/
structure Extent where
  weights : Bool
  cluster : Nat
  lo      : Nat
  hi      : Nat
  deriving DecidableEq, Repr

/-- Do two extents share something? -/
def Extent.meets (a b : Extent) : Bool :=
  a.weights == b.weights && a.cluster == b.cluster && decide (a.lo < b.hi ∧ b.lo < a.hi)

/-- The other cluster of a cluster's pair (R43). -/
def pairCluster (c : Nat) : Nat := if c % 2 = 0 then c + 1 else c - 1

/-- The region of a tile in each store. -/
def tileRegion (pair : Bool) (t : List Byte) : Nat × Nat :=
  (natAt t 16 4, natAt t 0 2 * (if pair then natAt t 2 2 / 2 else natAt t 2 2))

/-- What a job reads. -/
def BseJob.reads (j : BseJob) (cl : Nat) : List Extent :=
  match j.cmd with
  | .chain f _ input r stages =>
    (if input.isNone then [{ weights := false, cluster := cl, lo := r.base, hi := r.base + r.words }] else []) ++
      stages.map fun b =>
        let (o, n) := weightArea f r.cols b
        { weights := true, cluster := cl, lo := o, hi := o + n }
  | .tile pair _ _ true _ _ t =>
    let (o, n) := tileRegion pair t
    [{ weights := false, cluster := cl, lo := o, hi := o + n }] ++
      (if pair then [{ weights := false, cluster := pairCluster cl, lo := o, hi := o + n }] else [])
  | .readout _ _ _ _ _ _ r =>
    [{ weights := false, cluster := if r.part then pairCluster cl else cl, lo := r.base, hi := r.base + r.words }]
  | _ => []

/-- What a job writes. -/
def BseJob.writes (j : BseJob) (cl : Nat) (gre : List GreJob) : List Extent :=
  match j.cmd with
  | .load _ n o => [{ weights := true, cluster := cl, lo := o, hi := o + n }]
  | .loadGexp g o =>
    let n := match gre.find? fun k => k.id == g with
      | some k => k.expandCount * ((k.weightFormat.map fun f => f.width / 8).getD 4)
      | none => 0
    [{ weights := true, cluster := cl, lo := o, hi := o + n }]
  | .chain _ _ _ r _ => [{ weights := false, cluster := cl, lo := r.base, hi := r.base + r.words }]
  | .tile pair _ _ _ _ _ t =>
    let (o, n) := tileRegion pair t
    [{ weights := false, cluster := cl, lo := o, hi := o + n }] ++
      (if pair then [{ weights := false, cluster := pairCluster cl, lo := o, hi := o + n }] else [])
  | .readout op _ _ _ _ _ r =>
    if op = .take ∨ op = .clr ∨ op = .restake then
      [{ weights := false, cluster := if r.part then pairCluster cl else cl, lo := r.base, hi := r.base + r.words }]
    else []

/-- Does an earlier job make a later one wait (R295)? -/
def BseJob.holdsUp (e j : BseJob) (cl : Nat) (gre : List GreJob) : Bool :=
  let ew := e.writes cl gre
  let jw := j.writes cl gre
  (ew.any fun a => (j.reads cl ++ jw).any a.meets) || ((e.reads cl).any fun a => jw.any a.meets)

/-- The jobs of a cluster that may run now (R295): jobs start in queue order, so all before them have started; an
earlier job that is still in the queue may hold one up; jobs that share nothing are not ordered. -/
def Cluster.openBseJobs (c : Cluster) (cl : Nat) : List BseJob :=
  (c.bse.zipIdx.filter fun p =>
    let earlier := c.bse.take p.2
    p.1.result.isNone && earlier.all (·.begun) && !earlier.any fun e => e.holdsUp p.1 cl c.gre).map (·.1)

/-! ## Running a job -/

/-- A job as a viewer of memory. -/
def State.bseViewer (s : State) (cl : Nat) (j : BseJob) : Viewer :=
  { core := j.cap.core, ctx := .f, cluster := cl, asid := j.cap.asid, log := j.cap.log, user := j.cap.user
    engine := true, grid := (s.core j.cap.core).ident.grid, who := .bse cl j.id, wcfg := j.cap.wcfg }

/-- A job of a cluster changed. -/
def Cluster.modBse (c : Cluster) (id : Nat) (f : BseJob → BseJob) : Cluster :=
  { c with bse := c.bse.map fun j => if j.id = id then f j else j }

/-- A job has run: its end, its lines, its claims (R233, R308). -/
def State.bseRan {α : Type} (s : State) (cl : Nat) (j : BseJob) (r : Except JStop α) (run : JobRun) : State :=
  let lines := groupLines run.out.reverse
  let who := Requester.bse cl j.id
  let s := s.modCluster cl fun c => c.modBse j.id fun j =>
    let cap := { j.cap with scope := scopeOfNo run.scope }
    { j with result := some (jobEnd r run), lines := lines, cap := cap }
  let keep := lines.map (·.place)
  let s := { s with claims := s.claims.filter fun c => decide (c.holder ≠ who) || keep.contains c.place }
  s.claimLines who keep

/-- A run that stopped to wait, or the state after a run that ended. -/
def State.afterRun {α : Type} (s : State) (v : Viewer) (r : Except JStop α) (done : State) : State :=
  match r with
  | .error (.fail _ _) => done
  | .error e => s.jobAwaits v e
  | .ok _ => done

/-- Words of an accumulator store of a cluster written. -/
def State.writeAcc (s : State) (cl base : Nat) (ws : List Nat) : State :=
  s.modCluster cl fun c => { c with acc := accSet c.acc base ws }

/-- Words of zeros (R308). -/
def zeros (n : Nat) : List Nat := List.replicate n 0

/-- Bytes written into the weight buffer. -/
def State.writeWeights (s : State) (cl off : Nat) (bs : List Byte) : State :=
  s.modCluster cl fun c => { c with wbuf := memSetList c.wbuf off bs }

/-- The end that a BLDW takes from its GEXP (R13). -/
def gexpEnd (e : JobEnd) : JobEnd := { e with count := 0, flags := 0, hint := false }

/-- A BLDW takes the stream of its GEXP (R13, R285): the job waits until the stream stands; a GEXP that is gone
was discarded, and both are. -/
def State.runLoadGexp (s : State) (cl : Nat) (j : BseJob) (gre off : Nat) : State :=
  match (s.cluster cl).gre.find? fun k => k.id == gre with
  | none =>
    s.modCluster cl fun c => c.modBse j.id fun j => { j with
      result := some { state := 3, cause := 0, info := 0, hint := false, count := 0, flags := 0 } }
  | some k =>
    match k.result with
    | none => s
    | some e =>
      let s := s.writeWeights cl off k.stream
      s.modCluster cl fun c =>
        let c := c.modBse j.id fun j => { j with result := some (gexpEnd e) }
        { c with gre := c.gre.map fun g => if g.id = gre then { g with taken := true } else g }

/-- A job runs (R302 to R306, R308). -/
def State.runBse (s : State) (cl : Nat) (j : BseJob) : State :=
  let s := s.modCluster cl fun c => c.modBse j.id fun j => { j with begun := true }
  let v := s.bseViewer cl j
  let e : JobEnv := { s := s, v := v, before := [], direct := false }
  let c := s.cluster cl
  let start := JobRun.start j.cap.seed
  match j.cmd with
  | .load src n off =>
    let (r, run) := (runLoad e src n).run start
    s.afterRun v r ((s.bseRan cl j r run).writeWeights cl off run.stream.reverse)
  | .loadGexp g off => s.runLoadGexp cl j g off
  | .chain f mode input r stages =>
    let (x, run) := (runChain e c f mode input r stages).run start
    let ws := match x with | .ok ws => ws | .error _ => zeros r.words
    s.afterRun v x ((s.bseRan cl j x run).writeAcc cl r.base ws)
  | .tile pair fa fb acc a b t =>
    let other := pairCluster cl
    let (x, run) := (runTile e c.acc (s.cluster other).acc pair fa fb acc a b t).run start
    let (base, n) := tileRegion pair t
    let (w1, w2) := match x with | .ok p => p | .error _ => (zeros n, if pair then zeros n else [])
    s.afterRun v x (((s.bseRan cl j x run).writeAcc cl base w1).writeAcc other base w2)
  | .readout op f rnd nsat sh dst r =>
    let from_ := (s.cluster (if r.part then pairCluster cl else cl)).acc
    let mode := match rnd with | .dyn => j.cap.mode | r => rndCode r
    let (x, run) := (runReadout e from_ op f mode nsat sh dst r).run start
    s.afterRun v x (s.bseRan cl j x run)

/-- BSE_JOB_START (R295): a job of a cluster's queue that may run does. Of several, which one goes on first is free: a
job that waits for a walk or a stream delays no other. -/
def execBseJobStart (cluster : Nat) (s : State) : Host.Outcome State Fault Refusal :=
  let js := (s.cluster cluster).openBseJobs cluster
  let (k, t) := s.draw
  match js with
  | [] => .next s
  | [j] => .next (s.runBse cluster j)
  | j :: _ => .next (t.runBse cluster (js.getD (Config.freeIndex k % js.length) j))

/-! ## The end of a job (R10, R308, R310, R313) -/

/-- The status of an ended job as BSTAT has it; LBL is read when it is observed. -/
def bseStat (e : JobEnd) : Word :=
  word (e.info % 2 ^ 45 * 2 ^ 19 + e.state * 2 ^ 16 + e.cause * 2 ^ 10 + e.hint.toNat * 2 ^ 9)

/-- A job leaves the queue, and its core keeps its status. -/
def State.finishBse (s : State) (cl : Nat) (j : BseJob) (e : JobEnd) : State :=
  let who := Requester.bse cl j.id
  let s := s.modCluster cl fun c => { c with bse := c.bse.filter fun k => k.id != j.id }
  let s := (((s.dropClaims who).forgetJob cl who)).wake j.cap.core
  s.modCore j.cap.core fun c => { c with jobs := { c.jobs with
    bseDone := keepStatus c.jobs.bseDone { id := j.id, stat := bseStat e, flags := e.flags, scope := j.cap.scope } } }

/-- The address in the completion record of a job (R313). -/
def BseCmd.recordAddress : BseCmd → Word
  | .load src _ _ => src
  | .readout _ _ _ _ _ dst _ => dst
  | _ => 0

/-- The words that a completed BACC clears (R306). -/
def State.clearRead (s : State) (cl : Nat) (j : BseJob) (e : JobEnd) : State :=
  match j.cmd with
  | .readout op _ _ _ _ _ r =>
    if e.state = 1 ∧ (op = .take ∨ op = .clr ∨ op = .restake) then
      s.writeAcc (if r.part then pairCluster cl else cl) r.base (zeros r.words)
    else s
  | _ => s

/-- A job whose lines stand in memory ends: at once, or after its record has landed. -/
def State.endBse (s : State) (cl : Nat) (j : BseJob) (e : JobEnd) : State :=
  let e := s.withWrites (.bse cl j.id) e
  let s := s.clearRead cl j e
  match j.cap.push with
  | some _ =>
    if e.state = 3 then s.finishBse cl j e
    else s.modCluster cl fun c => c.modBse j.id fun j => { j with result := some e, pushing := true }
  | none => s.finishBse cl j e

/-- A job of a cluster that has ended and written everything. -/
def State.bseReady (s : State) (cl : Nat) : Option (BseJob × JobEnd) :=
  (s.cluster cl).bse.findSome? fun j =>
    match j.result with
    | some e => if j.lines.isEmpty && !j.pushing && !s.jobUnanswered (.bse cl j.id) then some (j, e) else none
    | none => none

/-- BSE_JOB_COMPLETE (R308). -/
def execBseJobComplete (cluster : Nat) (s : State) : Host.Outcome State Fault Refusal :=
  match s.bseReady cluster with
  | some (j, e) => .next (s.endBse cluster j e)
  | none => .next s

/-! ## Discarding (R13, R296) -/

/-- BSE jobs of a cluster discarded; a GEXP that streams into one of them is discarded with it (R13). What a
discarded job has written stands; its other destination bytes keep their value. -/
def State.discardBse (s : State) (cl : Nat) (p : BseJob → Bool) : State :=
  let gone := (s.cluster cl).bse.filter p
  let s := gone.foldl (fun s j => (s.dropClaims (.bse cl j.id)).forgetJob cl (.bse cl j.id)) s
  s.modCluster cl fun c => { c with bse := c.bse.filter fun j => !p j }

/-- The GEXP jobs that feed BSE jobs of a selection (R13). -/
def Cluster.feeders (c : Cluster) (p : BseJob → Bool) : List Nat :=
  c.bse.filterMap fun j => match j.cmd with | .loadGexp g _ => if p j then some g else none | _ => none

end Sys2Proof.Machine
end

