-- ==== Sys2Proof/Machine/Copy.lean ====
section
/-! DEFINITION. The copy unit (R321 to R334): CPYQ, CPYQB, CWAIT, CPOLL, RESUME and ABORT, and the events that
dispatch, move, stall, deliver and complete transfers. -/

namespace Sys2Proof.Machine

/-! ## Requests (R321, R324) -/

/-- OP of a request's word 0. -/
def copyOp (w0 : Word) : Nat := field w0 0 4
/-- CH. -/
def copyCh (w0 : Word) : Nat := field w0 8 2
/-- LAND. -/
def copyLand (w0 : Word) : Bool := flag w0 12
/-- CLASS. -/
def copyClass (w0 : Word) : Nat := field w0 13 6
/-- The completion slot. -/
def copyPush (w0 : Word) : Option Nat := if flag w0 19 then some (field w0 20 4) else none

/-- A channel of a core. -/
def Core.chan (c : Core) (ch : Nat) : Chan := c.jobs.chans.get (ix 3 ch)

/-- A channel of a core changed. -/
def Core.modChan (c : Core) (ch : Nat) (f : Chan → Chan) : Core :=
  { c with jobs := { c.jobs with chans := vset c.jobs.chans (ix 3 ch) (f (c.chan ch)) } }

/-- Check 3: word 0, a LIN's length, and under RESUME or ABORT the delivered fault. -/
def copyWordsLegal (c : Core) (w0 w1 w2 w3 : Word) : Bool :=
  let op := copyOp w0
  let ch := c.chan (copyCh w0)
  decide (op ≤ 4) && zeroField w0 24 40 && zeroField w0 10 2 && zeroField w0 4 4 && (!copyLand w0 || op == 0) &&
    (op != 0 || zeroField w3 32 32) &&
    (op < 3 || (w1 == 0 && w2 == 0 && w3 == 0 && ch.stall && ch.dlv))

/-- Check 4: where a landing transfer goes, and its class. -/
def landingCause (i : LaunchInfo) (w0 w2 : Word) : Option Nat :=
  let va := w2.toNat
  let (slot, w, _) := slotOf va
  if !inScratch va || w != 0 || decide (8 * i.clusters ≤ slot) then some 0x2A
  else
    match i.classes[copyClass w0]? with
    | none => some 0x1F
    | some k => if !k.inst then some 0x1F else if !k.high || k.priv = 1 then some 0x2A else none

/-! ## RESUME and ABORT (R329) -/

/-- The TLB entry of a faulting page goes: after RESUME the page is translated afresh. -/
def State.forgetPage (s : State) (cluster asid va : Nat) : State :=
  s.modCluster cluster fun c => { c with tlb := c.tlb.filter fun e =>
    !(decide (e.va ≤ va ∧ va < e.va + 2 ^ e.size) && (e.asid == asid || flag e.leaf 9)) }

/-- RESUME: the delivered transfer goes on from its faulting page. -/
def State.copyResume (s : State) (core ch : Nat) : State :=
  let k := (s.core core).chan ch
  if k.stall && k.dlv then
    let s := s.forgetPage (clusterOf core) ((k.run.map fun t => field t.req.asid 0 16).getD 0) k.fault.toNat
    s.modCore core fun c => c.modChan ch fun k => { k with stall := false, dlv := false }
  else s

/-- A transfer of a channel has failed. -/
def Chan.failRun (k : Chan) (cause : Nat) : Chan :=
  { k with stall := false, dlv := false,
           run := k.run.map fun t => { t with ended := true, cause := if t.cause = 0 then cause else t.cause } }

/-- ABORT: the delivered transfer fails with 0x2B. -/
def State.copyAbort (s : State) (core ch : Nat) : State :=
  let k := (s.core core).chan ch
  if k.stall && k.dlv then s.modCore core fun c => c.modChan ch fun k => k.failRun 0x2B else s

/-- COPY_RESUME (R329). -/
def execCopyResume (core ch : Nat) (s : State) : Host.Outcome State Fault Refusal := .next (s.copyResume core ch)

/-- COPY_ABORT (R329). -/
def execCopyAbort (core ch : Nat) (s : State) : Host.Outcome State Fault Refusal := .next (s.copyAbort core ch)

/-! ## CPYQ and CPYQB (R324) -/

/-- The scope of a core's transfers (R324). -/
def State.copyScope (s : State) (n : Nat) : Scope := if s.hasMode n .remote then .sy else .dv

/-- A request enters the FIFO: its id. -/
def enterRequest (w0 w1 w2 w3 : Word) : M Nat := do
  let (n, _) ← self
  let s ← get
  release (s.copyScope n)
  let c ← ask fun s => s.core n
  let id := ((c.chan (copyCh w0)).issued + 1) % 2 ^ 32
  let req : CopyReq := { id := id, user := c.fc.priv == 0, asid := c.sr.asid, wcfg := c.sr.wcfg, w0 := w0, w1 := w1,
                         w2 := w2, w3 := w3 }
  update fun s => s.modCore n fun c =>
    let c := c.modChan (copyCh w0) fun k => { k with issued := id }
    { c with jobs := { c.jobs with fifo := c.jobs.fifo ++ [req] } }
  pure id

/-- A request carried out (R324): `busy` says what CPYQB does without room. -/
def copyRequest (busy : Bool) (w0 w1 w2 w3 : Word) : M (List Byte) := do
  let (n, _) ← self
  let s ← get
  let c := s.core n
  require (copyWordsLegal c w0 w1 w2 w3) 0x2A
  let op := copyOp w0
  (match s.infoOf n with
    | some i => if copyLand w0 then (match landingCause i w0 w2 with | some e => signal e | none => pure ()) else pure ()
    | none => require (!copyLand w0) 0x2A)
  require ((op != 1 && op != 2) || decide (w3.toNat % 32 = 0)) 0x2C
  if op = 3 ∨ op = 4 then do
    let id := ((c.chan (copyCh w0)).run.map fun t => t.req.id).getD 0
    update fun s => if op = 3 then s.copyResume n (copyCh w0) else s.copyAbort n (copyCh w0)
    pure (bytesOf 8 id)
  else if 16 ≤ c.jobs.fifo.length then do
    waitWhile (!busy)
    pure (bytesOf 8 (2 ^ 63))
  else do
    let id ← enterRequest w0 w1 w2 w3
    pure (bytesOf 8 id)

/-- CPYQ and CPYQB. -/
def copyIssue (busy : Bool) (d a : Reg) : M Word :=
  after 8 do
    let r (k : Nat) : Reg := ix 31 (a.val + k)
    start .engine [d, r 0, r 1, r 2, r 3]
    let w0 ← getG (r 0)
    let w1 ← getG (r 1)
    let w2 ← getG (r 2)
    let w3 ← getG (r 3)
    let bs ← closing (copyRequest busy w0 w1 w2 w3)
    setG d (wordAt bs 0)

/-- CPYQ (R324). -/
def execCpyq (d a : Reg) (s : State) : Host.Outcome State Fault Refusal := runMeaning (copyIssue false d a) s

/-- CPYQB (R324). -/
def execCpyqb (d a : Reg) (s : State) : Host.Outcome State Fault Refusal := runMeaning (copyIssue true d a) s

/-! ## CWAIT and CPOLL (R326, R327) -/

/-- Serial order of ids: a precedes or equals b. -/
def serialLe (a b : Nat) : Bool := decide ((b + 2 ^ 32 - a % 2 ^ 32) % 2 ^ 32 < 2 ^ 31)

/-- CWAIT (R327). -/
def execCwait (a : Reg) (ch : BitVec 2) (s : State) : Host.Outcome State Fault Refusal :=
  runMeaning (after 8 do
    start .engine [a]
    let g ← getG a
    let id := g.toNat % 2 ^ 32
    let (n, _) ← self
    let _ ← external do
      let s ← get
      let k := (s.core n).chan ch.toNat
      require (serialLe id k.issued) 0x2A (word id)
      waitWhile (!serialLe id k.done)
      acquire (s.copyScope n)
      pure []
    pure ()) s

/-- CPOLL (R327). -/
def execCpoll (d a : Reg) (ch : BitVec 2) (s : State) : Host.Outcome State Fault Refusal :=
  runMeaning (after 8 do
    start .engine [d, a]
    let g ← getG a
    let id := g.toNat % 2 ^ 32
    let (n, _) ← self
    let bs ← external do
      let s ← get
      let k := (s.core n).chan ch.toNat
      require (serialLe id k.issued) 0x2A (word id)
      let passed := serialLe id k.done
      (if passed then acquire (s.copyScope n) else pure ())
      update fun s => s.modCore n fun c => c.modChan ch.toNat fun k => { k with fail := false }
      pure [BitVec.ofNat 8 (passed.toNat + k.stall.toNat * 2 + k.fail.toNat * 4)]
    setG d (word (natAt bs 0 1))) s

/-! ## Pieces and addresses (R322, R323) -/

/-- The bytes of a transfer. -/
def Transfer.total (t : Transfer) : Nat := t.count * t.size

/-- The source and destination addresses of byte `k` of a transfer, modulo 2^64. -/
def Transfer.addresses (t : Transfer) (k : Nat) : Nat × Nat :=
  let i := k / t.size
  let o := k % t.size
  ((t.req.w1 + word i * t.sstep + word o).toNat, (t.req.w2 + word i * t.dstep + word o).toNat)

/-- Is an address in windows 1 to 5? -/
def isWindowed (va : Nat) : Bool := decide (1 ≤ windowAt va ∧ windowAt va ≤ 5)

/-- A transfer as a viewer of memory: the LOG of the issuing core, engine causes (R328). -/
def State.copyViewer (s : State) (core ch : Nat) (q : CopyReq) : Viewer :=
  let c := s.core core
  { core := core, ctx := .f, cluster := clusterOf core, asid := q.asid, log := c.ident.log, user := q.user
    engine := true, grid := c.ident.grid, who := .copy core ch, wcfg := q.wcfg }

/-- Where a byte or an element of a transfer lies. -/
def State.copySpot (s : State) (v : Viewer) (store : Bool) (va : Nat) : Spot :=
  if isWindowed va then
    let (slot, w, o) := slotOf va
    s.slotSpot v store slot (windowElem v.wcfg w o).raw
  else s.spot v store va

/-- The place of a spot, at another endpoint too. -/
def Spot.place : Spot → Option Place
  | .at_ p _ _ => some p
  | .remote pa => some (.mem pa)
  | _ => none

/-- Where a transfer enters a line of its destination, from byte `k` on: the byte and its address. -/
def Transfer.lineStarts (t : Transfer) (k : Nat) : List (Nat × Nat) :=
  ((List.range t.count).drop (k / t.size)).flatMap fun i =>
    let lo := if i = k / t.size then k % t.size else 0
    (List.range t.size).filterMap fun o =>
      let va := (t.addresses (i * t.size + o)).2
      if lo ≤ o ∧ (o = lo ∨ va % (if isWindowed va then 4 else 128) = 0) then some (i * t.size + o, va) else none

/-- Does a transfer still write a line, from byte `k` on? -/
def State.lineDue (s : State) (v : Viewer) (t : Transfer) (k : Nat) (p : Place) : Bool :=
  (t.lineStarts k).any fun a => (s.copySpot v true a.2).place.any fun q => decide (q.line = p)

/-- Lines that a transfer enters claimed in order, as far as their pages are known and its claims reach (R233, R325): the
state, the byte from which lines are still to be claimed, and what the next one awaits. At a page that fails its
checks, where the transfer will stop, the claims stop. -/
def State.claimFrom (s : State) (v : Viewer) : List (Nat × Nat) → State × Option Nat × Option (State → State)
  | [] => (s, none, none)
  | (k, va) :: rest =>
    if claimLimit ≤ (s.claims.filter fun c => decide (c.holder = v.who)).length then (s, some k, none)
    else
      match s.copySpot v true va with
      | .at_ p _ _ => (s.claimLine v.who p.line).claimFrom v rest
      | .remote pa => (s.claimLine v.who (Place.mem pa).line).claimFrom v rest
      | .miss => (s, some k, some fun s => s.requestWalk v true va)
      | .away p => (s, some k, some fun s => s.askPage v.who p)
      | .moving => (s, some k, some id)
      | _ => (s, some k, none)

/-! ## Dispatch (R325) -/

/-- The address of the page that failed, for a run that began at `va`. -/
def failedAt (va page : Nat) : Nat :=
  if page = pageOf va then va else page * 4096 + (if page / 2 ^ 44 % 2 = 1 then 127 * 2 ^ 57 else 0)

/-- What a transfer has asked for beyond its writes is forgotten: reads, pages, failed walks. -/
def State.forgetReads (s : State) (core ch : Nat) : State :=
  let who := Requester.copy core ch
  let s := s.forgetPages who
  let s := { s with fabric := { s.fabric with engine := s.fabric.engine.filter fun a =>
      !(decide (a.who = who) && match a.kind with | .read _ _ => true | _ => false) } }
  s.modCluster (clusterOf core) fun c => { c with fails := c.fails.filter fun f => decide (f.1 ≠ who) }

/-- A transfer stops (R329): a translation fault stalls it, any other failure ends it. Its writes on their way to
other endpoints stand. -/
def State.stopTransfer (s : State) (core ch cause va : Nat) : State :=
  let s := s.forgetReads core ch
  if cause = 0x12 then s.modCore core fun c => c.modChan ch fun k => { k with stall := true, fault := word va }
  else s.modCore core fun c => c.modChan ch fun k => k.failRun cause

/-- A parameter block checked (R322): zero field, ranges, element size. -/
def paramsLegal (op : Nat) (b : List Byte) : Bool :=
  let count := natAt b 16 4
  let size := natAt b 20 4
  decide (natAt b 24 8 = 0 ∧ 1 ≤ count ∧ count ≤ 2 ^ 24) &&
    (if op = 1 then decide (1 ≤ size ∧ size ≤ 2 ^ 24) else [1, 2, 4, 8, 16, 128].contains size)

/-- A transfer of a channel replaced. -/
def State.setRun (s : State) (core ch : Nat) (t : Transfer) : State :=
  s.modCore core fun c => c.modChan ch fun k => { k with run := some t }

/-- Lines of a cluster's parameter cache (DESIGN CHOICE, log 20). -/
def paramLines : Nat := 64

/-- Lines of parameter blocks enter the cache of a cluster (R332). -/
def State.fillParam (s : State) (cl : Nat) (lines : List Nat) : State :=
  { s with caches := { s.caches with param := lines.foldl (fun t l => insertTag t paramLines (cl, l)) s.caches.param } }

/-- A dispatched transfer whose pieces are known claims its lines, and then runs (R233, R325); a landing writes none
itself. -/
def State.claimTransfer (s : State) (core ch : Nat) (t : Transfer) : State :=
  if copyLand t.req.w0 ∨ t.total = 0 then s.setRun core ch { t with ready := true }
  else
    let (s, k, f) := s.claimFrom (s.copyViewer core ch t.req) (t.lineStarts t.lead)
    let t := { t with lead := k.getD t.total }
    match f with
    | some f => f (s.setRun core ch t)
    | none => (s.setRun core ch { t with ready := true }).forgetReads core ch

/-- A dispatched transfer: its parameter block is read once, past the RDC (R328, R332), then its lines are claimed. -/
def State.prepare (s : State) (core ch : Nat) (t : Transfer) : State :=
  let op := copyOp t.req.w0
  if t.count ≠ 0 then s.claimTransfer core ch t
  else if op = 0 then s.claimTransfer core ch { t with count := 1, size := t.req.w3.toNat % 2 ^ 32 }
  else
    let v := s.copyViewer core ch t.req
    let va := t.req.w3.toNat
    let e : JobEnv := { s := s, v := v, before := [], direct := true }
    let read : J (List Byte) := do
      let b ← jread e va 32
      jtag e va
      pure b
    match read.run (JobRun.start 0) with
    | (.ok b, run) =>
      if paramsLegal op b then
        (s.fillParam (clusterOf core) run.tags).claimTransfer core ch
          { t with sstep := wordAt b 0, dstep := wordAt b 8, count := natAt b 16 4, size := natAt b 20 4 }
      else s.stopTransfer core ch 0x2C va
    | (.error (.fail c p), _) => s.stopTransfer core ch c (failedAt va p)
    | (.error e, _) => s.jobAwaits v e

/-- The channels whose transfer has been dispatched and does not run yet. -/
def Core.preparing (c : Core) : List (Nat × Transfer) :=
  (List.range 4).filterMap fun ch =>
    match (c.chan ch).run with
    | some t => if !t.ready && !t.ended && !(c.chan ch).stall then some (ch, t) else none
    | none => none

/-- The oldest request of a free channel starts (R325). -/
def State.dispatchCopy (s : State) (core : Nat) : State :=
  let c := s.core core
  match c.jobs.fifo.find? fun q => (c.chan (copyCh q.w0)).run.isNone with
  | none => s
  | some q =>
    let ch := copyCh q.w0
    let t : Transfer :=
      { req := q, ready := false, sstep := 0, dstep := 0, count := 0, size := 0, lead := 0, moved := 0, cause := 0
        landing := false, ended := false }
    let s := s.modCore core fun c =>
      let c := c.modChan ch fun k => { k with run := some t }
      { c with jobs := { c.jobs with fifo := c.jobs.fifo.erase q } }
    s.prepare core ch t

/-- COPY_DISPATCH (R325): transfers dispatched before go on with their first steps, and the oldest request of a free
channel starts. -/
def execCopyDispatch (core : Nat) (s : State) : Host.Outcome State Fault Refusal :=
  .next (((s.core core).preparing.foldl (fun s p => s.prepare core p.1 p.2) s).dispatchCopy core)

/-! ## Moving bytes (R323, R328, R330) -/

/-- What the next piece of a transfer comes to. -/
inductive CopyMove where
  | done (s : State)
  | fault (cause va : Nat)
  | await (s : State)

/-- Does an address lie in a slot of a team that is not resident (R15, R334)? -/
def State.slotAway (s : State) (v : Viewer) (va : Nat) : Bool :=
  inScratch va &&
    (match v.grid.bind s.grid with
      | some g => decide ((slotOf va).1 < 8 * g.info.clusters) && (sget g.place ((slotOf va).1 / 8)).isNone
      | none => false)

/-- A word of the source: through windows 1 to 5 as a load decodes it (R111, R323). -/
def copyWord (e : JobEnv) (va : Nat) : J (List Byte) := do
  if isWindowed va then do
    let (p, _, _) ← jwindowPattern e va
    pure (bytesOf 4 p)
  else jread e va 4

/-- Source bytes: words where a window is addressed. -/
def copyRead (e : JobEnv) (wide : Bool) (va n : Nat) : J (List Byte) := do
  if wide then do
    let ws ← (List.range (n / 4)).mapM fun i => copyWord e (va + 4 * i)
    pure ws.flatten
  else jread e va n

/-- A word stored through windows 1 to 5 as a store encodes it (R81, R111, R323): an element of a skip-code block is not
written, and takes no permission fault (R104). -/
def jstoreWindow (e : JobEnv) (va pattern : Nat) : J Unit := do
  let (slot, el) ← jwindowElem e va
  let scale ← match el.scale with
    | some sc => jraw e va slot sc 1
    | none => pure 0
  match (windowEncode (windowConfig e.v.wcfg 4) el scale pattern).1 with
  | none => pure ()
  | some x =>
    match e.s.slotSpot e.v true slot el.raw with
    | .at_ p _ _ => do
      jtouch e p
      let mask : Byte := if el.window ≠ 4 then 0xFF else if el.index % 2 = 0 then 0x0F else 0xF0
      let bs := (bytesOf el.bytes x).zipIdx.map fun b =>
        ({ place := p.add b.2, byte := mergeByte (e.s.readPlace e.v.core (p.add b.2)) b.1 mask, rc := false,
           page := pageOf va } : OutByte)
      modify fun r => { r with out := bs.reverse ++ r.out }
    | .bad c => jfail c va
    | _ => throw .wait

/-- Destination bytes. -/
def copyWrite (e : JobEnv) (va : Nat) (bs : List Byte) : J Unit :=
  if isWindowed va then jstoreWindow e va (natOf bs) else jwrite e va bs

/-- Bytes of the next piece: at most 128, within one row, one line of the source, which is read once (R233), and one page
of the destination, and not beyond the distance at which the destination overtakes the source (R323). -/
def State.chunk (s : State) (v : Viewer) (t : Transfer) (a b : Nat) : Nat :=
  let n := Nat.min (128 - a % 128) (Nat.min (t.size - t.moved % t.size) (4096 - b % 4096))
  match (s.copySpot v false a).place, (s.copySpot v true b).place with
  | some p, some q =>
    match q.within p n with
    | some (d + 1) => d + 1
    | _ => n
  | _, _ => n

/-- The bytes of a piece of `n` that can be moved, none where they fail with 0x32. A page that holds poison among the
`m` bytes still to come from it fails as a whole; a scratchpad, which is not paged, up to its first poisoned byte
(R328, R329). -/
def JobEnv.clean (e : JobEnv) (a n m : Nat) : Nat :=
  match e.s.spot e.v false a with
  | .at_ (.mem pa) _ _ => if (List.range m).any fun i => e.poisonedAt (.mem (pa + i)) then 0 else n
  | .at_ p _ _ => ((List.range n).find? fun i => e.poisonedAt (p.add i)).getD n
  | _ => n

/-- The lines of a piece written: each is claimed, and finished once nothing more is due in it (R233); a line at another
endpoint once its writes have been answered. -/
def State.writePiece (s : State) (v : Viewer) (t : Transfer) (k : Nat) (lines : List OutLine) : State :=
  lines.foldl (fun s l =>
    let remote := match l.place with | .mem pa => isFabric pa | _ => false
    let s := (s.claimLine v.who l.place).writeLine v.who v.core l
    if remote || s.lineDue v t k l.place then s else s.dropClaim v.who l.place) s

/-- Lines that come next claimed, as earlier ones are finished (R233). -/
def State.claimOn (s : State) (v : Viewer) (t : Transfer) : State × Transfer :=
  let (s, k, _) := s.claimFrom v (t.lineStarts (Nat.max t.lead t.moved))
  (s, { t with lead := k.getD t.total })

/-- Are the lines of a piece free for this transfer? -/
def State.linesFree (s : State) (who : Requester) (lines : List OutLine) : Bool := lines.all fun l => s.owns who l.place

/-- Answers to remote reads of a transfer have been used. -/
def State.usedReads (s : State) (who : Requester) : State :=
  { s with fabric := { s.fabric with engine := s.fabric.engine.filter fun a =>
      !(decide (a.who = who) && match a.kind with | .read _ _ => true | _ => false) } }

/-- Writes of a requester on their way to another endpoint. -/
def State.writesOut (s : State) (who : Requester) : Bool :=
  s.fabric.engine.any fun a => decide (a.who = who) && a.answer.isNone && match a.kind with | .write .. => true | _ => false

/-- The next piece of an ordinary transfer: once the writes of the last one to another endpoint have been answered, so
that nothing is written after one that fails (R329). -/
def State.movePiece (s : State) (core ch : Nat) (t : Transfer) : CopyMove :=
  let v := s.copyViewer core ch t.req
  let (a, b) := t.addresses t.moved
  if s.writesOut v.who then .await s
  else
    match s.jobWriteFailed v.who with
    | some (c, p) => .fault c (failedAt b p)
    | none =>
      if s.slotAway v a || s.slotAway v b then .await s
      else
        let wide := isWindowed a || isWindowed b
        if wide && t.size % 4 ≠ 0 then .fault 0x1A a
        else
          let e : JobEnv := { s := s, v := v, before := [], direct := true }
          let rest := Nat.min (t.size - t.moved % t.size) (4096 - a % 4096)
          let n := if wide then 4 else e.clean a (s.chunk v t a b) rest
          if n = 0 then .fault 0x32 a
          else
            match ((copyRead e wide a n).run (JobRun.start 0)).1 with
            | .error (.fail c p) => .fault c (failedAt a p)
            | .error x => .await (s.jobAwaits v x)
            | .ok bs =>
              match (copyWrite e b bs).run (JobRun.start 0) with
              | (.error (.fail c p), _) => .fault c (failedAt b p)
              | (.error x, _) => .await (s.jobAwaits v x)
              | (.ok _, run) =>
                let lines := groupLines run.out.reverse
                if s.linesFree v.who lines then
                  let t' := { t with moved := t.moved + n }
                  let (s', t') := (s.writePiece v t' t'.moved lines).claimOn v t'
                  .done ((s'.usedReads v.who).setRun core ch t')
                else .await s

/-- The next packet of a landing transfer (R330). -/
def State.landPiece (s : State) (core ch : Nat) (t : Transfer) : CopyMove :=
  let v := s.copyViewer core ch t.req
  let (a, b) := t.addresses t.moved
  let n := Nat.min 512 (t.total - t.moved)
  if s.slotAway v a || s.slotAway v b then .await s
  else if isWindowed a && n % 4 ≠ 0 then .fault 0x1A a
  else
    let e : JobEnv := { s := s, v := v, before := [], direct := true }
    match ((copyRead e (isWindowed a) a n).run (JobRun.start 0)).1 with
    | .error (.fail c p) => .fault c (failedAt a p)
    | .error x => .await (s.jobAwaits v x)
    | .ok bs =>
      match addressCause b n false <|> windowCause v.wcfg b n false false with
      | some c => .fault c b
      | none =>
        match s.spot v false b with
        | .at_ (.scratch owner _) _ _ =>
          let class_ := (((s.infoOf core).bind fun i => i.classes[copyClass t.req.w0]?).map (·.target)).getD 0
          let p : Packet := { core := core, ch := ch, id := t.req.id, dest := word b, bytes := bs, target := class_ }
          let s := (s.usedReads v.who).setRun core ch { t with moved := t.moved + n, landing := true }
          .done ((s.wake owner).modCore owner fun c => { c with jobs := { c.jobs with packets := c.jobs.packets ++ [p] } })
        | .bad c => .fault c b
        | _ => .fault 0x1A b

/-- Does a channel have bytes to move? -/
def Chan.moving (k : Chan) : Option Transfer :=
  match k.run with
  | some t => if t.ready && !t.ended && !t.landing && !k.stall && decide (t.moved < t.total) then some t else none
  | none => none

/-- The next piece of a channel. -/
def State.copyMove (s : State) (core ch : Nat) (t : Transfer) : CopyMove :=
  if copyLand t.req.w0 then s.landPiece core ch t else s.movePiece core ch t

/-- The channel that a cluster's copy unit serves next, in turn (R325). -/
def State.copyNext (s : State) (cl : Nat) : Option (Nat × Nat × Transfer) :=
  let at_ := (s.cluster cl).copyAt
  (List.range 32).findSome? fun i =>
    let k := (at_ + 1 + i) % 32
    let core := 8 * cl + k / 4
    (((s.core core).chan (k % 4)).moving).map fun t => (core, k % 4, t)

/-- The copy unit of a cluster moves the next piece of one transfer; a piece whose page fails is left to
COPY_PAGE_FAULT. -/
def State.copyTurn (s : State) (cl : Nat) : State :=
  match s.copyNext cl with
  | none => s
  | some (core, ch, t) =>
    let s := s.modCluster cl fun c => { c with copyAt := 4 * (core % 8) + ch }
    match s.copyMove core ch t with
    | .done s => s
    | .await s => s
    | .fault _ _ => s

/-! ## Faults (R329) -/

/-- COPY_PAGE_FAULT: the transfer stops at the start of the failing page. -/
def execCopyPageFault (core ch : Nat) (s : State) : Host.Outcome State Fault Refusal :=
  match ((s.core core).chan ch).moving with
  | none => .next s
  | some t =>
    match s.copyMove core ch t with
    | .fault c va => .next (s.stopTransfer core ch c va)
    | _ => .next s

/-- COPY_FAULT_DELIVERY: the lowest stalled channel is delivered, unless a fault of the core is delivered
already; F takes it at its next boundary, both cores of a pair alike. -/
def execCopyFaultDelivery (core : Nat) (s : State) : Host.Outcome State Fault Refusal :=
  let c := s.core core
  if (List.range 4).any fun ch => (c.chan ch).dlv then .next s
  else
    match (List.range 4).find? fun ch => (c.chan ch).stall with
    | none => .next s
    | some ch =>
      let s := s.modCore core fun c => c.modChan ch fun k => { k with dlv := true }
      .next (s.notify core 0x2B (c.chan ch).fault)

/-! ## Completion (R326, R331) -/

/-- The record of a finished transfer. -/
def copyRecord (t : Transfer) (cause : Nat) : Rec :=
  { w0 := word (t.req.id + copyCh t.req.w0 * 2 ^ 32 + (if cause = 0 then 1 else 2) * 2 ^ 40 + cause * 2 ^ 48)
    w1 := t.req.w2, pinned := false }

/-- Have all bytes of a transfer been performed? -/
def Transfer.finished (t : Transfer) : Bool :=
  t.ended || (t.ready && !t.landing && decide (t.total ≤ t.moved))

/-- COPY_TRANSFER_COMPLETE: DONE passes the transfer once its record has landed. -/
def execCopyTransferComplete (core ch : Nat) (s : State) : Host.Outcome State Fault Refusal :=
  let who := Requester.copy core ch
  match ((s.core core).chan ch).run with
  | none => .next s
  | some t =>
    if !t.finished || s.jobUnanswered who then .next s
    else
      let cause := if t.cause = 0 then ((s.jobWriteFailed who).map (·.1)).getD 0 else t.cause
      let (s', landed) := match copyPush t.req.w0 with
        | some slot => s.landRecord core slot (copyRecord t cause)
        | none => (s, true)
      if !landed then .next s
      else
        let s' := ((s'.dropClaims who).forgetJob (clusterOf core) who).wake core
        .next (s'.modCore core fun c => c.modChan ch fun k =>
          { k with done := t.req.id, fail := k.fail || cause != 0, run := none, stall := false, dlv := false })

/-! ## Landing (R35, R330) -/

/-- D_ACTIVATION_START: the oldest packet of a core starts D, unless its team is about to leave (R162). -/
def execDActivationStart (core : Nat) (s : State) : Host.Outcome State Fault Refusal :=
  let c := s.core core
  match c.dAct, c.jobs.packets with
  | none, p :: rest =>
    if s.leaving core then .next s
    else .next (s.setCore core ({ c with jobs := { c.jobs with packets := rest } }.startActivation (.packet p) false))
  | _, _ => .next s

end Sys2Proof.Machine
end

