-- ==== Sys2Proof/Machine/Streams.lean ====
section
/-! DEFINITION. The queue operations, the entry streams, the gathers and scatters, and the list walks
(R134 to R146). A progressive instruction makes one entry step per machine step (R135). -/

namespace Sys2Proof.Machine

/-! ## Progress (R135) -/

/-- An entry step is complete and the instruction goes on: it counts towards a pair's interval, whose
fingerprint covers the entry (R368). -/
def stepDone : M Word := do
  let (n, x) ← self
  update fun s => s.modCore n fun c => (c.dropAnswers x).countPaired x
  waitKept

/-- Two progress registers must differ, unless both are `g0`. -/
def distinct (a b : Reg) : M Unit := require (a != b || a.val == 0) 0x01

/-- A queue used in a direction that the executing stream has (R37). -/
def mayUse (ok : Ctx → Bool) : M Unit := do
  let (_, x) ← self
  require (ok x) 0x0A

/-- The core that issues the engine jobs of a core's firing: the even core of a pair (R367). -/
def State.issuingCore (s : State) (n : Nat) : Nat := if (s.core n).paired then evenOf n else n

/-- Did the firing that a core runs issue a job? -/
def Captured.ofFiring (cap : Captured) (s : State) (n : Nat) : Bool :=
  let c := s.core n
  c.firing != .idle && cap.core == s.issuingCore n && cap.fire == c.f.fire && cap.upcall == (c.firing == .upcall)

/-- Does an outstanding GEXP of the firing target a queue (R261, R268)? -/
def State.gexpTargets (s : State) (n : Nat) (q : QReg) : Bool :=
  (s.cluster (clusterOf n)).gre.any fun j => j.cap.ofFiring s n && j.cmd == .expand (.queue q)

/-- An L-stream push to the queue of an outstanding GEXP raises 0x0A (R268). -/
def noGexp (q : QReg) : M Unit := do
  let (n, _) ← self
  if q.val < 4 then do
    let bs ← external (ask fun s => [if s.gexpTargets n q then 1 else 0])
    require (bs == [0]) 0x0A
  else pure ()

/-! ## Queue operations (R136) -/

/-- QEND. -/
def execQend (q : QReg) (s : State) : Host.Outcome State Fault Refusal :=
  runMeaning (after 4 do
    start .queueOp []
    mayUse fun x => writer q == x
    noGexp q
    waitRoom q
    pushQueue q .mark) s

/-- The head of a queue as QPEEK reads it: doubleword `i` of data, 0 of a mark. -/
def peek (q : QReg) (i : Nat) (g : Reg) (take : Bool) : M Unit := do
  let l ← getQueue q
  match l with
  | [] => queueStall
  | .mark :: _ => setG g 0
  | .data v :: _ => do
    (if take then popQueue q else pure ())
    setG g (word (elem v.toNat 64 i))

/-- QPEEK. -/
def execQpeek (g : Reg) (q : QReg) (i : BitVec 4) (s : State) : Host.Outcome State Fault Refusal :=
  runMeaning (after 4 do
    start .queueOp [g]
    mayUse fun x => reader q == x
    peek q i.toNat g false) s

/-- QPEEK.d: data is dequeued, a mark stays. -/
def execQpeekD (g : Reg) (q : QReg) (i : BitVec 4) (s : State) : Host.Outcome State Fault Refusal :=
  runMeaning (after 4 do
    start .queueOp [g]
    mayUse fun x => reader q == x
    peek q i.toNat g true) s

/-- QCNT: COUNT and HEADMARK. -/
def execQcnt (g : Reg) (q : QReg) (s : State) : Host.Outcome State Fault Refusal :=
  runMeaning (after 4 do
    start .queueOp [g]
    mayUse fun x => reader q == x || writer q == x
    let l ← getQueue q
    setG g (word (l.length + (if isMarkAt l 0 then 16 else 0)))) s

/-! ## Entry streams (R137) -/

/-- The progress of LSTR and SSTR after an entry; the instruction ends with its count. -/
def nextEntry (a b : Reg) (va n : Word) : M Word := do
  setG a (va + 128)
  setG b (n - 1)
  let left ← getG b
  if left = 0 then ask fun s => s.pc + 4 else stepDone

/-- LSTR. -/
def execLstr (q : QReg) (a b : Reg) (s : State) : Host.Outcome State Fault Refusal :=
  runMeaning (do
    start .lstr [a, b]
    distinct a b
    mayUse fun x => writer q == x
    let n ← getG b
    if n = 0 then ask fun s => s.pc + 4
    else do
      noGexp q
      waitRoom q
      let va ← getG a
      let v ← loadEntry va plainQual
      pushQueue q (.data v)
      nextEntry a b va n) s

/-- SSTR: a mark stays at the head and raises 0x08. -/
def execSstr (q : QReg) (a b : Reg) (s : State) : Host.Outcome State Fault Refusal :=
  runMeaning (do
    start .sstr [a, b]
    distinct a b
    mayUse fun x => reader q == x
    let n ← getG b
    if n = 0 then ask fun s => s.pc + 4
    else do
      let l ← getQueue q
      match l with
      | [] => queueStall
      | .mark :: _ => signal 0x08
      | .data v :: _ => do
        let va ← getG a
        storeEntry va v plainQual
        popQueue q
        nextEntry a b va n) s

/-! ## Gather and scatter (R138, R139) -/

/-- The lane that names no element. -/
def noIndex : Nat := 0xFFFFFFFF

/-- An index lane read as a word; in windows 1 to 5 as LD.w reads one, the pattern taken as the index (R81, R138;
DESIGN CHOICE, log 90). -/
def loadIndex (v : Viewer) (va : Nat) : M (Nat × Nat × Bool) := do
  if 1 ≤ windowAt va ∧ windowAt va ≤ 5 then do
    checkWord v va 4 false true
    windowLoad v va
  else do
    let bs ← memRead va 4 plainQual
    pure (natOf bs, 0, false)

/-- Index lanes, ascending. -/
def loadIndices (v : Viewer) (base : Word) : List Nat → M (List (Nat × Nat × Bool))
  | [] => pure []
  | e :: es => do
    let x ← loadIndex v (base + word (4 * e)).toNat
    let xs ← loadIndices v base es
    pure (x :: xs)

/-- An element put into a list ordered by address, behind equal addresses. -/
def insertByAddress (x : Nat × Nat) : List (Nat × Nat) → List (Nat × Nat)
  | [] => [x]
  | y :: ys => if x.2 < y.2 then x :: y :: ys else y :: insertByAddress x ys

/-- Elements in ascending address (R135). -/
def byAddress (l : List (Nat × Nat)) : List (Nat × Nat) := l.foldl (fun s x => insertByAddress x s) []

/-- The elements that index lanes name: lane and address (R138, R139). -/
def indexed (f : Fmt) (base : Word) (lanes : List Nat) : List (Nat × Nat) :=
  (lanes.zipIdx.filter fun p => p.1 != noIndex).map fun p =>
    (p.2, (base + signExtendNat p.1 32 * word (f.width / 8)).toNat)

/-- LIDX (R138): an entry of up to E elements. -/
def execLidx (f : Fmt) (q : QReg) (a b c : Reg) (s : State) : Host.Outcome State Fault Refusal :=
  runMeaning (do
    start .lstr [a, b, c]
    distinct b c
    mayUse fun x => writer q == x
    let left ← getG c
    if left = 0 then ask fun s => s.pc + 8
    else do
      noGexp q
      waitRoom q
      let (n, x) ← self
      let v ← ask fun s => s.viewer n x
      let base ← getG a
      let at_ ← getG b
      let k := Nat.min f.count left.toNat
      let idx ← loadIndices v at_ (List.range k)
      let els := indexed f base (idx.map (·.1))
      let _ ← checkElements v false f plainQual (byAddress els)
      let xs ← loadElements v f plainQual els
      let hints := (xs.filter fun e => e.2.2.2).map (·.1)
      rangeCheck (hints.min? <|> firstHint (idx.map (·.2.2)))
      setFlags (xs.foldl (fun fl e => fl ||| e.2.2.1) (idx.foldl (fun fl e => fl ||| e.2.1) 0))
      let codes := (List.range f.count).map fun i =>
        match xs.find? fun e => e.1 == i with
        | some e => e.2.1
        | none => 0
      pushQueue q (.data (BitVec.ofNat 1024 (packElems f.width codes)))
      setG b (at_ + word (4 * k))
      setG c (left - word k)
      let rest ← getG c
      if rest = 0 then ask fun s => s.pc + 8 else stepDone) s

/-- SSCAT (R139): ends at a mark of the index queue, which stays. -/
def execSscat (f : Fmt) (a : Reg) (qd qi : QReg) (s : State) : Host.Outcome State Fault Refusal :=
  runMeaning (do
    start .sstr [a]
    require (qd != qi) 0x01
    mayUse fun x => reader qd == x && reader qi == x
    let li ← getQueue qi
    let ld ← getQueue qd
    match li, ld with
    | [], _ => queueStall
    | .mark :: _, _ => ask fun s => s.pc + 8
    | .data _ :: _, [] => queueStall
    | .data _ :: _, .mark :: _ => signal 0x08
    | .data iv :: _, .data dv :: _ => do
      let (n, x) ← self
      let v ← ask fun s => s.viewer n x
      let base ← getG a
      let els := indexed f base ((List.range 32).map fun e => elem iv.toNat 32 e)
      let far ← checkElements v true f plainQual (byAddress els)
      scatter v f plainQual far dv.toNat els
      popQueue qi
      popQueue qd
      stepDone) s

/-! ## List walks (R140 to R143) -/

/-- A list as its descriptor gives it (R140): its base, whether it counts, its length. -/
structure ListDesc where
  base  : Word
  count : Bool
  len   : Nat
  deriving DecidableEq, Repr

/-- A plain access that may not lie in windows 1 to 5 (R140, R143): 0x1A, when it is made: a list of which nothing is
read raises nothing (DESIGN CHOICE, log 90). -/
def listRead (va : Word) (n : Nat) : M Nat := do
  let w := windowAt va.toNat
  require (!(decide (1 ≤ w ∧ w ≤ 5))) 0x1A va
  let bs ← memRead va.toNat n plainQual
  pure (natOf bs)

/-- A list descriptor read (R140). -/
def readDesc (va : Word) : M ListDesc := do
  let x ← listRead va 16
  require (x / 2 ^ 95 % 2 ^ 32 == 0) 0x27 va
  pure { base := word x, count := x / 2 ^ 127 % 2 == 1, len := x / 2 ^ 64 % 2 ^ 31 }

/-- Key `i` of a list (R140): signed but for UINT8; a counting list gives `i`. -/
def readKey (d : ListDesc) (f : Fmt) (i : Nat) : M Int := do
  if d.count then pure (i : Int)
  else do
    let n := f.width / 8
    let x ← listRead (d.base + word (i * n)) n
    pure (if f = .ui8 then (x : Int) else signedNat x f.width)

/-- The descriptors of two lists, in ascending address (R135). -/
def readDescs (va vb : Word) : M (ListDesc × ListDesc) := do
  if vb.toNat < va.toNat then do
    let db ← readDesc vb
    let da ← readDesc va
    pure (da, db)
  else do
    let da ← readDesc va
    let db ← readDesc vb
    pure (da, db)

/-- Key `i` of A and key `j` of B, read in ascending address (R135; DEDUCED, log 25). -/
def readKeys (da db : ListDesc) (f : Fmt) (i j : Nat) : M (Int × Int) := do
  let at_ (d : ListDesc) (i : Nat) : Nat := (d.base + word (i * (f.width / 8))).toNat
  if !da.count && !db.count && decide (at_ db j < at_ da i) then do
    let y ← readKey db f j
    let x ← readKey da f i
    pure (x, y)
  else do
    let x ← readKey da f i
    let y ← readKey db f j
    pure (x, y)

/-- Where a walk stands when it stops: the lanes of the entry, the position, and whether the walk has
ended. -/
structure WalkPoint where
  lanes : List Nat
  i     : Nat
  j     : Nat
  ended : Bool
  deriving DecidableEq, Repr

/-- LSISECT until an entry is full or a list is exhausted (R141). -/
def intersect (f : Fmt) (da db : ListDesc) : Nat → WalkPoint → M WalkPoint
  | 0, p => pure { p with ended := true }
  | fuel + 1, p =>
    if 32 ≤ p.lanes.length then pure p
    else if da.len ≤ p.i ∨ db.len ≤ p.j then pure { p with ended := true }
    else do
      let (x, y) ← readKeys da db f p.i p.j
      intersect f da db fuel
        (if x < y then { p with i := p.i + 1 }
        else if y < x then { p with j := p.j + 1 }
        else { p with lanes := p.lanes ++ [p.i, p.j], i := p.i + 1, j := p.j + 1 })

/-- LMERGE until an entry is full or both lists are exhausted (R141): equal keys of A come first. -/
def mergeLists (f : Fmt) (da db : ListDesc) : Nat → WalkPoint → M WalkPoint
  | 0, p => pure { p with ended := true }
  | fuel + 1, p =>
    if 32 ≤ p.lanes.length then pure p
    else if da.len ≤ p.i ∧ db.len ≤ p.j then pure { p with ended := true }
    else do
      let takeA ←
        if db.len ≤ p.j then pure true
        else if da.len ≤ p.i then pure false
        else do
          let (x, y) ← readKeys da db f p.i p.j
          pure (decide (x ≤ y))
      mergeLists f da db fuel
        (if takeA then { p with lanes := p.lanes ++ [p.i], i := p.i + 1 }
        else { p with lanes := p.lanes ++ [0x80000000 ||| p.j], j := p.j + 1 })

/-- LCOORD until an entry is full or every row is done (R143): `i` is the row, `j` the element in it. -/
def coordinates (f : Fmt) (offs : ListDesc) (rows : Nat) : Nat → WalkPoint → M WalkPoint
  | 0, p => pure { p with ended := true }
  | fuel + 1, p =>
    if 32 ≤ p.lanes.length then pure p
    else if rows ≤ p.i then pure { p with ended := true }
    else do
      let x ← readKey offs f p.i
      let y ← readKey offs f (p.i + 1)
      coordinates f offs rows fuel
        (if x + p.j < y then { p with lanes := p.lanes ++ [p.i], j := p.j + 1 }
        else { p with i := p.i + 1, j := 0 })

/-- A walk run while its queue is full: only an end without an entry completes; the wait comes before
every other check (R135). -/
def whileFull (m : M WalkPoint) : M WalkPoint := fun s =>
  match m s with
  | .ok (p, t) => if p.lanes.isEmpty then .ok (p, t) else .error (.waitDo State.markStall)
  | .error _ => .error (.waitDo State.markStall)

/-- The position at which a walk starts: of `g[gc]`, or under `g0` the one kept within the instruction. -/
def walkStart (c : Reg) : M WalkPoint := do
  let (n, x) ← self
  let g ← getG c
  let kept ← ask fun s => if x = .s then (s.core n).f.s.walk else (s.core n).f.l.walk
  let p := if c.val = 0 then kept.getD 0 else g
  pure { lanes := [], i := field p 0 32, j := field p 32 32, ended := false }

/-- The position of a walk kept within the instruction, or forgotten. -/
def Core.keepWalk (c : Core) (p : Option Word) : Core := { c with f := { c.f with l := { c.f.l with walk := p } } }

/-- One entry step of a walk: the entry is pushed, unused lanes all ones, and the position recorded; a
partial entry is the Flush (R141). At the end the final position is recorded (DEDUCED, log 25). -/
def walkStep (q : QReg) (c : Reg) (run : M WalkPoint) : M Word := do
  mayUse fun x => writer q == x
  let l ← getQueue q
  let p ← if l.length < 8 then run else whileFull run
  let lanes := (List.range 32).map fun i => p.lanes.getD i noIndex
  (if p.lanes.isEmpty then pure () else do
    noGexp q
    pushQueue q (.data (BitVec.ofNat 1024 (packElems 32 lanes))))
  let pos := word (p.j % 2 ^ 32 * 2 ^ 32 + p.i % 2 ^ 32)
  setG c pos
  let (n, _) ← self
  if p.ended then do
    update fun s => s.modCore n fun k => k.keepWalk none
    ask fun s => s.pc + 8
  else do
    update fun s => s.modCore n fun k => k.keepWalk (some pos)
    stepDone

/-- LSISECT (R141). Each entry step reads both descriptors again (DESIGN CHOICE, log 90). -/
def execLsisect (f : Fmt) (q : QReg) (a b c : Reg) (s : State) : Host.Outcome State Fault Refusal :=
  runMeaning (do
    start .lstr [a, b, c]
    walkStep q c do
      let p ← walkStart c
      let va ← getG a
      let vb ← getG b
      let (da, db) ← readDescs va vb
      intersect f da db (da.len + db.len + 33) p) s

/-- LMERGE (R141). Each entry step reads both descriptors again (DESIGN CHOICE, log 90). -/
def execLmerge (f : Fmt) (q : QReg) (a b c : Reg) (s : State) : Host.Outcome State Fault Refusal :=
  runMeaning (do
    start .lstr [a, b, c]
    walkStep q c do
      let p ← walkStart c
      let va ← getG a
      let vb ← getG b
      let (da, db) ← readDescs va vb
      mergeLists f da db 34 p) s

/-- The bisection of LMPART (R142). -/
def bisect (f : Fmt) (da db : ListDesc) (d : Nat) : Nat → Nat → Nat → M Nat
  | 0, lo, _ => pure lo
  | fuel + 1, lo, hi =>
    if hi ≤ lo then pure lo
    else do
      let mid := (lo + hi) / 2
      let x ← readKey da f mid
      let y ← readKey db f (d - 1 - mid)
      if x ≤ y then bisect f da db d fuel (mid + 1) hi else bisect f da db d fuel lo mid

/-- LMPART (R142): an ordinary instruction. -/
def execLmpart (f : Fmt) (d a b c : Reg) (s : State) : Host.Outcome State Fault Refusal :=
  runMeaning (after 8 do
    start .lstr [d, a, b, c]
    let va ← getG a
    let vb ← getG b
    let da ← readDesc va
    let db ← readDesc vb
    let x ← getG c
    let k := Nat.min x.toNat (da.len + db.len)
    let lo ← bisect f da db k 40 (k - db.len) (Nat.min k da.len)
    setG d (word ((k - lo) * 2 ^ 32 + lo))) s

/-- LCOORD (R143). The TVAL of 0x27 for too many rows is 0 (DESIGN CHOICE, log 90). -/
def execLcoord (f : Fmt) (q : QReg) (a b c : Reg) (s : State) : Host.Outcome State Fault Refusal :=
  runMeaning (do
    start .lstr [a, b, c]
    walkStep q c do
      let p ← walkStart c
      let base ← getG a
      let rows ← getG b
      require (decide (rows.toNat < 2 ^ 31)) 0x27
      let offs : ListDesc := { base := base, count := false, len := rows.toNat + 1 }
      coordinates f offs rows.toNat (rows.toNat + 34) p) s

end Sys2Proof.Machine
end

