-- ==== Sys2Proof/Machine/Gre.lean ====
section
/-! DEFINITION. The GRE instructions (R258 to R273): the grammar descriptor, the argument block and the x
descriptor (R241, R259, R260), the checks of an issue (R261), GWAIT and GPOLL. -/

namespace Sys2Proof.Machine

/-! ## Descriptors (R241, R259, R260) -/

/-- A grammar descriptor (R241). -/
structure Grammar where
  terms    : Nat
  rules    : Nat
  keyed    : Bool
  matrix   : Bool
  fmt      : Nat
  depth    : Nat
  starts   : Nat
  ruleAt   : Nat
  termAt   : Nat
  startAt  : Nat
  offAt    : Nat
  rowAt    : Nat
  rowCount : Nat
  deriving DecidableEq, Repr

/-- The fields of a descriptor's 64 bytes. -/
def grammarOf (g : List Byte) : Grammar where
  terms := natAt g 0 4
  rules := natAt g 4 4
  keyed := natAt g 8 1 % 2 == 1
  matrix := natAt g 8 1 / 2 % 2 == 1
  fmt := natAt g 9 1 % 16
  depth := natAt g 10 1 % 128
  starts := natAt g 12 4
  ruleAt := natAt g 16 8
  termAt := natAt g 24 8
  startAt := natAt g 32 8
  offAt := natAt g 40 8
  rowAt := natAt g 48 8
  rowCount := natAt g 56 4

/-- The first row of R246: zero fields, alignments, terminal format, DEPTH, the row table. -/
def descriptorLegal (b : List Byte) : Bool :=
  let g := grammarOf b
  decide (natAt b 8 1 < 4 ∧ natAt b 9 1 < 16 ∧ natAt b 10 1 < 128 ∧ natAt b 11 1 = 0 ∧ natAt b 60 4 = 0) &&
    decide (g.ruleAt % 16 = 0 ∧ g.startAt % 4 = 0 ∧ g.offAt % 4 = 0 ∧ g.rowAt % 4 = 0) &&
    decide (g.fmt ≤ 5 ∨ 9 ≤ g.fmt ∧ g.fmt ≤ 14) && decide (1 ≤ g.depth ∧ g.depth ≤ 64) &&
    (if g.matrix then decide (g.rowAt ≠ 0) else decide (g.rowAt = 0 ∧ g.rowCount = 0))

/-- An argument block (R259). -/
structure GreArgs where
  out   : Nat
  xvec  : Nat
  row   : Nat
  count : Nat
  pos   : Nat
  scan  : Bool
  push  : Option Nat
  deriving DecidableEq, Repr

/-- The fields of a block's 32 bytes. -/
def greArgsOf (b : List Byte) : GreArgs where
  out := natAt b 0 8
  xvec := natAt b 8 8
  row := natAt b 16 4
  count := natAt b 20 4
  pos := natAt b 24 4
  scan := natAt b 28 1 % 2 == 1
  push := if natAt b 29 1 / 16 % 2 = 1 then some (natAt b 29 1 % 16) else none

/-! ## Classes of terminals (R242, R248) -/

/-- The arithmetic of a job. -/
inductive Arith where
  | float | int | res
  deriving DecidableEq, Repr

/-- The class of a format code. -/
def arithOf (code : Nat) : Option Arith :=
  if code ≤ 5 then some .float
  else if code = 12 then some .res
  else if 9 ≤ code ∧ code ≤ 14 then some .int
  else none

/-- The class of a table at an address: windows 1 to 5 decide it. -/
def tableArith (va code : Nat) : Option Arith :=
  let w := windowAt va
  if 1 ≤ w ∧ w ≤ 4 then some .float else if w = 5 then some .res else arithOf code

/-- The pairings of R248. -/
def pairs (op : GOp) (a : Arith) : Bool :=
  match op with
  | .sum | .mom | .kdot => true
  | .min | .max => a != .res
  | .xor => a == .int

/-- Does a form name an operator? -/
def GreCmd.folds : GreCmd → Bool
  | .eval | .red | .pfx | .mv => true
  | _ => false

/-- Is a form a GEXP? -/
def GreCmd.expands : GreCmd → Bool
  | .expand _ => true
  | _ => false

/-- Check 9: pairing, the class of x, SCAN only on a POS grammar. -/
def pairingLegal (cmd : GreCmd) (op : GOp) (g : Grammar) (a : GreArgs) (x : List Byte) : Bool :=
  match tableArith g.termAt g.fmt with
  | none => false
  | some c =>
    (!cmd.folds || pairs op c) && !(a.scan && g.keyed) &&
      (!cmd.folds || op != .kdot || tableArith (natAt x 0 8) (natAt x 12 1 % 16) == some c)

/-- Check 10: arguments. -/
def argumentsLegal (cmd : GreCmd) (op : GOp) (g : Grammar) (b x : List Byte) (rrt : Nat) : Bool :=
  let a := greArgsOf b
  let kdot := cmd.folds && op == .kdot
  let counts := cmd == .red || cmd == .mv
  decide (natAt b 28 1 < 2 ∧ natAt b 29 1 < 32 ∧ natAt b 30 2 = 0) &&
    (!kdot || decide (natAt x 12 1 < 16 ∧ natAt x 13 3 = 0)) &&
    (if cmd == .eval || cmd.expands then decide (a.out = 0) else decide (a.out ≠ 0)) &&
    (kdot || cmd.expands && a.scan || decide (a.xvec = 0)) &&
    (counts || cmd.expands || decide (a.count = 0)) &&
    (cmd == .pfx || cmd == .seek || cmd.expands || decide (a.pos = 0)) &&
    (cmd.expands || !a.scan) && (!cmd.folds || decide (rrt % 16 = 0)) &&
    (if g.matrix then decide (a.row < g.rowCount) else decide (a.row = 0)) &&
    (!counts ||
      (if g.matrix then decide (a.row + a.count ≤ g.rowCount) else decide (a.count ≤ (if cmd = .red then 1 else 0))))

/-- Bits of an element that a GEXP emits (R268). -/
def emitWidth (g : Grammar) (a : GreArgs) : Nat :=
  if a.scan then (if tableArith g.termAt g.fmt = some .int then 64 else 32)
  else if g.keyed then 64
  else if 1 ≤ windowAt g.termAt then (if windowAt g.termAt ≤ 5 then 32 else ((fmtOfCode g.fmt).map (·.width)).getD 32)
  else ((fmtOfCode g.fmt).map (·.width)).getD 32

/-- Bytes of an element of GMV's vector (R267). -/
def valueBytes (g : Grammar) : Nat := if tableArith g.termAt g.fmt = some .int then 8 else 4

/-- The destination of a job in memory: address and bytes (R263 to R268). -/
def greDest (cmd : GreCmd) (g : Grammar) (a : GreArgs) (rrt : Nat) : Option (Nat × Nat) :=
  match cmd with
  | .eval => some (rrt, 16 * g.rules)
  | .red => some (a.out, 16 * (if g.matrix then a.count else 1))
  | .seek | .pfx => some (a.out, 16)
  | .mv => some (a.out, valueBytes g * a.count)
  | .expand (.memory dst) => some (dst.toNat, (a.count * emitWidth g a + 7) / 8)
  | .expand _ => none

/-! ## Issue (R261) -/

/-- The descriptors of a job copied at issue, checked in the order of R261 from check 5 on: GD, argument block,
x descriptor. -/
def checkGre (cmd : GreCmd) (op : GOp) (gd : Nat) (block : Option Nat) (rrt : Nat) : M GreJob := do
  require (decide (gd % 64 = 0)) 0x24 (word gd)
  let g ← engineRead gd 64
  let b ← match block with
    | none => pure (bytesOf 32 0)
    | some va => do
      require (decide (va % 32 = 0)) 0x27 (word va)
      engineRead va 32
  let x ← if cmd.folds && op == .kdot then do
      let va := natAt b 8 8
      require (decide (va % 16 = 0)) 0x27 (word va)
      engineRead va 16
    else pure []
  require (descriptorLegal g) 0x24
  let gr := grammarOf g
  let a := greArgsOf b
  require (pairingLegal cmd op gr a x) 0x28
  require (argumentsLegal cmd op gr b x rrt) 0x27
  let cap ← capture a.push .dv
  pure { id := 0, cap := cap, cmd := cmd, op := op, gd := g, rrt := word rrt, args := b, xdesc := x, begun := false, result := none
         lines := [], queue := [], stream := [], taken := false, pushing := false }

/-- The job enters the queue of its cluster, with its destination lines claimed (R233, R261): its id. -/
def submitGre (j : GreJob) : M Nat := do
  let (n, _) ← self
  release .dv
  let s ← get
  let k := clusterOf n
  let cl := s.cluster k
  let id := nextId (cl.gre.map (·.id)) 64 cl.nextGre
  let lines ← match greDest j.cmd (grammarOf j.gd) (greArgsOf j.args) j.rrt.toNat with
    | some (va, len) => destLines (s.issuer n) va len
    | none => pure []
  update fun s =>
    let s := s.modCluster k fun c => { c with gre := c.gre ++ [{ j with id := id }], nextGre := (id + 1) % 65536 }
    let s := s.modCore n fun c => { c with sr := { c.sr with gjob := word (65536 + id) } }
    s.claimLines (.gre k id) lines
  pure id

/-- An instruction that issues a GRE job (R261): the queue of a GEXP, room, checks, the queue of the cluster. -/
def issueGre (d : Reg) (rs : List Reg) (cmd : M GreCmd) (op : GOp) (a : Reg) (rrt : Option Reg) (block : Reg) : M Word :=
  after 8 do
    start .engine (d :: rs)
    let (n, _) ← self
    let cmd ← cmd
    let gd ← getG a
    let base ← match rrt with | some r => getG r | none => pure 0
    let va ← getG block
    let bs ← closing do
      let s ← get
      (match cmd with
        | .expand (.queue q) => require (decide (q.val < 4) && !s.gexpTargets n q) 0x0A
        | _ => pure ())
      waitWhile (decide (4 ≤ s.greOut n))
      awaitIntake (decide (32 ≤ (s.cluster (clusterOf n)).gre.length)) (·.greIn) fun c q => { c with greIn := q }
      let j ← checkGre cmd op gd.toNat (if block.val = 0 then none else some va.toNat) base.toNat
      let id ← submitGre j
      pure (bytesOf 2 id)
    setG d (word (natAt bs 0 2))

/-- GEVAL (R263). -/
def execGeval (op : GOp) (d a b c : Reg) (s : State) : Host.Outcome State Fault Refusal :=
  runMeaning (issueGre d [a, b, c] (pure .eval) op a (some b) c) s

/-- GRED (R264). -/
def execGred (op : GOp) (d a b c : Reg) (s : State) : Host.Outcome State Fault Refusal :=
  runMeaning (issueGre d [a, b, c] (pure .red) op a (some b) c) s

/-- GSEEK (R266): its argument block stands in `gb`. -/
def execGseek (d a b : Reg) (s : State) : Host.Outcome State Fault Refusal :=
  runMeaning (issueGre d [a, b] (pure .seek) .sum a none b) s

/-- GPFX (R265). -/
def execGpfx (op : GOp) (d a b c : Reg) (s : State) : Host.Outcome State Fault Refusal :=
  runMeaning (issueGre d [a, b, c] (pure .pfx) op a (some b) c) s

/-- GEXP to memory (R268). -/
def execGexpMemory (d a b c : Reg) (s : State) : Host.Outcome State Fault Refusal :=
  runMeaning (issueGre d [a, b, c] (do
    let dst ← getG b
    pure (.expand (.memory dst))) .sum a none c) s

/-- GEXP to a queue (R268). -/
def execGexpQueue (d a : Reg) (q : QReg) (c : Reg) (s : State) : Host.Outcome State Fault Refusal :=
  runMeaning (issueGre d [a, c] (pure (.expand (.queue q))) .sum a none c) s

/-- GEXP into the weight port (R268). -/
def execGexpWp (d a c : Reg) (s : State) : Host.Outcome State Fault Refusal :=
  runMeaning (issueGre d [a, c] (pure (.expand .weightPort)) .sum a none c) s

/-- GMV (R267). -/
def execGmv (op : GOp) (d a b c : Reg) (s : State) : Host.Outcome State Fault Refusal :=
  runMeaning (issueGre d [a, b, c] (pure .mv) op a (some b) c) s

/-! ## Waiting (R270 to R273) -/

/-- The status of a finished job of a core, taken and acquired: the core forgets it (R272). -/
def takeGre (n id : Nat) : M (List Byte) := do
  let c ← ask fun s => s.core n
  match c.jobs.greDone.find? fun j => j.id == id with
  | none => pure (bytesOf 9 0)
  | some j => do
    update fun s => s.modCore n fun c =>
      { c with jobs := { c.jobs with greDone := c.jobs.greDone.filter fun k => k.id != id } }
    acquire j.scope
    pure (bytesOf 8 j.stat.toNat ++ [BitVec.ofNat 8 j.flags])

/-- Is a GRE job of a core outstanding? -/
def State.greRuns (s : State) (n id : Nat) : Bool :=
  (s.cluster (clusterOf n)).gre.any fun j => j.id == id && j.cap.core == n

/-- GSTAT written. -/
def writeGstat (stat : Word) : M Unit := do
  let (n, _) ← self
  update fun s => s.modCore n fun c => { c with sr := { c.sr with gstat := stat } }

/-- GWAIT (R272): its trap leaves GSTAT, FPSTAT and the acquire. -/
def execGwait (a : Reg) (s : State) : Host.Outcome State Fault Refusal :=
  runMeaning (after 8 do
    start .engine [a]
    let g ← getG a
    let id := g.toNat % 65536
    let (n, _) ← self
    let bs ← external do
      let runs ← ask fun s => s.greRuns n id
      waitWhile runs
      takeGre n id
    let stat := wordAt bs 0
    writeGstat stat
    setFlags (natAt bs 8 1)
    let st := field stat 16 3
    (if st = 2 ∨ st = 3 then signalKept 0x29 (word id) else pure ())) s

/-- GPOLL (R273). -/
def execGpoll (d a : Reg) (s : State) : Host.Outcome State Fault Refusal :=
  runMeaning (after 8 do
    start .engine [d, a]
    let g ← getG a
    let id := g.toNat % 65536
    let (n, _) ← self
    let bs ← external do
      let runs ← ask fun s => s.greRuns n id
      if runs then pure (bytesOf 8 (4 * 65536) ++ [0]) else takeGre n id
    let stat := wordAt bs 0
    writeGstat stat
    setFlags (natAt bs 8 1)
    setG d stat) s

end Sys2Proof.Machine
end

