-- ==== Sys2Proof/Machine/GreJobs.lean ====
section
/-! DEFINITION. The work of the GRE (R240 to R256, R263 to R269): values and their combination, descents, folds,
the eight forms, and the events that run the jobs. -/

namespace Sys2Proof.Machine

/-! ## What a job works with -/

/-- A GRE job under way: its descriptors, the arithmetic, the largest |terminal| and |x| of R252. -/
structure GreEnv where
  e      : JobEnv
  g      : Grammar
  a      : GreArgs
  op     : GOp
  arith  : Arith
  rrt    : Nat
  xBase  : Nat
  xLen   : Nat
  xFmt   : Fmt
  bound  : Nat
  boundX : Nat

/-- A value (R249 to R251): an FP32 pattern, a residue word or an integer, under MOM with its weighted total; whether
a NaN entered it, and the RANGE bits of the entries that did (R264). -/
structure GVal where
  v   : Int
  w   : Int
  nan : Bool
  range : Bool
  deriving DecidableEq, Repr

/-- An element of a table: its value, whether it is a NaN, the flags that taking its value sets, its bits. -/
structure Elem where
  v     : Int
  nan   : Bool
  flags : Nat
  bits  : Nat

/-- A terminal: its element, with its bits as GSEEK and GEXP give them, and its column under KEY. -/
structure Terminal where
  elem : Elem
  col  : Nat

/-- ANCHOR of a floating rule (R245). -/
def floating : Nat := 0xFFFFFFFF

/-- An integer as 64-bit two's complement. -/
def wrap64 (x : Int) : Int := signedNat (wrapInt x 64) 64

/-! ## Elements (R242, R249, R260) -/

/-- A code as an element: a signalling NaN sets NV where its value is taken; an RNS3 code is read reduced, with its
HINT (R107, R249). -/
def codeElem (f : Fmt) (code : Nat) : Elem :=
  if isFloating f then
    let x := decodeFloat f code
    { v := ((widen32 f code : Nat) : Int), nan := x.isNan, flags := if x.isSignalling then fNV else 0, bits := code }
  else if f = .rns3 then
    let (a, b, c) := residues code
    { v := ((rnsWord (rnsHint code) a b c : Nat) : Int), nan := false, flags := 0, bits := code }
  else { v := intOf (decodeNum f code), nan := false, flags := 0, bits := code }

/-- Element `i` of a table. Through windows 1 to 5 its bits are the pattern of R81 (R242). -/
def tableElem (ge : GreEnv) (va : Nat) (f : Fmt) (i : Nat) : J Elem := do
  let w := windowAt va
  if 1 ≤ w ∧ w ≤ 5 then do
    let at_ := va + 4 * i
    (if Config.scratchBytes ≤ (slotOf va).2.2 + 4 * i then jfail 0x1A at_ else pure ())
    if w = 4 then do
      let (p, fl, _) ← jwindowPattern ge.e at_
      jflags fl
      pure { v := (p : Int), nan := (decodeFloat .f32 p).isNan, flags := 0, bits := p }
    else do
      let (_, x, _) ← jwindowCode ge.e at_
      if w = 5 then pure { codeElem .rns3 x with bits := wrapInt (rnsValue x) 32 }
      else
        let el := codeElem (windowFmt w) x
        pure { el with bits := el.v.toNat }
  else do
    let c ← jcode ge.e { va := va, fmt := f, win := 0 } i
    pure (codeElem f c)

/-- The terminal format. -/
def GreEnv.fmt (ge : GreEnv) : Fmt := (fmtOfCode ge.g.fmt).getD .i8

/-- Terminal `i` (R242). -/
def terminal (ge : GreEnv) (i : Nat) : J Terminal := do
  if ge.g.keyed then do
    let bs ← jread ge.e (ge.g.termAt + 8 * i) 8
    pure { elem := { codeElem ge.fmt (natAt bs 4 4 % 2 ^ ge.fmt.width) with bits := natOf bs }, col := natAt bs 0 4 }
  else do
    let el ← tableElem ge ge.g.termAt ge.fmt i
    pure { elem := el, col := 0 }

/-- Element `c` of x: a column at or beyond its length fails with 0x27 (R251). -/
def xElem (ge : GreEnv) (c : Nat) : J Int := do
  if ge.xLen ≤ c then jreject 0x27
  else do
    let el ← tableElem ge ge.xBase ge.xFmt c
    jflags el.flags
    let v := el.v
    (if ge.arith = .res then modify fun r => { r with bound := Nat.max r.bound (rnsValue v.toNat).natAbs } else pure ())
    pure v

/-! ## Arithmetic (R249, R250) -/

/-- The exact value of an FP32 pattern. -/
def fp (x : Int) : Value := decodeFloat .f32 x.toNat

/-- An exact value rounded to FP32 under RNE, with the flags on its way. -/
def roundF (x : Value) (fl : Nat) : J Int := do
  let (c, fl') := roundFp32 x
  jflags (fl ||| fl')
  pure (c : Int)

/-- RoundFP32(x + y). -/
def addF (x y : Int) : J Int :=
  let (s, fl) := Value.add 0 (fp x) (fp y)
  roundF s fl

/-- RoundFP32(p × t + w), one rounding, with p exact. -/
def fmaF (p : Nat) (t w : Int) : J Int :=
  let (q, f1) := Value.mul (Value.ofInt (p : Int)) (fp t)
  let (s, f2) := Value.add 0 q (fp w)
  roundF s (f1 ||| f2)

/-- The sum of two values of a job's arithmetic; integers exactly. -/
def addG (a : Arith) (x y : Int) : J Int :=
  match a with
  | .float => addF x y
  | .res => pure ((rnsAdd x.toNat y.toNat : Nat) : Int)
  | .int => pure (x + y)

/-- p × t + w in a job's arithmetic. -/
def fmaG (a : Arith) (p : Nat) (t w : Int) : J Int :=
  match a with
  | .float => fmaF p t w
  | .res => pure ((rnsAdd w.toNat (rnsMul (rnsOfInt (p : Int)) t.toNat) : Nat) : Int)
  | .int => pure (wrap64 (w + p * t))

/-- Is an FP32 pattern a NaN? -/
def nanF (a : Arith) (x : Int) : Bool := a == .float && (fp x).isNan

/-- `Combine` of R249 for every operator but MOM. -/
def combine (ge : GreEnv) (x y : GVal) : J GVal := do
  let v ← match ge.op, ge.arith with
    | .min, .float | .max, .float => do
      let (c, fl) := selectCode .f32 (ge.op == .max) x.v.toNat y.v.toNat
      jflags fl
      pure (c : Int)
    | .min, _ => pure (min x.v y.v)
    | .max, _ => pure (max x.v y.v)
    | .xor, _ => pure (signedNat (wrapInt x.v 64 ^^^ wrapInt y.v 64) 64)
    | .kdot, .int => pure (wrap64 (x.v + y.v))
    | _, a => addG a x.v y.v
  pure { v := v, w := 0, nan := x.nan || y.nan || nanF ge.arith v, range := x.range || y.range }

/-- Does a word of a value carry a HINT? -/
def GVal.hints (ge : GreEnv) (x : GVal) : Bool := ge.arith == .res && (rnsHint x.v.toNat || rnsHint x.w.toNat)

/-- MOM of a rule from its children (R250): a child's HINT sets that of its weighted total (R252). -/
def momRule (ge : GreEnv) (len : Nat) (x y : GVal) : J GVal := do
  let t ← addG ge.arith x.v y.v
  let u ← addG ge.arith x.w y.w
  let w ← fmaG ge.arith len y.v u
  let w := if x.hints ge || y.hints ge then ((w.toNat ||| 2 ^ 31 : Nat) : Int) else w
  pure { v := t, w := w, nan := false, range := false }

/-- The value of a rule from its children's (R249 to R251). -/
def ruleValue (ge : GreEnv) (len : Nat) (x y : GVal) : J GVal :=
  if ge.op = .mom then momRule ge len x y else combine ge x y

/-- Two terms combined in a fold: MOM combines T and W each as SUM (R254). -/
def foldTwo (ge : GreEnv) (x y : GVal) : J GVal := do
  if ge.op = .mom then do
    let t ← addG ge.arith x.v y.v
    let w ← addG ge.arith x.w y.w
    pure { v := t, w := if ge.arith = .int then wrap64 w else w, nan := false, range := false }
  else combine ge x y

/-- The term of an occurrence at an offset (R250, R254). -/
def termAt (ge : GreEnv) (x : GVal) (off : Nat) : J GVal := do
  if ge.op = .mom then do
    let w ← fmaG ge.arith off x.v x.w
    pure { x with w := w }
  else pure x

/-- The value of a terminal, under KDOT at a column (R249, R251). -/
def leaf (ge : GreEnv) (s col : Nat) : J GVal := do
  let t ← terminal ge s
  let el := t.elem
  jflags el.flags
  if ge.op ≠ .kdot then pure { v := el.v, w := 0, nan := el.nan, range := false }
  else do
    let x ← xElem ge (if ge.g.keyed then t.col else col)
    let v ← match ge.arith with
      | .float =>
        let (p, fl) := Value.mul (fp el.v) (fp x)
        roundF p fl
      | .res => pure ((rnsMul el.v.toNat x.toNat : Nat) : Int)
      | .int => pure (wrap64 (el.v * x))
    pure { v := v, w := 0, nan := el.nan || nanF ge.arith v, range := false }

/-! ## Rules and descents (R245, R253) -/

/-- A rule record. -/
structure RuleRec where
  left   : Nat
  right  : Nat
  len    : Nat
  anchor : Nat

/-- The record of a rule. -/
def ruleRec (ge : GreEnv) (s : Nat) : J RuleRec := do
  let bs ← jread ge.e (ge.g.ruleAt + 16 * (s - ge.g.terms)) 16
  pure { left := natAt bs 0 4, right := natAt bs 4 4, len := natAt bs 8 4, anchor := natAt bs 12 4 }

/-- Is a number no symbol? -/
def GreEnv.noSymbol (ge : GreEnv) (s : Nat) : Bool := decide (ge.g.terms + ge.g.rules ≤ s)

/-- The length of a symbol. -/
def symbolLen (ge : GreEnv) (s : Nat) : J Nat := do
  if s < ge.g.terms then pure 1
  else if ge.noSymbol s then jreject 0x24
  else do
    let r ← ruleRec ge s
    pure r.len

/-- The anchor check of R247. -/
def checkAnchor (ge : GreEnv) (anchor col : Nat) : J Unit :=
  if !ge.g.keyed && anchor != floating && anchor != col then jreject 0x24 else pure ()

/-- A rule that a descent passes at a column (R253): its children and the length of the left one. -/
def passRule (ge : GreEnv) (s col : Nat) : J (Nat × Nat × Nat) := do
  let r ← ruleRec ge s
  let l ← symbolLen ge r.left
  let m ← symbolLen ge r.right
  (if r.len ≠ l + m then jreject 0x25 else pure ())
  checkAnchor ge r.anchor col
  pure (r.left, r.right, l)

/-- The value of a symbol placed at a column, by descent in tree order (R251). -/
def evalAt (ge : GreEnv) : Nat → Nat → Nat → J GVal
  | 0, s, col =>
    if s < ge.g.terms then leaf ge s col else jreject (if ge.noSymbol s then 0x24 else 0x26)
  | fuel + 1, s, col =>
    if s < ge.g.terms then leaf ge s col
    else if ge.noSymbol s then jreject 0x24
    else do
      let (a, b, l) ← passRule ge s col
      let x ← evalAt ge fuel a col
      let y ← evalAt ge fuel b (col + l)
      ruleValue ge l x y

/-- A container of R255 read. -/
def fromContainer (a : Arith) (bs : List Byte) (o : Nat) : Int :=
  match a with
  | .int => signedNat (natAt bs o 8) 64
  | _ => ((natAt bs o 4 : Nat) : Int)

/-- The value of a rule through its entry (R255, R264): an entry with VALID = 0 is evaluated by descent, and
counts in FLOATEV (log 28). -/
def entryValue (ge : GreEnv) (s off : Nat) (r : RuleRec) : J GVal := do
  let va := ge.rrt + 16 * (s - ge.g.terms)
  let bs ← jread ge.e va 16
  jtag ge.e va
  if ge.op = .mom then
    pure { v := fromContainer ge.arith bs 0, w := fromContainer ge.arith bs 8, nan := false, range := false }
  else if natAt bs 8 4 ≠ r.len then jreject 0x25
  else if natAt bs 12 1 % 2 = 1 then
    let fl := natAt bs 12 1
    pure { v := fromContainer ge.arith bs 0, w := 0, nan := fl / 2 % 2 == 1, range := fl / 4 % 2 == 1 }
  else do
    modify fun r => { r with count := r.count + 1 }
    evalAt ge ge.g.depth s off

/-- The term of a whole symbol at an offset (R254, R264). -/
def symbolTerm (ge : GreEnv) (s off : Nat) : J GVal := do
  if ge.noSymbol s then jreject 0x24
  else if s < ge.g.terms then do
    let x ← leaf ge s off
    termAt ge x off
  else do
    let r ← ruleRec ge s
    let x ← entryValue ge s off r
    checkAnchor ge r.anchor off
    termAt ge x off

/-! ## Sequences and rows (R243, R244, R400) -/

/-- Entry `k` of a table of 32-bit words. -/
def tableWord (ge : GreEnv) (va k : Nat) : J Nat := do
  let bs ← jread ge.e (va + 4 * k) 4
  pure (natOf bs)

/-- The start symbols of a row, or of the one sequence: first index, and the index after the last. -/
def rowSpan (ge : GreEnv) (r : Nat) : J (Nat × Nat) := do
  if !ge.g.matrix then pure (0, ge.g.starts)
  else do
    let z ← tableWord ge ge.g.rowAt 0
    let n ← tableWord ge ge.g.rowAt ge.g.rowCount
    let a ← tableWord ge ge.g.rowAt r
    let b ← tableWord ge ge.g.rowAt (r + 1)
    if z ≠ 0 ∨ n ≠ ge.g.starts ∨ b < a ∨ ge.g.starts < b then jreject 0x24 else pure (a, b)

/-- Start symbol `k`. -/
def startSymbol (ge : GreEnv) (k : Nat) : J Nat := do
  let s ← tableWord ge ge.g.startAt k
  if ge.noSymbol s then jreject 0x24 else pure s

/-- The length of a row so far: at most 2^32 − 1 (R246). -/
def checkLength (n : Nat) : J Unit := if 2 ^ 32 ≤ n then jreject 0x24 else pure ()

/-- The start symbols of a row from an index, with their offsets, and the row's length. -/
def rowSymbols (ge : GreEnv) : Nat → Nat → Nat → J (List (Nat × Nat) × Nat)
  | 0, _, off => pure ([], off)
  | n + 1, k, off => do
    let s ← startSymbol ge k
    let l ← symbolLen ge s
    checkLength (off + l)
    let (rest, len) ← rowSymbols ge n (k + 1) (off + l)
    pure ((s, off) :: rest, len)

/-- The start-offset entries of a row. -/
def rowOffsets (ge : GreEnv) : Nat → Nat → J (List Nat)
  | 0, _ => pure []
  | n + 1, k => do
    let o ← tableWord ge ge.g.offAt k
    let rest ← rowOffsets ge n (k + 1)
    pure (o :: rest)

/-- Are numbers in non-decreasing order? -/
def ascending : List Nat → Bool
  | a :: b :: rest => decide (a ≤ b) && ascending (b :: rest)
  | _ => true

/-- The index that SOFF gives for a position (R243): the last entry at or below it; of entries out of order, a
free choice. -/
def pickOffset (pick : Nat) (offs : List Nat) (q : Nat) : Option Nat :=
  if ascending offs then
    (offs.zipIdx.foldl (fun r p => if p.1 ≤ q then some p.2 else r) none)
  else if offs.any fun o => decide (o ≤ q) then some (pick % offs.length)
  else none

/-- The start symbol that covers a position (R243, R253): its index, symbol and offset. `last` says that a
prefix at the end of its row is asked for. -/
def cover (ge : GreEnv) (base : Nat) (syms : List (Nat × Nat)) (q : Nat) (last : Bool) : J (Nat × Nat × Nat) := do
  if ge.g.offAt = 0 then do
    let inside (i : Nat) : Bool :=
      match syms[i + 1]? with
      | some (_, o) => decide (q < o)
      | none => true
    match syms.zipIdx.find? fun p => inside p.2 with
    | some ((s, o), i) => pure (i, s, o)
    | none => jreject 0x24
  else do
    let offs ← rowOffsets ge syms.length base
    match pickOffset (Config.freeIndex ge.e.s.fresh) offs q with
    | none => jreject 0x24
    | some i => do
      let o := offs.getD i 0
      let s := (syms.getD i (0, 0)).1
      let l ← symbolLen ge s
      if o ≤ q ∧ (q < o + l ∨ (last ∧ q = o + l)) then pure (i, s, o) else jreject 0x24

/-! ## Folds (R254) -/

/-- A term folded into its slice, the last of those begun, which stand last first. -/
def addTerm (ge : GreEnv) (acc : List (GVal × Nat)) (t : GVal) (slice : Nat) : J (List (GVal × Nat)) :=
  match acc with
  | (x, k) :: rest =>
    if k = slice then do
      let z ← foldTwo ge x t
      pure ((z, k) :: rest)
    else pure ((t, slice) :: acc)
  | [] => pure [(t, slice)]

/-- The slices of a fold merged in slice order; none without a term. -/
def foldEnd (ge : GreEnv) (acc : List (GVal × Nat)) : J (Option GVal) :=
  match acc.reverse with
  | [] => pure none
  | (x, _) :: rest => do
    let v ← rest.foldlM (fun a b => foldTwo ge a b.1) x
    pure (some v)

/-- The symbols of a row folded term by term, `n` from index `k` on: the slices, and the row's length (R264). -/
def rowFold (ge : GreEnv) : Nat → Nat → Nat → Nat → List (GVal × Nat) → J (List (GVal × Nat) × Nat)
  | 0, _, _, off, acc => pure (acc, off)
  | n + 1, i, k, off, acc => do
    let s ← startSymbol ge k
    let t ← symbolTerm ge s off
    let l ← symbolLen ge s
    checkLength (off + l)
    let acc ← addTerm ge acc t (i / 256)
    rowFold ge n (i + 1) (k + 1) (off + l) acc

/-! ## Results (R252, R255) -/

/-- A residue word with its HINT set where the bound of R252 is passed. -/
def hinted (ge : GreEnv) (v : Int) (n : Nat) : Int :=
  if ge.arith = .res ∧ rnsM / 2 < n then ((v.toNat ||| 2 ^ 31 : Nat) : Int) else v

/-- The value of a result of length `len` with its hint (R252). -/
def boundedValue (ge : GreEnv) (v : Int) (len : Nat) : Int :=
  hinted ge v (len * ge.bound * (if ge.op = .kdot then ge.boundX else 1))

/-- A container of R255. -/
def toContainer (a : Arith) (v : Int) : List Byte :=
  match a with
  | .int => bytesOf 8 (wrapInt v 64)
  | _ => bytesOf 8 v.toNat

/-- An entry or result record (R255); without a value VALUE is 0. -/
def resultBytes (ge : GreEnv) (x : Option GVal) (len : Nat) : List Byte :=
  match x with
  | none => if ge.op = .mom then bytesOf 16 0 else bytesOf 8 0 ++ bytesOf 4 len ++ bytesOf 4 0
  | some x =>
    let v := boundedValue ge x.v len
    if ge.op = .mom then
      toContainer ge.arith v ++ toContainer ge.arith (hinted ge x.w (len * (len - 1) / 2 * ge.bound))
    else
      let range := x.range || (ge.arith == .res && rnsHint v.toNat)
      toContainer ge.arith v ++ bytesOf 4 len ++ bytesOf 4 (1 + x.nan.toNat * 2 + range.toNat * 4)

/-! ## GEVAL (R263) -/

/-- What GEVAL knows of the rules it has done: length, depth, value (none: floating under KDOT). -/
structure RuleDone where
  len   : Nat
  depth : Nat
  value : Option GVal

/-- A child of a rule: its length and depth. -/
def childShape (ge : GreEnv) (done : Array RuleDone) (s : Nat) : Nat × Nat :=
  if s < ge.g.terms then (1, 0)
  else match done[s - ge.g.terms]? with | some d => (d.len, d.depth) | none => (0, 0)

/-- The value of a child placed at a column: a rule's own, or a floating one's by descent (R251, log 28). -/
def childValue (ge : GreEnv) (done : Array RuleDone) (placed : Bool) (s col : Nat) : J GVal := do
  if s < ge.g.terms then leaf ge s col
  else do
    match done[s - ge.g.terms]? with
    | some { value := some v, .. } => do
      (if placed then do
          let r ← ruleRec ge s
          checkAnchor ge r.anchor col
        else pure ())
      pure v
    | _ => do
      modify fun r => { r with count := r.count + 1 }
      evalAt ge ge.g.depth s col

/-- Rule `i` evaluated: its entry written. -/
def evalRule (ge : GreEnv) (done : Array RuleDone) (i : Nat) : J (Array RuleDone) := do
  let s := ge.g.terms + i
  let r ← ruleRec ge s
  (if s ≤ r.left ∨ s ≤ r.right then jreject 0x24 else pure ())
  let (la, da) := childShape ge done r.left
  let (lb, db) := childShape ge done r.right
  (if r.len ≠ la + lb then jreject 0x25 else pure ())
  let dep := 1 + Nat.max da db
  (if ge.g.depth < dep then jreject 0x26 else pure ())
  let placed := ge.op == .kdot && !ge.g.keyed
  let v ← if placed && r.anchor == floating then pure none
    else do
      let x ← childValue ge done placed r.left r.anchor
      let y ← childValue ge done placed r.right (r.anchor + la)
      let z ← ruleValue ge la x y
      pure (some z)
  jwrite ge.e (ge.rrt + 16 * i) (resultBytes ge v r.len)
  pure (done.push { len := r.len, depth := dep, value := v })

/-- GEVAL. -/
def runEval (ge : GreEnv) : J Unit := do
  let _ ← (List.range ge.g.rules).foldlM (fun done i => evalRule ge done i) #[]
  pure ()

/-! ## GRED and GMV (R264, R267) -/

/-- One row folded: the value (none: no start symbols) and the length. -/
def foldRow (ge : GreEnv) (r : Nat) : J (Option GVal × Nat) := do
  let (a, b) ← rowSpan ge r
  let (acc, len) ← rowFold ge (b - a) 0 a 0 []
  let v ← foldEnd ge acc
  pure (v, len)

/-- The rows that a job folds. -/
def GreEnv.rows (ge : GreEnv) (cmd : GreCmd) : List Nat :=
  if ge.g.matrix then (List.range ge.a.count).map (ge.a.row + ·) else if cmd = .red then [0] else []

/-- GRED: one record for each row. -/
def runRed (ge : GreEnv) : J Unit :=
  (ge.rows .red).zipIdx.forM fun (r, k) => do
    let (v, len) ← foldRow ge r
    jwrite ge.e (ge.a.out + 16 * k) (resultBytes ge v len)

/-- GMV: one element for each row. -/
def runMv (ge : GreEnv) : J Unit :=
  (ge.rows .mv).zipIdx.forM fun (r, k) => do
    let (v, len) ← foldRow ge r
    let n := valueBytes ge.g
    let bs := match v with
      | some x => (toContainer ge.arith (boundedValue ge x.v len)).take n
      | none => bytesOf n 0
    jwrite ge.e (ge.a.out + n * k) bs

/-! ## GPFX (R253, R265) -/

/-- A piece added to a descent value. -/
def addPiece (ge : GreEnv) (acc : Option GVal) (t : GVal) : J GVal :=
  match acc with
  | none => pure t
  | some x => foldTwo ge x t

/-- The descent value of a prefix inside a symbol placed at a column: its pieces added as the descent meets them. -/
def prefixValue (ge : GreEnv) : Nat → Nat → Nat → Nat → Option GVal → J (Option GVal)
  | fuel, s, p, m, acc => do
    if m = 0 then pure acc
    else do
      let l ← symbolLen ge s
      if m = l then do
        let t ← symbolTerm ge s p
        let z ← addPiece ge acc t
        pure (some z)
      else
        match fuel with
        | 0 => jreject 0x26
        | fuel + 1 => do
          let (a, b, l) ← passRule ge s p
          if m ≤ l then prefixValue ge fuel a p m acc
          else do
            let t ← symbolTerm ge a p
            let z ← addPiece ge acc t
            prefixValue ge fuel b (p + l) (m - l) (some z)

/-- Whole start symbols folded term by term. -/
def wholeFold (ge : GreEnv) : List ((Nat × Nat) × Nat) → List (GVal × Nat) → J (List (GVal × Nat))
  | [], acc => pure acc
  | ((s, o), i) :: rest, acc => do
    let t ← symbolTerm ge s o
    let acc ← addTerm ge acc t (i / 256)
    wholeFold ge rest acc

/-- GPFX: the fold of the whole symbols before the covering one, combined with the descent value (R253). -/
def runPfx (ge : GreEnv) : J Unit := do
  let (a, b) ← rowSpan ge ge.a.row
  let (syms, len) ← rowSymbols ge (b - a) a 0
  let q := ge.a.pos
  if len < q then jreject 0x27
  else if q = 0 then jwrite ge.e ge.a.out (resultBytes ge none 0)
  else do
    let (i, s, o) ← cover ge a syms q (decide (q = len))
    let acc ← wholeFold ge (syms.zipIdx.take i) []
    let whole ← foldEnd ge acc
    let v ← prefixValue ge ge.g.depth s o (q - o) none
    let v ← match whole, v with
      | some x, some y => do
        let z ← foldTwo ge x y
        pure (some z)
      | some x, none => pure (some x)
      | none, y => pure y
    jwrite ge.e ge.a.out (resultBytes ge v q)

/-! ## GSEEK (R253, R266) -/

/-- The terminal at a local position of a symbol placed at a column, and the rules passed. -/
def seek (ge : GreEnv) : Nat → Nat → Nat → Nat → Nat → J (Nat × Nat)
  | fuel, s, p, m, steps =>
    if s < ge.g.terms then pure (s, steps)
    else
      match fuel with
      | 0 => jreject 0x26
      | fuel + 1 => do
        let (a, b, l) ← passRule ge s p
        if m < l then seek ge fuel a p m (steps + 1) else seek ge fuel b (p + l) (m - l) (steps + 1)

/-- GSEEK. -/
def runSeek (ge : GreEnv) : J Unit := do
  let (a, b) ← rowSpan ge ge.a.row
  let (syms, len) ← rowSymbols ge (b - a) a 0
  let k := ge.a.pos
  if len ≤ k then jreject 0x27
  else do
    let (_, s, o) ← cover ge a syms k false
    let (t, steps) ← seek ge ge.g.depth s o (k - o) 0
    let x ← terminal ge t
    jwrite ge.e ge.a.out (bytesOf 8 x.elem.bits ++ bytesOf 4 t ++ bytesOf 4 steps)

/-! ## GEXP (R268) -/

/-- Where an expansion stands: elements left and done, and the running sum of SCAN. -/
structure Emit where
  left : Nat
  done : Nat
  acc  : GVal

/-- The old byte of a destination, whose other nibble keeps its value: an earlier job's claim is awaited. -/
def oldByte (e : JobEnv) (va : Nat) : J Nat := do
  let (p, _) ← jspot e true va
  (if e.heldBefore p then throw .wait else pure ())
  match p with
  | .mem pa =>
    if isFabric pa then do
      let bs ← jremotes e pa va 1
      pure (natAt bs 0 1)
    else pure (e.s.readPlace e.v.core p).toNat
  | p => pure (e.s.readPlace e.v.core p).toNat

/-- An element of a GEXP delivered (R268): to memory packed, 4-bit elements two to a byte; else gathered. -/
def deliver (ge : GreEnv) (t : GexpTarget) (i x : Nat) : J Unit := do
  let w := emitWidth ge.g ge.a
  (match t with
    | .memory dst => do
      let d := dst.toNat
      let win := windowAt d
      if 1 ≤ win ∧ win ≤ 5 then jfail 0x1A d
      else if w = 4 then do
        let r ← get
        if i % 2 = 0 then do
          let old ← oldByte ge.e (d + i / 2)
          jwrite ge.e (d + i / 2) [BitVec.ofNat 8 (old / 16 * 16 + x)]
        else jwrite ge.e (d + i / 2) [BitVec.ofNat 8 (r.elems.headD 0 + 16 * x)]
      else jwrite ge.e (d + i * (w / 8)) (bytesOf (w / 8) x)
    | _ => pure ())
  modify fun r => { r with elems := x :: r.elems }

/-- One terminal emitted (R268). -/
def emitOne (ge : GreEnv) (t : GexpTarget) (st : Emit) (s : Nat) : J Emit := do
  if ge.a.scan then do
    let v ← leaf ge s 0
    let acc ← combine ge st.acc v
    let x := boundedValue ge acc.v (st.done + 1)
    deliver ge t st.done (natOf (toContainer ge.arith x))
    pure { left := st.left - 1, done := st.done + 1, acc := acc }
  else do
    let x ← terminal ge s
    deliver ge t st.done x.elem.bits
    pure { st with left := st.left - 1, done := st.done + 1 }

/-- The terminals of a symbol from a local position on, until none is left to emit. -/
def emitFrom (ge : GreEnv) (t : GexpTarget) : Nat → Nat → Nat → Nat → Emit → J Emit
  | fuel, s, p, m, st =>
    if st.left = 0 then pure st
    else if s < ge.g.terms then emitOne ge t st s
    else
      match fuel with
      | 0 => jreject 0x26
      | fuel + 1 => do
        let (a, b, l) ← passRule ge s p
        let st ← if m < l then emitFrom ge t fuel a p m st else pure st
        emitFrom ge t fuel b (p + l) (m - l) st

/-- GEXP: the covering symbol from its position on, then the symbols after it. -/
def runExpand (ge : GreEnv) (t : GexpTarget) : J Unit := do
  let (a, b) ← rowSpan ge ge.a.row
  let (syms, len) ← rowSymbols ge (b - a) a 0
  if len < ge.a.pos + ge.a.count then jreject 0x27
  else if ge.a.count = 0 then pure ()
  else do
    let (i, s, o) ← cover ge a syms ge.a.pos false
    let seed : Int := if ge.arith = .int then signedNat ge.a.xvec 64 else ((ge.a.xvec % 2 ^ 32 : Nat) : Int)
    let st : Emit := { left := ge.a.count, done := 0, acc := { v := seed, w := 0, nan := false, range := false } }
    let st ← emitFrom ge t ge.g.depth s o (ge.a.pos - o) st
    let _ ← (syms.drop (i + 1)).foldlM (fun st p => emitFrom ge t ge.g.depth p.1 p.2 0 st) st
    pure ()

/-! ## Running a job -/

/-- The largest |terminal| of an RNS3 job that folds (R252). -/
def terminalBound (ge : GreEnv) (cmd : GreCmd) : J Nat := do
  if ge.arith = .res ∧ (cmd.folds ∨ ge.a.scan) then
    (List.range ge.g.terms).foldlM (fun m i => do
      let t ← terminal ge i
      pure (Nat.max m (rnsValue t.elem.v.toNat).natAbs)) 0
  else pure 0

/-- The job of a command (R263 to R268). -/
def runForm (ge : GreEnv) (cmd : GreCmd) : J Unit := do
  let b ← terminalBound ge cmd
  let ge := { ge with bound := b }
  match cmd with
  | .eval => runEval ge
  | .red => runRed ge
  | .mv => runMv ge
  | .pfx => runPfx ge
  | .seek => runSeek ge
  | .expand t => runExpand ge t

/-- A job as a viewer of memory. -/
def State.greViewer (s : State) (cl : Nat) (j : GreJob) : Viewer :=
  { core := j.cap.core, ctx := .f, cluster := cl, asid := j.cap.asid, log := j.cap.log, user := j.cap.user
    engine := true, grid := (s.core j.cap.core).ident.grid, who := .gre cl j.id, wcfg := j.cap.wcfg }

/-- What a job works with; `boundX` is the largest |x| that it reads (R252). -/
def State.greEnv (s : State) (cl : Nat) (j : GreJob) (boundX : Nat) : GreEnv :=
  let g := grammarOf j.gd
  { e := { s := s, v := s.greViewer cl j
           before := ((s.cluster cl).gre.takeWhile fun k => k.id != j.id).map fun k => .gre cl k.id
           direct := false }
    g := g
    a := greArgsOf j.args
    op := j.op
    arith := (tableArith g.termAt g.fmt).getD .int
    rrt := j.rrt.toNat
    xBase := natAt j.xdesc 0 8
    xLen := natAt j.xdesc 8 4
    xFmt := (fmtOfCode (natAt j.xdesc 12 1 % 16)).getD .i8
    bound := 0
    boundX := boundX }

/-- A job of a cluster changed. -/
def Cluster.modGre (c : Cluster) (id : Nat) (f : GreJob → GreJob) : Cluster :=
  { c with gre := c.gre.map fun j => if j.id = id then f j else j }

/-- Elements packed into queue entries, the last padded with zeros (R268). -/
def packEntries (w : Nat) (xs : List Nat) : List QEntry :=
  let per := 1024 / w
  (List.range ((xs.length + per - 1) / per)).map fun k =>
    .data (BitVec.ofNat 1024 (packElems w ((xs.drop (k * per)).take per)))

/-- The entries that a queue GEXP pushes: those of its elements, then a mark unless it failed (R268, R269). -/
def queueEntries (cmd : GreCmd) (w : Nat) (xs : List Nat) (ended : JobEnd) : List QEntry :=
  match cmd with
  | .expand (.queue _) => packEntries w xs ++ (if ended.state = 1 then [.mark] else [])
  | _ => []

/-- Lines of a rule-result cache: 256 KiB (R256). -/
def rrcLines : Nat := 2048

/-- Lines of rule results enter the RRC of a cluster, the oldest making room (R256; DESIGN CHOICE, log 20). -/
def State.fillRrc (s : State) (cl : Nat) (lines : List Nat) : State :=
  { s with caches := { s.caches with rrc := lines.foldl (fun t l => insertTag t rrcLines (cl, l)) s.caches.rrc } }

/-- A job has run: its end, its lines and claims, its entries, its stream (R233, R268, R269). -/
def State.greRan (s : State) (cl : Nat) (j : GreJob) (r : Except JStop Unit) (run : JobRun) : State :=
  let lines := groupLines run.out.reverse
  let who := Requester.gre cl j.id
  let ended := jobEnd r run
  let w := emitWidth (grammarOf j.gd) (greArgsOf j.args)
  let xs := run.elems.reverse
  let stream := match j.cmd with | .expand .weightPort => xs.flatMap (bytesOf (w / 8)) | _ => []
  let s := s.modCluster cl fun c => c.modGre j.id fun k =>
    let cap := { k.cap with scope := scopeOfNo run.scope }
    { k with result := some ended, lines := lines, cap := cap, queue := queueEntries j.cmd w xs ended, stream := stream }
  let keep := lines.map (·.place)
  let s := { s with claims := s.claims.filter fun c => decide (c.holder ≠ who) || keep.contains c.place
                    fresh := s.fresh + 1 }
  (s.fillRrc cl run.tags).claimLines who keep

/-- A job runs: once to find the largest |x| of R252, and again with it. -/
def State.runGre (s : State) (cl : Nat) (j : GreJob) : State :=
  let s := s.modCluster cl fun c => c.modGre j.id fun j => { j with begun := true }
  let start := JobRun.start j.cap.seed
  let (_, first) := (runForm (s.greEnv cl j 0) j.cmd).run start
  let (r, run) := (runForm (s.greEnv cl j first.bound) j.cmd).run start
  s.afterRun (s.greViewer cl j) r (s.greRan cl j r run)

/-- The jobs of a cluster that may run now (R262): jobs start in queue order, so all before them have started. -/
def Cluster.openGreJobs (c : Cluster) : List GreJob :=
  (c.gre.zipIdx.filter fun p => p.1.result.isNone && (c.gre.take p.2).all (·.begun)).map (·.1)

/-- The job that a cluster's GRE runs next: those that have started share its descents and may complete in any order
(R262), so of several any one. -/
def State.nextGreJob (s : State) (cl : Nat) : Option GreJob :=
  match (s.cluster cl).openGreJobs with
  | [] => none
  | [j] => some j
  | js => js[Config.freeIndex s.fresh % js.length]?

/-- GRE_JOB_START (R262). -/
def execGreJobStart (cluster : Nat) (s : State) : Host.Outcome State Fault Refusal :=
  match s.nextGreJob cluster with
  | some j => .next ({ s with fresh := s.fresh + 1 }.runGre cluster j)
  | none => .next s

/-! ## The end of a job (R268, R271, R274) -/

/-- GSTAT of an ended job (R271). -/
def greStat (e : JobEnd) : Word :=
  word (e.info % 2 ^ 45 * 2 ^ 19 + e.state * 2 ^ 16 + e.cause * 2 ^ 10 + e.count)

/-- A job leaves the queue, and its core keeps its status. -/
def State.finishGre (s : State) (cl : Nat) (j : GreJob) (e : JobEnd) : State :=
  let who := Requester.gre cl j.id
  let s := s.modCluster cl fun c => { c with gre := c.gre.filter fun k => k.id != j.id }
  let s := (((s.dropClaims who).forgetJob cl who)).wake j.cap.core
  s.modCore j.cap.core fun c => { c with jobs := { c.jobs with
    greDone := keepStatus c.jobs.greDone { id := j.id, stat := greStat e, flags := e.flags, scope := j.cap.scope } } }

/-- The address in the completion record of a job (R274). -/
def GreJob.recordAddress (j : GreJob) : Word :=
  match j.cmd with
  | .expand (.memory dst) => dst
  | _ => word (greArgsOf j.args).out

/-- A job whose work is done ends: at once, or after its record has landed. -/
def State.endGre (s : State) (cl : Nat) (j : GreJob) (e : JobEnd) : State :=
  let e := s.withWrites (.gre cl j.id) e
  match j.cap.push with
  | some _ => s.modCluster cl fun c => c.modGre j.id fun j => { j with result := some e, pushing := true }
  | none => s.finishGre cl j e

/-- Has a job delivered all that it computed? A weight stream, a failed one too, ends with its BLDW, for which it waits
(R13, R268, R269). -/
def GreJob.delivered (j : GreJob) : Bool :=
  match j.cmd with
  | .expand .weightPort => j.taken
  | _ => j.queue.isEmpty

/-- A job of a cluster that has ended, written and delivered everything. -/
def State.greReady (s : State) (cl : Nat) : Option (GreJob × JobEnd) :=
  let c := s.cluster cl
  c.gre.findSome? fun j =>
    match j.result with
    | some e =>
      if j.lines.isEmpty && !j.pushing && !s.jobUnanswered (.gre cl j.id) && j.delivered then some (j, e) else none
    | none => none

/-- Entries at the tail of a queue of a firing, and of the state to which its pair rolls back (R276, R368). -/
def Core.appendQueue (c : Core) (q : QReg) (es : List QEntry) : Core :=
  let c := c.setQueue q (c.f.q.get q ++ es)
  { c with pair := { c.pair with start := c.pair.start.map fun w =>
      { w with f := { w.f with q := vset w.f.q q (w.f.q.get q ++ es) } } } }

/-- Room in a queue. -/
def Core.queueRoom (c : Core) (q : QReg) : Nat := 8 - (c.f.q.get q).length

/-- The entries of a queue GEXP that fit enter the queue of the firing that issued it (R268). -/
def State.deliverEntries (s : State) (cl : Nat) (j : GreJob) (q : QReg) : State :=
  let n := j.cap.core
  if !j.cap.ofFiring s n then s
  else
    let c := s.core n
    let room := if c.paired then Nat.min (c.queueRoom q) ((s.core (partnerOf n)).queueRoom q) else c.queueRoom q
    let es := j.queue.take room
    let s := s.modCore n fun c => c.appendQueue q es
    let s := if c.paired then s.modCore (partnerOf n) fun c => c.appendQueue q es else s
    s.modCluster cl fun c => c.modGre j.id fun j => { j with queue := j.queue.drop room }

/-- A queue GEXP of a cluster that has entries for a firing which runs. -/
def State.greDelivers (s : State) (cl : Nat) : Option (GreJob × QReg) :=
  (s.cluster cl).gre.findSome? fun j =>
    match j.cmd with
    | .expand (.queue q) =>
      if j.result.isSome && !j.queue.isEmpty && j.cap.ofFiring s j.cap.core &&
        decide (0 < (s.core j.cap.core).queueRoom q) then some (j, q) else none
    | _ => none

/-! ## Discarding (R13, R268, R275) -/

/-- The end of a discarded job (R275). -/
def discardedEnd (e : Option JobEnd) : JobEnd :=
  match e with
  | some e => { e with state := 3, cause := 0, info := 0 }
  | none => { state := 3, cause := 0, info := 0, hint := false, count := 0, flags := 0 }

/-- GRE jobs of a cluster discarded: they end with STATE DISCARDED. Lines that they have written stand. -/
def State.discardGre (s : State) (cl : Nat) (p : GreJob → Bool) : State :=
  ((s.cluster cl).gre.filter p).foldl (fun s j => s.finishGre cl j (discardedEnd j.result)) s

/-- GRE jobs discarded with the BLDW jobs that they feed (R13): each reports DISCARDED. -/
def State.discardStreams (s : State) (cl : Nat) (p : GreJob → Bool) : State :=
  let ids := ((s.cluster cl).gre.filter p).map (·.id)
  let fed := (s.cluster cl).bse.filter fun b => match b.cmd with | .loadGexp g _ => ids.contains g | _ => false
  (fed.foldl (fun s j => s.finishBse cl j (discardedEnd j.result)) s).discardGre cl p

/-- Does a job stream into a queue, or into a weight port? -/
def GreJob.streams (j : GreJob) : Bool :=
  match j.cmd with
  | .expand (.queue _) => true
  | .expand .weightPort => true
  | _ => false

/-- Has the firing that issued a streaming job gone, from F and from the core's fibres? -/
def GreJob.orphaned (j : GreJob) (s : State) (c : Cluster) : Bool :=
  let n := j.cap.core
  j.streams && !j.cap.ofFiring s n &&
    !((s.core n).fibres.any fun f => f.fire == j.cap.fire) &&
    !(c.bse.any fun b => match b.cmd with | .loadGexp g _ => g == j.id | _ => false)

/-! ## GRE_JOB_COMPLETE -/

/-- GRE_JOB_COMPLETE (R268, R271): entries that fit are pushed; a job that has delivered all ends; a
stream whose firing was killed is discarded (DESIGN CHOICE, log 34). -/
def execGreJobComplete (cluster : Nat) (s : State) : Host.Outcome State Fault Refusal :=
  match s.greDelivers cluster with
  | some (j, q) => .next (s.deliverEntries cluster j q)
  | none =>
    match s.greReady cluster with
    | some (j, e) => .next (s.endGre cluster j e)
    | none => .next (s.discardStreams cluster fun j => j.orphaned s (s.cluster cluster))

end Sys2Proof.Machine
end

