-- ==== Sys2Proof/Machine/EngineEvents.lean ====
section
/-! DEFINITION. The lines that engines finish (R233), and the completion records that they push (R10). -/

namespace Sys2Proof.Machine

/-! ## Claimed lines (R233) -/

/-- May a job write a line now? Not while another job owns it. -/
def State.lineFree (s : State) (who : Requester) (l : OutLine) : Bool := s.owns who l.place

/-- A line written once, and released, at another endpoint once its writes have been answered; the job claims the next
of its lines (R233). -/
def State.finishLine (s : State) (who : Requester) (core : Nat) (l : OutLine) (rest : List OutLine) : State :=
  let remote := match l.place with | .mem pa => isFabric pa | .scratch _ _ => false
  let s := (s.claimLine who l.place).writeLine who core l
  let s := if remote then s else s.dropClaim who l.place
  match rest.find? fun k => !s.claims.any fun c => decide (c.holder = who ∧ c.place = k.place) with
  | some k => s.claimLine who k.place
  | none => s

/-- Has a requester a write without an answer in a line of another endpoint? -/
def State.lineOut (s : State) (who : Requester) (line : Nat) : Bool :=
  s.fabric.engine.any fun a => decide (a.who = who) && a.answer.isNone &&
    match a.kind with
    | .write off _ _ => decide ((Config.fabricBase + a.endpoint * 2 ^ 40 + off) / 128 = line)
    | _ => false

/-- Has a job still to write a line: a transfer piece by piece, a job of another engine in one go? -/
def State.stillDue (s : State) (who : Requester) (p : Place) : Bool :=
  match who with
  | .copy core ch =>
    match ((s.core core).chan ch).run with
    | some t => s.lineDue (s.copyViewer core ch t.req) t t.moved p
    | none => false
  | _ => false

/-- A line of another endpoint is finished once its writes have been answered (R233). -/
def State.releaseAnswered (s : State) (who : Requester) (line : Nat) : State :=
  let p := Place.mem (line * 128)
  if s.lineOut who line || s.stillDue who p then s else s.dropClaim who p

/-- The first line of a BSE that can be written. -/
def State.bseLine (s : State) (cl : Nat) : Option (BseJob × OutLine × List OutLine) :=
  (s.cluster cl).bse.findSome? fun j =>
    match j.lines with
    | l :: rest => if s.lineFree (.bse cl j.id) l then some (j, l, rest) else none
    | [] => none

/-- The first line of a GRE that can be written. -/
def State.greLine (s : State) (cl : Nat) : Option (GreJob × OutLine × List OutLine) :=
  (s.cluster cl).gre.findSome? fun j =>
    match j.lines with
    | l :: rest => if s.lineFree (.gre cl j.id) l then some (j, l, rest) else none
    | [] => none

/-- CLAIMED_LINE_FINISHED (R233): an engine of a cluster writes its next line: the BSE, the GRE, or the copy
unit. -/
def execClaimedLineFinished (cluster : Nat) (s : State) : Host.Outcome State Fault Refusal :=
  match s.bseLine cluster with
  | some (j, l, rest) =>
    let s := s.finishLine (.bse cluster j.id) j.cap.core l rest
    .next (s.modCluster cluster fun c => c.modBse j.id fun j => { j with lines := rest })
  | none =>
    match s.greLine cluster with
    | some (j, l, rest) =>
      let s := s.finishLine (.gre cluster j.id) j.cap.core l rest
      .next (s.modCluster cluster fun c => c.modGre j.id fun j => { j with lines := rest })
    | none => .next (s.copyTurn cluster)

/-! ## Completion records (R10, R274, R313) -/

/-- The first BSE job of a cluster whose record lands, and the state with the record. -/
def State.bseRecord (s : State) (cl : Nat) : Option (BseJob × JobEnd × State) :=
  (s.cluster cl).bse.findSome? fun j =>
    match j.pushing, j.cap.push, j.result with
    | true, some slot, some e =>
      let (t, landed) := s.landRecord j.cap.core slot (completionRecord j.id e.state e.cause j.cmd.recordAddress)
      if landed then some (j, e, t) else none
    | _, _, _ => none

/-- The first GRE job of a cluster whose record lands, and the state with the record. -/
def State.greRecord (s : State) (cl : Nat) : Option (GreJob × JobEnd × State) :=
  (s.cluster cl).gre.findSome? fun j =>
    match j.pushing, j.cap.push, j.result with
    | true, some slot, some e =>
      let (t, landed) := s.landRecord j.cap.core slot (completionRecord j.id e.state e.cause j.recordAddress)
      if landed then some (j, e, t) else none
    | _, _, _ => none

/-- COMPLETION_PUSH (R10): the record of a finished job lands, and the job ends; while the store is full it is
tried again. -/
def execCompletionPush (cluster : Nat) (s : State) : Host.Outcome State Fault Refusal :=
  match s.bseRecord cluster with
  | some (j, e, t) => .next (t.finishBse cluster j e)
  | none =>
    match s.greRecord cluster with
    | some (j, e, t) => .next (t.finishGre cluster j e)
    | none => .next s

end Sys2Proof.Machine
end

