-- ==== Sys2Proof/Machine/Task.lean ====
section
/-! DEFINITION. The task, message and barrier instructions, LAUNCH, ABUMP, shape registers, PAIR
and UNPAIR (R169 to R183, R371). -/

namespace Sys2Proof.Machine

/-! ## Naming a core (R169) -/

/-- A core designator that passed its checks: a core of this device, or a core at another endpoint. -/
inductive Designator where
  | here (n : Nat)
  | there (endpoint core : Nat)
  deriving DecidableEq, Repr

/-- The checks of a designator. That CORE lies below 8T is checked for this device; another device checks
its own (R382; DEDUCED, log 26). -/
def designator (w : Word) : M Designator := do
  let (n, _) ← self
  let s ← get
  require (zeroField w 48 16) 0x01
  let dev := field w 32 16
  let core := field w 0 32
  if dev ≠ 0xFFFF then do
    require (s.hasMode n .remote) 0x13
    require (decide (dev ≤ 1023)) 0x36
    pure (.there dev core)
  else do
    let t := match s.infoOf n with | some i => i.clusters | none => 0
    require (decide (core < 8 * t)) 0x3D w
    pure (.here core)

/-- The grid of the executing core. -/
def myGrid : M (Nat × Option Grid) := do
  let (n, _) ← self
  ask fun s => (((s.core n).ident.grid).getD 0, s.gridOf n)

/-- The core that holds the mail of a logical core: of a pair the even one (R149, R367). -/
def State.mailbox (s : State) (g : Grid) (n : Nat) : Nat :=
  match g.coreOf n with
  | some k => if (s.core k).paired then n / 2 * 2 else n
  | none => if g.info.has .checked then n / 2 * 2 else n

/-- Messages and records on their way to a core that its inbox must take (R156). -/
def State.inbound (s : State) (gid n : Nat) : Nat :=
  (s.net.filter fun m => m.grid == gid && m.target == n && !m.held).length

/-- Is the inbox of a core of a grid full (R156)? What is on its way counts. -/
def State.inboxFull (s : State) (g : Grid) (gid n : Nat) : Bool :=
  match s.gridCore g n with
  | some c => decide (32 ≤ c.inbox.length + s.inbound gid n)
  | none => false

/-- Is the record store of a core of a grid full for records of others (R149, R150)? -/
def State.storeFull (s : State) (g : Grid) (n : Nat) : Bool :=
  match s.gridCore g n with
  | some c => !c.hasRoom g.info
  | none => false

/-- Does an item of an issuer still stand before a new one to the same core (R170)? -/
def State.itemBefore (s : State) (g : Grid) (gid n : Nat) (iss : Issuer) : Bool :=
  (s.net.any fun m => m.grid == gid && m.target == n && decide (m.item.src = some iss)) ||
    (match s.gridCore g n with
      | some c => c.inbox.any fun i => decide (i.src = some iss)
      | none => false)

/-- An item sent to a core of the grid: into the inbox of a swapped-out core (R162), or on its way. -/
def State.sendItem (s : State) (g : Grid) (gid n : Nat) (i : Item) : State :=
  match g.coreOf n with
  | none => s.modGridCore gid n fun c => { c with inbox := c.inbox ++ [i] }
  | some _ => { s with net := s.net ++ [{ grid := gid, target := n, item := i, held := false }] }

/-- An outgoing item of an activation (R14): the 9th raises 0x0F. -/
def holdItem (i : OutItem) : M Unit := do
  let (n, x) ← self
  let c ← ask fun s => s.core n
  match c.act x with
  | none => pure ()
  | some a => do
    require (decide (a.out.length < 8)) 0x0F
    update fun s => s.modCore n fun c => c.setAct x (some { a with out := a.out ++ [i] })

/-! ## PUSH and PUSHR (R171) -/

/-- The payload registers: the first is even (R171, R173). -/
def payload (gs : Reg) : M (Word × Word) := do
  let a ← getG gs
  let b ← getG (ix 31 (gs.val + 1))
  pure (a, b)

/-- The count of a firing's pushes to a slot against its ports (R148): 0x0B beyond their sum. -/
def checkPorts (slot : Nat) : M Unit := do
  let (n, _) ← self
  let s ← get
  let c := s.core n
  let rate :=
    match c.firing with
    | .slot k => match s.stage n k with | some st => st.pushesTo slot | none => 0
    | _ => 0
  require (decide (c.f.pushes.get (ix 15 slot) < rate)) 0x0B

/-- One push counted. -/
def countPush (slot : Nat) : M Unit := do
  let (n, _) ← self
  update fun s => s.modCore n fun c =>
    { c with f := { c.f with pushes := vset c.f.pushes (ix 15 slot) (c.f.pushes.get (ix 15 slot) + 1) } }

/-- The scope of a push to a slot (R171). -/
def State.pushScope (s : State) (n slot : Nat) : Scope :=
  match s.infoOf n with
  | some i => match i.stage slot with | some st => i.levelScope st.level | none => .co
  | none => .co

/-- A record pushed from F: behind an earlier item of this context (R170), or into the target's deque. A PUSH never
waits, and goes straight into its own core's deque (R150); a PUSHR waits for room, which its firing's reserve gives it
on its own core. -/
def pushFromF (target slot : Nat) (push : Bool) (w0 w1 : Word) : M Unit := do
  let (n, x) ← self
  let (gid, g?) ← myGrid
  let s ← get
  match g? with
  | none => pure ()
  | some g => do
    let to_ := s.mailbox g target
    let iss : Issuer := { core := n, ctx := x }
    let sc := s.pushScope n slot
    if !push && s.itemBefore g gid to_ iss then do
      waitWhile (s.inboxFull g gid to_)
      release sc
      let i : Item :=
        { src := some iss, kind := .record slot, lvlid := s.lvlid0 n, cls := 0, w0 := w0, w1 := w1, scope := sc,
          port := none }
      update fun s => s.sendItem g gid to_ i
    else do
      let mine := to_ == s.mailbox g (s.lvlid0 n)
      waitWhile (if mine then (s.core n).work.free == 0 else s.storeFull g to_)
      release sc
      update fun s => s.deliverRecord gid target slot { w0 := w0, w1 := w1, pinned := false }

/-- A record pushed (R171): from F closing the interval of a pair; from H held to FEND. -/
def pushRecordTo (target slot : Nat) (push : Bool) (gs : Reg) : M Unit := do
  let (n, x) ← self
  let (w0, w1) ← payload gs
  if x = .f then do
    checkPorts slot
    let _ ← closing (do pushFromF target slot push w0 w1; pure [])
    countPush slot
  else do
    let (_, g?) ← myGrid
    let s ← get
    match g? with
    | none => pure ()
    | some g => holdItem (.record (s.mailbox g target) slot w0 w1 (s.pushScope n slot))

/-- The check that a slot holds a stage: 0x0B (R171). -/
def checkSlot (slot : Nat) : M Stage := do
  let (n, _) ← self
  let s ← get
  match s.stage n slot with
  | some st => pure st
  | none => signal 0x0B

/-- PUSH (R171). -/
def execPush (slot : BitVec 4) (gs : Reg) (s : State) : Host.Outcome State Fault Refusal :=
  runMeaning (after 4 do
    start .send [gs]
    require (gs.val % 2 == 0) 0x01
    let _ ← checkSlot slot.toNat
    let (n, _) ← self
    let me ← ask fun s => s.lvlid0 n
    pushRecordTo me slot.toNat true gs) s

/-- A PUSHR to a core of another device travels where the stage's level is the pod's (R396; DEDUCED,
log 26). -/
def pushRemote (endpoint core slot : Nat) (level : Nat) (w : Word) (gs : Reg) : M Unit := do
  let (n, x) ← self
  let s ← get
  let pod := match s.infoOf n with | some i => i.levelScope level == .sy | none => false
  require pod 0x3D w
  let (w0, w1) ← payload gs
  let kind : RemoteKind := .record core slot w0 w1
  if x = .f then do
    checkPorts slot
    let _ ← closing (do release .sy; askRemote endpoint 0 kind 0)
    countPush slot
  else holdItem (.remote endpoint kind)

/-- PUSHR (R171): the target lies in the unit of the stage's level that holds the issuer. -/
def execPushr (gc : Reg) (slot : BitVec 4) (gs : Reg) (s : State) : Host.Outcome State Fault Refusal :=
  runMeaning (after 4 do
    start .send [gc, gs]
    require (gs.val % 2 == 0) 0x01
    let w ← getG gc
    let d ← designator w
    let st ← checkSlot slot.toNat
    match d with
    | .there e core => pushRemote e core slot.toNat st.level w gs
    | .here target => do
      let (n, _) ← self
      let s ← get
      let me := s.lvlid0 n
      let sameUnit :=
        match s.infoOf n with
        | some i => i.unitOf st.level me == i.unitOf st.level target
        | none => false
      require sameUnit 0x3D w
      pushRecordTo target slot.toNat false gs) s

/-! ## SEND and SENDH (R173) -/

/-- The narrowest scope that holds two cores of a grid: cluster, die, device. -/
def Grid.between (g : Grid) (a b : Nat) : Scope :=
  if a / 8 = b / 8 then .cl
  else
    match g.coreOf a, g.coreOf b with
    | some x, some y => if dieOf x = dieOf y then .di else .dv
    | _, _ => .dv

/-- The class of a message as the grid's table has it: what arrives, or 0x1F (R156, R173). -/
def LaunchInfo.message (i : LaunchInfo) (cls : Nat) (high : Bool) : Option ItemKind :=
  match i.classes[cls]? with
  | none => none
  | some e =>
    if !e.inst || e.high != high then none
    else if high then some (.high e.target e.priv)
    else if (i.stage (e.target % 16)).isSome then some (.low (e.target % 16))
    else none

/-- A message to a core of this device (R173). -/
def sendHere (target cls : Nat) (high : Bool) (gs : Reg) : M Unit := do
  let (n, x) ← self
  let (gid, g?) ← myGrid
  let s ← get
  match g? with
  | none => pure ()
  | some g =>
    match g.info.message cls high with
    | none => signal 0x1F
    | some kind => do
      let (w0, w1) ← payload gs
      let to_ := s.mailbox g target
      let i : Item :=
        { src := some { core := n, ctx := x }, kind := kind, lvlid := s.lvlid0 n, cls := cls, w0 := w0, w1 := w1,
          scope := g.between (s.lvlid0 n) target, port := none }
      if x = .f then do
        let _ ← closing do
          let s ← get
          waitWhile (s.inboxFull g gid to_)
          release i.scope
          update fun s => s.sendItem g gid to_ i
          pure []
      else holdItem (.message to_ i)

/-- A message sent (R173): to this device, or to another, whose status F awaits (R382). -/
def sendMessage (gc : Reg) (cls : BitVec 6) (gs : Reg) (high : Bool) : M Word :=
  after 4 do
    start .send [gc, gs]
    require (gs.val % 2 == 0) 0x01
    let w ← getG gc
    let d ← designator w
    match d with
    | .here target => sendHere target cls.toNat high gs
    | .there e core => do
      let (_, x) ← self
      let (w0, w1) ← payload gs
      let kind : RemoteKind := .message core cls.toNat high w0 w1
      if x = .f then do
        let _ ← closing (do release .sy; askRemote e 0 kind 0)
      else holdItem (.remote e kind)

/-- SEND (R173). -/
def execSend (gc : Reg) (cls : BitVec 6) (gs : Reg) (s : State) : Host.Outcome State Fault Refusal :=
  runMeaning (sendMessage gc cls gs false) s

/-- SENDH (R173). -/
def execSendh (gc : Reg) (cls : BitVec 6) (gs : Reg) (s : State) : Host.Outcome State Fault Refusal :=
  runMeaning (sendMessage gc cls gs true) s

/-! ## Barriers (R174 to R178) -/

/-- The registrations of the executing firing. -/
def myBars : M (List BarReg) := do
  let (n, _) ← self
  ask fun s => (s.core n).f.bars

/-- The registrations of the executing firing set. -/
def setBars (l : List BarReg) : M Unit := do
  let (n, _) ← self
  update fun s => s.modCore n fun c => { c with f := { c.f with bars := l } }

/-- The counts of a barrier changed, once for a pair (R174). -/
def changeBarrier (lvl n : Nat) (f : Barrier → Barrier) : M Unit := do
  let (c, _) ← self
  update fun s => if s.actsForPair c then s.modBarrier c lvl n f else s

/-- The checks of every barrier instruction: placement, and a level that exists (R174). -/
def startBarrier (rs : List Reg) (lvl : Nat) : M Unit := do
  start .barrier rs
  let (n, _) ← self
  let s ← get
  require (match s.infoOf n with | some i => decide (lvl < i.levelCount) | none => false) 0x1E

/-- A registration of the firing at a barrier, or 0x1E. -/
def registration (lvl n : Nat) : M BarReg := do
  let bars ← myBars
  match bars.find? fun b => b.lvl == lvl && b.n == n with
  | some b => pure b
  | none => signal 0x1E

/-- A registration replaced. -/
def replaceBar (l : List BarReg) (b : BarReg) : List BarReg :=
  l.map fun x => if x.lvl = b.lvl ∧ x.n = b.n then b else x

/-- BARJ (R175). -/
def execBarj (lvl : BitVec 3) (n : BitVec 6) (s : State) : Host.Outcome State Fault Refusal :=
  runMeaning (after 4 do
    startBarrier [] lvl.toNat
    let bars ← myBars
    require (decide (bars.length < 4) && !(bars.any fun b => b.lvl == lvl.toNat && b.n == n.toNat)) 0x1E
    changeBarrier lvl.toNat n.toNat fun b => { b with g := b.g + 1 }
    setBars (bars ++ [{ lvl := lvl.toNat, n := n.toNat, arrived := none }])) s

/-- The scope of a level of the executing core's launch. -/
def State.scopeOf (s : State) (n lvl : Nat) : Scope :=
  match s.infoOf n with
  | some i => i.levelScope lvl
  | none => .co

/-- The arrival and the return of BAR (R175, R177): the withdrawals of the phase that ended. An arrival
stands while the BAR waits, and no BAR arrives twice in a phase. -/
def meet (lvl n : Nat) : M (List Byte) := do
  let r ← registration lvl n
  let (c, _) ← self
  let sc ← ask fun s => s.scopeOf c lvl
  (match r.arrived with
    | some _ => pure ()
    | none => do
      release sc
      let b ← ask fun s => s.barrierOf c lvl n
      let bars ← myBars
      setBars (replaceBar bars { r with arrived := some b.p })
      changeBarrier lvl n fun b => ({ b with a := b.a + 1 }).settle)
  let r ← registration lvl n
  let b ← ask fun s => s.barrierOf c lvl n
  if r.arrived = some b.p then waitKept
  else do
    let bars ← myBars
    setBars (replaceBar bars { r with arrived := none })
    acquire sc
    pure (bytesOf 8 b.last)

/-- BAR (R175). -/
def execBar (d : Reg) (lvl : BitVec 3) (n : BitVec 6) (s : State) : Host.Outcome State Fault Refusal :=
  runMeaning (after 4 do
    startBarrier [d] lvl.toNat
    let _ ← registration lvl.toNat n.toNat
    let bs ← external (meet lvl.toNat n.toNat)
    setG d (wordAt bs 0)) s

/-- BARL (R175): no withdrawal is counted; an arrival in this phase goes. -/
def execBarl (lvl : BitVec 3) (n : BitVec 6) (s : State) : Host.Outcome State Fault Refusal :=
  runMeaning (after 4 do
    startBarrier [] lvl.toNat
    let r ← registration lvl.toNat n.toNat
    let bars ← myBars
    setBars (bars.filter fun b => !(b.lvl == lvl.toNat && b.n == n.toNat))
    changeBarrier lvl.toNat n.toNat fun b =>
      ({ b with g := b.g - 1, a := if r.arrived = some b.p then b.a - 1 else b.a }).settle) s

/-- BARST (R178). -/
def execBarst (d : Reg) (lvl : BitVec 3) (n : BitVec 6) (s : State) : Host.Outcome State Fault Refusal :=
  runMeaning (after 4 do
    startBarrier [d] lvl.toNat
    let _ ← registration lvl.toNat n.toNat
    let (c, _) ← self
    let bs ← external (ask fun s =>
      let b := s.barrierOf c lvl.toNat n.toNat
      bytesOf 2 b.w ++ bytesOf 2 b.a ++ bytesOf 2 b.g ++ bytesOf 2 b.p)
    setG d (wordAt bs 0)) s

/-! ## LAUNCH (R179) -/

/-- The record as the scheduler queues it: GRID and the parent's ASID written (R158, R179). -/
def writeGridAsid (record : List Byte) (grid asid : Nat) : List Byte :=
  let w := word (natAt record 0 8)
  bytesOf 8 (setField (setField w 32 32 grid) 8 16 asid).toNat ++ slice record 8 248

/-- Is a grid id in use, by a running or a queued launch? -/
def State.gridIdUsed (s : State) (id : Nat) : Bool :=
  (s.grid id).isSome || s.dies.toList.any fun d => d.launches.any fun q => natAt q.record 4 4 == id

/-- The next grid id that is not in use. -/
def State.freeGridId (s : State) : Nat → Nat → Nat
  | 0, id => id % 2 ^ 32
  | fuel + 1, id => if s.gridIdUsed (id % 2 ^ 32) then s.freeGridId fuel (id + 1) else id % 2 ^ 32

/-- A launch queued at the scheduler of the issuer's die, or the busy code (R179). -/
def queueLaunch (record : List Byte) : M (List Byte) := do
  let (n, _) ← self
  let s ← get
  let d := dieOf n
  if 64 ≤ (s.die d).launches.length then pure (bytesOf 8 (2 ^ 63))
  else do
    let id := s.freeGridId (s.grids.length + 257) s.nextGrid
    let req : LaunchReq :=
      { record := writeGridAsid record id (field (s.core n).sr.asid 0 16), by_ := .device n (wordAt record 104),
        tenant := (s.infoOf n).map (·.tenant) }
    update fun s => { (s.modDie d fun x => { x with launches := x.launches ++ [req] }) with nextGrid := (id + 1) % 2 ^ 32 }
    pure (bytesOf 8 id)

/-- LAUNCH (R179). -/
def execLaunch (d a : Reg) (s : State) : Host.Outcome State Fault Refusal :=
  runMeaning (after 4 do
    start .launch [d, a]
    let (n, x) ← self
    let s ← get
    let lperm := match s.infoOf n with | some i => i.lperm | none => false
    require (s.priv != 0 || lperm) 0x02
    let va ← getG a
    require (decide (va.toNat % 256 = 0)) 0x04 va
    let record ← memRead va.toNat 256 plainQual
    let bs ← closing do
      release .sy
      queueLaunch record
    setG d (wordAt bs 0)) s

/-! ## ABUMP (R180, R181) -/

/-- The count of ABUMP as one atomic at its home (R181): what the register takes, or none where the arena has no room.
The issuer's die gives its bytes of the line up first (R229). -/
def State.bumpUsed (s : State) (iss : Issuer) (pa : Nat) (rc : Bool) (a : Arena) (size : Nat) : State × Option Word :=
  let s := if homeDie pa = dieOf iss.core then s else s.evictRdc (dieOf iss.core) (pa / 128)
  let old := natOf (memGetList s.mem pa 8)
  let g := 2 ^ a.align
  let need := (size + g - 1) / g * g
  if old + need ≤ a.size.toNat then
    let bs := bytesOf 8 (old + need)
    (if rc then s.writeRc (some iss) none pa bs else s.writeHome pa bs, some (a.base + word old))
  else (s, none)

/-- The allocation of ABUMP (R181). USED stands in the arena table, at its virtual address; the hardware reaches it as
K does (DESIGN CHOICE, log 49). -/
def allocate (index size : Nat) : M (List Byte) := do
  let (n, x) ← self
  let s ← get
  match (s.infoOf n).bind fun i => (i.arenas[index]?).map fun a => (i.arenaVa, a) with
  | none => pure [0]
  | some (table, a) => do
    let va := table.toNat + 32 * index + 16
    let sp ← locate { s.viewer n x with user := false } true va
    match sp with
    | .at_ (.mem pa) rc unc => do
      let piece : Piece := { off := 0, len := 8, spot := .at_ (.mem pa) rc unc }
      waitClaims [piece]
      (match (List.range 8).find? fun i => s.isPoisoned n (.mem (pa + i)) with
        | some i => signal 0x31 (word (va + i))
        | none => pure ())
      let (t, r) := s.bumpUsed { core := n, ctx := x } pa rc a size
      set t
      match r with
      | some w => pure (1 :: bytesOf 8 w.toNat)
      | none => pure [0]
    | _ => signal 0x1C (word va)

/-- ABUMP with and without `.t` (R181). -/
def bump (d a : Reg) (arena : BitVec 3) (trap : Bool) : M Word :=
  after 4 do
    start .send [d, a]
    let size ← getG a
    let bs ← closing (allocate arena.toNat size.toNat)
    match bs with
    | 1 :: v => setG d (wordAt v 0)
    | _ => if trap then signal 0x0D size else setG d 0

/-- ABUMP (R181). -/
def execAbump (d a : Reg) (arena : BitVec 3) (s : State) : Host.Outcome State Fault Refusal :=
  runMeaning (bump d a arena false) s

/-- ABUMP.t (R181). -/
def execAbumpT (d a : Reg) (arena : BitVec 3) (s : State) : Host.Outcome State Fault Refusal :=
  runMeaning (bump d a arena true) s

/-! ## Shape registers (R182, R183) -/

/-- The shape block `idx` as it stands in the launch area of a core's scratchpad, for a pair in its own copy of the even
core's (R201, R367), and the lowest poisoned byte of it. -/
def State.shapeBlock (s : State) (n idx : Nat) : MWord × Option Nat :=
  let at_ (i : Nat) : Place := .scratch (s.actor n) (32 * idx + i)
  (BitVec.ofNat 256 (natOf ((List.range 32).map fun i => s.readByte n .f (at_ i))),
    (List.range 32).find? fun i => s.bytePoisoned n .f (at_ i))

/-- A shape block loaded (R182, R233, R361): an engine's line is awaited, and poison raises 0x31 with the address of the byte in the core's slot. -/
def loadShape (idx : Nat) : M MWord := do
  let (n, _) ← self
  let s ← get
  waitWhile (s.claimed (.scratch (s.actor n) (32 * idx)))
  match s.shapeBlock n idx with
  | (_, some i) => signal 0x31 (word (Config.scratchBase + s.lvlid0 n * Config.slotBytes + 32 * idx + i))
  | (v, none) => pure v

/-- MLD (R182). -/
def execMld (md : Fin 16) (idx : BitVec 3) (s : State) : Host.Outcome State Fault Refusal :=
  runMeaning (after 4 do
    start .launch []
    let (n, _) ← self
    let v ← loadShape idx.toNat
    update fun s => (s.modCore n fun c =>
      { c with f := { c.f with m := vset c.f.m md v, mIdx := vset c.f.mIdx md (some idx.toNat) } }).noteHere
      (bytesOf 32 v.toNat)) s

/-- The slice of MSLICE (R183): E elements in S parts, part `p`, by rule. -/
def sliceOf (cyclic : Bool) (e s p : Nat) : Nat :=
  if cyclic then 2 ^ 63 + (if p < e then (e - p + s - 1) / s else 0) * 2 ^ 32 + p
  else (e / s + (if p < e % s then 1 else 0)) * 2 ^ 32 + (p * (e / s) + Nat.min p (e % s))

/-- MSLICE (R183). -/
def execMslice (d : Reg) (ms : Fin 16) (lvl : BitVec 3) (s : State) : Host.Outcome State Fault Refusal :=
  runMeaning (after 4 do
    start .launch [d]
    let (n, _) ← self
    let s ← get
    let l := lvl.toNat
    match s.infoOf n with
    | none => signal 0x1E
    | some i => do
      require (decide (l < i.levelCount)) 0x1E
      let k := if l = 0 then 1 else 8 * i.teamsPerUnit l
      let m := (s.core n).f.m.get ms
      let parts := Nat.max (field m (32 + 28 * l) 16) 1
      setG d (word (sliceOf (flag m (32 + 28 * l + 16)) (field m 0 31) parts (s.lvlid0 n % k % parts)))) s

/-! ## PAIR and UNPAIR (R371) -/

/-- EN set on a core: LOST cleared, ODD as its place in the pair, a fresh interval (R370, R371). -/
def Core.pairUp (c : Core) (odd : Bool) : Core :=
  let ctl := setField (setField (setField c.pair.ctl 0 1 1) 3 1 0) 5 1 odd.toNat
  { c with pair := { c.pair with ctl := ctl, joining := none } }.openInterval

/-- EN cleared on a core. -/
def Core.pairDown (c : Core) : Core :=
  let ctl := setField (setField (setField c.pair.ctl 0 1 0) 2 1 0) 5 1 0
  { c with pair := { c.pair with
      ctl := ctl, joining := none, start := none, closer := none, again := false
      retired := Vector.replicate 3 0, bytes := Vector.replicate 3 [], passed := Vector.replicate 3 [] } }

/-- The pairing of a core with its partner waits for the partner, who finds it waiting (R371). -/
def awaitPartner (n : Nat) (joining : Bool) (both : State → State) : M Word := do
  let p ← ask fun s => (s.core (partnerOf n)).pair.joining
  let me ← ask fun s => (s.core n).pair.joining
  if p = some joining then do
    update both
    -- the partner's instruction ends with this one
    update fun s => (s.modCore n fun c => c.setPc .f (c.pc .f + 4)).modCore (partnerOf n) fun c => c.setPc .f (c.pc .f + 4)
    let upd (c : Core) : Core := if c.paired then c.openInterval else c
    update fun s => (s.modCore n upd).modCore (partnerOf n) upd
    leave
  else if me = some joining then wait
  else waitDo fun s => s.modCore n fun c => { c with pair := { c.pair with joining := some joining } }

/-- PAIR (R371). -/
def execPair (s : State) : Host.Outcome State Fault Refusal :=
  runMeaning (do
    start .launch []
    privileged
    let (n, _) ← self
    let c ← ask fun s => s.core n
    if c.paired then ask fun s => s.pc + 4
    else awaitPartner n true fun s =>
      (s.modCore n fun c => c.pairUp (n % 2 == 1)).modCore (partnerOf n) fun c => c.pairUp (partnerOf n % 2 == 1)) s

/-- UNPAIR (R371): the open interval agrees first. -/
def execUnpair (s : State) : Host.Outcome State Fault Refusal :=
  runMeaning (do
    start .launch []
    privileged
    let (n, _) ← self
    let s ← get
    require (!s.hasMode n .checked) 0x01
    let c := s.core n
    if !c.paired then pure (s.pc + 4)
    else if c.intervalOpen then waitDo fun s => s.modCore n fun c => c.closeInterval (some .f)
    else awaitPartner n false fun s => (s.modCore n Core.pairDown).modCore (partnerOf n) Core.pairDown) s

end Sys2Proof.Machine
end

