-- ==== Sys2Proof/Machine/Links.lean ====
section
/-! DEFINITION. The fabric (R217, R376 to R386): answers, ports, egress shares, requests and messages that arrive,
recalls, migration of pages. -/

namespace Sys2Proof.Machine

/-! ## Answers (R378, R382) -/

/-- A request is over: it leaves the list and every egress queue. -/
def State.dropRequest (s : State) (id : Nat) : State :=
  let clean (p : Port) : Port :=
    { p with egress := p.egress.map fun e => { e with queue := e.queue.filter fun q => q.1 != id } }
  { s with
    fabric := { s.fabric with reqs := s.fabric.reqs.filter fun r => r.id != id }
    dies := s.dies.map fun d => { d with ports := d.ports.map clean } }

/-- Does a request still stand in an egress queue? -/
def State.unsent (s : State) (id : Nat) : Bool :=
  s.dies.toList.any fun d => d.ports.toList.any fun p => p.egress.any fun e => e.queue.any fun q => q.1 == id

/-- The address that a late error names: of a store, its own. -/
def RemoteReq.tval (r : RemoteReq) : Word :=
  match r.kind with
  | .write off _ _ => word (Config.fabricBase + r.endpoint * 2 ^ 40 + off)
  | _ => 0

/-- The answer of a request that an engine made; a line of another endpoint that an engine has written is finished with
the last answer of its writes (R233). -/
def State.answerEngine (s : State) (id : Nat) (st : RemoteStatus) (data : List Byte) : State :=
  let t := { s with fabric := { s.fabric with
    engine := s.fabric.engine.map fun a => if a.id = id then { a with answer := some (st, data) } else a } }
  match s.fabric.engine.find? fun a => a.id == id with
  | some a =>
    match a.kind with
    | .write off _ _ => t.releaseAnswered a.who ((Config.fabricBase + a.endpoint * 2 ^ 40 + off) / 128)
    | _ => t
  | none => t

/-- A status ends a request (R382): it answers the instruction, job or transfer that waits; what left at a FEND
tells an error to F as R362 gives for a sender. A request that nobody waits for is discarded. -/
def State.answerRemote (s : State) (id : Nat) (st : RemoteStatus) (data : List Byte) : State :=
  match s.fabric.reqs.find? fun r => r.id == id with
  | none => s
  | some r =>
    let s := s.dropRequest id
    if r.late then
      match remoteCause st with
      | some c => s.notify r.src.core c r.tval
      | none => s
    else
      let s := s.modCore r.src.core fun c => { c with waits := { c.waits with
        remote := c.waits.remote.map fun w => if w.id = id then { w with answer := some (st, data) } else w } }
      s.answerEngine id st data

/-- REMOTE_RESPONSE: the status of a request that has been sent; one that nobody awaits is discarded. -/
def execRemoteResponse (id : Nat) (status : RemoteStatus) (data : List Byte) (s : State) :
    Host.Outcome State Fault Refusal :=
  if s.unsent id then .next s else .next (s.answerRemote id status data)

/-- REMOTE_TIMEOUT (R378): 0x37; a later response is discarded. -/
def execRemoteTimeout (id : Nat) (s : State) : Host.Outcome State Fault Refusal := .next (s.answerRemote id .timeout [])

/-! ## Ports (R376, R378) -/

/-- A port. -/
def State.port (s : State) (p : Nat) : Port := (s.die (p / 4)).ports.get (ix 3 p)

/-- Is a port up? -/
def State.portUp (s : State) (p : Nat) : Bool := decide (p < 16 ∧ 0 < (s.port p).lanes)

/-- The line that picks the port of a request (R378). -/
def RemoteReq.line (r : RemoteReq) : Nat :=
  match r.kind with
  | .read off _ | .write off _ _ | .atomic off .. => (Config.fabricBase + r.endpoint * 2 ^ 40 + off) / 128
  | _ => 0

/-- An unacknowledged request of a port that went down takes another port that is up, or fails with 0x36. -/
def State.reroute (s : State) (r : RemoteReq) : State :=
  let route := (sget (s.die r.die).routes r.endpoint).getD 0
  match s.portsUp (field route 0 16) with
  | [] => s.answerRemote r.id .linkDown []
  | ports =>
    let port := ports.getD (Config.portHash r.endpoint r.line % ports.length) 0
    let s := { s with fabric := { s.fabric with
      reqs := s.fabric.reqs.map fun (k : RemoteReq) => if k.id = r.id then { k with port := port } else k } }
    s.modPort port fun p => p.enqueue r.tenant r.id r.kind.size

/-- A port goes down. -/
def State.downPort (s : State) (port : Nat) : State :=
  let s := s.modPort port fun p => { p with lanes := 0, egress := [] }
  (s.fabric.reqs.filter fun r => r.port == port).foldl (fun s r => s.reroute r) s

/-- PORT_DOWN (R378). -/
def execPortDown (port : Nat) (s : State) : Host.Outcome State Fault Refusal :=
  if port < 16 then .next (s.downPort port) else .next s

/-- LINK_TRAINING (R376): a port comes up with 4, 2 or 1 lanes; one whose authentication fails stays down. Where
no key is installed there is none (DESIGN CHOICE, log 42). -/
def execLinkTraining (port lanes : Nat) (authentic : Bool) (s : State) : Host.Outcome State Fault Refusal :=
  if 16 ≤ port ∨ (s.die (port / 4)).inReset then .next s
  else
    let up : Bool := [1, 2, 4].contains lanes && (!(s.port port).linkKey || authentic)
    if up then .next (s.modPort port fun p => { p with lanes := lanes }) else .next (s.downPort port)

/-- LINK_LEVEL_RETRY (R376): the data link layer sends the flit again; no request is affected. -/
def execLinkLevelRetry (port : Nat) (s : State) : Host.Outcome State Fault Refusal :=
  if s.portUp port then .next (s.modPort port fun p => { p with retries := p.retries + 1 }) else .next s

/-! ## EGRESS_ARBITRATION (R384) -/

/-- The weight of a tenant; 0 reads as 1. -/
def Port.weight (p : Port) (tenant : Nat) : Nat := Nat.max 1 ((sget p.shares tenant).getD 0).toNat

/-- The tenant that a port serves next: in ascending order from the one after the last served. -/
def Port.nextTenant (p : Port) : Option Nat :=
  let ts := (p.egress.filter fun e => !e.queue.isEmpty).map (·.tenant)
  let least (l : List Nat) : Option Nat := l.foldl (fun m t => some (match m with | some x => Nat.min x t | none => t)) none
  (least (ts.filter fun t => decide (p.lastSent < t))) <|> least ts

/-- One visit to a queue: what is left of it and of the deficit. -/
def serveQueue : Nat → List (Nat × Nat) → Nat × List (Nat × Nat)
  | _, [] => (0, [])
  | d, (id, size) :: rest => if size ≤ d then serveQueue (d - size) rest else (d, (id, size) :: rest)

/-- A port serves one tenant. -/
def Port.serve (p : Port) : Port :=
  match p.nextTenant with
  | none => p
  | some t =>
    let one (e : Egress) : Egress :=
      if e.tenant = t then
        let (d, q) := serveQueue (e.deficit + p.weight t * 256) e.queue
        { e with deficit := d, queue := q }
      else e
    { p with egress := p.egress.map one, lastSent := t }

/-- EGRESS_ARBITRATION: one visit of the deficit round robin. -/
def execEgressArbitration (port : Nat) (s : State) : Host.Outcome State Fault Refusal :=
  if s.portUp port then .next (s.modPort port Port.serve) else .next s

/-! ## Requests from outside (R377, R380 to R383, R385) -/

/-- A valid entry of a key table: its tenant and key. -/
def Die.keyEntry (d : Die) (match_ : Word → Bool) : Option (Nat × Nat) :=
  (d.keys.find? fun k => flag k.2.2 31 && match_ k.2.2).map fun k => (field k.2.2 0 8, field k.2.1 0 48)

/-- The tenant of an inbound request, where its key check passes (R381 steps 1 and 2). -/
def Die.tenantOf (d : Die) (src : Nat) (ext : Option (Nat × Nat)) : Option Nat :=
  match ext with
  | some (t, key) =>
    match d.keyEntry fun w => field w 16 10 == src && field w 0 8 == t with
    | some (t, k) => if k = key then some t else none
    | none => none
  | none => (d.keyEntry fun w => field w 16 10 == src && flag w 30).map (·.1)

/-- May a tenant access `n` bytes of local memory: every frame's owner allows it (R383), and the memory exists
(R336)? -/
def State.tenantMay (s : State) (t pa n : Nat) : Bool :=
  (List.range ((pa + n - 1) / 0x200000 - pa / 0x200000 + 1)).all fun i =>
    let at_ := Nat.max pa ((pa / 0x200000 + i) * 0x200000)
    let e := (sget (s.die (homeDie at_)).frames (at_ % Config.dieBytes / 0x200000)).getD 0
    (flag e 15 || field e 0 8 == t) && !absent s at_ && !absent s (pa + n - 1)

/-- The status of a request this device answers. -/
def State.answerInbound (s : State) (port : Nat) (st : RemoteStatus) (data : List Byte) : State :=
  { s with fabric := { s.fabric with answers := s.fabric.answers ++ [(port, st, data)] } }

/-- A counter of 32 bits that saturates. -/
def count32 (n : Nat) : Nat := Nat.min (n + 1) 0xFFFFFFFF

/-- A request fails KEY, and the port counts it. -/
def State.failKey (s : State) (port : Nat) : State :=
  (s.modPort port fun p => { p with keyErr := count32 p.keyErr }).answerInbound port .key []

/-- A request fails PERM, and the port counts it. -/
def State.failPerm (s : State) (port : Nat) : State :=
  (s.modPort port fun p => { p with permErr := count32 p.permErr }).answerInbound port .perm []

/-- Bytes that a request covers: none where the transaction layer has no such request (R225, R376). -/
def inSpan (k : InKind) (off : Nat) : Nat :=
  match k with
  | .read n => if n ≤ 256 then n else 0
  | .write bs => if bs.length ≤ 256 then bs.length else 0
  | .atomic op n _ _ => if (op ≤ 8 ∨ op = 12) ∧ (n = 4 ∨ n = 8) ∧ off % n = 0 then n else 0

/-- A page that migrates, or that another endpoint holds, is busy (R217; DEDUCED, log 43). -/
def State.pageBusy (s : State) (pa : Nat) : Bool :=
  match sget s.fabric.pages (pa / 4096) with
  | some m => m.moving.isSome || m.home != s.fabric.endpoint
  | none => false

/-- Must a request wait: a line is claimed (R233), or its die is under reset (R366)? -/
def State.inboundWaits (s : State) (pa n : Nat) : Bool :=
  s.claimed (.mem pa) || s.claimed (.mem (pa + n - 1)) || (s.die (homeDie pa)).inReset ||
    (s.die (homeDie (pa + n - 1))).inReset

/-- A request performed at the home of its bytes (R338, R385). Poison that a read or an atomic meets is answered
as POISON (DEDUCED, log 43). -/
def State.performInbound (s : State) (port pa : Nat) (kind : InKind) (poisoned : Bool) : State :=
  match kind with
  | .read n =>
    if (firstPoison s.poison pa n).isSome then s.answerInbound port .poison []
    else s.answerInbound port .ok (memGetList s.mem pa n)
  | .write bs =>
    let s := s.writeRc none none pa bs
    let s := if poisoned then { s with poison := markPoison s.poison pa bs.length } else s
    s.answerInbound port .ok []
  | .atomic op n b cmp =>
    if (firstPoison s.poison pa n).isSome then s.answerInbound port .poison []
    else
      let old := natOf (memGetList s.mem pa n)
      let s :=
        match ((AtomOp.ofCode op).apply n old (field b 0 (8 * n)) (field cmp 0 (8 * n))).1 with
        | some x => s.writeRc none none pa (bytesOf n x)
        | none => s
      s.answerInbound port .ok (bytesOf n old)

/-- INBOUND_REQUEST (R381): a write to the message window is INBOUND_MESSAGE. -/
def execInboundRequest (port : Nat) (r : InRequest) (s : State) : Host.Outcome State Fault Refusal :=
  if !s.portUp port then .next s
  else
    match (s.die (port / 4)).tenantOf r.src r.ext with
    | none => .next (s.failKey port)
    | some t =>
      let n := inSpan r.kind r.offset
      if n = 0 ∨ Config.fabricBase < r.offset + n then .next (s.failPerm port)
      else if !s.tenantMay t r.offset n then .next (s.failPerm port)
      else if s.pageBusy r.offset || s.pageBusy (r.offset + n - 1) then .next (s.answerInbound port .busy [])
      else if s.inboundWaits r.offset n then .next s
      else .next (s.performInbound port r.offset r.kind r.poisoned)

/-! ## INBOUND_MESSAGE (R382) -/

/-- The one running grid of a tenant that has the remote mode and a level bound to the pod. -/
def State.messageGrid (s : State) (t : Nat) : Option (Nat × Grid) :=
  match s.grids.filter fun g => g.2.info.tenant == t && g.2.info.has .remote && g.2.info.levels.any fun l => l.1 == 7 with
  | [g] => some g
  | _ => none

/-- What arrives of a message or record from another device, or NOTGT for its class or slot. -/
def LaunchInfo.arrival (i : LaunchInfo) (m : InMessage) : Option ItemKind :=
  match m.kind with
  | .send => i.message m.cls false
  | .sendh => i.message m.cls true
  | .pushr => (i.stage m.cls).map fun _ => .record m.cls

/-- INBOUND_MESSAGE: what has no target fails NOTGT; a SENDH is answered when its activation has ended (R362). -/
def execInboundMessage (port : Nat) (m : InMessage) (s : State) : Host.Outcome State Fault Refusal :=
  if !s.portUp port then .next s
  else
    match (s.die (port / 4)).tenantOf m.src m.ext with
    | none => .next (s.failKey port)
    | some t =>
      match s.messageGrid t with
      | none => .next (s.answerInbound port (.notgt false) [])
      | some (gid, g) =>
        match if m.core < 8 * g.info.clusters then g.coreOf m.core else none with
        | none => .next (s.answerInbound port (.notgt false) [])
        | some _ =>
          match g.info.arrival m with
          | none => .next (s.answerInbound port (.notgt true) [])
          | some kind =>
            let later := match m.kind with | .sendh => true | _ => false
            let i : Item :=
              { src := none, kind := kind, lvlid := m.lvlid, cls := m.cls, w0 := m.w0, w1 := m.w1, scope := .sy,
                port := if later then some port else none }
            let s := s.sendItem g gid (s.mailbox g m.core) i
            .next (if later then s else s.answerInbound port .ok [])

/-! ## DIRECTORY_RECALL (R386) -/

/-- DIRECTORY_RECALL: a line of another endpoint leaves every RDC, and what was asked of it before is asked afresh
(R228); the model's RDCs hold no dirty byte of one (log 44). -/
def execDirectoryRecall (endpoint line : Nat) (s : State) : Host.Outcome State Fault Refusal :=
  let l := (Config.fabricBase + endpoint * 2 ^ 40) / 128 + line
  .next ((List.range 4).foldl (fun s d => s.forgetHostLine d l) s)

/-! ## Migration (R217) -/

/-- A page that has never migrated: here. -/
def Fabric.page (f : Fabric) (page : Nat) : Migration :=
  (sget f.pages page).getD { home := f.endpoint, asking := [], waiting := [], moving := none, hold := false, refused := [] }

/-- A page set. -/
def State.setPage (s : State) (page : Nat) (m : Migration) : State :=
  { s with fabric := { s.fabric with pages := sset s.fabric.pages page m } }

/-- A request of this device for a page fails: it reaches every access that waits for it (R217). -/
def Migration.refuse (m : Migration) : Migration :=
  { m with refused := m.refused ++ m.waiting.filter fun r => !m.refused.contains r, waiting := [] }

/-- The directory settles what is pending: the lowest endpoint wins, the others fail. -/
def Migration.settle (m : Migration) (self_ : Nat) : Migration :=
  match m.asking with
  | [] => m
  | e :: rest =>
    let m := if rest.contains self_ then m.refuse else m
    { m with moving := some e, asking := [] }

/-- MIGRATION_REQUEST: an endpoint asks for a page; during the hold, or while the page moves, it fails; else the
directory settles all that is pending. -/
def execMigrationRequest (page endpoint : Nat) (s : State) : Host.Outcome State Fault Refusal :=
  let m := s.fabric.page page
  let self_ := s.fabric.endpoint
  if endpoint = m.home then .next s
  else if m.hold || m.moving.isSome then .next (s.setPage page (if endpoint = self_ then m.refuse else m))
  else .next (s.setPage page (({ m with asking := insertNat m.asking endpoint }).settle self_))

/-- The page leaves the RDCs of the device, which write their dirty bytes back first. -/
def State.flushPage (s : State) (page : Nat) : State :=
  let lines := (List.range 32).map fun i => page * 32 + i
  (List.range 4).foldl (fun s d => lines.foldl (fun s l => s.evictRdc d l) s) s

/-- MIGRATION_COMPLETE: the new home holds the page; a page that comes here brings its bytes, and requests that
are pending fail. -/
def execMigrationComplete (page : Nat) (data : List Byte) (s : State) : Host.Outcome State Fault Refusal :=
  let m := s.fabric.page page
  match m.moving with
  | none => .next s
  | some e =>
    let self_ := s.fabric.endpoint
    let s := s.flushPage page
    let s := if e = self_ then s.writeHome (page * 4096) (data.take 4096) else s
    let m := if m.asking.contains self_ ∧ e ≠ self_ then m.refuse else { m with waiting := [] }
    .next (s.setPage page { m with home := e, asking := [], moving := none, hold := true })

/-- MIGRATION_HOLD_EXPIRY: the hold ends, and what is pending is settled. -/
def execMigrationHoldExpiry (page : Nat) (s : State) : Host.Outcome State Fault Refusal :=
  let m := s.fabric.page page
  if m.hold then .next (s.setPage page (({ m with hold := false }).settle s.fabric.endpoint)) else .next s

end Sys2Proof.Machine
end

