-- ==== Sys2Proof/Machine/Scheduler.lean ====
section
/-! DEFINITION. The events of a core's scheduler: firings (R150 to R153), stealing (R154), messages (R156, R157,
R170, R171), activations (R35, R362), notices (R329, R360, R362, R364, R365), WFI (R86). -/

namespace Sys2Proof.Machine

/-! ## Cores that may start work -/

/-- Is a core bound, in service, and not about to leave? -/
def State.inService (s : State) (core : Nat) : Bool :=
  (s.gridOf core).isSome && !s.leaving core && !(s.die (dieOf core)).inReset

/-- Is F idle on a core, and on its partner in a pair? -/
def State.pairIdle (s : State) (core : Nat) : Bool :=
  (s.core core).fIdle && (!(s.core core).paired || (s.core (partnerOf core)).fIdle)

/-! ## FIRING_START (R150, R151) -/

/-- The records of a selected stage are taken and its firing starts. -/
def State.startOn (s : State) (core : Nat) (st : Stage) : State :=
  let c := s.core core
  let (rs, rest) := takeHead (c.work.deques.get (ix 15 st.slot)) st.rate
  let s := s.modCore core fun c =>
    let w := c.work.passOver st.slot
    { c with work := { w with deques := vset w.deques (ix 15 st.slot) rest } }
  (s.refreshReady core).startFiring core st rs

/-- FIRING_START: an idle core selects among its ready stages. -/
def execFiringStart (core : Nat) (s : State) : Host.Outcome State Fault Refusal :=
  let n := s.actor core
  if !s.inService n || !s.pairIdle n then .next s
  else
    let s := s.onPair n fun s k => s.refreshReady k
    match s.infoOf n with
    | none => .next s
    | some i =>
      match ((s.core n).work.select i).bind i.stage with
      | some st => .next (s.onPair n fun s k => s.startOn k st)
      | none => .next s

/-! ## FIRING_RETIRE (R152, R268, R368) -/

/-- Does a job of the core's firing stream into a queue or a weight port? -/
def State.firingStreams (s : State) (core : Nat) : Bool :=
  (s.cluster (clusterOf core)).gre.any fun j => j.streams && j.cap.ofFiring s core

/-- A trap of F that no instruction raised. -/
def State.trapAtBoundary (s : State) (core cause : Nat) (tval : Word) : State :=
  State.trapTurn { s with turn := .core core .f } cause tval

/-- Have all streams of the core's firing ended, outside a handler? -/
def Core.mayRetire (c : Core) : Bool := !c.fIdle && !c.fc.inTrap && c.allEnded

/-- F's interval closes, where it is open and not closed yet (R368). -/
def Core.closeForF (c : Core) : Core := if c.intervalOpen && !flag c.pair.ctl 2 then c.closeInterval (some .f) else c

/-- FIRING_RETIRE: a firing whose streams have ended retires with its queues empty; otherwise, or with a stream
of its own outstanding, which is discarded, F raises 0x09. A pair retires together, after its interval. -/
def execFiringRetire (core : Nat) (s : State) : Host.Outcome State Fault Refusal :=
  let n := s.actor core
  let c := s.core n
  let p := s.core (partnerOf n)
  if !c.mayRetire || (c.paired && !p.mayRetire) then .next s
  else if c.intervalOpen || (c.paired && p.intervalOpen) then .next (s.onPair n fun s k => s.modCore k Core.closeForF)
  else if s.firingStreams n then
    let s := s.discardStreams (clusterOf n) fun j => j.streams && j.cap.ofFiring s n
    .next (s.onPair n fun s k => s.trapAtBoundary k 0x09 0)
  else if !c.queuesEmpty then .next (s.onPair n fun s k => s.trapAtBoundary k 0x09 0)
  else .next (s.onPair n fun s k => s.endFiring k)

/-! ## FIRING_WATCHDOG (R153) -/

/-- Does a stream wait on a pop or a push of one of the firing's queues, none of which has changed since? -/
def Core.stalled (c : Core) (x : Ctx) : Bool := c.f.stalls.get (ix 2 (streamNo x)) == some (c.pc x)

/-- Is every stream that has not ended stalled on a queue? That it has been for 65,536 clocks is the event's word
(log 13). -/
def Core.allStalled (c : Core) : Bool :=
  !c.fIdle && !c.allEnded && !c.fc.inTrap && (c.f.cEnded || c.stalled .f) && (c.f.l.ended || c.stalled .l) &&
    (c.f.s.ended || c.stalled .s)

/-- FIRING_WATCHDOG: 0x39 in F. -/
def execFiringWatchdog (core : Nat) (s : State) : Host.Outcome State Fault Refusal :=
  if (s.core core).allStalled then .next (s.notify core 0x39 0) else .next s

/-! ## Stealing (R154) -/

/-- The widest level to which a stage of a launch is bound. -/
def LaunchInfo.widest (i : LaunchInfo) : Nat := (i.stages.filter (·.valid)).foldl (fun m st => max m st.level) 0

/-- The victims of a thief in order, by LVLID0: its own cluster from its successor on; then the resident
clusters of the widest domain on its die, from the one after the last supplier on; before any has supplied, from the one
after its own team (DESIGN CHOICE, log 89). -/
def State.victims (s : State) (core : Nat) : List Nat :=
  match s.gridOf core with
  | none => []
  | some g =>
    let me := s.lvlid0 core
    let team := me / 8
    let own := (List.range 7).map fun k => 8 * team + (me + 1 + k) % 8
    let w := g.info.widest
    let last := ((s.core core).work.steal.last).getD team
    let reach := (g.place.filter fun p =>
      p.1 != team && g.info.unitOf w (8 * p.1) == g.info.unitOf w me && dieOfCluster p.2 == dieOf core).map (·.1)
    let others := (reach.filter fun t => decide (last < t)) ++ reach.filter fun t => decide (t ≤ last)
    if w < 2 then own else own ++ others.flatMap fun t => (List.range 8).map fun j => 8 * t + j

/-- Is a core looking for records to steal: idle, no stage ready, its launch not pinned? -/
def State.thieving (s : State) (core : Nat) : Bool :=
  s.inService core && s.pairIdle core && (s.core core).work.ready.isEmpty && !s.hasMode core .pinned

/-- The steal state of a core set. -/
def Core.setSteal (c : Core) (st : Steal) : Core := { c with work := { c.work with steal := st } }

/-- STEAL_REQUEST: the next victim of the round is asked; a round without a further victim has failed. -/
def execStealRequest (core : Nat) (s : State) : Host.Outcome State Fault Refusal :=
  let n := s.actor core
  let s := s.refreshReady n
  let st := (s.core n).work.steal
  if !s.thieving n || st.asked.isSome || st.failed then .next s
  else
    match (s.victims n)[st.tried]? with
    | some v => .next (s.modCore n fun c => c.setSteal { st with asked := some v })
    | none => .next (s.modCore n fun c => c.setSteal { st with failed := true })

/-- May a victim give the records of a stage to a thief? -/
def State.gives (s : State) (g : Grid) (thief victim : Nat) (w : Work) (st : Stage) : Bool :=
  let d := w.deques.get (ix 15 st.slot)
  let (rs, _) := takeTail d st.rate
  st.valid && decide (1 ≤ st.level ∧ st.rate ≤ d.length) && rs.all (fun r => !r.pinned) &&
    g.info.unitOf st.level (s.lvlid0 thief) == g.info.unitOf st.level victim &&
    decide (st.produces + (s.core thief).fibreReserve g.info ≤ (s.core thief).work.free)

/-- The stage from which a victim answers: the highest priority, then the lowest slot. -/
def State.answer (s : State) (g : Grid) (thief victim : Nat) (w : Work) : Option Stage :=
  (g.info.stages.filter fun st => s.gives g thief victim w st).foldl (fun best st =>
    match best with
    | none => some st
    | some b => if b.prio < st.prio then some st else some b) none

/-- A core loses the records at the tail of a deque. -/
def Core.loseTail (c : Core) (st : Stage) : Core :=
  { c with work := { c.work with
      deques := vset c.work.deques (ix 15 st.slot) (takeTail (c.work.deques.get (ix 15 st.slot)) st.rate).2 } }

/-- STEAL_ANSWER: the victim answers with `c` records, which the thief fires at once, or with a refusal. -/
def execStealAnswer (core : Nat) (s : State) : Host.Outcome State Fault Refusal :=
  let n := s.actor core
  let st := (s.core n).work.steal
  match st.asked, s.gridOf n with
  | some v, some g =>
    let refused : Steal := { st with asked := none, tried := st.tried + 1 }
    match g.coreOf v with
    | some k =>
      let k := s.actor k
      match if s.thieving n ∧ dieOf k = dieOf n then s.answer g n v (s.core k).work else none with
      | some x =>
        let (rs, _) := takeTail ((s.core k).work.deques.get (ix 15 x.slot)) x.rate
        let s := s.onPair k fun s j => (s.modCore j fun c => c.loseTail x).refreshReady j
        let s := s.modCore n fun c => c.setSteal { tried := 0, asked := none, failed := false, last := some (v / 8) }
        .next (s.onPair n fun s j => s.startFiring j x rs)
      | none => .next (s.modCore n fun c => c.setSteal refused)
    | none => .next (s.modCore n fun c => c.setSteal refused)
  | some _, none => .next (s.modCore n fun c => c.setSteal { st with asked := none })
  | none, _ => .next s

/-- STEAL_ROUND_TIMEOUT: 256 clocks after a fruitless round the thief starts a new one. -/
def execStealRoundTimeout (core : Nat) (s : State) : Host.Outcome State Fault Refusal :=
  let n := s.actor core
  let st := (s.core n).work.steal
  if st.failed then .next (s.modCore n fun c => c.setSteal { st with failed := false, tried := 0 }) else .next s

/-! ## Messages (R156, R157, R170, R171) -/

/-- An item enters the inbox of a core: an event that ends WFI (R86). -/
def State.enterInbox (s : State) (core : Nat) (i : Item) : State :=
  (s.wake core).modCore core fun c => { c with inbox := c.inbox ++ [i] }

/-- MESSAGE_ARRIVAL: the oldest item on its way to a core enters its inbox (R156). -/
def execMessageArrival (core : Nat) (s : State) : Host.Outcome State Fault Refusal :=
  let n := s.actor core
  let gid := (s.core n).ident.grid
  match s.net.find? fun m => some m.grid == gid && m.target == s.lvlid0 n && !m.held with
  | none => .next s
  | some m =>
    if 32 ≤ (s.core n).inbox.length then .next s
    else .next (State.enterInbox { s with net := s.net.erase m } n m.item)

/-- The completion notice of a fibre whose page has been served (R165): a pinned record to slot FRES of the core that
saved it. What it holds is free. That the page has been served is the event's word; a fibre gets one notice (DEDUCED,
log 91). -/
def State.fibreNotice (s : State) (core : Nat) : State :=
  match s.infoOf core, (s.core core).fibres.reverse.find? fun k => !k.noticed with
  | some i, some k =>
    if (i.stage i.fres).isNone || !s.roomBeyondReserve core then s
    else
      let (a, s) := s.draw
      let (b, s) := s.draw
      let told (c : Core) : Core :=
        { c with fibres := c.fibres.map fun f => if f.slot = k.slot then { f with noticed := true } else f }
      (s.onPair core fun s n => s.modCore n told).pushRecord core i.fres
        { w0 := Config.noticeWord a, w1 := Config.noticeWord b, pinned := true }
  | _, _ => s

/-- PINNED_RECORD (R157, R165, R170): the item at the head of the inbox becomes a record, where the store has room
beyond the reserve. With an empty inbox it is the completion notice of a fibre. -/
def execPinnedRecord (core : Nat) (s : State) : Host.Outcome State Fault Refusal :=
  let n := s.actor core
  match (s.core n).inbox with
  | [] => .next (s.fibreNotice n)
  | i :: rest =>
    let taken := s.modCore n fun c => { c with inbox := rest }
    if !s.roomBeyondReserve n then .next s
    else
      match i.kind with
      | .low slot => .next (taken.pushRecord n slot { w0 := i.w0, w1 := i.w1, pinned := true })
      | .record slot => .next (taken.pushRecord n slot { w0 := i.w0, w1 := i.w1, pinned := false })
      | _ => .next s

/-- An item that an activation sent lands at its target, where there is room (R162, R170, R171). -/
def State.landHeld (s : State) (m : NetItem) : Option State :=
  match s.grid m.grid with
  | none => some { s with net := s.net.erase m }
  | some g =>
    match s.gridCore g m.target with
    | none => some { s with net := s.net.erase m }
    | some c =>
      let s' := { s with net := s.net.erase m }
      let behind := c.inbox.any fun i => decide (i.src = m.item.src)
      let enter : Option State :=
        if 32 ≤ c.inbox.length + s.inbound m.grid m.target then none
        else
          match g.coreOf m.target with
          | some k => some (s'.enterInbox k m.item)
          | none => some (s'.modGridCore m.grid m.target fun c => { c with inbox := c.inbox ++ [m.item] })
      match m.item.kind with
      | .record slot =>
        if behind then enter
        else if !c.hasRoom g.info then none
        else some (s'.deliverRecord m.grid m.target slot { w0 := m.item.w0, w1 := m.item.w1, pinned := false })
      | _ => enter

/-- Does an older item of the same issuer to the same target stand before an item (R170)? -/
def earlierItem (net : List NetItem) (m : NetItem) : Bool :=
  (net.takeWhile fun k => decide (k ≠ m)).any fun k =>
    k.grid == m.grid && k.target == m.target && decide (k.item.src = m.item.src)

/-- RECORD_PUSH_RETRY (R171): the network interface of a core tries the items that its activations sent. -/
def execRecordPushRetry (core : Nat) (s : State) : Host.Outcome State Fault Refusal :=
  let mine := s.net.filter fun m =>
    m.held && (match m.item.src with | some i => i.core == core | none => false) && !earlierItem s.net m
  match mine.findSome? fun m => s.landHeld m with
  | some t => .next t
  | none => .next s

/-! ## Activations (R35, R157, R362) -/

/-- H_ACTIVATION_START (R35, R157): a high-priority message at the head of the inbox starts H at F's boundary,
with an acquire at the scope of its send (R173). -/
def execHActivationStart (core : Nat) (s : State) : Host.Outcome State Fault Refusal :=
  let n := s.actor core
  let c := s.core n
  match c.inbox with
  | [] => .next s
  | i :: rest =>
    match i.kind with
    | .high _ _ =>
      if c.hAct.isSome || !c.fc.ie || !s.inService n then .next s
      else
        let s := if 2 ≤ scopeNo i.scope then s.dropCleanRdc (dieOf n) else s
        .next (s.setCore n ({ c with inbox := rest }.startActivation (.message i) false))
    | _ => .next s

/-- The instructions that an activation may execute (R35). -/
def activationLimit : Ctx → Nat
  | .d => 256
  | _ => 4096

/-- Would the next instruction of an activation exceed its limit? -/
def Core.overLimit (c : Core) (x : Ctx) : Bool :=
  match c.act x with
  | some a => !(c.context x).inTrap && decide (activationLimit x ≤ a.count)
  | none => false

/-- ACTIVATION_LIMIT (R35): 0x0E in the activation that would exceed its limit. -/
def execActivationLimit (core : Nat) (s : State) : Host.Outcome State Fault Refusal :=
  let c := s.core core
  if c.overLimit .h then .next (takeTrap { s with turn := .core core .h } 0x0E 0)
  else if c.overLimit .d then .next (takeTrap { s with turn := .core core .d } 0x0E 0)
  else .next s

/-- Does an activation read poison at an address (R361)? -/
def State.readsPoison (s : State) (core : Nat) (x : Ctx) (va : Nat) : Bool :=
  match s.spot (s.viewer core x) false va with
  | .at_ p _ _ => s.bytePoisoned core x p
  | _ => false

/-- POISON_REDELIVERY (R362): an activation that consumed poison at an address is dropped, and started once
more with its trigger; the second time its sender is told. -/
def execPoisonRedelivery (core : Nat) (ctx : Ctx) (addr : Word) (s : State) : Host.Outcome State Fault Refusal :=
  if ((s.core core).act ctx).isSome && !((s.core core).context ctx).inTrap && s.readsPoison core ctx addr.toNat then
    .next (s.poisonActivation core ctx addr)
  else .next s

/-- ACTIVATION_PARITY_ERROR (R360, R362): logged, then as poison; no address is known. -/
def execActivationParityError (core : Nat) (ctx : Ctx) (s : State) : Host.Outcome State Fault Refusal :=
  if ((s.core core).act ctx).isSome then .next ((s.logError (dieOf core) 0x31 core).poisonActivation core ctx 0)
  else .next s

/-! ## Notices (R329, R360, R362, R364, R365) -/

/-- The channel whose fault is delivered. -/
def Core.delivered (c : Core) : Nat := ((List.range 4).find? fun ch => (c.chan ch).dlv).getD 0

/-- `g19` of a copy fault's upcall: channel and transfer id (R329). -/
def Core.faultId (c : Core) : Word :=
  let ch := c.delivered
  word (ch * 2 ^ 32 + ((c.chan ch).run.map fun t => t.req.id).getD 0)

/-- Does a copy fault reach F's firing as an upcall, where a fibre slot is free (R329)? -/
def Core.upcallsCopy (c : Core) : Bool :=
  (match c.firing with | .slot _ => true | _ => false) && c.fc.priv == 0 && c.fc.upe && !c.fc.inTrap

/-- A copy fault reaches F (R165, R329): an idle F starts the upcall routine; a firing leaves for a free slot, of which
the odd core of a pair takes the one that its even core found; anything else is a trap. -/
def State.copyUpcall (s : State) (core : Nat) (tval : Word) : State :=
  let c := s.core core
  let id := (s.core (s.actor core)).faultId
  let finish (s : State) : State := s.modCore core fun c => { c with fc := c.fc.writeG 19 id }
  let trap (s : State) : State := takeTrap { s with turn := .core core .f } 0x2B tval
  if c.fIdle then finish (s.modCore core fun c => c.startUpcall 0 0x2B tval)
  else if !c.upcallsCopy then trap s
  else if c.paired && core % 2 == 1 then
    let p := s.core (partnerOf core)
    match p.pair.passed.get 0 with
    | [] => trap s
    | bs :: rest =>
      let s := s.setCore (partnerOf core) { p with pair := { p.pair with passed := vset p.pair.passed 0 rest } }
      if natOf bs = 0 then trap s else finish (s.fibreUpcall core (natOf bs - 1) [] 0 0x2B tval)
  else
    let pass (s : State) (n : Nat) : State := if c.paired then s.modCore core fun c => c.passOn .f (bytesOf 8 n) else s
    match s.freeFibre core .f with
    | .found slot l => pass (finish (s.fibreUpcall core slot l 0 0x2B tval)) (slot + 1)
    | _ => pass (trap s) 0

/-- A notice reaches F: a copy fault as R329 says, anything else as a trap to K or M. -/
def State.deliverNotice (s : State) (core : Nat) (nt : Notice) : State :=
  if nt.cause = 0x2B then s.copyUpcall core nt.tval else takeTrap { s with turn := .core core .f } nt.cause nt.tval

/-- The notice that F can take: its first, or for an idle F the first copy fault (R329, R362). -/
def Core.takeable (c : Core) : Option Notice :=
  if c.fIdle then c.notices.find? fun nt => nt.cause == 0x2B else c.notices.head?

/-- Can F take a notice? The odd core of a pair comes second. A recovery-scope release that F has begun ends first. -/
def State.noticeDue (s : State) (core : Nat) : Bool :=
  let c := s.core core
  c.takeable.isSome && !(c.waits.rcRel.any fun w => decide (w.ctx = .f)) &&
    !(c.paired && core % 2 == 1 && (s.core (partnerOf core)).notices.length == c.notices.length)

/-- What an upcall for a copy fault must await: a walk of the fibre area. -/
def State.noticeAwaits (s : State) (core : Nat) (nt : Notice) : Option (State → State) :=
  let c := s.core core
  if nt.cause = 0x2B ∧ c.upcallsCopy ∧ ¬ (c.paired ∧ core % 2 = 1) then
    match s.freeFibre core .f with
    | .ask f => some f
    | _ => none
  else none

/-- F takes a notice at its boundary; a pair's interval closes first (R368). -/
def State.takeNotice (s : State) (core : Nat) : State :=
  let c := s.core core
  match c.takeable with
  | none => s
  | some nt =>
    if c.intervalOpen then (if flag c.pair.ctl 2 then s else s.modCore core fun c => c.closeInterval (some .f))
    else
      match s.noticeAwaits core nt with
      | some f => f s
      | none =>
        let s := (s.modCore core fun c => { c with notices := c.notices.erase nt, wfi := false }).deliverNotice core nt
        s.modCore core fun c => if c.paired then c.openInterval else c

/-- POISON_SENDER_NOTICE (R362): the sender's F takes 0x31 at its next boundary; an idle F holds it. -/
def execPoisonSenderNotice (core : Nat) (s : State) : Host.Outcome State Fault Refusal :=
  match (s.core core).takeable with
  | some nt => if nt.cause = 0x31 ∧ s.noticeDue core then .next (s.takeNotice core) else .next s
  | none => .next s

/-! ## WFI_TIMEOUT (R86) -/

/-- WFI_TIMEOUT: 65,536 clocks have passed. -/
def execWfiTimeout (core : Nat) (s : State) : Host.Outcome State Fault Refusal := .next (s.wake core)

end Sys2Proof.Machine
end

