-- ==== Sys2Proof/Machine/Sm3.lean ====
section
/-! DEFINITION. The SM3 digest of a byte string, a named standard that the spec uses and does not give
(PRESUMED, log 36), and CRC-64/ECMA-182 (R368). -/

namespace Sys2Proof.Machine

/-! ## SM3 -/

/-- A word of SM3. -/
abbrev Sm3Word := BitVec 32

/-- The initial value. -/
def sm3Init : List Sm3Word :=
  [0x7380166F, 0x4914B2B9, 0x172442D7, 0xDA8A0600, 0xA96F30BC, 0x163138AA, 0xE38DEE4D, 0xB0FB0E4E]

/-- The permutation P0. -/
def sm3P0 (x : Sm3Word) : Sm3Word := x ^^^ x.rotateLeft 9 ^^^ x.rotateLeft 17

/-- The permutation P1. -/
def sm3P1 (x : Sm3Word) : Sm3Word := x ^^^ x.rotateLeft 15 ^^^ x.rotateLeft 23

/-- The round constant of round `j`, rotated. -/
def sm3T (j : Nat) : Sm3Word := (if j < 16 then (0x79CC4519 : Sm3Word) else 0x7A879D8A).rotateLeft (j % 32)

/-- The first Boolean function. -/
def sm3F (j : Nat) (x y z : Sm3Word) : Sm3Word :=
  if j < 16 then x ^^^ y ^^^ z else (x &&& y) ||| (x &&& z) ||| (y &&& z)

/-- The second Boolean function. -/
def sm3G (j : Nat) (x y z : Sm3Word) : Sm3Word :=
  if j < 16 then x ^^^ y ^^^ z else (x &&& y) ||| (~~~x &&& z)

/-- Padding: a bit 1, zeros, and the length in bits in 8 bytes, highest first. -/
def sm3Pad (bs : List Byte) : List Byte :=
  bs ++ [0x80] ++ List.replicate ((119 - bs.length % 64) % 64) 0 ++ (bytesOf 8 (8 * bs.length)).reverse

/-- The 16 words of a block of 64 bytes, each highest byte first. -/
def sm3Words (b : List Byte) : List Sm3Word :=
  (List.range 16).map fun i => BitVec.ofNat 32 (natOf (slice b (4 * i) 4).reverse)

/-- Message expansion: the last 16 words, newest first, give the next. -/
def sm3Next (w : List Sm3Word) : Sm3Word :=
  sm3P1 (w.getD 15 0 ^^^ w.getD 8 0 ^^^ (w.getD 2 0).rotateLeft 15) ^^^ (w.getD 12 0).rotateLeft 7 ^^^ w.getD 5 0

/-- The 68 words of a block, newest first. -/
def sm3Expand (b : List Byte) : List Sm3Word :=
  (List.range 52).foldl (fun w _ => sm3Next w :: w) (sm3Words b).reverse

/-- One round over the eight registers. -/
def sm3Round (w : List Sm3Word) (v : List Sm3Word) (j : Nat) : List Sm3Word :=
  match v with
  | [a, b, c, d, e, f, g, h] =>
    let wj := w.getD j 0
    let wj' := wj ^^^ w.getD (j + 4) 0
    let s1 := (a.rotateLeft 12 + e + sm3T j).rotateLeft 7
    let s2 := s1 ^^^ a.rotateLeft 12
    let t1 := sm3F j a b c + d + s2 + wj'
    let t2 := sm3G j e f g + h + s1 + wj
    [t1, a, b.rotateLeft 9, c, sm3P0 t2, e, f.rotateLeft 19, g]
  | v => v

/-- The compression of one block. -/
def sm3Compress (v : List Sm3Word) (b : List Byte) : List Sm3Word :=
  let w := (sm3Expand b).reverse
  (((List.range 64).foldl (sm3Round w) v).zip v).map fun p => p.1 ^^^ p.2

/-- The blocks of a padded string, compressed in order. -/
def sm3Blocks : Nat → List Sm3Word → List Byte → List Sm3Word
  | 0, v, _ => v
  | n + 1, v, bs => sm3Blocks n (sm3Compress v (bs.take 64)) (bs.drop 64)

/-- The 32-byte digest. -/
def sm3 (bs : List Byte) : List Byte :=
  let p := sm3Pad bs
  (sm3Blocks (p.length / 64) sm3Init p).flatMap fun w => (bytesOf 4 w.toNat).reverse

/-! ## CRC-64/ECMA-182 (R368) -/

/-- One bit of the CRC. -/
def crcBit (c : Word) : Word := if c.getLsbD 63 then (c <<< 1) ^^^ 0x42F0E1EBA9EA3693 else c <<< 1

/-- One byte of the CRC. -/
def crcByte (c : Word) (b : Byte) : Word :=
  (List.range 8).foldl (fun c _ => crcBit c) (c ^^^ (word b.toNat <<< 56))

/-- The CRC of a byte string: initial value 0, no reflection, no final XOR. -/
def crc64 (bs : List Byte) : Word := bs.foldl crcByte 0

end Sys2Proof.Machine
end

