-- ==== Sys2Proof/Machine/Pairs.lean ====
section
/-! DEFINITION. The end of a paired interval (R368, R369) and the timeouts of a pair (R369, R371). -/

namespace Sys2Proof.Machine

/-- The fingerprint of an interval: the CRC of what C, L and S noted, in that order (R368). -/
def Pairing.crc (p : Pairing) : Word := crc64 (p.bytes.get 0 ++ p.bytes.get 1 ++ p.bytes.get 2)

/-- PAIRCTL.WAIT. -/
def Core.waitsForPartner (c : Core) : Bool := flag c.pair.ctl 2

/-- Have both cores of a pair closed an interval, with equal counts of retired instructions? -/
def State.intervalMet (s : State) (even : Nat) : Bool :=
  let a := s.core even
  let b := s.core (partnerOf even)
  a.paired && b.paired && a.waitsForPartner && b.waitsForPartner && decide (a.pair.retired = b.pair.retired)

/-! ## Agreement -/

/-- What a gated store of the odd core writes: its own copy of the pair's scratchpad alone (R367). -/
def GateEntry.ownCopy (e : GateEntry) (even : Nat) : GateEntry :=
  { e with
    parts := e.parts.filter fun p => match p.place with | .scratch c _ => c == even | .mem _ => false
    wide := false }

/-- The interval's gated stores are released (R14, R368): those of the even core leave; those of the odd core
reach its own copy. -/
def State.releaseInterval (s : State) (core : Nat) : State :=
  let even := evenOf core
  let s := s.modCore core fun c =>
    let gate := if core % 2 = 0 then c.mem.gate else c.mem.gate.map fun e => if e.interval then e.ownCopy even else e
    { c with mem := { c.mem with gate := gate.map fun e => { e with interval := false } } }
  s.releaseGate core

/-- The next interval of a core that has agreed; `closer` is the stream whose operation comes first. -/
def Core.agreed (c : Core) (crc : Word) (closer : Option Ctx) : Core :=
  let c : Core := { c with pair := { c.pair with fprint := crc, again := false, passed := Vector.replicate 3 [] } }
  let c := c.openInterval
  { c with pair := { c.pair with closer := closer } }

/-! ## Rollback -/

/-- A barrier as the rollback of a firing's registration leaves it: what the interval did to its counts is
undone (DESIGN CHOICE, log 38). -/
def Barrier.undo (b : Barrier) (now before : Option BarReg) : Barrier :=
  let here (r : Option BarReg) : Nat := match r with | some r => if r.arrived = some b.p then 1 else 0 | none => 0
  { b with
    g := b.g + before.isSome.toNat - now.isSome.toNat
    a := b.a + here before - here now }

/-- The barriers of a firing rolled back to its registrations at the start of the interval. -/
def State.undoBars (s : State) (core : Nat) (before : List BarReg) : State :=
  let now := (s.core core).f.bars
  let keys := (now ++ before).foldl (fun l b => if l.contains (b.lvl, b.n) then l else l ++ [(b.lvl, b.n)]) []
  let find (l : List BarReg) (k : Nat × Nat) : Option BarReg := l.find? fun b => decide ((b.lvl, b.n) = k)
  if s.actsForPair core then
    keys.foldl (fun s k => s.modBarrier core k.1 k.2 fun b => b.undo (find now k) (find before k)) s
  else s

/-- A core at the start of its interval again: registers and queues, no gated store, no release of the interval under
way, nothing passed on. -/
def State.rollCore (s : State) (core : Nat) : State :=
  match (s.core core).pair.start with
  | none => s
  | some w =>
    let s := s.undoBars core w.f.bars
    s.modCore core fun c =>
      let c := c.dropInterval
      { c with
        fc := w.fc, f := w.f, waits := { c.waits with rcRel := c.waits.rcRel.filter fun r => !inFiring r.ctx }, pair := { c.pair with passed := Vector.replicate 3 [] } }.openInterval

/-- ROLLBK rises, saturating at 65,535 (R370; DEDUCED at which rollbacks, log 97). -/
def Core.countRollback (c : Core) : Core :=
  { c with pair := { c.pair with
      ctl := setField c.pair.ctl 32 16 (Nat.min 65535 (field c.pair.ctl 32 16 + 1)), again := true } }

/-- The second disagreement of an interval: SUSPECT, and 0x34 in F at its first instruction. -/
def State.suspect (s : State) (core : Nat) : State :=
  let s := s.modCore core fun c =>
    { c with pair := { c.pair with ctl := setField c.pair.ctl 4 1 1, again := false } }
  (takeTrap { s with turn := .core core .f } 0x34 0).modCore core Core.openInterval

/-- FINGERPRINT_EXCHANGE (R368). -/
def execFingerprintExchange (core : Nat) (s : State) : Host.Outcome State Fault Refusal :=
  let n := evenOf core
  let m := partnerOf n
  if !s.intervalMet n then .next s
  else
    let a := (s.core n).pair
    let b := (s.core m).pair
    if a.crc = b.crc then
      let closer := a.closer <|> b.closer
      let s := (s.releaseInterval n).releaseInterval m
      .next ((s.modCore n fun c => c.agreed a.crc closer).modCore m fun c => c.agreed a.crc closer)
    else if a.again then .next ((((s.rollCore n).rollCore m).suspect n).suspect m)
    else .next ((((s.rollCore n).rollCore m).modCore n Core.countRollback).modCore m Core.countRollback)

/-! ## Timeouts (R369, R371) -/

/-- A pair is dissolved: EN cleared, LOST set. -/
def Core.lose (c : Core) : Core :=
  let c := c.pairDown
  { c with pair := { c.pair with ctl := setField c.pair.ctl 3 1 1 } }

/-- PARTNER_TIMEOUT (R369): the partner's context is lost, its firing gone, or its interval not closed: the
survivor rolls back and takes 0x35. The partner leaves the pair too, without its firing and its copy of
the deques (DESIGN CHOICE, log 39). -/
def execPartnerTimeout (core : Nat) (s : State) : Host.Outcome State Fault Refusal :=
  let c := s.core core
  let p := s.core (partnerOf core)
  if c.paired && !c.fIdle && !s.intervalMet (evenOf core) &&
      (c.waitsForPartner || p.lost || p.fIdle || !p.paired) then
    let s := s.rollCore core
    let s := s.modCore core Core.lose
    let s := if p.paired then
        s.modCore (partnerOf core) fun p => { (if p.lost then p else p.endFiring).lose with work := Work.reset }
      else s
    .next (takeTrap { s with turn := .core core .f } 0x35 0)
  else .next s

/-- PAIR_TIMEOUT (R371): the partner of a waiting PAIR has not arrived. -/
def execPairTimeout (core : Nat) (s : State) : Host.Outcome State Fault Refusal :=
  let c := s.core core
  if c.pair.joining = some true then
    let s := s.modCore core fun c => { c with pair := { c.pair with joining := none } }
    .next (s.trapAtBoundary core 0x35 0)
  else .next s

end Sys2Proof.Machine
end

