-- ==== Sys2Proof/Machine/Launch.lean ====
section
/-! DEFINITION. The launch (R7 to R9, R147, R149, R156, R158, R159, R180, R200, R201, R234): reading and checking
a record and its tables, binding teams, dealing records, completion. -/

namespace Sys2Proof.Machine

/-! ## What the scheduler reaches (R7, R158, R180)

A record names its tables by virtual addresses of the launch (R28, R180). The scheduler of a die reaches them under the
launch's ASID, not as user, through the TLB of the die's first cluster and with cluster number 0 (DESIGN CHOICE,
log 49). -/

/-- The scheduler of a die as a viewer of memory under an ASID register. -/
def launchViewer (die : Nat) (asid : Word) : Viewer :=
  { core := 8 * Config.clustersPerDie * die, ctx := .f, cluster := Config.clustersPerDie * die, asid := asid, log := 0
    user := false, engine := true, grid := none, who := .launch die, wcfg := wcfgReset }

/-- What the scheduler finds: a value, what it must await first, or nothing, where a page does not translate or holds
poison. -/
abbrev Gather := Except (Option (State → State))

/-- The pages of a range. -/
def State.gatherPages (s : State) (v : Viewer) (store : Bool) (va n : Nat) : Gather (List PagePart) :=
  if n = 0 then .ok []
  else
    match s.reach v store va n with
    | .pages l => .ok l
    | .ask f => .error (some f)
    | .bad => .error none

/-- The bytes of pages as their home has them. -/
def State.readHome (s : State) (l : List PagePart) : List Byte := l.flatMap fun p => memGetList s.mem p.pa p.len

/-- The bytes of a range, none of them poisoned. -/
def State.gather (s : State) (v : Viewer) (va n : Nat) : Gather (List Byte) := do
  let l ← s.gatherPages v false va n
  if l.any fun p => (firstPoison s.poison p.pa p.len).isSome then .error none else .ok (s.readHome l)

/-- The failed walks of a scheduler are forgotten. -/
def State.forgetLaunch (s : State) (die : Nat) : State :=
  s.modCluster (Requester.launch die).cluster fun c => { c with fails := c.fails.filter fun f => decide (f.1 ≠ .launch die) }

/-! ## Reading a launch record (R158) -/

/-- Field <lo+n-1:lo> of the doubleword at byte `o`. -/
def recordField (r : List Byte) (o lo n : Nat) : Nat := field (wordAt r o) lo n

/-- The number of levels of a record, level 0 included (R159). -/
def recordLevels (r : List Byte) : Nat := recordField r 16 13 3 + 1

/-- DOMAIN and COUNT of levels 1 to LEVELS − 1. -/
def recordDomains (r : List Byte) : List (Nat × Nat) :=
  (List.range (recordLevels r - 1)).map fun i => (recordField r (112 + 8 * i) 0 3, recordField r (112 + 8 * i) 8 24)

/-- A stage-table entry (R147). -/
def stageOf (e : List Byte) : Stage where
  valid := recordField e 0 54 1 == 1
  prio := recordField e 0 52 2
  slot := recordField e 0 48 4
  rate := recordField e 0 59 2 + 1
  level := recordField e 0 56 3
  centry := natAt e 0 2
  lentry := natAt e 2 2
  sentry := natAt e 4 2
  ports := (List.range 4).map fun j => (recordField e 8 (9 * j) 4, recordField e 8 (9 * j + 4) 5)
  init := wordAt e 16
  count := natAt e 24 4

/-- The 16 entries of a stage table. -/
def stagesOf (t : List Byte) : List Stage := (List.range 16).map fun k => stageOf (slice t (32 * k) 32)

/-- A class-table entry (R156). -/
def classOf (v : Nat) : ClassEntry where
  inst := v / 2 ^ 16 % 2 == 1
  high := v / 2 ^ 17 % 2 == 1
  priv := v / 2 ^ 18 % 2
  target := v % 2 ^ 16

/-- The 64 entries of a class table. -/
def classesOf (t : List Byte) : List ClassEntry := (List.range 64).map fun k => classOf (natAt t (4 * k) 4)

/-- The eight descriptors of an arena table (R180). -/
def arenasOf (t : List Byte) : List Arena :=
  (List.range 8).map fun k =>
    { base := wordAt t (32 * k), size := wordAt t (32 * k + 8), align := natAt t (32 * k + 24) 1 % 16 }

/-- The tables that a record names. -/
structure LaunchTables where
  stages  : List Byte
  shape   : List Byte
  arenas  : List Byte
  classes : List Byte
  header  : List Byte
  image   : Nat
  deriving DecidableEq, Repr

/-- The ASID register of a record: TENANT, ASID. -/
def recordAsid (r : List Byte) : Word := word (recordField r 0 24 8 * 2 ^ 16 + recordField r 0 8 16)

/-- The tables of a record. -/
def State.tablesOf (s : State) (v : Viewer) (r : List Byte) : Gather LaunchTables := do
  let stages ← s.gather v (natAt r 24 8) 512
  let shape ← s.gather v (natAt r 32 8) 256
  let arenas ← s.gather v (natAt r 40 8) 256
  let classes ← s.gather v (natAt r 48 8) 256
  let header ← s.gather v (natAt r 56 8) 64
  pure { stages := stages, shape := shape, arenas := arenas, classes := classes, header := header, image := natAt r 56 8 }

/-- Halfwords of the C, L and S routines (R200). -/
def LaunchTables.sizes (t : LaunchTables) : Nat × Nat × Nat :=
  (natAt t.header 0 2, natAt t.header 2 2, natAt t.header 4 2)

/-- WCFG1 to WCFG5 of an image header. -/
def LaunchTables.wcfg (t : LaunchTables) : Vector Word 5 := Vector.ofFn fun i : Fin 5 => wordAt t.header (24 + 8 * i.val)

/-- What a launch loads: the routines, the pages of each stage's initial records, the pages of each USED. -/
structure LaunchLoad where
  stores  : Stores
  records : List (List PagePart)
  used    : List (List PagePart)
  deriving DecidableEq, Repr

/-- The routines of an image, in the order C, L, S. -/
def LaunchTables.storesOf (t : LaunchTables) (code : List Byte) : Stores :=
  let (c, l, x) := t.sizes
  { c := halvesOf (slice code 0 (2 * c)), l := halvesOf (slice code (2 * c) (2 * l))
    s := halvesOf (slice code (2 * c + 2 * l) (2 * x)) }

/-- The pages of the initial records of each stage (R149). -/
def State.recordPages (s : State) (v : Viewer) (stages : List Stage) : Gather (List (List PagePart)) :=
  stages.mapM fun st => if st.valid then s.gatherPages v false st.init.toNat (16 * st.count) else pure []

/-- What the tables of a record load, with the arena table at `arenas`. -/
def State.loadOf (s : State) (v : Viewer) (t : LaunchTables) (arenas : Nat) : Gather LaunchLoad := do
  let (c, l, x) := t.sizes
  let code ← s.gather v (t.image + 64) (2 * (c + l + x))
  let records ← s.recordPages v (stagesOf t.stages)
  let used ← (List.range 8).mapM fun k => s.gatherPages v true (arenas + 32 * k + 16) 8
  pure { stores := t.storesOf code, records := records, used := used }

/-! ## The checks (R7, R149, R159, R180, R191, R200, R294, R349) -/

/-- The zero fields of a record, and of its unused levels. -/
def recordZeros (r : List Byte) : Bool :=
  recordField r 0 0 6 == 0 && recordField r 8 48 16 == 0 && recordField r 16 16 48 == 0 && recordField r 16 6 2 == 0 &&
    recordField r 72 48 16 == 0 && recordField r 96 32 32 == 0 && (slice r 168 88).all (· == 0) &&
    (List.range 7).all fun i =>
      recordField r (112 + 8 * i) 32 32 == 0 && recordField r (112 + 8 * i) 3 5 == 0 &&
        (decide (i + 1 < recordLevels r) || natAt r (112 + 8 * i) 8 == 0)

/-- Domains widen strictly, and each COUNT divides the one before (R159). -/
def levelsNest : List (Nat × Nat) → Bool
  | a :: b :: rest => decide (a.1 < b.1 ∧ b.2 ≠ 0 ∧ a.2 % b.2 = 0) && levelsNest (b :: rest)
  | _ => true

/-- The levels of a record (R159, R396). -/
def levelsLegal (ls : List (Nat × Nat)) : Bool :=
  match ls with
  | [] => false
  | (d, t) :: _ => d == 1 && t != 0 && levelsNest ls && ls.all fun l => l.1 != 7 || l.2 == 1

/-- Clusters in one unit of a domain (R159). -/
def domainClusters (d : Nat) : Nat := match d with | 1 => 1 | 2 => 2 | 3 => 20 | 4 => 40 | 5 => 80 | _ => 160

/-- The zero fields of a stage-table entry (R147). -/
def stageZeros (e : List Byte) : Bool :=
  recordField e 0 55 1 == 0 && recordField e 0 61 3 == 0 && recordField e 8 36 28 == 0 && natAt e 28 4 == 0

/-- The checks of a stage table: every VALID entry stands at its slot, with rates in range (R159). -/
def stagesLegal (t : List Byte) (levels : Nat) : Bool :=
  (List.range 16).all fun k =>
    let e := slice t (32 * k) 32
    let st := stageOf e
    !st.valid || (stageZeros e && st.slot == k && decide (st.level < levels) && st.ports.all fun p => decide (p.2 ≤ 16))

/-- The checks of an arena table (R180). That ALIGN lies in its range is asked of arenas with a size
(DESIGN CHOICE, log 31). -/
def arenasLegal (t : List Byte) : Bool :=
  (List.range 8).all fun k =>
    let a := natAt t (32 * k + 24) 1
    a / 16 == 0 && (slice t (32 * k + 25) 7).all (· == 0) && (natAt t (32 * k + 8) 8 == 0 || decide (4 ≤ a ∧ a ≤ 12))

/-- The checks of an image header (R200). -/
def LaunchTables.headerLegal (t : LaunchTables) : Bool :=
  let (c, l, x) := t.sizes
  decide (c ≤ 32768 ∧ l ≤ 8192 ∧ x ≤ 8192) && natAt t.header 6 2 == 0 && (slice t.header 12 12).all (· == 0) &&
    decide (natAt t.header 8 2 < 32768 ∧ natAt t.header 10 2 < 32768) &&
    (List.finRange 5).all fun i => srLegal (0x19 + i.val) (t.wcfg.get i)

/-- Initial records dealt to one core, or to one pair (R149). -/
def dealtTo (stages : List Stage) (cores n : Nat) : Nat :=
  sumNat (stages.map fun st => if st.valid ∧ n < st.count then (st.count - n + cores - 1) / cores else 0)

/-- Is a launch record valid? -/
def launchLegal (r : List Byte) (t : LaunchTables) (tenant : Option Nat) : Bool :=
  let ls := recordDomains r
  let teams := (ls.headD (0, 0)).2
  let c := recordField r 8 32 16
  let modes := recordField r 16 0 6
  let has (b : Nat) : Bool := modes / 2 ^ b % 2 == 1
  let stages := stagesOf t.stages
  recordZeros r && levelsLegal ls && decide (1 ≤ c ∧ c ≤ 160) &&
    decide (100 ≤ recordField r 8 0 32 ∧ recordField r 8 0 32 ≤ 100000) && decide (recordField r 96 0 8 ≤ 64) &&
    decide (teams ≤ 2 ^ 23) && stagesLegal t.stages (recordLevels r) &&
    (List.range 64).all (fun k => natAt t.classes (4 * k) 4 / 2 ^ 19 == 0) && arenasLegal t.arenas && t.headerLegal &&
    (has 2 || (decide (teams ≤ c) && ls.all fun l => decide (teams / l.2 ≤ domainClusters l.1))) &&
    (!has 2 || !(ls.any fun l => l.1 == 2) || (teams % 2 == 0 && c % 2 == 0)) &&
    decide (dealtTo stages (8 * teams) 0 + (if has 0 then dealtTo stages (8 * teams) 1 else 0) ≤ 512) &&
    (!has 1 || ((stages[recordField r 96 12 4]?).map (·.valid)).getD false) &&
    (match tenant with | some x => x == recordField r 0 24 8 | none => true)

/-- STATUS of F as INIT gives it (R44, R158). -/
def initStatus (init : Nat) : Word :=
  word (init % 2 * 2 ^ 3 + init / 2 % 2 * 2 ^ 4 + init / 4 % 2 * 2 ^ 5 + init / 8 % 2 * 2 ^ 7)

/-- What a running grid keeps of its record. -/
def launchInfo (r : List Byte) (t : LaunchTables) (l : LaunchLoad) : LaunchInfo where
  tenant := recordField r 0 24 8
  asid := recordField r 0 8 16
  prio := recordField r 0 6 2
  clusters := ((recordDomains r).headD (0, 0)).2
  levels := recordDomains r
  lperm := recordField r 16 8 1 == 1
  modes := recordField r 16 0 6
  status := initStatus (recordField r 16 9 4)
  stages := stagesOf t.stages
  shape := t.shape
  arenaVa := wordAt r 40
  arenas := arenasOf t.arenas
  classes := classesOf t.classes
  stores := l.stores
  seed := wordAt r 64
  key := recordField r 72 0 48
  swap := wordAt r 80
  fibre := wordAt r 88
  fibres := recordField r 96 0 8
  rres := recordField r 96 12 4
  fres := recordField r 96 8 4
  head := slice r 0 8
  wcfg := t.wcfg
  tvec := word (2 * natAt t.header 8 2)
  uvec := word (2 * natAt t.header 10 2)

/-! ## Binding (R7, R42, R201) -/

/-- The logical core whose identity a core of a grid shows: in a checked launch that of its pair's even core
(R367). -/
def LaunchInfo.shownAs (i : LaunchInfo) (n : Nat) : Nat := if i.has .checked then n / 2 * 2 else n

/-- LVLID0 to LVLID7 of a logical core (R42); undeclared levels read 0. -/
def LaunchInfo.lvlids (i : LaunchInfo) (n : Nat) : Vector Word 8 :=
  Vector.ofFn fun l : Fin 8 => if l.val < i.levelCount then word (i.unitOf l.val n) else 0

/-- The launch area of a scratchpad (R201). -/
def LaunchInfo.area (i : LaunchInfo) (n : Nat) : List Byte :=
  i.shape ++ ((i.lvlids (i.shownAs n)).toList.flatMap fun w => bytesOf 8 w.toNat) ++
    (i.arenas.flatMap fun a => bytesOf 8 a.base.toNat ++ bytesOf 8 a.size.toNat ++ bytesOf 8 0 ++ bytesOf 8 a.align) ++
    i.head ++ bytesOf 3512 0

/-- The ASID register of a launch. -/
def LaunchInfo.asidReg (i : LaunchInfo) : Word := word (i.tenant * 2 ^ 16 + i.asid)

/-- A core of a team as its launch binds it: a firing's registers stand at reset, its scratchpad keeps what
lies beyond the launch area (log 32). -/
def LaunchInfo.boundCore (i : LaunchInfo) (gid n : Nat) (scratch : List Host.Cell) (poison : List Nat) : Core :=
  let base := Core.reset
  let c : Core := { base with
    fc := { base.fc with status := i.status }
    ident := { grid := some gid, log := n / 8, lvlid := i.lvlids n }
    sr := { base.sr with wcfg := i.wcfg, tvec := i.tvec, uvec := i.uvec, asid := i.asidReg }
    stores := i.stores
    mem := { base.mem with scratch := scratch, poison := poison } }
  let c := c.writeScratch 0 (i.area n)
  if i.has .checked then c.pairUp (n % 2 == 1) else c

/-- The eight cores of a team, freshly bound, with zero scratchpads. -/
def LaunchInfo.freshTeam (i : LaunchInfo) (gid team : Nat) : List Core :=
  (List.range 8).map fun j => i.boundCore gid (8 * team + j) [] []

/-- A team placed on a cluster: its cores, and accumulators and weights that read zero (R286, R296). -/
def State.placeTeam (s : State) (gid team phys : Nat) (cores : List Core) : State :=
  let s := cores.zipIdx.foldl (fun s c => s.setCore (8 * phys + c.2) c.1) s
  let s := s.modCluster phys fun c => { c with acc := [], wbuf := [] }
  s.modGrid gid fun g => { g with place := sset g.place team phys, saved := sdel g.saved team }

/-- The first placement of a team: the scratchpads of the cluster keep their bytes beyond the launch area. -/
def State.bindTeam (s : State) (gid team phys : Nat) : State :=
  match s.grid gid with
  | none => s
  | some g =>
    s.placeTeam gid team phys ((List.range 8).map fun j =>
      let old := s.core (8 * phys + j)
      g.info.boundCore gid (8 * team + j) old.mem.scratch old.mem.poison)

/-- Initial records dealt (R149), by stage: record `k` of a stage to the core whose LVLID0 is `k` mod 8T. -/
def State.dealInitial (s : State) (gid : Nat) (records : List (List PagePart)) : State :=
  match s.grid gid with
  | none => s
  | some g =>
    (g.info.stages.zip records).foldl (fun s p =>
      let b := s.readHome p.2
      (List.range (b.length / 16)).foldl (fun s k =>
        s.deliverRecord gid (k % (8 * g.info.clusters)) p.1.slot
          { w0 := wordAt b (16 * k), w1 := wordAt b (16 * k + 8), pinned := false }) s) s

/-! ## Placement (R161, R294) -/

/-- Is a cluster free for a launch: ungranted, neither retired nor under test, on a die that runs? -/
def State.clusterFree (s : State) (cl : Nat) : Bool :=
  decide (cl < Config.clusterCount) && !(s.grids.any fun g => g.2.granted.contains cl) && !(s.cluster cl).retired &&
    (s.cluster cl).test.isNone && !(s.die (dieOfCluster cl)).inReset

/-- Do the placed teams keep the bounds of R161: a unit of a level within one unit of its domain, the two
teams of a pair on one cluster pair? -/
def LaunchInfo.placedLegal (i : LaunchInfo) (place : Sparse Nat) : Bool :=
  ((List.range i.levels.length).all fun k =>
      let size := domainClusters (i.levels.getD k (7, 1)).1
      place.all fun a => place.all fun b =>
        i.unitOf (k + 1) (8 * a.1) != i.unitOf (k + 1) (8 * b.1) || a.2 / size == b.2 / size) &&
    (!(i.levels.any fun l => l.1 == 2) ||
      place.all fun a => place.all fun b => a.1 / 2 != b.1 / 2 || a.2 / 2 == b.2 / 2)

/-! ## LAUNCH_START (R7) -/

/-- The recovery record of a launch (R339, R341). -/
def Recovery.start (expect : Nat) : Recovery where
  seq := 0
  expect := expect
  count := 0
  digest := List.replicate 32 0
  last := []
  rpend := false
  sealer := none
  cut := 0
  resume := []
  prepared := []
  commit := false
  restore := false

/-- The launch that a die's scheduler takes next: of the highest priority the oldest (log 33). -/
def nextLaunch (l : List LaunchReq) : Option LaunchReq :=
  l.foldl (fun best q =>
    match best with
    | none => some q
    | some b => if recordField b.record 0 6 2 < recordField q.record 0 6 2 then some q else some b) none

/-- A completion reported by a system-scope release (R9, R234): into the completion queue of an I/O core, with the
completion interrupt after it, or to the address that a device-side LAUNCH named, which its scheduler has still to
reach. -/
def State.report (s : State) (to_ : CompleteTo) (asid : Word) (grid cause : Nat) : State :=
  let s := (List.range 4).foldl (fun s d => s.writeBackRdc d) s
  let s := { s with results := s.results ++ [(to_, grid, cause)] }
  match to_ with
  | .queue die io qp =>
    let s := s.modIo die io fun c => { c with queues := c.queues.map fun q =>
      if q.qp = qp then { q with done := q.done ++ [(grid, cause)] } else q }
    { s with control := { s.control with raised := s.control.raised + 1 } }
  | .device core target => { s with owed := s.owed ++ [{ core := core, target := target, asid := asid, grid := grid, cause := cause }] }

/-- A completion record that a device-side LAUNCH named is written by its scheduler (R9): at the target's home once its
pages are known; a target that does not translate gets none (DESIGN CHOICE, log 92). -/
def State.payOwed (s : State) (o : Owed) : State :=
  let d := dieOf o.core
  let v := launchViewer d o.asid
  let bs := Config.completionBytes o.grid o.cause
  let paid := { s with owed := s.owed.erase o }
  match s.gatherPages v true o.target.toNat bs.length with
  | .ok l => ((paid.writeReached { core := v.core, ctx := .f } l bs).writeBackRdc d).forgetLaunch d
  | .error (some f) => f s
  | .error none => paid.forgetLaunch d

/-- USED of an arena set to 0 (R180), by the scheduler of a die. -/
def State.clearUsed (s : State) (die : Nat) (l : List PagePart) : State :=
  s.writeReached { core := (launchViewer die 0).core, ctx := .f } l (bytesOf 8 0)

/-- A valid launch starts on granted clusters: teams 0 to C − 1 are resident, team `k` on `clusters[k]`. -/
def State.startGrid (s : State) (die : Nat) (q : LaunchReq) (t : LaunchTables) (l : LaunchLoad) (clusters : List Nat) :
    State :=
  let gid := recordField q.record 0 32 32
  let info := launchInfo q.record t l
  let n := Nat.min info.clusters clusters.length
  let g : Grid :=
    { info := info, granted := clusters, place := [],
      saved := (List.range (info.clusters - n)).map fun k => (n + k, info.freshTeam gid (n + k)), stored := [],
      quantum := 0, barriers := [], recov := Recovery.start (recordField q.record 96 16 16), by_ := q.by_,
      failed := none }
  let s := s.setGrid gid g
  let s := (List.range n).foldl (fun s k => s.bindTeam gid k (clusters.getD k 0)) s
  let s := (l.used.foldl (fun s p => s.clearUsed die p) s).writeBackRdc die
  s.dealInitial gid l.records

/-- Have all four dies accepted a firmware image (R389)? A die under reset had (R366). -/
def State.firmwareRuns (s : State) : Bool :=
  s.dies.toList.all fun d => d.inReset || match d.firmware with | .running _ => true | _ => false

/-- LAUNCH_START: the scheduler of a die takes its next launch. Nothing starts before the firmware runs (R389). An
invalid record completes with 0x3C, as does one whose tables it cannot reach (log 49); a valid one starts on `clusters`,
where these are C free clusters that R161 allows, and no running grid has its id. -/
def execLaunchStart (die : Nat) (clusters : List Nat) (s : State) : Host.Outcome State Fault Refusal :=
  let d := s.die die
  match nextLaunch d.launches with
  | none => .next s
  | some q =>
    let gid := recordField q.record 0 32 32
    let v := launchViewer die (recordAsid q.record)
    let taken := (s.modDie die fun d => { d with launches := d.launches.erase q }).forgetLaunch die
    let invalid := taken.report q.by_ (recordAsid q.record) gid 0x3C
    if d.inReset || !s.firmwareRuns then .next s
    else
      match s.tablesOf v q.record with
      | .error (some f) => .next (f s)
      | .error none => .next invalid
      | .ok t =>
        if !launchLegal q.record t q.tenant then .next invalid
        else
          match s.loadOf v t (natAt q.record 40 8) with
          | .error (some f) => .next (f s)
          | .error none => .next invalid
          | .ok l =>
            let teams := ((recordDomains q.record).headD (0, 0)).2
            let place : Sparse Nat := ((List.range (Nat.min teams clusters.length)).map fun k => (k, clusters.getD k 0))
            if clusters.length = recordField q.record 8 32 16 ∧ clusters.Nodup ∧ (s.grid gid).isNone ∧
                clusters.all (fun c => s.clusterFree c) = true ∧ (launchInfo q.record t l).placedLegal place = true then
              .next (taken.startGrid die q t l clusters)
            else .next s

/-! ## GRID_COMPLETION (R9, R354) -/

/-- Has a core nothing left to do for its grid? -/
def Core.atRest (c : Core) : Bool :=
  c.fIdle && c.hAct.isNone && c.dAct.isNone && c.inbox.isEmpty && c.outbox.isEmpty && c.work.used == 0 &&
    c.fibres.isEmpty && c.jobs.packets.isEmpty && c.jobs.fifo.isEmpty &&
    (c.jobs.chans.toList.all fun k => k.run.isNone) && c.mem.gate.isEmpty && c.mem.buffer.isEmpty && c.waits.sealOf.isNone

/-- The physical cores on which teams of a grid are resident. -/
def Grid.cores (g : Grid) : List Nat := g.place.flatMap fun p => (List.range 8).map fun j => 8 * p.2 + j

/-- Have all teams, engines, messages and remote requests of a grid finished? -/
def State.gridDone (s : State) (gid : Nat) (g : Grid) : Bool :=
  let cores := g.cores
  (cores.all fun n => (s.core n).atRest) && (g.saved.all fun p => p.2.all Core.atRest) &&
    (g.place.all fun p => (s.cluster p.2).bse.isEmpty && (s.cluster p.2).gre.isEmpty) &&
    !(s.net.any fun m => m.grid == gid) && !(s.keep.msgs.any fun m => m.grid == gid) &&
    !(s.fabric.reqs.any fun r => cores.contains r.src.core) && !g.recov.rpend && g.recov.sealer.isNone &&
    !g.recov.restore

/-- A core whose grid has ended: unbound; its scratchpad keeps its bytes. -/
def Core.unbound (c : Core) : Core := { Core.reset with mem := { Core.reset.mem with scratch := c.mem.scratch, poison := c.mem.poison } }

/-- The notices that a core has not taken are logged (R362). -/
def State.logNotices (s : State) (die core : Nat) (l : List Notice) : State :=
  l.foldl (fun s nt => s.logError die nt.cause core) s

/-- The end of a grid (R9, R337): a release at system scope, then the completion; clusters and Keep blocks are
free again. The notices that its cores hold are logged, those of a swapped-out team on the grid's first die (R362). -/
def State.endGrid (s : State) (gid : Nat) (g : Grid) (cause : Nat) : State :=
  let s := g.cores.foldl (fun s n => s.drainAll n) s
  let s := g.cores.foldl (fun s n => s.logNotices (dieOf n) n (s.core n).notices) s
  let home := dieOfCluster (g.granted.headD 0)
  let s := g.saved.foldl (fun s p => p.2.foldl (fun s c => s.logNotices home (c.ident.lvlid.get 0).toNat c.notices) s) s
  let s := g.cores.foldl (fun s n => s.modCore n Core.unbound) s
  let s := { s with
    grids := sdel s.grids gid
    keep := { s.keep with
      blocks := s.keep.blocks.filter fun b => b.grid != gid
      msgs := s.keep.msgs.filter fun m => m.grid != gid
      logs := s.keep.logs.filter fun l => natAt l.2 0 4 != gid } }
  s.report g.by_ g.info.asidReg gid cause

/-- GRID_COMPLETION: a grid that has finished completes; the record of one that has is written where a device-side
LAUNCH named it. -/
def execGridCompletion (grid : Nat) (s : State) : Host.Outcome State Fault Refusal :=
  match s.grid grid with
  | some g => if s.gridDone grid g then .next (s.endGrid grid g (g.failed.getD 0)) else .next s
  | none =>
    match s.owed.find? fun o => o.grid == grid with
    | some o => if (s.die (dieOf o.core)).inReset then .next s else .next (s.payOwed o)
    | none => .next s

/-! ## HOST_DOORBELL (R7, R234) -/

/-- The command queue of an I/O core. -/
def IoCore.queue (c : IoCore) (qp : Nat) : Option IoQueue := c.queues.find? fun q => q.qp == qp

/-- Entries read from a queue, up to the doorbell value; the scheduler takes as many as it has room for. -/
def readEntries (s : State) (d io : Nat) (q : IoQueue) : Nat → State × Nat
  | 0 => (s, q.next)
  | k + 1 =>
    let (s, next) := readEntries s d io q k
    if 64 ≤ (s.die d).launches.length then (s, next)
    else
      let r := memGetList s.mem (q.base + 256 * (next % q.entries)) 256
      let req : LaunchReq := { record := r, by_ := .queue d io q.qp, tenant := none }
      (s.modDie d fun x => { x with launches := x.launches ++ [req] }, next + 1)

/-- HOST_DOORBELL: the I/O core bound to the queue reads the doorbell as an acquire at system scope, and then
the entries up to the doorbell value, counted in entries since the queue was bound. -/
def execHostDoorbell (die io qp value : Nat) (s : State) : Host.Outcome State Fault Refusal :=
  match (s.ioCore die io).queue qp with
  | none => .next s
  | some q =>
    if q.entries = 0 ∨ value ≤ q.next then .next s
    else
      let s := s.dropCleanRdc die
      let (s, next) := readEntries s die io q (value - q.next)
      .next (s.modIo die io fun c => { c with queues := c.queues.map fun k => if k.qp = qp then { k with next := next } else k })

end Sys2Proof.Machine
end

