-- ==== Sys2Proof/Machine/Recovery.lean ====
section
/-! DEFINITION. The Keep and the recovery scope (R338, R339, R343 to R350): writes at the controllers, counted
releases, seals, their commit, and the restore. -/

namespace Sys2Proof.Machine

/-! ## KEEP_WRITE (R338, R346) -/

/-- Bytes in one slot of a block: those that differ from zero. -/
def slotWrite (slot : List Host.Cell) (off : Nat) (bs : List Byte) : List Host.Cell := memSetList slot off bs

/-- A write applied to the pending slot of a block; the first copies the current slot (copy-on-first-write). -/
def KeepBlock.write (b : KeepBlock) (off : Nat) (bs : List Byte) : KeepBlock :=
  let base := if b.pend then (if b.cur then b.slot0 else b.slot1) else if b.cur then b.slot1 else b.slot0
  let new := slotWrite base off bs
  if b.cur then { b with pend := true, slot0 := new } else { b with pend := true, slot1 := new }

/-- The block of a message. -/
def Keep.blockOf (k : Keep) (m : KeepMsg) : Option KeepBlock := k.blocks.find? fun b => b.pa == m.pa / 65536 * 65536

/-- The blocks of a grid changed. -/
def State.modBlocks (s : State) (gid : Nat) (f : KeepBlock → KeepBlock) : State :=
  { s with keep := { s.keep with blocks := s.keep.blocks.map fun b => if b.grid = gid then f b else b } }

/-- Is the block of a message in the closed set of a seal? Its write is held until the flip (R346). -/
def Keep.holds (k : Keep) (m : KeepMsg) : Bool := match k.blockOf m with | some b => b.inSet | none => false

/-- A write applied at its controller, and acknowledged. -/
def Keep.apply (k : Keep) (m : KeepMsg) : Keep :=
  { k with
    msgs := k.msgs.erase m
    blocks := k.blocks.map fun b =>
      if b.pa = m.pa / 65536 * 65536 ∧ b.grid = m.grid then b.write (m.pa % 65536) m.bytes else b }

/-- KEEP_WRITE: a controller applies its oldest write that no closed set holds. -/
def execKeepWrite (ctrl : Nat) (s : State) : Host.Outcome State Fault Refusal :=
  match s.keep.msgs.find? fun m => m.ctrl == ctrl && !s.keep.holds m with
  | some m => .next { s with keep := s.keep.apply m }
  | none => .next s

/-! ## RC_RELEASE_COMPLETE (R339) -/

/-- The counts of a grid's recovery record. -/
def State.modRecovery (s : State) (gid : Nat) (f : Recovery → Recovery) : State :=
  s.modGrid gid fun g => { g with recov := f g.recov }

/-- A sum that saturates at 65,535. -/
def saturate16 (n : Nat) : Nat := Nat.min n 65535

/-- A release of a context has been counted. -/
def RcWait.count (w : RcWait) (x : Ctx) : RcWait := if w.ctx = x then { w with done := true } else w

/-- RC_RELEASE_COMPLETE: a release of a context whose RC writes are all acknowledged is counted once. In a pair only
the even core has it, and only once the interval before it has agreed (R168). -/
def execRcReleaseComplete (core : Nat) (ctx : Ctx) (s : State) : Host.Outcome State Fault Refusal :=
  let c := s.core core
  if (c.waits.rcRel.any fun w => decide (w.ctx = ctx) && !w.done) && !s.rcPending { core := core, ctx := ctx } then
    let s := s.modCore core fun c => { c with waits := { c.waits with rcRel := c.waits.rcRel.map fun w => w.count ctx } }
    match c.ident.grid with
    | some gid => .next (s.modRecovery gid fun r => { r with count := saturate16 (r.count + 1) })
    | none => .next s
  else .next s

/-! ## RPSEAL (R344) -/

/-- RPSTAT with STATE, and with COUNT where a decision gives one. -/
def rpstatWith (old : Word) (state : Nat) (count : Option Nat) : Word :=
  let w := setField old 0 4 state
  match count with | some n => setField w 16 16 n | none => w

/-- RPSTAT.STATE of a core, and of its partner. -/
def State.setSealState (s : State) (core state : Nat) : State :=
  s.onPair core fun s k => s.modCore k fun c => { c with sr := { c.sr with rpstat := rpstatWith c.sr.rpstat state none } }

/-- The seal that a core has issued, changed. -/
def Core.modSeal (c : Core) (f : SealWait → Option SealWait) : Core :=
  { c with waits := { c.waits with sealOf := c.waits.sealOf.bind f } }

/-- A context of a core no longer waits for the seal. -/
def SealWait.leave (w : SealWait) (x : Ctx) : Option SealWait :=
  match w.ctxs.filter fun y => decide (y ≠ x) with
  | [] => none
  | l => some { w with ctxs := l }

/-- The wait of a seal, and its result: RPSTAT. A context that finds a seal of its core under way joins it. The wait for
teams begins once no other seal of the grid commits. -/
def sealWait (resume : List Byte) : M (List Byte) := do
  let (n, x) ← self
  let s ← get
  let c := s.core n
  if s.rcPending { core := n, ctx := x } then waitDo fun s => s.drainAll n
  else
    match c.waits.sealOf with
    | none => waitDo fun s =>
        let q := match s.gridOf n with | some g => if g.recov.sealer.isSome then none else some (g.quantum + 1) | none => some 0
        let w : SealWait := { ctxs := [x], resume := resume, phase := .waiting, quantum := q, residents := [] }
        (s.modCore n fun c => { c with waits := { c.waits with sealOf := some w } }).setSealState n 1
    | some w =>
      match w.phase, w.ctxs.contains x with
      | .done stat, true => do
        update fun s => s.modCore n fun c => c.modSeal fun w => w.leave x
        pure (bytesOf 8 stat.toNat)
      | .done _, false => wait
      | _, true => wait
      | _, false => waitDo fun s => s.modCore n fun c => c.modSeal fun w => some { w with ctxs := w.ctxs ++ [x] }

/-- RPSEAL and RPSEAL.t. -/
def sealMeaning (trap : Bool) (d a : Reg) : M Word :=
  after 4 do
    start .recovery [d, a]
    let (n, _) ← self
    let s ← get
    require (s.hasMode n .recoverable) 0x2E
    let va ← getG a
    require (decide (va.toNat % 16 = 0)) 0x04 va
    let resume ← memRead va.toNat 16 plainQual
    let bs ← closing (sealWait resume)
    let stat := wordAt bs 0
    update fun s => s.modCore n fun c => { c with sr := { c.sr with rpstat := setField stat 8 1 0 } }
    setG d stat
    if trap && decide (field stat 0 4 = 4) then
      signalKept (if flag stat 8 then 0x30 else 0x2F) (word (field stat 16 16))
    else pure ()

/-- RPSEAL (R343, R344). -/
def execRpseal (d a : Reg) (s : State) : Host.Outcome State Fault Refusal := runMeaning (sealMeaning false d a) s

/-- RPSEAL.t (R343, R344). -/
def execRpsealT (d a : Reg) (s : State) : Host.Outcome State Fault Refusal := runMeaning (sealMeaning true d a) s

/-! ## SEAL_DECISION (R344, R345) -/

/-- The cores of a grid whose seals wait. -/
def State.waitingSeals (s : State) (g : Grid) : List Nat :=
  g.cores.filter fun n => match (s.core n).waits.sealOf with | some { phase := .waiting, .. } => true | _ => false

/-- A seal of a logical core is decided or over: RPSTAT of the core (of both of a pair), and the result for those
who wait. -/
def State.finishSeal (s : State) (gid n state count : Nat) : State :=
  let rpend := match s.grid gid with | some g => g.recov.rpend | none => false
  let f (c : Core) : Core :=
    let stat := rpstatWith c.sr.rpstat state (some count)
    let c : Core := { c with sr := { c.sr with rpstat := stat } }
    c.modSeal fun w => if w.ctxs.isEmpty then none else some { w with phase := .done (setField stat 8 1 rpend.toNat) }
  let checked := match s.grid gid with | some g => g.info.has .checked | none => false
  let s := s.modGridCore gid n f
  if checked then s.modGridCore gid (partnerOf n) f else s

/-- The wait for teams of a seal that another has held up begins (R344). -/
def Core.startTeamWait (first : Nat) (c : Core) : Core :=
  c.modSeal fun w => some { w with quantum := w.quantum <|> some first }

/-- A seal no longer commits: those that it has held up go on, on resident and saved cores. -/
def State.startTeamWaits (s : State) (gid : Nat) : State :=
  match s.grid gid with
  | none => s
  | some g =>
    let f := Core.startTeamWait (g.quantum + 1)
    let s := g.cores.foldl (fun s n => s.modCore n f) s
    s.modGrid gid fun g => { g with saved := g.saved.map fun p => (p.1, p.2.map f) }

/-- Must a seal still wait for teams that have not been resident (R168, R344)? -/
def SealWait.awaitsTeams (w : SealWait) (g : Grid) : Bool :=
  g.info.has .oversub && decide (g.recov.count < g.recov.expect) &&
    (w.quantum.isNone || !((List.range g.info.clusters).all fun t => w.residents.contains t))

/-- The cut (R345): each block that is pending now belongs to the closed set. -/
def State.cutSeal (s : State) (gid core : Nat) (w : SealWait) : State :=
  let n := s.lvlid0 core
  let s := s.modGrid gid fun g => { g with recov := { g.recov with
    sealer := some n, cut := g.recov.count, count := 0, resume := w.resume, prepared := [], commit := false } }
  let cnt := match s.grid gid with | some g => g.recov.cut | none => 0
  let s := s.modBlocks gid fun b => { b with inSet := b.pend }
  (s.modCore core fun c => c.modSeal fun w => some { w with phase := .committing cnt }).setSealState core 2

/-- The seals of a grid that can be decided now. -/
def State.ripeSeals (s : State) (g : Grid) : List Nat :=
  (s.waitingSeals g).filter fun n => match (s.core n).waits.sealOf with | some w => !w.awaitsTeams g | none => false

/-- SEAL_DECISION: the coordinator decides one waiting seal of a grid; of several, any. -/
def execSealDecision (grid : Nat) (s : State) : Host.Outcome State Fault Refusal :=
  match s.grid grid with
  | none => .next s
  | some g =>
    if g.recov.sealer.isSome || g.recov.restore then .next s
    else
      let ws := s.ripeSeals g
      match ws[Config.freeIndex s.fresh % Nat.max 1 ws.length]? with
      | none => .next s
      | some n =>
        let s := { s with fresh := s.fresh + 1 }
        match (s.core n).waits.sealOf with
        | none => .next s
        | some w =>
          if g.recov.rpend || decide (g.recov.count < g.recov.expect) then
            .next (s.finishSeal grid (s.lvlid0 n) 4 g.recov.count)
          else .next (s.cutSeal grid n w)

/-! ## The commit (R345) -/

/-- The bytes of a slot from an offset to its end at 64 KiB. -/
def fillSlot : List Host.Cell → Nat → List Byte
  | [], at_ => List.replicate (65536 - at_) 0
  | (o, b) :: rest, at_ => List.replicate (o - at_) 0 ++ b :: fillSlot rest (o + 1)

/-- A block put into a list that rises by address. -/
def insertBlock : List KeepBlock → KeepBlock → List KeepBlock
  | [], b => [b]
  | a :: rest, b => if b.pa < a.pa then b :: a :: rest else a :: insertBlock rest b

/-- The blocks of a controller in the closed set of a grid, by ascending address. -/
def Keep.setOf (k : Keep) (gid ctrl : Nat) : List KeepBlock :=
  (k.blocks.filter fun b => b.grid == gid && b.inSet && keepCtrl b.pa == ctrl).foldl insertBlock []

/-- The SET digest of a controller: each block's address and pending slot. -/
def setDigest (bs : List KeepBlock) : List Byte :=
  sm3 (bs.flatMap fun b => bytesOf 8 b.pa ++ fillSlot (if b.cur then b.slot0 else b.slot1) 0)

/-- A prepare record. -/
def prepareRecord (gid ctrl seq nblk : Nat) (digest : List Byte) : List Byte :=
  bytesOf 4 gid ++ [BitVec.ofNat 8 ctrl] ++ bytesOf 3 0 ++ bytesOf 8 seq ++ bytesOf 4 nblk ++ bytesOf 12 0 ++ digest

/-- Is a log entry the prepare record of a grid's sequence number? -/
def isPrepare (gid seq : Nat) (l : Nat × List Byte) : Bool :=
  l.2.length == 64 && natAt l.2 0 4 == gid && natAt l.2 8 8 == seq

/-- SEAL_PREPARE: a controller closes the set and writes its prepare record, over one of the same sequence. -/
def execSealPrepare (grid ctrl : Nat) (s : State) : Host.Outcome State Fault Refusal :=
  match s.grid grid with
  | none => .next s
  | some g =>
    let r := g.recov
    if r.sealer.isNone || r.commit || decide (12 ≤ ctrl) || r.prepared.any (fun p => p.1 == ctrl) then .next s
    else
      let set_ := s.keep.setOf grid ctrl
      let digest := setDigest set_
      let record := prepareRecord grid ctrl (r.seq + 1) set_.length digest
      let logs := s.keep.logs.filter fun l => !(l.1 == ctrl && isPrepare grid (r.seq + 1) l)
      let s := { s with keep := { s.keep with logs := logs ++ [(ctrl, record)] } }
      .next (s.modRecovery grid fun r => { r with prepared := r.prepared ++ [(ctrl, digest)] })

/-- The SET digests in the order of the controllers. -/
def Recovery.sets (r : Recovery) : List Byte :=
  (List.range 12).flatMap fun c => ((r.prepared.find? fun p => p.1 == c).map (·.2)).getD []

/-- A commit record. -/
def Recovery.commitRecord (r : Recovery) (gid : Nat) : List Byte :=
  bytesOf 4 gid ++ bytesOf 4 0 ++ bytesOf 8 (r.seq + 1) ++ slice r.digest 0 32 ++ sm3 r.sets ++ slice r.resume 0 16 ++
    bytesOf 32 0

/-- SEAL_COMMIT: once twelve controllers have answered, the coordinator writes the commit record. -/
def execSealCommit (grid : Nat) (s : State) : Host.Outcome State Fault Refusal :=
  match s.grid grid with
  | none => .next s
  | some g =>
    let r := g.recov
    if r.sealer.isSome && !r.commit && r.prepared.length == 12 then
      let record := r.commitRecord grid
      let s := { s with keep := { s.keep with logs := s.keep.logs ++ [(0, record)] } }
      .next (s.modRecovery grid fun r => { r with commit := true, last := record })
    else .next s

/-- A block of the closed set flips. -/
def KeepBlock.flip (b : KeepBlock) : KeepBlock :=
  if b.inSet then { b with cur := !b.cur, pend := false, inSet := false } else b

/-- SEAL_FLIP: the controllers flip the set, and the seal completes. -/
def execSealFlip (grid : Nat) (s : State) : Host.Outcome State Fault Refusal :=
  match s.grid grid with
  | none => .next s
  | some g =>
    match g.recov.sealer, g.recov.commit with
    | some n, true =>
      let s := s.modBlocks grid KeepBlock.flip
      let s := s.modRecovery grid fun r =>
        { r with seq := r.seq + 1, digest := sm3 r.last, sealer := none, commit := false, prepared := [] }
      .next ((s.finishSeal grid n 3 g.recov.cut).startTeamWaits grid)
    | _, _ => .next s

/-- SEAL_ABANDON: a controller cannot write its prepare record; the seal is refused, and its prepare records
stand as a torn recovery point. -/
def execSealAbandon (grid : Nat) (s : State) : Host.Outcome State Fault Refusal :=
  match s.grid grid with
  | none => .next s
  | some g =>
    match g.recov.sealer, g.recov.commit with
    | some n, false =>
      let s := s.modBlocks grid fun b => { b with inSet := false }
      let s := s.modRecovery grid fun r =>
        { r with count := saturate16 (r.count + r.cut), sealer := none, prepared := [] }
      .next ((s.finishSeal grid n 4 g.recov.cut).startTeamWaits grid)
    | _, _ => .next s

/-! ## RPRESTORE (R350) -/

/-- A channel as a restore leaves it: DONE = ISSUED. -/
def Chan.ended (k : Chan) : Chan := { k with done := k.issued, stall := false, dlv := false, fail := false, run := none }

/-- Nothing is waited for. -/
def CoreWaits.none_ : CoreWaits := { remote := [], atoms := [], rcRel := [], sealOf := none }

/-- The jobs, queues and buffers of a core that a restore ends (R350 steps 3, 4 and 6). -/
def Core.emptied (c : Core) : Core :=
  { c with
    mem := { c.mem with gate := [] }
    work := Work.reset
    inbox := []
    outbox := []
    fibres := []
    waits := CoreWaits.none_
    jobs := { c.jobs with chans := c.jobs.chans.map Chan.ended, fifo := [], packets := [] } }

/-- A core's work killed. -/
def Core.killed (c : Core) : Core :=
  let c := (c.emptied.setAct .h none).setAct .d none
  let c := c.endFiring
  if c.paired then
    { c with pair := { c.pair with ctl := setField c.pair.ctl 2 1 0, passed := Vector.replicate 3 [], again := false } }.openInterval
  else c

/-- The pages that a restore writes or reads: the first byte of each fibre slot, and the initial records. -/
structure RestorePages where
  heads   : List (List PagePart)
  records : List (List PagePart)
  deriving DecidableEq, Repr

/-- Pages, where the range translates. -/
def pagesOrNone (g : Gather (List PagePart)) : Except (State → State) (List PagePart) :=
  match g with
  | .ok l => .ok l
  | .error none => .ok []
  | .error (some f) => .error f

/-- The first bytes of the fibre slots of logical cores, or what must be awaited before they are known; a slot that
does not translate is left out (log 49). -/
def State.slotHeads (s : State) (v : Viewer) (i : LaunchInfo) (cores : List Nat) :
    Except (State → State) (List (List PagePart)) :=
  (cores.flatMap fun n => (List.range i.fibres).map fun f => fibreSlot i n f).mapM fun a =>
    pagesOrNone (s.gatherPages v true a 1)

/-- What a restore of a grid from a die reaches (R350): the initial records only where no point has been sealed. -/
def State.restorePages (s : State) (die : Nat) (g : Grid) : Except (State → State) RestorePages := do
  let v := launchViewer die g.info.asidReg
  let heads ← s.slotHeads v g.info (List.range (8 * g.info.clusters))
  let records ← if g.recov.seq ≠ 0 then pure []
    else g.info.stages.mapM fun st => if st.valid then pagesOrNone (s.gatherPages v false st.init.toNat (16 * st.count)) else pure []
  pure { heads := heads, records := records }

/-- VALID ← 0 in fibre slots, by the hardware of a core. -/
def State.clearFibres (s : State) (core : Nat) (heads : List (List PagePart)) : State :=
  heads.foldl (fun s l =>
    let b := (s.readReached (dieOf core) l).getD 0 0
    if flag b 0 then s.writeReached { core := core, ctx := .f } l [b &&& 0xFE] else s) s

/-- The stores of a grid's cores leave their buffers, as far as they may. -/
def State.drainGrid (s : State) (g : Grid) : State := g.cores.foldl (fun s n => s.drainAll n) s

/-- Step 3 and step 6: every firing, fibre and activation of a grid killed, deques and inboxes emptied. -/
def State.killGrid (s : State) (gid : Nat) (g : Grid) : State :=
  let s := g.cores.foldl (fun s n => s.modCore n Core.killed) (s.drainGrid g)
  let s := { s with net := s.net.filter fun m => m.grid != gid }
  s.modGrid gid fun g => { g with barriers := [], saved := g.saved.map fun p => (p.1, p.2.map Core.killed), stored := [] }

/-- Is a requester a transfer of a core of a cluster? -/
def Requester.copies (r : Requester) (cl : Nat) : Bool := match r with | .copy n _ => clusterOf n == cl | _ => false

/-- What the transfers of a cluster hold and have asked for is given up. -/
def State.dropCopies (s : State) (cl : Nat) : State :=
  let s := { s with
    claims := s.claims.filter fun c => !c.holder.copies cl
    fabric := { s.fabric with
      engine := s.fabric.engine.filter fun a => !a.who.copies cl
      pages := s.fabric.pages.map fun (p : Nat × Migration) =>
        (p.1, { p.2 with refused := p.2.refused.filter fun r => !r.copies cl
                         waiting := p.2.waiting.filter fun r => !r.copies cl }) } }
  s.modCluster cl fun c => { c with fails := c.fails.filter fun f => !f.1.copies cl }

/-- Step 4: every engine job of a grid discarded. -/
def State.discardJobs (s : State) (g : Grid) : State :=
  g.place.foldl (fun s p =>
    let s := (s.cluster p.2).bse.foldl (fun s j => s.finishBse p.2 j (discardedEnd j.result)) s
    (s.discardGre p.2 fun _ => true).dropCopies p.2) s

/-- The home memory of a block replaced by its current slot. -/
def rollHome (mem : List Host.Cell) (b : KeepBlock) : List Host.Cell :=
  let slot := if b.cur then b.slot1 else b.slot0
  slot.foldr (fun c m => memSet m (b.pa + c.1) c.2) (mem.filter fun c => decide (c.1 < b.pa ∨ b.pa + 65536 ≤ c.1))

/-- The lines of a block leave every cache and RDC. -/
def State.dropBlock (s : State) (pa : Nat) : State :=
  let inside (line : Nat) : Bool := decide (pa / 128 ≤ line ∧ line < pa / 128 + 512)
  let s := (List.range 4).foldl (fun s d => s.modDie d fun x => { x with rdc := x.rdc.filter fun p => !inside p.1 }) s
  { s with
    poison := clearPoison s.poison pa 65536
    caches := { s.caches with
      l1 := s.caches.l1.filter fun t => !inside t.2.2.2
      cluster := s.caches.cluster.filter fun p => !inside p.2
      l2 := s.caches.l2.filter fun p => !inside p.2
      rrc := s.caches.rrc.filter fun p => !inside p.2
      param := s.caches.param.filter fun p => !inside p.2 } }

/-- A block rolled back, where it is pending. -/
def KeepBlock.rollBack (b : KeepBlock) : KeepBlock :=
  if b.pend then (if b.cur then { b with pend := false, slot0 := [] } else { b with pend := false, slot1 := [] }) else b

/-- Step 5: writes under way reach their slots; each pending block is rolled back; torn prepare records go.
Whether a torn point was found. -/
def State.rollBack (s : State) (gid seq : Nat) : State × Bool :=
  let msgs := s.keep.msgs.filter fun m => m.grid == gid
  let s := { s with keep := msgs.foldl Keep.apply s.keep }
  let pending := s.keep.blocks.filter fun b => b.grid == gid && b.pend
  let s := { s with mem := pending.foldl rollHome s.mem }
  let s := pending.foldl (fun s b => s.dropBlock b.pa) s
  let torn := s.keep.logs.any (isPrepare gid (seq + 1))
  let s := s.modBlocks gid KeepBlock.rollBack
  ({ s with keep := { s.keep with logs := s.keep.logs.filter fun l => !isPrepare gid (seq + 1) l } }, torn)

/-- Step 8: the resume record of the last commit record, pushed by a release at system scope, or the initial records. -/
def State.replay (s : State) (gid : Nat) (g : Grid) (records : List (List PagePart)) : State :=
  let s := (List.range 4).foldl (fun s d => s.writeBackRdc d) s
  let r := g.recov
  if r.seq = 0 then s.dealInitial gid records
  else
    s.deliverRecord gid 0 g.info.rres
      { w0 := wordAt r.last 80, w1 := wordAt r.last 88, pinned := g.info.has .pinned }

/-- May a grid be stopped now: with its engine jobs discarded, do all stores leave the store buffers (R350 step 3)? -/
def State.mayStop (s : State) (g : Grid) : Bool :=
  let t := (s.discardJobs g).drainGrid g
  g.cores.all fun n => (t.core n).mem.buffer.isEmpty

/-- Steps 3 to 8 of RPRESTORE by a core, and its result: claims go before the stores that wait for them are performed. -/
def State.restoreGrid (s : State) (core gid : Nat) (g : Grid) (p : RestorePages) : State × Nat :=
  let s := ((s.discardJobs g).killGrid gid g).clearFibres core p.heads
  let (s, torn) := s.rollBack gid g.recov.seq
  let s := s.modRecovery gid fun r => { r with count := 0, rpend := false, restore := false }
  ((s.replay gid g p.records).forgetLaunch (dieOf core), torn.toNat + (if g.recov.seq = 0 then 2 else 0))

/-- The result of RPRESTORE where it comes to be: a wait for a seal that commits, for walks, or for stores behind the
lines of other jobs; BADGRID, or the restore. -/
def restoreWait (gid : Nat) : M (List Byte) := do
  let (n, _) ← self
  let s ← get
  match s.grid gid with
  | none => pure [4]
  | some g =>
    if !g.info.has .recoverable then pure [4]
    else if g.recov.sealer.isSome then waitDo fun s => s.modRecovery gid fun r => { r with restore := true }
    else
      match s.restorePages (dieOf n) g with
      | .error f => waitDo fun s => f (s.modRecovery gid fun r => { r with restore := true })
      | .ok p =>
        if !s.mayStop g then waitDo fun s => (s.drainGrid g).modRecovery gid fun r => { r with restore := true }
        else do
          let (t, r) := s.restoreGrid n gid g p
          set t
          pure [BitVec.ofNat 8 r]

/-- RPSTAT after a restore (R340, R350 step 7). -/
def Core.noteRestore (c : Core) (r : Nat) : Core :=
  { c with sr := { c.sr with rpstat := setField (setField c.sr.rpstat 0 4 5) 7 1 (r % 2) } }

/-- A restore on the executing core: RPSTAT. Where its own grid was restored, the restore has killed what ran there,
RPRESTORE included (R350 step 3; DEDUCED, log 37): a partner has nothing left to take. -/
def State.noteRestore (s : State) (n gid r : Nat) : State :=
  if (s.core n).ident.grid = some gid then
    s.onPair n fun s k => s.modCore k fun c =>
      let c := c.noteRestore r
      { c with pair := { c.pair with passed := Vector.replicate 3 [] } }
  else s.modCore n fun c => c.noteRestore r

/-- RPRESTORE (R343, R350). -/
def execRprestore (d a : Reg) (s : State) : Host.Outcome State Fault Refusal :=
  runMeaning (after 4 do
    start .recovery [d, a]
    privileged
    let v ← getG a
    let (n, _) ← self
    let bs ← closing (restoreWait (field v 0 32))
    let r := natAt bs 0 1
    if r = 4 then pure () else update fun s => s.noteRestore n (field v 0 32) r
    setG d (word r)) s

end Sys2Proof.Machine
end

