-- ==== Sys2Proof/Machine/Fibre.lean ====
section
/-! DEFINITION. Fibres (R164, R165, R184, R307): FRESUME, and a firing that continues after its BSE jobs have been
discarded. -/

namespace Sys2Proof.Machine

/-! ## Firings after a swap (R296, R307) -/

/-- BSTAT after a swap discarded the jobs of a firing with a label. -/
def discardedStat : Word := word (3 * 2 ^ 16 + 2 ^ 8)

/-- Has F's firing in fact retired: its streams have executed FEND and its queues are empty (R152)? -/
def Core.spent (c : Core) : Bool := !c.fc.inTrap && c.allEnded && c.queuesEmpty

/-- F's firing after a swap discarded its BSE jobs: where it held the BSE and has a label, the C-stream resumes there (in
a handler, when it returns: log 76); without a label it takes 0x23. A firing that has retired is left alone (R314). -/
def Core.restored (c : Core) : Core :=
  if c.fIdle || !c.f.holdsBse || c.spent then c
  else
    match c.f.rstLabel with
    | none => c.notify 0x23 0
    | some l =>
      let at_ := word (2 * l)
      let c : Core := { c with sr := { c.sr with bstat := discardedStat }, f := { c.f with cEnded := false } }
      if c.fc.inTrap then
        if field c.fc.cause 8 2 = 0 then { c with fc := { c.fc with epc := setField 0 1 15 (field at_ 1 15) } }
        else { c with f := { c.f with heldPc := at_ } }
      else { c with fc := { c.fc with pc := at_ } }

/-- The physical address of byte `o` of a fibre's slot, as its pages lay when it was saved. -/
def Fibre.paAt (k : Fibre) (o : Nat) : Nat :=
  let r := k.slot % 4096
  let i := (r + o) / 4096
  k.pages.getD i 0 + if i = 0 then o else (r + o) % 4096

/-! ## FRESUME (R184) -/

/-- A stream as a fibre slot holds it: 16 registers, an offset, and whether it ended. -/
def fibreStream (bs : List Byte) (o pc : Nat) (ended : Bool) : StreamState :=
  { g := Vector.ofFn fun i : Fin 16 => wordAt bs (o + 8 * i.val), pc := word pc, ended := ended, walk := none }

/-- Queue `q` as a fibre slot holds it. -/
def fibreQueue (bs : List Byte) (q : Nat) : List QEntry :=
  (List.range (natAt bs 0x300 8 / 16 ^ q % 16)).map fun e =>
    if natAt bs 0x308 8 / 2 ^ (8 * q + e) % 2 = 1 then .mark
    else .data (vwordOf (slice bs (0x2000 + 1024 * q + 128 * e) 128))

/-- F's context as a fibre slot holds it (R164): at U, out of any handler. -/
def Context.ofFibre (c : Context) (bs : List Byte) : Context :=
  { c with
    g := Vector.ofFn fun i : Fin 32 => if i.val = 0 then 0 else wordAt bs (0x80 + 8 * i.val)
    v := Vector.ofFn fun i : Fin 32 => vwordOf (slice bs (0x1000 + 128 * i.val) 128)
    pc := word (natAt bs 0x10 2)
    fpstat := word (natAt bs 0x18 1 % 64)
    frm := word (natAt bs 0x19 1 % 8)
    status := setField c.status 10 2 0
    inTrap := false }

/-- The MLD index of an `m` register as a fibre slot holds it. -/
def fibreIndex (bs : List Byte) (i : Nat) : Option Nat :=
  let x := natAt bs (0x70 + i) 1
  if x = 0xFF then none else some (x % 8)

/-- FIRE without its reserved bits (R42). -/
def fireMask : Word := 0xFFFFFFFF3F

/-- The firing state as a fibre slot holds it (R164), with what the fibre kept elsewhere. -/
def FState.ofFibre (bs : List Byte) (shape : Nat → MWord) (k : Fibre) : FState :=
  let ended := natAt bs 0x16 1
  let label := natAt bs 0x80 8
  { l := fibreStream bs 0x200 (natAt bs 0x12 2) (ended / 2 % 2 == 1)
    s := fibreStream bs 0x280 (natAt bs 0x14 2) (ended / 4 % 2 == 1)
    k := Vector.ofFn fun i : Fin 8 =>
      if i.val = 0 then BitVec.allOnes 128 else BitVec.ofNat 128 (natAt bs (0x170 + 16 * i.val) 16)
    m := Vector.ofFn fun i : Fin 16 => match fibreIndex bs i.val with | some x => shape x | none => 0
    mIdx := Vector.ofFn fun i : Fin 16 => fibreIndex bs i.val
    bs := Vector.ofFn fun i : Fin 16 => BitVec.ofNat 32 (natAt bs (0x30 + 4 * i.val) 4)
    q := Vector.ofFn fun i : Fin 8 => fibreQueue bs i.val
    srseed := wordAt bs 0x20
    fire := wordAt bs 0x28 &&& fireMask
    cEnded := ended % 2 == 1
    held := false
    heldPc := 0
    rstLabel := if label % 2 = 1 then some (label / 2 % 2 ^ 15) else none
    holdsBse := label / 2 ^ 16 % 2 == 1
    pushes := k.pushes
    bars := k.bars
    stalls := Vector.replicate 3 none }

/-- What a core keeps of the fibre in a slot. -/
def Core.fibreAt (c : Core) (slot : Nat) : Fibre :=
  (c.fibres.find? fun f => f.slot == slot).getD
    { slot := slot, fire := 0, pages := [], noticed := true, label := none, bse := false
      gone := false, bars := [], pushes := Vector.replicate 16 0, bstat := c.sr.bstat }

/-- A fibre restored into F (R184), after the firing that resumed it has retired. -/
def State.resumeFibre (s : State) (n slot : Nat) (bs : List Byte) (shape : Nat → MWord) : State :=
  (s.endFiring n).modCore n fun c =>
    let k := c.fibreAt slot
    let f := FState.ofFibre bs shape k
    let c : Core := { c with
      fc := c.fc.ofFibre bs
      f := f
      firing := .slot (field f.fire 0 4)
      sr := { c.sr with bstat := k.bstat }
      fibres := c.fibres.filter fun f => f.slot != slot }
    if k.gone then c.restored else c

/-- The slot addresses of a core (R164). -/
def State.fibreSlots (s : State) (n : Nat) : List Nat :=
  match s.infoOf n with
  | some i => (List.range i.fibres).map fun f => fibreSlot i (s.lvlid0 n) f
  | none => []

/-- A part of a range as a piece of an access. -/
def PagePart.piece (p : PagePart) : Piece := { off := p.off, len := p.len, spot := .at_ (.mem p.pa) p.rc p.uncached }

/-- The 16 KiB of a fibre slot, and the pages that hold them. A slot that does not translate is none of the core's
(DESIGN CHOICE, log 49). -/
def readFibre (va : Word) : M (List PagePart × List Byte) := do
  let (n, x) ← self
  let s ← get
  match s.reach (s.fibreViewer n x) true va.toNat 16384 with
  | .ask f => waitDo f
  | .bad => signal 0x13 va
  | .pages l => do
    let ps := l.map PagePart.piece
    waitClaims ps
    checkPoison va.toNat ps
    let bs ← readPieces va.toNat ps
    pure (l, bs)

/-- The checks of FRESUME, and VALID ← 0, behind the stores of its core: the bytes of the slot. With a streaming GEXP of
the firing outstanding the firing does not retire: the job is discarded, and F raises 0x09 (R268). -/
def takeFibre (va : Word) : M (List Byte) := do
  let (n, x) ← self
  let s ← get
  require ((s.fibreSlots n).contains va.toNat) 0x13 va
  releaseToStreams
  let (l, bs) ← readFibre va
  require (natAt bs 0 1 % 2 == 1) 0x13 va
  let c := s.core n
  require (c.f.l.ended && c.f.s.ended && c.queuesEmpty) 0x09
  (if s.firingStreams n then
      signalDo (fun s => s.discardStreams (clusterOf n) fun j => j.streams && j.cap.ofFiring s n) 0x09 0
    else pure ())
  update fun s => s.writeReached { core := n, ctx := x } ((l.take 1).map fun p => { p with len := 1 })
    [bs.getD 0 0 &&& 0xFE]
  pure bs

/-- The `m` registers that a fibre reloads from the launch area (R164, R184). -/
def loadShapes (bs : List Byte) : M (List (Nat × MWord)) :=
  ((List.range 16).filterMap (fibreIndex bs)).eraseDups.mapM fun i => do
    let v ← loadShape i
    pure (i, v)

/-- FRESUME (R184): its slot is one of this core's, and valid (0x13); the other streams have ended and the
queues are empty (0x09). It retires the firing, which closes the interval of a pair (R368). -/
def execFresume (a : Reg) (s : State) : Host.Outcome State Fault Refusal :=
  runMeaning (do
    start .launch [a]
    let (n, _) ← self
    let va ← getG a
    let bs ← closing (takeFibre va)
    let shapes ← loadShapes bs
    update fun s =>
      (s.resumeFibre n va.toNat bs fun i => ((shapes.find? fun p => p.1 == i).map (·.2)).getD 0).modCore n
        fun c => c.countPaired .f
    leave) s

end Sys2Proof.Machine
end

