-- ==== Sys2Proof/Machine/SwapArea.lean ====
section
/-! DEFINITION. The swap area of a launch (R158, R162): what a team's 4 MiB hold of its eight cores, written when it is
swapped out and read when it is restored. The spec does not give the layout (DESIGN CHOICE, log 94): 512 KiB for each
core, the scratchpad first, then the record store, F with its firing and queues, and the three instruction stores. -/

namespace Sys2Proof.Machine

/-- Bytes of a team in the swap area. -/
def teamBytes : Nat := 2 ^ 22

/-- Bytes of a core in the swap area. -/
def coreBytes : Nat := 2 ^ 19

/-! ## Fields -/

/-- A field of a core's state: offset, bytes, value. -/
structure SwapField where
  off   : Nat
  len   : Nat
  value : Nat
  deriving DecidableEq, Repr

/-- The bytes of a field that differ from what nothing has written. -/
def SwapField.cells (f : SwapField) : List Host.Cell :=
  if f.value = 0 ∧ Config.unwrittenByte = 0 then []
  else (bytesOf f.len f.value).zipIdx.filterMap fun p => if p.1 = Config.unwrittenByte then none else some (f.off + p.2, p.1)

/-- Values of one width that stand one after another. -/
def swapRow (off len : Nat) (l : List Nat) : List SwapField :=
  l.zipIdx.map fun p => { off := off + len * p.2, len := len, value := p.1 }

/-- A record in the record store; a pinned one is marked in the bitmap. -/
def recordValue (r : Rec) : Nat := r.w0.toNat + r.w1.toNat * 2 ^ 64

/-- A number with bit `i` set where the condition holds at `i`. -/
def bitsWhere (l : List Bool) : Nat := sumNat (l.zipIdx.map fun p => p.1.toNat * 2 ^ p.2)

/-- The flags of F's firing. -/
def swapFlags (c : Core) : Nat :=
  bitsWhere [c.fc.inTrap, c.f.cEnded, c.f.l.ended, c.f.s.ended, c.f.held, c.f.holdsBse] +
    (match c.f.rstLabel with | some l => 2 ^ 8 + l * 2 ^ 16 | none => 0)

/-- The scalars of F and its firing. -/
def swapScalars (c : Core) : List Nat :=
  [c.fc.pc, c.fc.status, c.fc.fpstat, c.fc.frm, c.fc.epc, c.fc.cause, c.fc.tval, c.f.l.pc, c.f.s.pc, c.f.srseed, c.f.fire,
    c.f.heldPc].map (·.toNat) ++ [swapFlags c]

/-- The entries of a queue, eight of them; a mark reads zero. -/
def swapQueue (q : List QEntry) : List Nat :=
  (List.range 8).map fun i => match q.getD i .mark with | .data v => v.toNat | .mark => 0

/-- The fields of a core beyond its scratchpad, by rising offset. -/
def Core.swapFields (c : Core) : List SwapField :=
  let recs := c.work.deques.toList.flatten
  swapRow 0x60000 8 (c.work.deques.toList.map (·.length)) ++
    swapRow 0x60080 64 [bitsWhere (recs.map (·.pinned))] ++
    swapRow 0x60100 16 (recs.map recordValue) ++
    swapRow 0x62400 8 (c.fc.g.toList.map (·.toNat)) ++
    swapRow 0x62500 8 (c.f.l.g.toList.map (·.toNat) ++ c.f.s.g.toList.map (·.toNat)) ++
    swapRow 0x62600 16 (c.f.k.toList.map (·.toNat)) ++
    swapRow 0x62700 32 (c.f.m.toList.map (·.toNat)) ++
    swapRow 0x62900 4 (c.f.bs.toList.map (·.toNat)) ++
    swapRow 0x62980 8 (swapScalars c) ++
    swapRow 0x62A00 8 [sumNat (c.f.q.toList.zipIdx.map fun p => p.1.length * 16 ^ p.2),
      bitsWhere ((List.range 64).map fun b => isMarkAt (c.f.q.get (ix 7 (b / 8))) (b % 8))] ++
    swapRow 0x63000 128 (c.fc.v.toList.map (·.toNat)) ++
    swapRow 0x64000 128 (c.f.q.toList.flatMap swapQueue) ++
    swapRow 0x68000 2 (c.stores.c.map (·.toNat)) ++
    swapRow 0x78000 2 (c.stores.l.map (·.toNat)) ++
    swapRow 0x7C000 2 (c.stores.s.map (·.toNat))

/-- What the swap area holds of a core: bytes by offset, in canonical form. -/
def Core.swapImage (c : Core) : List Host.Cell := c.mem.scratch ++ c.swapFields.flatMap SwapField.cells

/-- Cells moved up by an offset. -/
def shiftUp (n : Nat) (l : List Host.Cell) : List Host.Cell := l.map fun c => (c.1 + n, c.2)

/-- Cells of a range, from its start on. -/
def cellsIn (lo len : Nat) (l : List Host.Cell) : List Host.Cell :=
  (l.filter fun c => decide (lo ≤ c.1 ∧ c.1 < lo + len)).map fun c => (c.1 - lo, c.2)

/-- What the swap area holds of a team. -/
def teamImage (cores : List Core) : List Host.Cell :=
  cores.zipIdx.flatMap fun p => shiftUp (coreBytes * p.2) p.1.swapImage

/-- The poisoned words of a team's scratchpads, by word of its part of the swap area. -/
def teamPoison (cores : List Core) : List Nat :=
  cores.zipIdx.flatMap fun p => p.1.mem.poison.map (· + coreBytes / 8 * p.2)

/-! ## Reading a core back -/

/-- A field as cells hold it. -/
def fieldOf (cells : List Host.Cell) (off len : Nat) : Nat :=
  natOf (memGetList (cellsIn off len cells) 0 len)

/-- Values of one width as cells hold them. -/
def rowOf (cells : List Host.Cell) (off len n : Nat) : List Nat :=
  (List.range n).map fun i => fieldOf cells (off + len * i) len

/-- Words of a vector as cells hold them. -/
def vectorOf {w n : Nat} (cells : List Host.Cell) (off len : Nat) : Vector (BitVec w) n :=
  Vector.ofFn fun i : Fin n => BitVec.ofNat w (fieldOf cells (off + len * i.val) len)

/-- Scalar `i` as cells hold it. -/
def scalarOf (cells : List Host.Cell) (i : Nat) : Word := word (fieldOf cells (0x62980 + 8 * i) 8)

/-- F as the swap area holds it. -/
def Context.ofSwap (c : Context) (cells : List Host.Cell) : Context :=
  { c with
    g := vectorOf cells 0x62400 8
    v := vectorOf cells 0x63000 128
    pc := scalarOf cells 0
    status := scalarOf cells 1
    fpstat := scalarOf cells 2
    frm := scalarOf cells 3
    epc := scalarOf cells 4
    cause := scalarOf cells 5
    tval := scalarOf cells 6
    inTrap := flag (scalarOf cells 12) 0 }

/-- Queue `q` as the swap area holds it. -/
def queueOfSwap (cells : List Host.Cell) (q : Nat) : List QEntry :=
  (List.range (fieldOf cells 0x62A00 8 / 16 ^ q % 16)).map fun e =>
    if fieldOf cells 0x62A08 8 / 2 ^ (8 * q + e) % 2 = 1 then .mark
    else .data (BitVec.ofNat 1024 (fieldOf cells (0x64000 + 1024 * q + 128 * e) 128))

/-- F's firing as the swap area holds it. -/
def FState.ofSwap (f : FState) (cells : List Host.Cell) : FState :=
  let fl := scalarOf cells 12
  { f with
    l := { f.l with g := vectorOf cells 0x62500 8, pc := scalarOf cells 7, ended := flag fl 2 }
    s := { f.s with g := vectorOf cells 0x62580 8, pc := scalarOf cells 8, ended := flag fl 3 }
    k := vectorOf cells 0x62600 16
    m := vectorOf cells 0x62700 32
    bs := vectorOf cells 0x62900 4
    q := Vector.ofFn fun i : Fin 8 => queueOfSwap cells i.val
    srseed := scalarOf cells 9
    fire := scalarOf cells 10
    cEnded := flag fl 1
    held := flag fl 4
    heldPc := scalarOf cells 11
    rstLabel := if flag fl 8 then some (field fl 16 15) else none
    holdsBse := flag fl 5 }

/-- Record `i` as the swap area holds it. -/
def recordOfSwap (cells : List Host.Cell) (i : Nat) : Rec :=
  let x := fieldOf cells (0x60100 + 16 * i) 16
  { w0 := word x, w1 := word (x / 2 ^ 64), pinned := fieldOf cells 0x60080 64 / 2 ^ i % 2 == 1 }

/-- A deque of a restored core: what has been added since it was saved stands before what the swap area holds (R162). -/
def dequeOfSwap (cells : List Host.Cell) (d : List Rec) (k : Nat) : List Rec :=
  let lens := rowOf cells 0x60000 8 16
  let n := lens.getD k 0
  let first := sumNat (lens.take k)
  if n ≤ d.length then d.take (d.length - n) ++ (List.range n).map fun i => recordOfSwap cells (first + i) else d

/-- An instruction store of the same size as the swap area holds it. -/
def storeOfSwap (cells : List Host.Cell) (off : Nat) (l : List Half) : List Half :=
  (rowOf cells off 2 l.length).map (BitVec.ofNat 16)

/-- A core as the swap area holds it; the rest is as the scheduler has kept it. -/
def Core.ofSwap (c : Core) (cells : List Host.Cell) (poison : List Nat) : Core :=
  { c with
    fc := c.fc.ofSwap cells
    f := c.f.ofSwap cells
    work := { c.work with deques := Vector.ofFn fun i : Fin 16 => dequeOfSwap cells (c.work.deques.get i) i.val }
    stores := { c := storeOfSwap cells 0x68000 c.stores.c, l := storeOfSwap cells 0x78000 c.stores.l
                s := storeOfSwap cells 0x7C000 c.stores.s }
    mem := { c.mem with scratch := cellsIn 0 Config.scratchBytes cells, poison := poison } }

/-! ## Memory -/

/-- The pages of a team's part of the swap area, as the scheduler of the die of a cluster reaches them. -/
def State.swapPages (s : State) (i : LaunchInfo) (team cl : Nat) (store : Bool) : Gather (List PagePart) :=
  s.gatherPages (launchViewer (dieOfCluster cl) i.asidReg) store (i.swap.toNat + teamBytes * team) teamBytes

/-- Parts whose bytes follow one another in memory put together. -/
def coalesce : List PagePart → List PagePart
  | p :: rest =>
    match coalesce rest with
    | q :: l => if p.pa + p.len = q.pa ∧ p.rc = q.rc then { p with len := p.len + q.len } :: l else p :: q :: l
    | [] => [p]
  | [] => []

/-- The home memory of a range replaced by cells. -/
def memReplace (m : List Host.Cell) (pa len : Nat) (cells : List Host.Cell) : List Host.Cell :=
  cells.foldl (fun m c => memSet m (pa + c.1) c.2) (m.filter fun c => !decide (pa ≤ c.1 ∧ c.1 < pa + len))

/-- One part of an image written at its home, with its poison; a page that recovery covers goes on to the Keep. -/
def State.writeImage (s : State) (image : List Host.Cell) (poison : List Nat) (p : PagePart) : State :=
  let part := cellsIn p.off p.len image
  let s := if p.rc then s.writeRc none none p.pa (memGetList part 0 p.len) else s
  let s := { s with mem := memReplace s.mem p.pa p.len part, poison := clearPoison s.poison p.pa p.len }
  let bad := poison.filter fun w => decide (p.off ≤ 8 * w ∧ 8 * w < p.off + p.len)
  let s := { s with poison := bad.foldl (fun l w => insertNat l ((p.pa + 8 * w - p.off) / 8)) s.poison }
  { s with caches := { s.caches with
      rrc := s.caches.rrc.filter fun t => decide (128 * t.2 + 128 ≤ p.pa ∨ p.pa + p.len ≤ 128 * t.2)
      param := s.caches.param.filter fun t => decide (128 * t.2 + 128 ≤ p.pa ∨ p.pa + p.len ≤ 128 * t.2) } }

/-- A team written to its part of the swap area (R162 step 5). -/
def State.storeTeam (s : State) (l : List PagePart) (cores : List Core) : State :=
  (coalesce l).foldl (fun s p => s.writeImage (teamImage cores) (teamPoison cores) p) s

/-- The cells of a team's part of the swap area. -/
def State.areaCells (s : State) (l : List PagePart) : List Host.Cell :=
  (coalesce l).flatMap fun p => shiftUp p.off (cellsIn p.pa p.len s.mem)

/-- The poisoned words of a team's part of the swap area. -/
def State.areaPoison (s : State) (l : List PagePart) : List Nat :=
  (coalesce l).flatMap fun p =>
    (s.poison.filter fun w => decide (p.pa ≤ 8 * w ∧ 8 * w < p.pa + p.len)).map fun w => (8 * w - p.pa + p.off) / 8

/-- The cores of a team as its part of the swap area holds them. -/
def State.readTeam (s : State) (l : List PagePart) (cores : List Core) : List Core :=
  let cells := s.areaCells l
  let bad := s.areaPoison l
  cores.zipIdx.map fun p =>
    let lo := coreBytes / 8 * p.2
    p.1.ofSwap (cellsIn (coreBytes * p.2) coreBytes cells)
      ((bad.filter fun w => decide (lo ≤ w ∧ w < lo + Config.scratchBytes / 8)).map (· - lo))

end Sys2Proof.Machine
end

