-- ==== Sys2Proof/Machine/Swap.lean ====
section
/-! DEFINITION. Team swapping (R15, R161, R162, R275, R294, R296, R307, R334): the boundary of a quantum, the end of a
drain, a team swapped out, a team restored. The two teams of a pair leave and come together. -/

namespace Sys2Proof.Machine

/-! ## QUANTUM_BOUNDARY (R161) -/

/-- Have the swaps of the current quantum been carried out: exactly its teams are resident? -/
def Grid.settled (g : Grid) : Bool :=
  (g.place.all fun p => g.resident p.1) &&
    (List.range (Nat.min g.granted.length g.info.clusters)).all fun i =>
      let t := (g.quantum * g.granted.length + i) % g.info.clusters
      (sget g.place t).isSome

/-- A seal that waits learns which teams have been resident through a complete quantum (R168, R344). -/
def SealWait.pass (w : SealWait) (quantum : Nat) (teams : List Nat) : SealWait :=
  match w.phase, w.quantum with
  | .waiting, some q => if q ≤ quantum then { w with residents := teams.foldl insertNat w.residents } else w
  | _, _ => w

/-- A core's waiting seal passes a boundary. -/
def Core.passQuantum (quantum : Nat) (teams : List Nat) (c : Core) : Core :=
  { c with waits := { c.waits with sealOf := c.waits.sealOf.map fun w => w.pass quantum teams } }

/-- QUANTUM_BOUNDARY: the next quantum of a grid begins, once the swaps of the last have been carried out. Its
teams that are resident already stay; the others leave by TEAM_SWAP_OUT and come by TEAM_RESTORE. -/
def execQuantumBoundary (grid : Nat) (s : State) : Host.Outcome State Fault Refusal :=
  match s.grid grid with
  | none => .next s
  | some g =>
    if !g.settled then .next s
    else
      let teams := g.place.map (·.1)
      let f := Core.passQuantum g.quantum teams
      let s := g.cores.foldl (fun s n => s.modCore n f) s
      .next (s.modGrid grid fun g => { g with
        quantum := g.quantum + 1
        saved := g.saved.map fun p => (p.1, p.2.map f) })

/-! ## Stopping a team (R162) -/

/-- The cores of a cluster. -/
def clusterCores (cl : Nat) : List Nat := (List.range 8).map fun j => 8 * cl + j

/-- Is a landing packet of a core's transfers being handled: its activation runs, or the word that it has ended is
still to leave (R334)? -/
def State.landingFrom (s : State) (core : Nat) : Bool :=
  s.cores.any fun (p : Nat × Core) =>
    (match p.2.dAct with | some { trigger := .packet k, .. } => k.core == core | _ => false) ||
      p.2.outbox.any fun o => match o.item with | .landed k => k.core == core | _ => false

/-- Has a leaving team stopped: its activations and those that its own transfers land with have finished, its pairs'
intervals have agreed, its gated stores have left? -/
def State.stopped (s : State) (cl : Nat) : Bool :=
  (clusterCores cl).all fun n =>
    let c := s.core n
    c.hAct.isNone && c.dAct.isNone && !c.intervalOpen && c.mem.gate.isEmpty && !s.landingFrom n

/-- The cluster of a leaving team. -/
def State.leavingFrom (s : State) (grid team : Nat) : Option (Grid × Nat) :=
  match s.grid grid with
  | none => none
  | some g => if g.resident team then none else (sget g.place team).map fun cl => (g, cl)

/-- The teams that come and go with a team: where a level is bound to the cluster-pair domain, both teams of its pair
(R294). -/
def LaunchInfo.unit (i : LaunchInfo) (team : Nat) : List Nat :=
  if i.levels.any fun l => l.1 == 2 then [team / 2 * 2, team / 2 * 2 + 1] else [team]

/-- The leaving teams that go with a team, each with its cluster. -/
def State.leavingUnit (s : State) (grid team : Nat) : List (Nat × Nat) :=
  match s.leavingFrom grid team with
  | none => []
  | some (g, _) => (g.info.unit team).filterMap fun t => (sget g.place t).map fun cl => (t, cl)

/-- A queue of a firing holds one mark (R275); the state to which its pair rolls back is the same. -/
def Core.onlyMark (c : Core) (q : QReg) : Core :=
  let c := c.setQueue q [.mark]
  if c.paired then c.openInterval else c

/-- The mark in the slot of a fibre (R164): a count of 1, the mark bit of entry 0 alone. -/
def State.markSlot (s : State) (k : Fibre) (q : QReg) : State :=
  if k.pages.isEmpty then s
  else
    let pa := k.paAt 0x300
    let old := memGetList s.mem pa 16
    let n := natAt old 0 8
    let m := natAt old 8 8
    let i := q.val
    let n := n - (n / 16 ^ i % 16) * 16 ^ i + 16 ^ i
    let m := m - (m / 2 ^ (8 * i) % 256) * 2 ^ (8 * i) + 2 ^ (8 * i)
    s.writeRc none none pa (bytesOf 8 n ++ bytesOf 8 m)

/-- A discarded queue GEXP leaves its queue holding one mark: the queue of F's firing, or of a fibre. -/
def State.markQueue (s : State) (j : GreJob) : State :=
  match j.cmd with
  | .expand (.queue q) =>
    let n := j.cap.core
    if j.cap.ofFiring s n then s.onPair n fun s k => s.modCore k fun c => c.onlyMark q
    else
      match (s.core n).fibres.find? fun f => f.fire == j.cap.fire && !f.pages.isEmpty with
      | some f => s.markSlot f q
      | none => s
  | _ => s

/-- Every GRE job of a cluster is discarded. -/
def State.discardAllGre (s : State) (cl : Nat) : State :=
  ((s.cluster cl).gre.foldl (fun s j => s.markQueue j) s).discardStreams cl fun _ => true

/-- GRE_DRAIN_EXPIRY (R275): 50 µs after a leaving team has stopped, its GRE jobs are discarded. -/
def execGreDrainExpiry (grid team : Nat) (s : State) : Host.Outcome State Fault Refusal :=
  match s.leavingFrom grid team with
  | none => .next s
  | some (_, cl) => if s.stopped cl then .next (s.discardAllGre cl) else .next s

/-! ## TEAM_SWAP_OUT (R162, R296, R334) -/

/-- Have the GRE jobs drained, all remote accesses and Keep writes of a team been answered, and all its stores and items
left? -/
def State.drained (s : State) (cl : Nat) : Bool :=
  let mine (core : Nat) : Bool := clusterOf core == cl
  (s.cluster cl).gre.isEmpty && !(s.fabric.reqs.any fun r => mine r.src.core) &&
    !(s.keep.msgs.any fun m => (match m.src with | some i => mine i.core | none => false) ||
      (match m.job with | some r => r.cluster == cl | none => false)) &&
    (clusterCores cl).all fun n => (s.core n).mem.buffer.isEmpty && (s.core n).outbox.isEmpty

/-- The atomics that wait in the inboxes of a team are performed (R162). -/
def State.performAtomics (s : State) (core : Nat) : State :=
  ((s.core core).inbox.filter fun i => match i.kind with | .atomic _ _ => true | _ => false).foldl (fun s i =>
    match i.kind with
    | .atomic off n =>
      let s := s.modCore core fun c => { c with inbox := c.inbox.erase i }
      match s.poisonIn core (.scratch core off) n with
      | some k => s.answerAtom i (.error (s.atomVa i + word k))
      | none =>
        let (t, old, fl) := s.atomScratch core off (AtomOp.ofCode i.cls) n i.w0.toNat i.w1.toNat
        t.answerAtom i (.ok (word old, word fl))
    | _ => s) s

/-- The atomics of a leaving core that have not started on their owners are withdrawn: they issue again after
the restore. -/
def State.withdrawAtomics (s : State) (core : Nat) : State :=
  let isMine (i : Item) : Bool :=
    (match i.kind with | .atomic _ _ => true | _ => false) && (match i.src with | some x => x.core == core | none => false)
  let s := { s with
    net := s.net.filter fun m => !isMine m.item
    cores := s.cores.map fun (p : Nat × Core) => (p.1, { p.2 with inbox := p.2.inbox.filter fun i => !isMine i }) }
  s.modCore core fun c => { c with waits := { c.waits with atoms := c.waits.atoms.filter fun w => w.answer.isSome } }

/-- Does a requester belong to a cluster? -/
def Requester.inCluster (r : Requester) (cl : Nat) : Bool :=
  match r with
  | .launch _ => false
  | r => r.cluster == cl

/-- What the requesters of a cluster have asked for is forgotten: walks and their failures, pages, answers. -/
def State.forgetRequesters (s : State) (cl : Nat) : State :=
  let drop (w : WalkReq) : WalkReq := { w with waiters := w.waiters.filter fun r => !r.inCluster cl }
  let s := s.modCluster cl fun c => { c with fails := c.fails.filter fun f => !f.1.inCluster cl }
  let s := s.modDie (dieOfCluster cl) fun d => { d with
    walks := d.walks.map drop
    threads := d.threads.map fun t => { t with req := drop t.req } }
  { s with fabric := { s.fabric with
      engine := s.fabric.engine.filter fun a => !a.who.inCluster cl
      pages := s.fabric.pages.map fun (p : Nat × Migration) =>
        (p.1, { p.2 with refused := p.2.refused.filter fun r => !r.inCluster cl
                         waiting := p.2.waiting.filter fun r => !r.inCluster cl }) } }

/-- A landing packet that no activation has taken returns to its transfer, which sends it again (R15, R162). -/
def Core.takeBack (c : Core) (p : Packet) : Core :=
  c.modChan p.ch fun k => { k with run := k.run.map fun t =>
    if t.req.id = p.id then { t with moved := t.moved - p.bytes.length, landing := false } else t }

/-- The packets that wait for a leaving core, and those that its own transfers have sent, return (R15, R334). -/
def State.returnPackets (s : State) (core : Nat) : State :=
  let back (owner : Nat) (p : Packet) : Bool := owner == core || p.core == core
  let all := s.cores.flatMap fun (k : Nat × Core) => k.2.jobs.packets.filter (back k.1)
  let s := { s with cores := s.cores.map fun (k : Nat × Core) =>
    (k.1, { k.2 with jobs := { k.2.jobs with packets := k.2.jobs.packets.filter fun p => !back k.1 p } }) }
  all.foldl (fun s p => s.modCore p.core fun c => c.takeBack p) s

/-- A transfer whose remote write has failed stops before its team leaves (R329, R334). -/
def State.settleCopies (s : State) (core : Nat) : State :=
  (List.range 4).foldl (fun s ch =>
    match ((s.core core).chan ch).run, s.jobWriteFailed (.copy core ch) with
    | some t, some (c, p) => s.stopTransfer core ch c (failedAt (t.addresses t.moved).2 p)
    | _, _ => s) s

/-- A stopped transfer gives up the lines it has claimed, and claims them again after the restore (R334; log 94). -/
def Chan.swapped (k : Chan) : Chan := { k with run := k.run.map fun t => { t with ready := false, lead := t.moved } }

/-- What a core keeps when it is swapped out: list walks restart (R135), the status of every BSE job is forgotten
(R307), and so are the BSE jobs of firings in fibres. -/
def Core.swapped (c : Core) : Core :=
  { c with
    f := c.f.dropWalks
    fibres := c.fibres.map fun k => { k with gone := k.gone || k.bse }
    jobs := { c.jobs with bseDone := [], chans := c.jobs.chans.map Chan.swapped }
    work := { c.work with steal := { c.work.steal with asked := none, tried := 0, failed := false } }
    wfi := false }

/-- What is on its way to a team enters its inboxes (R162). -/
def State.collectNet (s : State) (grid team : Nat) : State :=
  let here (m : NetItem) : Bool := m.grid == grid && m.target / 8 == team && !m.held
  (s.net.filter here).foldl (fun s m =>
    State.modGridCore { s with net := s.net.erase m } grid m.target fun c => { c with inbox := c.inbox ++ [m.item] }) s

/-- What a stopped team still has under way: its BSE jobs are discarded (R296), packets return, atomics on its slots are
performed, its own are withdrawn, and its stores and items leave (R162). -/
def State.settleTeam (s : State) (grid team cl : Nat) : State :=
  let cores := clusterCores cl
  let s := (s.discardBse cl fun _ => true).collectNet grid team
  cores.foldl (fun s n =>
    let s := ((s.returnPackets n).performAtomics n).withdrawAtomics n
    (s.drainAll n).flushOutbox n) s

/-- A settled team leaves its cluster: written to its part of the swap area, where its pages are known (R162). -/
def State.takeTeam (s : State) (grid team cl : Nat) (area : Option (List PagePart)) : State :=
  let cores := clusterCores cl
  let s := cores.foldl (fun s n => s.settleCopies n) s
  let s := { s with claims := s.claims.filter fun c => !c.holder.inCluster cl }
  let s := s.forgetRequesters cl
  let kept := cores.map fun n => (s.core n).swapped
  let s := cores.foldl (fun s n => s.modCore n fun _ => Core.reset) s
  let s := match area with | some l => s.storeTeam l kept | none => s
  s.modGrid grid fun g => { g with
    place := sdel g.place team
    saved := sset g.saved team kept
    stored := if area.isSome then insertNat g.stored team else g.stored.filter fun t => t != team }

/-- The pages of the swap area for leaving teams: what each has, or what must be awaited first. A team whose part does
not translate is kept by the scheduler alone (DESIGN CHOICE, log 94). -/
def State.leavingPages (s : State) (i : LaunchInfo) (unit : List (Nat × Nat)) :
    Except (State → State) (List (Option (List PagePart))) :=
  unit.mapM fun u =>
    match s.swapPages i u.1 u.2 true with
    | .ok l => .ok (some l)
    | .error none => .ok none
    | .error (some f) => .error f

/-- TEAM_SWAP_OUT: a stopped and drained team leaves its cluster, with the other team of its pair; its BSE jobs are
discarded. A retired cluster leaves the grant with it, and so does the other one of a pair. -/
def execTeamSwapOut (grid team : Nat) (s : State) : Host.Outcome State Fault Refusal :=
  match s.leavingFrom grid team with
  | none => .next s
  | some (g, _) =>
    let unit := s.leavingUnit grid team
    if !(unit.all fun u => s.stopped u.2) then .next s
    else
      match s.leavingPages g.info unit with
      | .error f => .next (f s)
      | .ok areas =>
        let s := unit.foldl (fun s u => s.settleTeam grid u.1 u.2) s
        if !(unit.all fun u => s.drained u.2) then .next s
        else
          let stays := !(unit.any fun u => (s.cluster u.2).retired)
          let s := (unit.zip areas).foldl (fun s u => s.takeTeam grid u.1.1 u.1.2 u.2) s
          let s := s.modGrid grid fun g => { g with granted := g.granted.filter fun k => stays || !unit.any fun u => u.2 == k }
          .next (unit.foldl (fun s u => s.forgetLaunch (dieOfCluster u.2)) s)

/-! ## TEAM_RESTORE (R162, R294, R296, R307) -/

/-- Where the swapped-out teams that come with a team go: the team to a cluster, the other of its pair to the other
cluster of the pair (R294). -/
def Grid.comingUnit (g : Grid) (team cl : Nat) : List (Nat × Nat × List Core) :=
  (g.info.unit team).filterMap fun t =>
    (sget g.saved t).map fun cs => (t, if t = team then cl else pairCluster cl, cs)

/-- May teams be placed on clusters now? -/
def State.mayPlace (s : State) (g : Grid) (unit : List (Nat × Nat)) : Bool :=
  (unit.all fun u =>
    g.resident u.1 && g.granted.contains u.2 && !(g.place.any fun p => p.2 == u.2) && !(s.cluster u.2).retired &&
      (s.cluster u.2).test.isNone && !(s.die (dieOfCluster u.2)).inReset) &&
    g.info.placedLegal (unit.foldl (fun p u => sset p u.1 u.2) g.place)

/-- The cores of a team that comes back: as its part of the swap area holds them, where it was written there (R162). -/
def State.comingCores (s : State) (g : Grid) (team cl : Nat) (cs : List Core) : Except (State → State) (List Core) :=
  if !g.stored.contains team then .ok cs
  else
    match s.swapPages g.info team cl false with
    | .ok l => .ok (s.readTeam l cs)
    | .error none => .ok cs
    | .error (some f) => .error f

/-- A core of a restored team: its firing after its BSE jobs were discarded (R307), a pair with a new interval (R368). -/
def Core.comeBack (c : Core) : Core :=
  let c := c.restored
  if c.paired then c.openInterval else c

/-- TEAM_RESTORE: a swapped-out team of the current quantum comes to a free cluster of the grant, with the other team of
its pair. -/
def execTeamRestore (grid team cluster : Nat) (s : State) : Host.Outcome State Fault Refusal :=
  match s.grid grid with
  | none => .next s
  | some g =>
    let unit := g.comingUnit team cluster
    if !(unit.any fun u => u.1 == team) || !s.mayPlace g (unit.map fun u => (u.1, u.2.1)) then .next s
    else
      match unit.mapM fun u => (s.comingCores g u.1 u.2.1 u.2.2).map fun cs => (u.1, u.2.1, cs) with
      | .error f => .next (f s)
      | .ok l =>
        let s := l.foldl (fun s u => s.placeTeam grid u.1 u.2.1 (u.2.2.map Core.comeBack)) s
        .next ((s.modGrid grid fun g => { g with stored := g.stored.filter fun t => !l.any fun u => u.1 == t }).forgetLaunch
          (dieOfCluster cluster))

end Sys2Proof.Machine
end

