-- ==== Sys2Proof/Machine/Errors.lean ====
section
/-! DEFINITION. Errors, die reset and in-field test (R203, R360 to R366, R372 to R374, R390). -/

namespace Sys2Proof.Machine

/-! ## Errors of a core (R360, R364, R365) -/

/-- A corrected error of a cluster is logged and counted (R360, R374). -/
def State.logCorrected (s : State) (core : Nat) : State :=
  (s.logError (dieOf core) 0 core).modCluster (clusterOf core) fun c => { c with errors := c.errors + 1 }

/-- A record of a core's store lost. -/
def Core.dropRecord (c : Core) (slot idx : Nat) : Core :=
  { c with work := { c.work with deques := vset c.work.deques (ix 15 slot) ((c.work.deques.get (ix 15 slot)).eraseIdx idx) } }

/-- RECORD_STORE_PARITY_ERROR (R360): the record is dropped, from both copies of a pair; 0x33 in F with TVAL
the slot. -/
def execRecordStoreParityError (core slot idx : Nat) (s : State) : Host.Outcome State Fault Refusal :=
  if slot < 16 ∧ idx < ((s.core core).work.deques.get (ix 15 slot)).length then
    let s := s.logError (dieOf core) 0x33 core
    let s := s.onPair core fun s k => (s.modCore k fun c => c.dropRecord slot idx).refreshReady k
    .next (s.notify core 0x33 (word slot))
  else .next s

/-- CONTEXT_LOST (R364): the firing of a core cannot be resumed; F takes 0x33. The partner of a pair learns it by
PARTNER_TIMEOUT. -/
def execContextLost (core : Nat) (s : State) : Host.Outcome State Fault Refusal :=
  if (s.core core).fIdle then .next s
  else
    let s := s.logError (dieOf core) 0x33 core
    .next (s.modCore core fun c => { c.notify 0x33 0 with lost := true })

/-- The cores of a die. -/
def dieCores (d : Nat) : List Nat := (List.range 320).map fun i => 320 * d + i

/-- An uncorrectable error in a die-wide structure (R365): 0x3F at M in F of every core of the die. -/
def State.machineCheck (s : State) (die : Nat) : State :=
  let s := s.logError die 0x3F die
  (dieCores (die % 4)).foldl (fun s n => s.modCore n fun c => c.notify 0x3F 0) s

/-- MACHINE_CHECK (R365). -/
def execMachineCheck (die : Nat) (s : State) : Host.Outcome State Fault Refusal := .next (s.machineCheck die)

/-- The gating-buffer entry of a core poisoned. -/
def Core.poisonGate (c : Core) (idx : Nat) : Core :=
  { c with mem := { c.mem with gate := c.mem.gate.mapIdx fun i e => if i = idx then { e with poisoned := true } else e } }

/-- GATING_BUFFER_PARITY_ERROR (R360): the activation is dropped, or the checked interval rolls back, or else the
words of the store are poisoned. -/
def execGatingBufferParityError (core idx : Nat) (s : State) : Host.Outcome State Fault Refusal :=
  match (s.core core).mem.gate[idx]? with
  | none => .next s
  | some e =>
    let s := s.logError (dieOf core) 0x31 core
    if e.act then .next (s.poisonActivation core e.ctx 0)
    else if e.interval && (s.core core).paired then
      let m := partnerOf core
      .next ((((s.rollCore core).rollCore m).modCore core Core.countRollback).modCore m Core.countRollback)
    else .next (s.modCore core fun c => c.poisonGate idx)

/-- An uncorrectable error of a cluster's core is logged (R360). -/
def State.logUncorrected (s : State) (core : Nat) : State := s.logError (dieOf core) 0x31 core

/-- A store-buffer entry of a core poisoned. -/
def Core.poisonStore (c : Core) (idx : Nat) : Core :=
  { c with mem := { c.mem with buffer := c.mem.buffer.mapIdx fun i e => if i = idx then { e with poisoned := true } else e } }

/-- An uncorrectable error (R203, R360, R361): the word, or the entry of a store buffer, is marked poisoned where it
stands; in a die-wide structure it is a machine check. -/
def State.poisonSite (s : State) (store : EccStore) (k : Nat) : State :=
  match store with
  | .scratch core =>
    (s.logUncorrected core).modCore core fun c => { c with mem := { c.mem with poison := insertNat c.mem.poison k } }
  | .home => { s.logError (homeDie (8 * k)) 0x31 k with poison := insertNat s.poison k }
  | .rdc die => (s.logError die 0x31 k).modRdcPoison die (k / 16) fun p => insertNat p (k % 16)
  | .buffer core => (s.logUncorrected core).modCore core fun c => c.poisonStore k
  | .array die => s.machineCheck die
  | .l1 _ | .cluster _ | .code _ => s

/-- A parity error in what can be fetched again: it is dropped, and the error is logged (R203, R360). -/
def State.refetchSite (s : State) (store : EccStore) (k : Nat) : State :=
  match store with
  | .l1 core =>
    let s := s.logCorrected core
    { s with caches := { s.caches with l1 := s.caches.l1.filter fun t => !(t.1 == core && t.2.2.2 == k) } }
  | .cluster cl =>
    let s := s.logCorrected (8 * cl)
    { s with caches := { s.caches with cluster := s.caches.cluster.erase (cl, k) } }
  | .code core => s.logCorrected core
  | .scratch _ | .home | .rdc _ | .buffer _ | .array _ => s

/-- A corrected error is logged, and counted for the cluster where it arose (R360, R374); a store buffer has parity
alone (R203). -/
def State.correctSite (s : State) (store : EccStore) (k : Nat) : State :=
  match store with
  | .scratch core => s.logCorrected core
  | .home => s.logError (homeDie (8 * k)) 0 k
  | .rdc die => s.logError die 0 k
  | .array die => s.logError die 0 die
  | .l1 _ | .cluster _ | .buffer _ | .code _ => s

/-- Does a store hold such a word, line or entry? -/
def State.hasSite (s : State) (store : EccStore) (k : Nat) : Bool :=
  match store with
  | .scratch _ => decide (k < Config.scratchBytes / 8)
  | .home => decide (8 * k < 4 * Config.dieBytes) && !absent s (8 * k)
  | .rdc die => (sget (s.die die).rdc (k / 16)).isSome
  | .l1 core => s.caches.l1.any fun t => t.1 == core && t.2.2.2 == k
  | .cluster cl => s.caches.cluster.contains (cl, k)
  | .buffer core => decide (k < (s.core core).mem.buffer.length)
  | .code core => decide (core < Config.coreCount)
  | .array die => decide (die < 4)

/-- Does a store hold copies under parity, which an error only drops (R203, R360)? -/
def refetches : EccStore → Bool
  | .l1 _ | .cluster _ | .code _ => true
  | .scratch _ | .home | .rdc _ | .buffer _ | .array _ => false

/-- SCRUB (R203, R360, R361): an error in a word is corrected in place, or marks it poisoned; what is under parity and
can be fetched again is. Nothing is consumed. -/
def execScrub (store : EccStore) (at_ : Nat) (found : EccResult) (s : State) : Host.Outcome State Fault Refusal :=
  if !s.hasSite store at_ then .next s
  else
    match found with
    | .good => .next s
    | .corrected => .next (if refetches store then s.refetchSite store at_ else s.correctSite store at_)
    | .uncorrectable => .next (if refetches store then s.refetchSite store at_ else s.poisonSite store at_)

/-- STORE_BUFFER_DRAIN (R80): the oldest entry is performed; what ended activations send follows their stores. -/
def execStoreBufferDrain (core : Nat) (s : State) : Host.Outcome State Fault Refusal :=
  .next ((s.drainOne core).flushOutbox core)

/-! ## Die reset (R366) -/

/-- The teams of a grid on a die. -/
def Grid.teamsOn (g : Grid) (d : Nat) : Sparse Nat := g.place.filter fun p => dieOfCluster p.2 == d

/-- The registrations of a killed core's firing and fibres are withdrawn (R176). -/
def State.withdrawFibres (s : State) (core : Nat) : State :=
  let s := s.withdrawAll core
  if s.actsForPair core then
    (s.core core).fibres.foldl (fun s f => f.bars.foldl (fun s b => s.modBarrier core b.lvl b.n fun x => x.withdraw b.arrived) s) s
  else s

/-- The atomics that other cores have sent to a killed core: their issuers issue them again (0x1B). -/
def State.returnAtomics (s : State) (core : Nat) : State :=
  (s.core core).inbox.foldl (fun s i =>
    match i.kind, i.src with
    | .atomic _ _, some iss => s.modCore iss.core fun c => { c with waits := { c.waits with
        atoms := c.waits.atoms.filter fun w => !(decide (w.item = i) && w.answer.isNone) } }
    | _, _ => s) s

/-- The fibres of a killed core are killed (R366): VALID ← 0 where their slots lie. -/
def State.killFibres (s : State) (core : Nat) : State :=
  (s.core core).fibres.foldl (fun s k =>
    if k.pages.isEmpty then s
    else s.writeRc none none (k.paAt 0) [memGet s.mem (k.paAt 0) &&& 0xFE]) s

/-- The landing packet of a killed D activation returns to its transfer. -/
def State.returnLanding (s : State) (core : Nat) : State :=
  match (s.core core).dAct with
  | some { trigger := .packet p, .. } => s.modCore p.core fun c => c.takeBack p
  | _ => s

/-- What a killed core leaves outside itself is withdrawn. -/
def State.withdrawCore (s : State) (core : Nat) : State :=
  let s := ((s.withdrawFibres core).killFibres core).returnLanding core
  ((s.returnPackets core).returnAtomics core).withdrawAtomics core

/-- Does a requester lie on a die? -/
def Requester.onDie (r : Requester) (d : Nat) : Bool :=
  dieOfCluster r.cluster == d

/-- Is a place a scratchpad of a die? -/
def Place.onDie (p : Place) (d : Nat) : Bool := match p with | .scratch c _ => dieOf c == d | .mem _ => false

/-- A cluster whose logic was reset: its bin and its test stand. -/
def Cluster.cleared (c : Cluster) : Cluster :=
  { Cluster.reset with bin := c.bin, retired := c.retired, test := c.test, errors := c.errors }

/-- A die whose logic was reset; what the firmware image supplies comes back with it (DESIGN CHOICE, log 45). -/
def Die.cleared (x : Die) : Die :=
  { Die.reset with
    inReset := true, store := x.store, table := x.table, coeff := x.coeff, clock := x.clock, throttled := x.throttled
    log := x.log, testNext := x.testNext, vectors := x.vectors }

/-- The cores, clusters and logic of a die at reset; its requests and claims are gone. -/
def State.clearDie (s : State) (d : Nat) : State :=
  let s := (List.range 4).foldl (fun s i => s.downPort (4 * d + i)) s
  let s := { s with
    cores := s.cores.filter fun p => dieOf p.1 != d
    clusters := s.clusters.map fun (p : Nat × Cluster) => if dieOfCluster p.1 = d then (p.1, p.2.cleared) else p
    claims := s.claims.filter fun c => !c.holder.onDie d && !c.place.onDie d
    net := s.net.filter fun m => !m.held || match m.item.src with | some i => dieOf i.core != d | none => true
    caches :=
      { l1 := s.caches.l1.filter fun t => dieOf t.1 != d
        cluster := s.caches.cluster.filter fun t => dieOfCluster t.1 != d
        l2 := s.caches.l2.filter fun t => t.1 != d
        rrc := s.caches.rrc.filter fun t => dieOfCluster t.1 != d
        param := s.caches.param.filter fun t => dieOfCluster t.1 != d } }
  let gone := s.fabric.reqs.filter fun r => dieOf r.src.core == d
  let s := gone.foldl (fun s r => s.dropRequest r.id) s
  let s := { s with fabric := { s.fabric with
    engine := s.fabric.engine.filter fun a => !a.who.onDie d
    pages := s.fabric.pages.map fun (p : Nat × Migration) =>
      (p.1, { p.2 with refused := p.2.refused.filter fun r => !r.onDie d
                       waiting := p.2.waiting.filter fun r => !r.onDie d }) } }
  s.modDie d Die.cleared

/-- A grid that is not recoverable ends with 0x33: its work on every die is killed. -/
def State.killWhole (s : State) (gid : Nat) (g : Grid) : State :=
  let clusters := g.place.map (·.2)
  let mine (r : Requester) : Bool := clusters.any fun cl => r.inCluster cl
  let s := s.discardJobs g
  let s := { s with
    claims := s.claims.filter fun c => !mine c.holder
    net := s.net.filter fun m => m.grid != gid }
  let gone := s.fabric.reqs.filter fun r => clusters.contains (clusterOf r.src.core)
  let s := gone.foldl (fun s r => s.dropRequest r.id) s
  let s := clusters.foldl (fun s cl => s.forgetRequesters cl) s
  s.endGrid gid g 0x33

/-- A grid settled after the reset of a die that held teams of it: R348, or 0x33. -/
def State.settleGrid (s : State) (d gid : Nat) : State :=
  match s.grid gid with
  | none => s
  | some g =>
    let lost := g.teamsOn d
    if lost.isEmpty then s
    else if g.info.has .recoverable then
      s.modGrid gid fun g =>
        let place := g.place.filter fun p => dieOfCluster p.2 != d
        let saved := lost.foldl (fun l p => sset l p.1 (g.info.freshTeam gid p.1)) g.saved
        let stored := g.stored.filter fun t => !lost.any fun p => p.1 == t
        { g with place := place, saved := saved, stored := stored, recov := { g.recov with rpend := true } }
    else s.killWhole gid g

/-- The lines that a reset writes back: the dirty ones of the die's RDC, and those of its L2. -/
def State.backLines (s : State) (d : Nat) : List Nat :=
  ((s.die d).rdc.filter fun p => !p.2.dirty.isEmpty).map (·.1) ++ (s.caches.l2.filter fun t => t.1 == d).map (·.2)

/-- Of the lines that a reset writes back, those that cannot be read are written to HBM as poison (R366 step 2). Which
they are is free. -/
def State.loseLines (s : State) (lines : List Nat) : State :=
  lines.foldl (fun s line =>
    let (k, s) := s.draw
    if Config.lineReadable k then s
    else { s with poison := (List.range 16).foldl (fun l i => insertNat l (16 * line + i)) s.poison }) s

/-- A die is reset: requests to it are held from now on; its RDC writes back; everything on it is killed, and what
its buffers held is lost; then each grid is settled. -/
def State.resetDie (s : State) (d : Nat) : State :=
  let s := s.modDie d fun x => { x with inReset := true }
  let s := (s.writeBackRdc d).loseLines (s.backLines d)
  let s := s.modDie d fun x => { x with rdc := [] }
  let bound := (s.cores.map (·.1)).filter fun n => dieOf n == d && (s.core n).ident.grid.isSome
  let s := bound.foldl (fun s n => s.withdrawCore n) s
  let s := s.clearDie d
  (s.grids.map (·.1)).foldl (fun s gid => s.settleGrid d gid) s

/-- DIE_RESET (R366). -/
def execDieReset (die : Nat) (s : State) : Host.Outcome State Fault Refusal := .next (s.resetDie (die % 4))

/-! ## Signed images (R373, R389) -/

/-- The bytes of an image or package that its signature covers: all but the signature. -/
def SignedBytes (i : SignedImage) : List Byte := bytesOf 8 i.body.length ++ bytesOf 8 i.version ++ i.key ++ i.body

/-- Does a ROM accept an image or package: the digest of the key is the hash in ROM, and the signature
verifies? -/
def romAccepts (i : SignedImage) : Bool := sm3 i.key == Config.romKeyHash && Config.sm2Verify i.key (sm3 (SignedBytes i)) i.sig

/-- DIE_RELOAD (R390): a die under reset is reloaded by another from the image verified at power-on; with every
other die under reset the reload fails. -/
def execDieReload (die : Nat) (s : State) : Host.Outcome State Fault Refusal :=
  let d := die % 4
  let helper := (List.range 4).any fun k => k != d && !(s.die k).inReset
  match s.control.image with
  | none => .next s
  | some i =>
    if !(s.die d).inReset || !helper then .next s
    else if romAccepts i then .next (s.modDie d fun x => { x with inReset := false, firmware := .running i.version })
    else .next (s.modDie d fun x => { x with firmware := .bad })

/-! ## In-field test (R372 to R374) -/

/-- Does a cluster hold a team? -/
def State.holdsTeam (s : State) (cl : Nat) : Bool := s.grids.any fun g => g.2.place.any fun p => p.2 == cl

/-- May a cluster be taken for a test: it holds no team, or a team of an oversubscribed grid, which leaves at the
quantum's boundary? -/
def State.testable (s : State) (cl : Nat) : Bool :=
  !s.holdsTeam cl ||
    s.grids.any fun g => g.2.granted.contains cl && g.2.info.has .oversub && decide (g.2.granted.length < g.2.info.clusters)

/-- SELF_TEST_START (R372): the next cluster of the die in turn; one that another grid holds is not tested in this
round. -/
def execSelfTestStart (die : Nat) (s : State) : Host.Outcome State Fault Refusal :=
  let d := die % 4
  let x := s.die d
  if x.inReset then .next s
  else
    let cl := Config.clustersPerDie * d + x.testNext % Config.clustersPerDie
    let s := s.modDie d fun x => { x with testNext := (x.testNext + 1) % Config.clustersPerDie }
    if s.testable cl && (s.cluster cl).test.isNone && !(s.cluster cl).retired then
      .next (s.modCluster cl fun c => { c with test := some c.bin })
    else .next s

/-- A cluster moves to the next safer bin, where it is tested before it takes a team; beyond bin 3 it is retired
and leaves every grant, with the other cluster of its pair where teams come in pairs (R374; DESIGN CHOICE for a running grid, log 46). -/
def State.nextBin (s : State) (cl : Nat) : State :=
  if 3 ≤ (s.cluster cl).bin then
    let s := s.modCluster cl fun c => { c with retired := true, test := none, errors := 0 }
    { s with grids := s.grids.map fun (g : Nat × Grid) =>
        let gone := if g.2.info.levels.any fun l => l.1 == 2 then [cl, pairCluster cl] else [cl]
        if g.2.place.any fun p => gone.contains p.2 then g
        else (g.1, { g.2 with granted := g.2.granted.filter fun k => !gone.contains k }) }
  else s.modCluster cl fun c => { c with bin := c.bin + 1, test := some (c.bin + 1), errors := 0 }

/-- SELF_TEST_COMPLETE (R372, R374): the cluster, empty while it was tested, returns to service or moves to the
next bin. -/
def execSelfTestComplete (cluster : Nat) (passed : Bool) (s : State) : Host.Outcome State Fault Refusal :=
  if (s.cluster cluster).test.isNone || s.holdsTeam cluster then .next s
  else if passed then .next (s.modCluster cluster fun c => { c with test := none })
  else .next (s.nextBin cluster)

/-- CORRECTED_ERROR_THRESHOLD (R374). -/
def execCorrectedErrorThreshold (cluster : Nat) (s : State) : Host.Outcome State Fault Refusal :=
  if s.control.threshold < (s.cluster cluster).errors then .next (s.nextBin cluster) else .next s

end Sys2Proof.Machine
end

