-- ==== Sys2Proof/Machine/Control.lean ====
section
/-! DEFINITION. Control ports, firmware and power (R166, R387 to R395, R401): CTLSEM, downloads, tables, resets,
FORECAST, the power manager. -/

namespace Sys2Proof.Machine

/-! ## Power (R166, R393 to R395, R401) -/

/-- Is a core active: firing, or with a stage ready (R166)? An upcall routine is no firing (R165). -/
def State.active (s : State) (n : Nat) : Bool :=
  let c := s.core n
  (match c.firing with | .slot _ => true | _ => false) ||
    match s.infoOf n with
    | some i => (List.range 16).any fun k =>
        match i.stage k with | some st => c.work.isReady st (c.fibreReserve i) | none => false
    | none => false

/-- The clusters of a die to which a team comes at the next boundary of the quanta of the grids `due` (R161, R166): those
of the grant that no staying team holds, for as many teams as come. -/
def State.swapIns (s : State) (d : Nat) (due : List Nat) : List Nat :=
  s.grids.flatMap fun g =>
    if due.contains g.1 then
      let next : Grid := { g.2 with quantum := g.2.quantum + 1 }
      let stay := g.2.place.filter fun p => next.resident p.1
      let free := g.2.granted.filter fun cl => !stay.any fun p => p.2 == cl
      (free.take (Nat.min g.2.granted.length g.2.info.clusters - stay.length)).filter fun cl => dieOfCluster cl == d
    else []

/-- Jobs in the queues of a die's engines: BSE, GRE. -/
def State.jobsOf (s : State) (d : Nat) : Nat × Nat :=
  let cls := s.clusters.filter fun p => dieOfCluster p.1 == d
  (sumNat (cls.map fun p => p.2.bse.length), sumNat (cls.map fun p => p.2.gre.length))

/-- PWR (R401). -/
def powerOf (k : Vector Nat 4) (cores bse gre : Nat) : Nat :=
  Nat.min 65535 ((k.get 0 + k.get 1 * cores + k.get 2 * Nat.min bse 40 + k.get 3 * Nat.min gre 40 + 999) / 1000)

/-- FORECAST_UPDATE (R166, R401): the counts of the die, with the swap-ins that fall due: the grids `due` are those whose
quantum ends within 4 µs, which is the event's word (log 13). A team that comes counts as eight active cores, and with
`bse` and `gre` jobs: up to the 32 that its cores may have outstanding, as the event says (DESIGN CHOICE, log 95). -/
def execForecastUpdate (die : Nat) (due : List Nat) (bse gre : Fin 33) (s : State) : Host.Outcome State Fault Refusal :=
  let d := die % 4
  let come := s.swapIns d due
  let cores := ((dieCores d).filter fun n => s.active n || come.contains (clusterOf n)).length
  let (b, g) := s.jobsOf d
  let b := Nat.min 2047 (b + come.length * bse.val)
  let g := Nat.min 2047 (g + come.length * gre.val)
  let pwr := powerOf (s.die d).coeff cores b g
  .next (s.modDie d fun x => { x with forecast := word (cores + b * 2 ^ 10 + g * 2 ^ 21 + pwr * 2 ^ 32) })

/-- The clock in MHz under the cap: the highest step that fits; where none does, the lowest (DESIGN CHOICE,
log 47). -/
def clockUnder (total cap : Nat) : Nat :=
  (((List.range 13).map fun i => 2400 - 100 * i).find? fun f => decide (total * f ≤ cap * 2400)).getD 1200

/-- The clocks of all dies set by the power manager; a throttled die keeps 1.2 GHz (R395). -/
def State.setClocks (s : State) : State :=
  let f := clockUnder (sumNat (s.dies.toList.map fun d => field d.forecast 32 16)) s.control.cap
  { s with dies := s.dies.map fun d => { d with clock := if d.throttled then 1200 else f } }

/-- POWER_MANAGER_TICK (R394). -/
def execPowerManagerTick (s : State) : Host.Outcome State Fault Refusal := .next s.setClocks

/-- THERMAL_THROTTLE (R395). -/
def execThermalThrottle (die : Nat) (s : State) : Host.Outcome State Fault Refusal :=
  .next (s.modDie (die % 4) fun x => { x with throttled := true, clock := 1200 })

/-- THERMAL_RECOVER (R395): the die returns to the power manager's clock. -/
def execThermalRecover (die : Nat) (s : State) : Host.Outcome State Fault Refusal :=
  .next (s.modDie (die % 4) fun x => { x with throttled := false }).setClocks

/-- THERMAL_RESET (R395): firmware resets the die. -/
def execThermalReset (die : Nat) (s : State) : Host.Outcome State Fault Refusal := .next (s.resetDie (die % 4))

/-! ## CTLSEM (R387, R388) -/

/-- The semaphore word while a port holds it with a tag. -/
def semWord (port : Nat) (tag : BitVec 32) : Word := word (2 ^ 63 + 1000 * 2 ^ 48 + port % 2 * 2 ^ 32 + tag.toNat)

/-- Does a port hold CTLSEM? -/
def State.holdsSem (s : State) (port : Nat) : Bool := flag s.control.sem 63 && decide (field s.control.sem 32 1 = port % 2)

/-- The control registers changed. -/
def State.modControl (s : State) (f : Control → Control) : State := { s with control := f s.control }

/-- CTLSEM_WRITE (R388): acquired, renewed, released, or ignored. -/
def execCtlsemWrite (port : Nat) (tag : BitVec 32) (s : State) : Host.Outcome State Fault Refusal :=
  let w := s.control.sem
  if !flag w 63 then
    if tag = 0 then .next s else .next (s.modControl fun c => { c with sem := semWord port tag })
  else if !s.holdsSem port then .next s
  else if tag = 0 then .next (s.modControl fun c => { c with sem := 0 })
  else if field w 0 32 = tag.toNat then .next (s.modControl fun c => { c with sem := semWord port tag })
  else .next s

/-- CTLSEM_LEASE_EXPIRY (R388). -/
def execCtlsemLeaseExpiry (s : State) : Host.Outcome State Fault Refusal := .next (s.modControl fun c => { c with sem := 0 })

/-- An operation that needs CTLSEM: without it NOSEM, counted for the port (R387). -/
def State.underSem (s : State) (port : Nat) (f : State → State) : State :=
  if s.holdsSem port then f s
  else s.modControl fun c => { c with nosem := vset c.nosem (ix 1 port) (c.nosem.get (ix 1 port) + 1) }

/-- The configuration written since power-on grows (R391). -/
def State.configured (s : State) (bs : List Byte) : State := s.modControl fun c => { c with config := c.config ++ bs }

/-! ## Power-on and resets (R366, R389) -/

/-- The part after a full power-on or reset (R389): every die in its ROM. The bins of R374 stand; the moves still
to come, the free values drawn and what has been reported are not the part's. -/
def State.powered (s : State) : State :=
  { State.reset with
    turn := s.turn
    agents := s.agents
    agenda := s.agenda
    fresh := s.fresh
    results := s.results
    clusters := s.clusters.map fun (p : Nat × Cluster) => (p.1, { Cluster.reset with bin := p.2.bin, retired := p.2.retired })
    control := { State.reset.control with powerOns := s.control.powerOns + 1 } }

/-- POWER_ON (R389). -/
def execPowerOn (s : State) : Host.Outcome State Fault Refusal := .next s.powered

/-- RESET_REQUEST (R366, R387). -/
def execResetRequest (port : Nat) (what : ResetScope) (s : State) : Host.Outcome State Fault Refusal :=
  .next (s.underSem port fun s => match what with | .die d => s.resetDie (d % 4) | .device => s.powered)

/-! ## Downloads (R373, R389) -/

/-- FIRMWARE_DOWNLOAD (R389): every die checks the image by itself. -/
def execFirmwareDownload (port : Nat) (image : SignedImage) (s : State) : Host.Outcome State Fault Refusal :=
  .next (s.underSem port fun s =>
    let ok := romAccepts image
    let s := { s with dies := s.dies.map fun d =>
      if d.inReset then d else { d with firmware := if ok then .running image.version else .bad } }
    if ok then s.modControl fun c => { c with image := some image } else s)

/-- VECTOR_PACKAGE (R373): a package that fails the check, or is older than the one applied, is discarded and
logged; an accepted one replaces the vectors of later tests. -/
def execVectorPackage (port : Nat) (pkg : SignedImage) (s : State) : Host.Outcome State Fault Refusal :=
  .next (s.underSem port fun s =>
    let apply (d : Die) : Die :=
      if romAccepts pkg && decide (d.vectors ≤ pkg.version) then { d with vectors := pkg.version }
      else { d with log := d.log ++ [(0, pkg.version)] }
    { s with dies := s.dies.map apply })

/-- ATTESTATION_REQUEST (R391): a nonce of 32 bytes is answered with a signed report of it, the running image, the
configuration, and the part number; without a running image there is none (DESIGN CHOICE, log 48). -/
def execAttestationRequest (port : Nat) (nonce : List Byte) (s : State) : Host.Outcome State Fault Refusal :=
  match s.control.image with
  | none => .next s
  | some i =>
    if port < 2 ∧ nonce.length = 32 then
      let report := nonce ++ sm3 (SignedBytes i ++ i.sig) ++ sm3 s.control.config ++ Config.partNumber
      .next (s.modControl fun c => { c with reports := c.reports ++ [report ++ Config.deviceSign s.control.powerOns report] })
    else .next s

/-! ## Tables (R378, R380, R383, R384) -/

/-- The bits of a word that a mask names. -/
def keepBits (w : Word) (mask : Nat) : Word := w &&& word mask

/-- ROUTE_TABLE_WRITE (R378): VALID, EXT, CACHE and PORTS. -/
def execRouteTableWrite (port die endpoint : Nat) (value : Word) (s : State) : Host.Outcome State Fault Refusal :=
  .next (s.underSem port fun s =>
    if endpoint < 1024 then
      (s.modDie (die % 4) fun d => { d with routes := sset d.routes endpoint (keepBits value 0xE000FFFF) }).configured
        (bytesOf 8 value.toNat)
    else s)

/-- KEY_TABLE_WRITE (R380): KEY; VALID, NOEXT, SRC, TENANT. -/
def execKeyTableWrite (port die entry : Nat) (dw0 dw1 : Word) (s : State) : Host.Outcome State Fault Refusal :=
  .next (s.underSem port fun s =>
    if entry < 4096 then
      (s.modDie (die % 4) fun d => { d with
        keys := sset d.keys entry (keepBits dw0 0xFFFFFFFFFFFF, keepBits dw1 0xC3FF00FF) }).configured
        (bytesOf 8 dw0.toNat ++ bytesOf 8 dw1.toNat)
    else s)

/-- FRAME_OWNER_WRITE (R383): ANY and TENANT of one 2 MiB frame. -/
def execFrameOwnerWrite (port die frame : Nat) (value : BitVec 16) (s : State) : Host.Outcome State Fault Refusal :=
  .next (s.underSem port fun s =>
    if frame < Config.dieBytes / 0x200000 then
      (s.modDie (die % 4) fun d => { d with frames := sset d.frames frame (value &&& 0x80FF) }).configured
        (bytesOf 2 value.toNat)
    else s)

/-- SHARE_TABLE_WRITE (R384). -/
def execShareTableWrite (port egress tenant : Nat) (weight : BitVec 8) (s : State) : Host.Outcome State Fault Refusal :=
  .next (s.underSem port fun s =>
    if egress < 16 ∧ tenant < 256 then
      (s.modPort egress fun p => { p with shares := sset p.shares tenant weight }).configured (bytesOf 1 weight.toNat)
    else s)

/-- POWER_CAP_WRITE (R394): a cap outside 800 W to 2,200 W is not taken (DESIGN CHOICE, log 47). -/
def execPowerCapWrite (port watts : Nat) (s : State) : Host.Outcome State Fault Refusal :=
  .next (s.underSem port fun s =>
    if 800 ≤ watts ∧ watts ≤ 2200 then (s.modControl fun c => { c with cap := watts }).configured (bytesOf 2 watts) else s)

/-! ## Other control registers (R200, R210, R336, R372, R374, R378, R392, R401) -/

/-- A command queue bound to an I/O core: at most 16 of each, a pair to one core (R392). -/
def State.bindQueue (s : State) (d io qp base entries : Nat) : State :=
  let taken := (s.ioCore d io).queues.any fun q => q.qp == qp
  if 12 ≤ io ∨ 768 ≤ qp then s
  else if !taken && decide (16 ≤ (s.ioCore d io).queues.length) then s
  else
    let drop (c : IoCore) : IoCore := { c with queues := c.queues.filter fun q => q.qp != qp }
    let free (x : Die) : Die := { x with io := x.io.map fun (p : Nat × IoCore) => (p.1, drop p.2) }
    State.modIo { s with dies := s.dies.map free } d io fun c => { c with queues := c.queues ++ [{ qp := qp, base := base, entries := entries, next := 0, done := [] }] }

/-- A control register written: a value outside its range is not taken (DESIGN CHOICE, log 47). -/
def State.writeControl (s : State) (reg : ControlReg) : State :=
  match reg with
  | .keepSize gib => if gib ≤ 8 ∧ s.keep.blocks.isEmpty then { s with keep := { s.keep with gib := gib } } else s
  | .remoteTimeout us => if 100 ≤ us ∧ us ≤ 100000 then { s with fabric := { s.fabric with timeout := us } } else s
  | .walkerStore die code => s.modDie (die % 4) fun d => { d with store := code.take 16384 }
  | .spaceTable die addr => s.modDie (die % 4) fun d => { d with table := addr }
  | .powerCoeff die k0 k1 k2 k3 =>
    s.modDie (die % 4) fun d => { d with coeff := #v[k0 % 2 ^ 32, k1 % 2 ^ 32, k2 % 2 ^ 32, k3 % 2 ^ 32] }
  | .endpointId e => if e < 1024 then { s with fabric := { s.fabric with endpoint := e } } else s
  | .testInterval n => if 1 ≤ n ∧ n ≤ 86400 then s.modControl fun c => { c with interval := n } else s
  | .errorThreshold n => s.modControl fun c => { c with threshold := n }
  | .linkKey p => if p < 16 then s.modPort p fun x => { x with linkKey := true } else s
  | .ioStore die io code =>
    if io < 12 then s.modIo (die % 4) io fun c => { c with store := code, running := true, ctx := { c.ctx with pc := 0 } } else s
  | .ioQueue die io qp base entries => s.bindQueue (die % 4) io qp base entries

/-- What a control register's write adds to the configuration (R391). -/
def configBytes : ControlReg → List Byte
  | .keepSize n | .remoteTimeout n | .endpointId n | .testInterval n | .errorThreshold n | .linkKey n => bytesOf 8 n
  | .walkerStore die code | .ioStore die _ code => bytesOf 8 die ++ code.flatMap fun h => bytesOf 2 h.toNat
  | .spaceTable die addr => bytesOf 8 die ++ bytesOf 8 addr
  | .powerCoeff die a b c d => bytesOf 8 die ++ bytesOf 4 a ++ bytesOf 4 b ++ bytesOf 4 c ++ bytesOf 4 d
  | .ioQueue die io qp base entries => bytesOf 8 die ++ bytesOf 8 io ++ bytesOf 8 qp ++ bytesOf 8 base ++ bytesOf 8 entries

/-- CONTROL_REGISTER_WRITE (R387). -/
def execControlRegisterWrite (port : Nat) (reg : ControlReg) (s : State) : Host.Outcome State Fault Refusal :=
  .next (s.underSem port fun s => (s.writeControl reg).configured (configBytes reg))

end Sys2Proof.Machine
end

