-- ==== Sys2Proof/Machine/ScalarOps.lean ====
section
/-! DEFINITION. Integer register operations in their 16-, 32- and 64-bit forms (R61, R63, R66 to R70). -/

namespace Sys2Proof.Machine

/-! ## The operations (R66, R67) -/

/-- 1 or 0. -/
def bit (b : Bool) : Word := if b then 1 else 0

/-- Leading zeros, 0 to 64. -/
def leadingZeros (a : Word) : Word := if a = 0 then 64 else word (63 - Nat.log2 a.toNat)

/-- Trailing zeros, 0 to 64. -/
def trailingZeros (a : Word) : Word := word (((List.range 64).find? fun i => a.getLsbD i).getD 64)

/-- Ones, 0 to 64. -/
def onesIn (a : Word) : Word := word ((List.range 64).filter fun i => a.getLsbD i).length

/-- Bits <127:64> of the product of two integers. -/
def highProduct (x y : Int) : Word := BitVec.ofInt 64 (x * y / 2 ^ 64)

/-- Quotient of DIV (R67). -/
def divSigned (a b : Word) : Word := if b = 0 then BitVec.allOnes 64 else BitVec.ofInt 64 (a.toInt.tdiv b.toInt)

/-- Remainder of REM (R67). -/
def remSigned (a b : Word) : Word := if b = 0 then a else BitVec.ofInt 64 (a.toInt.tmod b.toInt)

/-- Quotient of DIVU (R67). -/
def divUnsigned (a b : Word) : Word := if b = 0 then BitVec.allOnes 64 else word (a.toNat / b.toNat)

/-- Remainder of REMU (R67). -/
def remUnsigned (a b : Word) : Word := if b = 0 then a else word (a.toNat % b.toNat)

/-- The shift amount b<5:0>. -/
def shiftOf (b : Word) : Nat := field b 0 6

/-- SLL. -/
def shiftLeft (a b : Word) : Word := a <<< shiftOf b
/-- SRL. -/
def shiftRight (a b : Word) : Word := a >>> shiftOf b
/-- SRA. -/
def shiftArith (a b : Word) : Word := a.sshiftRight (shiftOf b)
/-- MIN, signed. -/
def minSigned (a b : Word) : Word := if a.slt b then a else b
/-- MAX, signed. -/
def maxSigned (a b : Word) : Word := if a.slt b then b else a
/-- MINU. -/
def minUnsigned (a b : Word) : Word := if a.ult b then a else b
/-- MAXU. -/
def maxUnsigned (a b : Word) : Word := if a.ult b then b else a

/-! ## Forms -/

/-- `g[rd]` from two registers, both read first (R66). -/
def twoRegs (len : Nat) (d a b : Reg) (f : Word → Word → Word) : M Word :=
  after len do
    start .scalar [d, a, b]
    let x ← getG a
    let y ← getG b
    setG d (f x y)

/-- `g[rd]` from one register (R66). -/
def oneReg (len : Nat) (d a : Reg) (f : Word → Word) : M Word :=
  after len do
    start .scalar [d, a]
    let x ← getG a
    setG d (f x)

/-- Division: a zero divisor raises 0x3B under STATUS.DZE (R67). -/
def dividing (d a b : Reg) (f : Word → Word → Word) : M Word :=
  after 4 do
    start .scalar [d, a, b]
    let x ← getG a
    let y ← getG b
    let c ← ask State.context
    require (!(y == 0 && c.dze)) 0x3B
    setG d (f x y)

/-- `BFX`: bits <pos+len-1:pos>, zero-extended (R69). -/
def extractBits (x : Word) (pos len : Nat) : Word := word (field x pos len)

/-- `BFI`: the field replaced, every other bit kept (R69). -/
def insertBits (t x : Word) (pos len : Nat) : Word := setField t pos len (field x 0 len)


/-- ADD: (a + b) mod 2^64 (R66). -/
def execAdd (d a b : Reg) (s : State) : Host.Outcome State Fault Refusal :=
  runMeaning (twoRegs 4 d a b (· + ·)) s

/-- SUB (R66). -/
def execSub (d a b : Reg) (s : State) : Host.Outcome State Fault Refusal :=
  runMeaning (twoRegs 4 d a b (· - ·)) s

/-- AND (R66). -/
def execAnd (d a b : Reg) (s : State) : Host.Outcome State Fault Refusal :=
  runMeaning (twoRegs 4 d a b (· &&& ·)) s

/-- OR (R66). -/
def execOr (d a b : Reg) (s : State) : Host.Outcome State Fault Refusal :=
  runMeaning (twoRegs 4 d a b (· ||| ·)) s

/-- XOR (R66). -/
def execXor (d a b : Reg) (s : State) : Host.Outcome State Fault Refusal :=
  runMeaning (twoRegs 4 d a b (· ^^^ ·)) s

/-- SLL: a << b<5:0> (R66). -/
def execSll (d a b : Reg) (s : State) : Host.Outcome State Fault Refusal :=
  runMeaning (twoRegs 4 d a b shiftLeft) s

/-- SRL: a >> b<5:0>, zeros in (R66). -/
def execSrl (d a b : Reg) (s : State) : Host.Outcome State Fault Refusal :=
  runMeaning (twoRegs 4 d a b shiftRight) s

/-- SRA (R66). -/
def execSra (d a b : Reg) (s : State) : Host.Outcome State Fault Refusal :=
  runMeaning (twoRegs 4 d a b shiftArith) s

/-- MIN, signed (R66). -/
def execMin (d a b : Reg) (s : State) : Host.Outcome State Fault Refusal :=
  runMeaning (twoRegs 4 d a b minSigned) s

/-- MAX, signed (R66). -/
def execMax (d a b : Reg) (s : State) : Host.Outcome State Fault Refusal :=
  runMeaning (twoRegs 4 d a b maxSigned) s

/-- MINU (R66). -/
def execMinu (d a b : Reg) (s : State) : Host.Outcome State Fault Refusal :=
  runMeaning (twoRegs 4 d a b minUnsigned) s

/-- MAXU (R66). -/
def execMaxu (d a b : Reg) (s : State) : Host.Outcome State Fault Refusal :=
  runMeaning (twoRegs 4 d a b maxUnsigned) s

/-- SLT: 1 if a < b, signed (R66). -/
def execSlt (d a b : Reg) (s : State) : Host.Outcome State Fault Refusal :=
  runMeaning (twoRegs 4 d a b fun x y => bit (x.slt y)) s

/-- SLTU: 1 if a < b, unsigned (R66). -/
def execSltu (d a b : Reg) (s : State) : Host.Outcome State Fault Refusal :=
  runMeaning (twoRegs 4 d a b fun x y => bit (x.ult y)) s

/-- MUL: the low 64 bits of a × b (R66). -/
def execMul (d a b : Reg) (s : State) : Host.Outcome State Fault Refusal :=
  runMeaning (twoRegs 4 d a b (· * ·)) s

/-- MULH: bits <127:64> of the signed product (R66). -/
def execMulh (d a b : Reg) (s : State) : Host.Outcome State Fault Refusal :=
  runMeaning (twoRegs 4 d a b fun x y => highProduct x.toInt y.toInt) s

/-- MULHU: bits <127:64> of the unsigned product (R66). -/
def execMulhu (d a b : Reg) (s : State) : Host.Outcome State Fault Refusal :=
  runMeaning (twoRegs 4 d a b fun x y => highProduct x.toNat y.toNat) s

/-- DIV, truncating; defined for every pair of operands (R67). -/
def execDiv (d a b : Reg) (s : State) : Host.Outcome State Fault Refusal :=
  runMeaning (dividing d a b divSigned) s

/-- DIVU (R67). -/
def execDivu (d a b : Reg) (s : State) : Host.Outcome State Fault Refusal :=
  runMeaning (dividing d a b divUnsigned) s

/-- REM (R67). -/
def execRem (d a b : Reg) (s : State) : Host.Outcome State Fault Refusal :=
  runMeaning (dividing d a b remSigned) s

/-- REMU (R67). -/
def execRemu (d a b : Reg) (s : State) : Host.Outcome State Fault Refusal :=
  runMeaning (dividing d a b remUnsigned) s

/-- CLZ (R66). -/
def execClz (d a : Reg) (s : State) : Host.Outcome State Fault Refusal :=
  runMeaning (oneReg 4 d a leadingZeros) s

/-- CTZ (R66). -/
def execCtz (d a : Reg) (s : State) : Host.Outcome State Fault Refusal :=
  runMeaning (oneReg 4 d a trailingZeros) s

/-- POPC (R66). -/
def execPopc (d a : Reg) (s : State) : Host.Outcome State Fault Refusal :=
  runMeaning (oneReg 4 d a onesIn) s

/-- EXT: SignExtend(a, 8) (R66). -/
def execExtB (d a : Reg) (s : State) : Host.Outcome State Fault Refusal :=
  runMeaning (oneReg 4 d a fun x => signExtendNat x.toNat 8) s

/-- EXT: SignExtend(a, 16) (R66). -/
def execExtH (d a : Reg) (s : State) : Host.Outcome State Fault Refusal :=
  runMeaning (oneReg 4 d a fun x => signExtendNat x.toNat 16) s

/-- EXT: SignExtend(a, 32) (R66). -/
def execExtW (d a : Reg) (s : State) : Host.Outcome State Fault Refusal :=
  runMeaning (oneReg 4 d a fun x => signExtendNat x.toNat 32) s

/-- ADD with a sign-extended immediate (R68). -/
def execAddImm (d a : Reg) (i : BitVec 11) (s : State) : Host.Outcome State Fault Refusal :=
  runMeaning (oneReg 4 d a fun x => x + sext i) s

/-- AND with a sign-extended immediate (R68). -/
def execAndImm (d a : Reg) (i : BitVec 11) (s : State) : Host.Outcome State Fault Refusal :=
  runMeaning (oneReg 4 d a fun x => x &&& sext i) s

/-- OR with a sign-extended immediate (R68). -/
def execOrImm (d a : Reg) (i : BitVec 11) (s : State) : Host.Outcome State Fault Refusal :=
  runMeaning (oneReg 4 d a fun x => x ||| sext i) s

/-- XOR with a sign-extended immediate (R68). -/
def execXorImm (d a : Reg) (i : BitVec 11) (s : State) : Host.Outcome State Fault Refusal :=
  runMeaning (oneReg 4 d a fun x => x ^^^ sext i) s

/-- SLT with a sign-extended immediate (R68). -/
def execSltImm (d a : Reg) (i : BitVec 11) (s : State) : Host.Outcome State Fault Refusal :=
  runMeaning (oneReg 4 d a fun x => bit (x.slt (sext i))) s

/-- SLTU with a sign-extended immediate (R68). -/
def execSltuImm (d a : Reg) (i : BitVec 11) (s : State) : Host.Outcome State Fault Refusal :=
  runMeaning (oneReg 4 d a fun x => bit (x.ult (sext i))) s

/-- ADD with a sign-extended immediate (R61, R68). -/
def execAddXi (d a : Reg) (i : BitVec 32) (s : State) : Host.Outcome State Fault Refusal :=
  runMeaning (oneReg 8 d a fun x => x + sext i) s

/-- AND with a sign-extended immediate (R61, R68). -/
def execAndXi (d a : Reg) (i : BitVec 32) (s : State) : Host.Outcome State Fault Refusal :=
  runMeaning (oneReg 8 d a fun x => x &&& sext i) s

/-- OR with a sign-extended immediate (R61, R68). -/
def execOrXi (d a : Reg) (i : BitVec 32) (s : State) : Host.Outcome State Fault Refusal :=
  runMeaning (oneReg 8 d a fun x => x ||| sext i) s

/-- XOR with a sign-extended immediate (R61, R68). -/
def execXorXi (d a : Reg) (i : BitVec 32) (s : State) : Host.Outcome State Fault Refusal :=
  runMeaning (oneReg 8 d a fun x => x ^^^ sext i) s

/-- SLT with a sign-extended immediate (R61, R68). -/
def execSltXi (d a : Reg) (i : BitVec 32) (s : State) : Host.Outcome State Fault Refusal :=
  runMeaning (oneReg 8 d a fun x => bit (x.slt (sext i))) s

/-- SLTU with a sign-extended immediate (R61, R68). -/
def execSltuXi (d a : Reg) (i : BitVec 32) (s : State) : Host.Outcome State Fault Refusal :=
  runMeaning (oneReg 8 d a fun x => bit (x.ult (sext i))) s

/-- SLL by an immediate of 0 to 63 (R68). -/
def execSllImm (d a : Reg) (sh : BitVec 6) (s : State) : Host.Outcome State Fault Refusal :=
  runMeaning (oneReg 4 d a fun x => x <<< sh.toNat) s

/-- SRL by an immediate of 0 to 63 (R68). -/
def execSrlImm (d a : Reg) (sh : BitVec 6) (s : State) : Host.Outcome State Fault Refusal :=
  runMeaning (oneReg 4 d a fun x => x >>> sh.toNat) s

/-- SRA by an immediate of 0 to 63 (R68). -/
def execSraImm (d a : Reg) (sh : BitVec 6) (s : State) : Host.Outcome State Fault Refusal :=
  runMeaning (oneReg 4 d a fun x => x.sshiftRight sh.toNat) s

/-- BFX: pos + len above 64 raises 0x01 (R69). -/
def execBfx (d a : Reg) (pos lenm1 : BitVec 6) (s : State) : Host.Outcome State Fault Refusal :=
  runMeaning (after 4 do
    start .scalar [d, a]
    require (decide (pos.toNat + lenm1.toNat + 1 ≤ 64)) 0x01
    let x ← getG a
    setG d (extractBits x pos.toNat (lenm1.toNat + 1))) s

/-- BFI: pos + len above 64 raises 0x01 (R69). -/
def execBfi (d a : Reg) (pos lenm1 : BitVec 6) (s : State) : Host.Outcome State Fault Refusal :=
  runMeaning (after 4 do
    start .scalar [d, a]
    require (decide (pos.toNat + lenm1.toNat + 1 ≤ 64)) 0x01
    let x ← getG a
    let t ← getG d
    setG d (insertBits t x pos.toNat (lenm1.toNat + 1))) s

/-- LUI: SignExtend(imm19 << 11, 30) (R70). -/
def execLui (d : Reg) (i : BitVec 19) (s : State) : Host.Outcome State Fault Refusal :=
  runMeaning (after 4 do
    start .scalar [d]
    setG d (sext i <<< 11)) s

/-- ADDPC: pc + 2 × SignExtend(imm19, 19) (R70). -/
def execAddpc (d : Reg) (i : BitVec 19) (s : State) : Host.Outcome State Fault Refusal :=
  runMeaning (after 4 do
    start .scalar [d]
    let pc ← ask State.pc
    setG d (codeTarget pc i)) s

/-! ## 16-bit forms (R63): each is its expansion, two bytes long -/

/-- ADD rd, rd, rs (R63). -/
def execC16AddRr (d a : Reg) (s : State) : Host.Outcome State Fault Refusal :=
  runMeaning (twoRegs 2 d d a (· + ·)) s

/-- ADD rd, rs, g0 (R63). -/
def execC16Mov (d a : Reg) (s : State) : Host.Outcome State Fault Refusal :=
  runMeaning (twoRegs 2 d a 0 (· + ·)) s

/-- ADD rd, rd, simm5 (R63). -/
def execC16AddImm (d : Reg) (i : BitVec 5) (s : State) : Host.Outcome State Fault Refusal :=
  runMeaning (oneReg 2 d d fun x => x + sext i) s

/-- ADD rd, g0, simm5 (R63). -/
def execC16Li (d : Reg) (i : BitVec 5) (s : State) : Host.Outcome State Fault Refusal :=
  runMeaning (oneReg 2 d 0 fun x => x + sext i) s

/-- SUB rd, rd, rs (R63). -/
def execC16Sub (d a : Reg) (s : State) : Host.Outcome State Fault Refusal :=
  runMeaning (twoRegs 2 d d a (· - ·)) s

/-- AND rd, rd, rs (R63). -/
def execC16And (d a : Reg) (s : State) : Host.Outcome State Fault Refusal :=
  runMeaning (twoRegs 2 d d a (· &&& ·)) s

/-- OR rd, rd, rs (R63). -/
def execC16Or (d a : Reg) (s : State) : Host.Outcome State Fault Refusal :=
  runMeaning (twoRegs 2 d d a (· ||| ·)) s

/-- XOR rd, rd, rs (R63). -/
def execC16Xor (d a : Reg) (s : State) : Host.Outcome State Fault Refusal :=
  runMeaning (twoRegs 2 d d a (· ^^^ ·)) s

/-- SLL rd, rd, uimm5 (R63). -/
def execC16Sll (d : Reg) (u : BitVec 5) (s : State) : Host.Outcome State Fault Refusal :=
  runMeaning (oneReg 2 d d fun x => x <<< u.toNat) s

/-- SRL rd, rd, uimm5 (R63). -/
def execC16Srl (d : Reg) (u : BitVec 5) (s : State) : Host.Outcome State Fault Refusal :=
  runMeaning (oneReg 2 d d fun x => x >>> u.toNat) s

/-- SRA rd, rd, uimm5 (R63). -/
def execC16Sra (d : Reg) (u : BitVec 5) (s : State) : Host.Outcome State Fault Refusal :=
  runMeaning (oneReg 2 d d fun x => x.sshiftRight u.toNat) s

end Sys2Proof.Machine
end

