-- ==== Sys2Proof/Machine/Vector.lean ====
section
/-! DEFINITION. The vector instructions of the 32-bit V format (R59, R114 to R121, R128). -/

namespace Sys2Proof.Machine

/-- VADD: x + y (R114). -/
def execVadd (f : Fmt) (k : KReg) (q : Bool) (d a b : Reg) (s : State) : Host.Outcome State Fault Refusal :=
  runMeaning ((form32 f k q).arith .add ((form32 f k q).field d) [(form32 f k q).field a, (form32 f k q).field b]) s

/-- VSUB: x − y (R114). -/
def execVsub (f : Fmt) (k : KReg) (q : Bool) (d a b : Reg) (s : State) : Host.Outcome State Fault Refusal :=
  runMeaning ((form32 f k q).arith .sub ((form32 f k q).field d) [(form32 f k q).field a, (form32 f k q).field b]) s

/-- VMUL: x × y (R114). -/
def execVmul (f : Fmt) (k : KReg) (q : Bool) (d a b : Reg) (s : State) : Host.Outcome State Fault Refusal :=
  runMeaning ((form32 f k q).arith .mul ((form32 f k q).field d) [(form32 f k q).field a, (form32 f k q).field b]) s

/-- VFMA: x × y + c, rounded once; the addend is the old `v[vd]` or `vc` (R114). -/
def execVfma (f : Fmt) (k : KReg) (q : Bool) (d a b : Reg) (s : State) : Host.Outcome State Fault Refusal :=
  runMeaning ((form32 f k q).arith .fma (.reg d) [(form32 f k q).field a, (form32 f k q).field b, .reg d]) s

/-- VFMS: x × y − c, rounded once; the addend is the old `v[vd]` or `vc` (R114). -/
def execVfms (f : Fmt) (k : KReg) (q : Bool) (d a b : Reg) (s : State) : Host.Outcome State Fault Refusal :=
  runMeaning ((form32 f k q).arith .fms (.reg d) [(form32 f k q).field a, (form32 f k q).field b, .reg d]) s

/-- VMIN: minimumNumber (R115). -/
def execVmin (f : Fmt) (k : KReg) (q : Bool) (d a b : Reg) (s : State) : Host.Outcome State Fault Refusal :=
  runMeaning ((form32 f k q).select false d a b) s

/-- VMAX: maximumNumber (R115). -/
def execVmax (f : Fmt) (k : KReg) (q : Bool) (d a b : Reg) (s : State) : Host.Outcome State Fault Refusal :=
  runMeaning ((form32 f k q).select true d a b) s

/-- VABS: only the sign changes (R114). -/
def execVabs (f : Fmt) (k : KReg) (q : Bool) (d a : Reg) (s : State) : Host.Outcome State Fault Refusal :=
  runMeaning ((form32 f k q).arith .abs ((form32 f k q).field d) [(form32 f k q).field a]) s

/-- VNEG: only the sign changes (R114). -/
def execVneg (f : Fmt) (k : KReg) (q : Bool) (d a : Reg) (s : State) : Host.Outcome State Fault Refusal :=
  runMeaning ((form32 f k q).arith .neg ((form32 f k q).field d) [(form32 f k q).field a]) s

/-- VRCP (R116). -/
def execVrcp (f : Fmt) (k : KReg) (q : Bool) (d a : Reg) (s : State) : Host.Outcome State Fault Refusal :=
  runMeaning ((form32 f k q).function .rcp d a) s

/-- VRSQ (R116). -/
def execVrsq (f : Fmt) (k : KReg) (q : Bool) (d a : Reg) (s : State) : Host.Outcome State Fault Refusal :=
  runMeaning ((form32 f k q).function .rsq d a) s

/-- VEXP2 (R116). -/
def execVexp2 (f : Fmt) (k : KReg) (q : Bool) (d a : Reg) (s : State) : Host.Outcome State Fault Refusal :=
  runMeaning ((form32 f k q).function .exp2 d a) s

/-- VLOG2 (R116). -/
def execVlog2 (f : Fmt) (k : KReg) (q : Bool) (d a : Reg) (s : State) : Host.Outcome State Fault Refusal :=
  runMeaning ((form32 f k q).function .log2 d a) s

/-- VSHL (R117). -/
def execVshl (f : Fmt) (k : KReg) (q : Bool) (d a b : Reg) (s : State) : Host.Outcome State Fault Refusal :=
  runMeaning ((form32 f k q).shift .left d a b) s

/-- VSHR (R117). -/
def execVshr (f : Fmt) (k : KReg) (q : Bool) (d a b : Reg) (s : State) : Host.Outcome State Fault Refusal :=
  runMeaning ((form32 f k q).shift .right d a b) s

/-- VSHR.a (R117). -/
def execVshrA (f : Fmt) (k : KReg) (q : Bool) (d a b : Reg) (s : State) : Host.Outcome State Fault Refusal :=
  runMeaning ((form32 f k q).shift .arith d a b) s

/-- VCMP.eq (R118). -/
def execVcmpEq (f : Fmt) (k : KReg) (q : Bool) (d : KReg) (a b : Reg) (s : State) : Host.Outcome State Fault Refusal :=
  runMeaning ((form32 f k q).compare .eq d a b) s

/-- VCMP.ne (R118). -/
def execVcmpNe (f : Fmt) (k : KReg) (q : Bool) (d : KReg) (a b : Reg) (s : State) : Host.Outcome State Fault Refusal :=
  runMeaning ((form32 f k q).compare .ne d a b) s

/-- VCMP.lt (R118). -/
def execVcmpLt (f : Fmt) (k : KReg) (q : Bool) (d : KReg) (a b : Reg) (s : State) : Host.Outcome State Fault Refusal :=
  runMeaning ((form32 f k q).compare .lt d a b) s

/-- VCMP.le (R118). -/
def execVcmpLe (f : Fmt) (k : KReg) (q : Bool) (d : KReg) (a b : Reg) (s : State) : Host.Outcome State Fault Refusal :=
  runMeaning ((form32 f k q).compare .le d a b) s

/-- VSEL: the mask selects (R119). -/
def execVsel (f : Fmt) (k : KReg) (q : Bool) (d a b : Reg) (s : State) : Host.Outcome State Fault Refusal :=
  runMeaning ((form32 f k q).choose d a b) s

/-- VPERM (R119). -/
def execVperm (f : Fmt) (k : KReg) (q : Bool) (d a b : Reg) (s : State) : Host.Outcome State Fault Refusal :=
  runMeaning ((form32 f k q).permute d a b) s

/-- VSLIDE.up (R119). -/
def execVslideUp (f : Fmt) (k : KReg) (q : Bool) (d a b : Reg) (s : State) : Host.Outcome State Fault Refusal :=
  runMeaning ((form32 f k q).slide .up d a b) s

/-- VSLIDE.dn (R119). -/
def execVslideDn (f : Fmt) (k : KReg) (q : Bool) (d a b : Reg) (s : State) : Host.Outcome State Fault Refusal :=
  runMeaning ((form32 f k q).slide .down d a b) s

/-- VBCAST (R119). -/
def execVbcast (f : Fmt) (k : KReg) (q : Bool) (d a : Reg) (s : State) : Host.Outcome State Fault Refusal :=
  runMeaning ((form32 f k q).broadcast d a) s

/-- VRED.add (R120). -/
def execVredAdd (f : Fmt) (k : KReg) (q : Bool) (d a b : Reg) (s : State) : Host.Outcome State Fault Refusal :=
  runMeaning ((form32 f k q).reduction .add d a b) s

/-- VRED.min (R120). -/
def execVredMin (f : Fmt) (k : KReg) (q : Bool) (d a b : Reg) (s : State) : Host.Outcome State Fault Refusal :=
  runMeaning ((form32 f k q).reduction .min d a b) s

/-- VRED.max (R120). -/
def execVredMax (f : Fmt) (k : KReg) (q : Bool) (d a b : Reg) (s : State) : Host.Outcome State Fault Refusal :=
  runMeaning ((form32 f k q).reduction .max d a b) s

/-- VSCAN.add (R121). -/
def execVscanAdd (f : Fmt) (k : KReg) (q : Bool) (d a b : Reg) (s : State) : Host.Outcome State Fault Refusal :=
  runMeaning ((form32 f k q).scan d a b) s

/-- VMVG (R128). -/
def execVmvg (f : Fmt) (q : Bool) (d a b : Reg) (s : State) : Host.Outcome State Fault Refusal :=
  runMeaning ((form32 f 0 q).toGeneral d a b) s

end Sys2Proof.Machine
end

