-- ==== Sys2Proof/Machine/VectorMask.lean ====
section
/-! DEFINITION. The V.x forms: bitwise logic, moves, masks and residues (R117, R126 to R128). -/

namespace Sys2Proof.Machine

/-- A bitwise operation; the mask acts per byte (R117). -/
def bitwise (k : KReg) (q : Bool) (d a b : Reg) (op : Nat → Nat → Nat) : M Word :=
  after 4 do
    start .vector []
    let k ← getMask k
    let dst := vfield q d
    let vs ← vectorSources [vfield q a, vfield q b] [dst]
    let old ← oldValue dst
    let seed ← getSeed
    putLanes dst 8 (mapActive k 8 128 old.toNat
      (noDraw fun i => (op (elem (vs.getD 0 0).toNat 8 i) (elem (vs.getD 1 0).toNat 8 i), 0)) seed)

/-- An operation on the 32 residue words of one or two sources (R126). -/
def residueOp (k : KReg) (q : Bool) (d : Reg) (srcs : List Reg) (op : Nat → Nat → Nat) : M Word :=
  after 4 do
    start .vector []
    let k ← getMask k
    let dst := vfield q d
    let vs ← vectorSources (srcs.map (vfield q)) [dst]
    let old ← oldValue dst
    let seed ← getSeed
    putLanes dst 32 (mapActive k 32 32 old.toNat
      (noDraw fun i => (op (elem (vs.getD 0 0).toNat 32 i) (elem (vs.getD 1 0).toNat 32 i), 0)) seed)

/-- A mask computed from masks, in F only (R127). -/
def maskOp (d : KReg) (op : State → Nat → KWord) : M Word :=
  after 4 do
    start .vector []
    let (n, x) ← self
    require (x == .f && d != 0) 0x01
    let m ← ask fun s => op s n
    setMask d m

/-- VAND (R117). -/
def execVand (k : KReg) (q : Bool) (d a b : Reg) (s : State) : Host.Outcome State Fault Refusal :=
  runMeaning (bitwise k q d a b fun x y => x &&& y) s

/-- VOR (R117). -/
def execVor (k : KReg) (q : Bool) (d a b : Reg) (s : State) : Host.Outcome State Fault Refusal :=
  runMeaning (bitwise k q d a b fun x y => x ||| y) s

/-- VXOR (R117). -/
def execVxor (k : KReg) (q : Bool) (d a b : Reg) (s : State) : Host.Outcome State Fault Refusal :=
  runMeaning (bitwise k q d a b fun x y => x ^^^ y) s

/-- GMVV (R128): a general register into bits <63:0>. -/
def execGmvv (q : Bool) (d a : Reg) (s : State) : Host.Outcome State Fault Refusal :=
  runMeaning (after 4 do
    start .vector [a]
    let dst := vfield q d
    let _ ← vectorSources [] [dst]
    let x ← getG a
    putVector dst (BitVec.ofNat 1024 x.toNat)) s

/-- KAND (R127). -/
def execKand (d a b : KReg) (s : State) : Host.Outcome State Fault Refusal :=
  runMeaning (maskOp d fun s n => (s.core n).f.readK a &&& (s.core n).f.readK b) s

/-- KOR (R127). -/
def execKor (d a b : KReg) (s : State) : Host.Outcome State Fault Refusal :=
  runMeaning (maskOp d fun s n => (s.core n).f.readK a ||| (s.core n).f.readK b) s

/-- KNOT (R127). -/
def execKnot (d a : KReg) (s : State) : Host.Outcome State Fault Refusal :=
  runMeaning (maskOp d fun s n => ~~~(s.core n).f.readK a) s

/-- KPOP (R127): in F and H; D has no mask file (R36). -/
def execKpop (d : Reg) (a : KReg) (s : State) : Host.Outcome State Fault Refusal :=
  runMeaning (after 4 do
    start .vector [d]
    let (n, x) ← self
    require (x != .d) 0x01
    let m ← ask fun s => (s.core n).f.readK a
    setG d (word ((List.range 128).filter fun i => m.getLsbD i).length)) s

/-- RNADD (R126). -/
def execRnadd (k : KReg) (q : Bool) (d a b : Reg) (s : State) : Host.Outcome State Fault Refusal :=
  runMeaning (residueOp k q d [a, b] rnsAdd) s

/-- RNMUL (R126). -/
def execRnmul (k : KReg) (q : Bool) (d a b : Reg) (s : State) : Host.Outcome State Fault Refusal :=
  runMeaning (residueOp k q d [a, b] rnsMul) s

/-- RNFROM (R126): an INT32 lane to a residue word. -/
def execRnfrom (k : KReg) (q : Bool) (d a : Reg) (s : State) : Host.Outcome State Fault Refusal :=
  runMeaning (residueOp k q d [a] fun x _ => rnsOfInt (signedNat x 32)) s

/-- RNTO (R126): a residue word to an INT32 lane; a set hint sets RNG or raises 0x3A (R108). -/
def execRnto (k : KReg) (q : Bool) (d a : Reg) (s : State) : Host.Outcome State Fault Refusal :=
  runMeaning (after 4 do
    start .vector []
    let m ← getMask k
    let dst := vfield q d
    let vs ← vectorSources [vfield q a] [dst]
    let old ← oldValue dst
    let seed ← getSeed
    let x := (vs.getD 0 0).toNat
    rangeCheck ((List.range 32).find? fun i => active m 32 i && rnsHint (elem x 32 i))
    putLanes dst 32 (mapActive m 32 32 old.toNat
      (noDraw fun i => (wrapInt (rnsValue (elem x 32 i)) 32, 0)) seed)) s

end Sys2Proof.Machine
end

