-- ==== Sys2Proof/Machine/VectorXv.lean ====
section
/-! DEFINITION. The vector instructions of the 64-bit XV format (R60, R61, R109 to R125, R128). -/

namespace Sys2Proof.Machine

/-- VADD: x + y (R114). -/
def execVaddXv (x : XvFields) (d a b : Reg) (s : State) : Host.Outcome State Fault Refusal :=
  runMeaning ((form64 x).arith .add ((form64 x).field d) [(form64 x).field a, (form64 x).field b]) s

/-- VSUB: x − y (R114). -/
def execVsubXv (x : XvFields) (d a b : Reg) (s : State) : Host.Outcome State Fault Refusal :=
  runMeaning ((form64 x).arith .sub ((form64 x).field d) [(form64 x).field a, (form64 x).field b]) s

/-- VMUL: x × y (R114). -/
def execVmulXv (x : XvFields) (d a b : Reg) (s : State) : Host.Outcome State Fault Refusal :=
  runMeaning ((form64 x).arith .mul ((form64 x).field d) [(form64 x).field a, (form64 x).field b]) s

/-- VFMA: x × y + c, rounded once; the addend is the old `v[vd]` or `vc` (R114). -/
def execVfmaXv (x : XvFields) (d a b c : Reg) (s : State) : Host.Outcome State Fault Refusal :=
  runMeaning ((form64 x).arith .fma ((form64 x).field d) [(form64 x).field a, (form64 x).field b, (form64 x).field c]) s

/-- VFMS: x × y − c, rounded once; the addend is the old `v[vd]` or `vc` (R114). -/
def execVfmsXv (x : XvFields) (d a b c : Reg) (s : State) : Host.Outcome State Fault Refusal :=
  runMeaning ((form64 x).arith .fms ((form64 x).field d) [(form64 x).field a, (form64 x).field b, (form64 x).field c]) s

/-- VMIN: minimumNumber (R115). -/
def execVminXv (x : XvFields) (d a b : Reg) (s : State) : Host.Outcome State Fault Refusal :=
  runMeaning ((form64 x).select false d a b) s

/-- VMAX: maximumNumber (R115). -/
def execVmaxXv (x : XvFields) (d a b : Reg) (s : State) : Host.Outcome State Fault Refusal :=
  runMeaning ((form64 x).select true d a b) s

/-- VABS: only the sign changes (R114). -/
def execVabsXv (x : XvFields) (d a : Reg) (s : State) : Host.Outcome State Fault Refusal :=
  runMeaning ((form64 x).arith .abs ((form64 x).field d) [(form64 x).field a]) s

/-- VNEG: only the sign changes (R114). -/
def execVnegXv (x : XvFields) (d a : Reg) (s : State) : Host.Outcome State Fault Refusal :=
  runMeaning ((form64 x).arith .neg ((form64 x).field d) [(form64 x).field a]) s

/-- VRCP (R116). -/
def execVrcpXv (x : XvFields) (d a : Reg) (s : State) : Host.Outcome State Fault Refusal :=
  runMeaning ((form64 x).function .rcp d a) s

/-- VRSQ (R116). -/
def execVrsqXv (x : XvFields) (d a : Reg) (s : State) : Host.Outcome State Fault Refusal :=
  runMeaning ((form64 x).function .rsq d a) s

/-- VEXP2 (R116). -/
def execVexp2Xv (x : XvFields) (d a : Reg) (s : State) : Host.Outcome State Fault Refusal :=
  runMeaning ((form64 x).function .exp2 d a) s

/-- VLOG2 (R116). -/
def execVlog2Xv (x : XvFields) (d a : Reg) (s : State) : Host.Outcome State Fault Refusal :=
  runMeaning ((form64 x).function .log2 d a) s

/-- VSHL (R117). -/
def execVshlXv (x : XvFields) (d a b : Reg) (s : State) : Host.Outcome State Fault Refusal :=
  runMeaning ((form64 x).shift .left d a b) s

/-- VSHR (R117). -/
def execVshrXv (x : XvFields) (d a b : Reg) (s : State) : Host.Outcome State Fault Refusal :=
  runMeaning ((form64 x).shift .right d a b) s

/-- VSHR.a (R117). -/
def execVshrAXv (x : XvFields) (d a b : Reg) (s : State) : Host.Outcome State Fault Refusal :=
  runMeaning ((form64 x).shift .arith d a b) s

/-- VCMP.eq (R118). -/
def execVcmpEqXv (x : XvFields) (d : KReg) (a b : Reg) (s : State) : Host.Outcome State Fault Refusal :=
  runMeaning ((form64 x).compare .eq d a b) s

/-- VCMP.ne (R118). -/
def execVcmpNeXv (x : XvFields) (d : KReg) (a b : Reg) (s : State) : Host.Outcome State Fault Refusal :=
  runMeaning ((form64 x).compare .ne d a b) s

/-- VCMP.lt (R118). -/
def execVcmpLtXv (x : XvFields) (d : KReg) (a b : Reg) (s : State) : Host.Outcome State Fault Refusal :=
  runMeaning ((form64 x).compare .lt d a b) s

/-- VCMP.le (R118). -/
def execVcmpLeXv (x : XvFields) (d : KReg) (a b : Reg) (s : State) : Host.Outcome State Fault Refusal :=
  runMeaning ((form64 x).compare .le d a b) s

/-- VSEL: the mask selects (R119). -/
def execVselXv (x : XvFields) (d a b : Reg) (s : State) : Host.Outcome State Fault Refusal :=
  runMeaning ((form64 x).choose d a b) s

/-- VPERM (R119). -/
def execVpermXv (x : XvFields) (d a b : Reg) (s : State) : Host.Outcome State Fault Refusal :=
  runMeaning ((form64 x).permute d a b) s

/-- VSLIDE.up (R119). -/
def execVslideUpXv (x : XvFields) (d a b : Reg) (s : State) : Host.Outcome State Fault Refusal :=
  runMeaning ((form64 x).slide .up d a b) s

/-- VSLIDE.dn (R119). -/
def execVslideDnXv (x : XvFields) (d a b : Reg) (s : State) : Host.Outcome State Fault Refusal :=
  runMeaning ((form64 x).slide .down d a b) s

/-- VBCAST (R119). -/
def execVbcastXv (x : XvFields) (d a : Reg) (s : State) : Host.Outcome State Fault Refusal :=
  runMeaning ((form64 x).broadcast d a) s

/-- VRED.add (R120). -/
def execVredAddXv (x : XvFields) (d a b : Reg) (s : State) : Host.Outcome State Fault Refusal :=
  runMeaning ((form64 x).reduction .add d a b) s

/-- VRED.min (R120). -/
def execVredMinXv (x : XvFields) (d a b : Reg) (s : State) : Host.Outcome State Fault Refusal :=
  runMeaning ((form64 x).reduction .min d a b) s

/-- VRED.max (R120). -/
def execVredMaxXv (x : XvFields) (d a b : Reg) (s : State) : Host.Outcome State Fault Refusal :=
  runMeaning ((form64 x).reduction .max d a b) s

/-- VSCAN.add (R121). -/
def execVscanAddXv (x : XvFields) (d a b : Reg) (s : State) : Host.Outcome State Fault Refusal :=
  runMeaning ((form64 x).scan d a b) s

/-- VMVG (R128). -/
def execVmvgXv (x : XvFields) (d a b : Reg) (s : State) : Host.Outcome State Fault Refusal :=
  runMeaning ((form64 x).toGeneral d a b) s

/-- VCVT (R122): rounding, saturation and flags of R95 to R97; a set hint out of RNS3 sets RNG or raises
0x3A with the source index (R108). -/
def execVcvt (x : XvFields) (sfmt : Fmt) (p : BitVec 3) (d a : Reg) (s : State) :
    Host.Outcome State Fault Refusal :=
  runMeaning (after 8 do
    let v := form64 x
    let (k, mode) ← v.begin_ []
    let dst := v.field d
    let vs ← vectorSources [v.field a] [dst]
    let old ← oldValue dst
    let seed ← getSeed
    let (l, hint) := convert x.fmt sfmt mode v.sat p.toNat k (vs.getD 0 0).toNat old.toNat seed
    rangeCheck hint
    putLanes dst x.fmt.width l) s

/-- VMXSCALE (R123): the scale bytes at part `p`; other bytes keep the old value. -/
def execVmxscale (x : XvFields) (b16 : Bool) (p : BitVec 7) (d a : Reg) (s : State) :
    Host.Outcome State Fault Refusal :=
  runMeaning (after 8 do
    let v := form64 x
    let (k, _) ← v.begin_ []
    let dst := v.field d
    let vs ← vectorSources [v.field a] [dst]
    let old ← oldValue dst
    let (scales, fl) := blockScales x.fmt b16 k (vs.getD 0 0).toNat
    let lo := p.toNat * scaleCount x.fmt b16
    let codes := (List.range 128).map fun i =>
      if lo ≤ i ∧ i < lo + scales.length then scales.getD (i - lo) 0 else elem old.toNat 8 i
    setFlags fl
    putVector dst (BitVec.ofNat 1024 (packElems 8 codes))) s

/-- VMXQ (R124). -/
def execVmxq (x : XvFields) (b16 : Bool) (qp : BitVec 3) (p : BitVec 7) (d a b : Reg) (s : State) :
    Host.Outcome State Fault Refusal :=
  runMeaning (after 8 do
    let v := form64 x
    let (k, mode) ← v.begin_ []
    let dst := v.field d
    let vs ← vectorSources [v.field a, v.field b] [dst]
    let old ← oldValue dst
    let seed ← getSeed
    putLanes dst x.fmt.width
      (quantize x.fmt b16 qp.toNat p.toNat mode v.sat k (vs.getD 0 0).toNat (vs.getD 1 0).toNat old.toNat seed)) s

/-- VDOT.mx (R125): element 0 takes the FP32 result, the others 0. -/
def execVdotMx (x : XvFields) (b16 : Bool) (d a b c : Reg) (s : State) : Host.Outcome State Fault Refusal :=
  runMeaning (after 8 do
    let v := form64 x
    let (k, _) ← v.begin_ []
    let dst := v.field d
    let vs ← vectorSources [v.field a, v.field b, v.field c] [dst]
    let (z, fl) := dotProduct x.fmt b16 k (vs.getD 0 0).toNat (vs.getD 1 0).toNat (vs.getD 2 0).toNat
    setFlags fl
    putVector dst (BitVec.ofNat 1024 z)) s

/-- The address of element `i` of a strided form (R112). -/
def stridedAddress (a b : Reg) (s : State) (i : Nat) : Word := s.readG a + word i * s.readG b

/-- The address of element `i` of an indexed form (R112): the index is a signed 32-bit element. -/
def indexedAddress (f : Fmt) (a : Reg) (s : State) (idx : VWord) (i : Nat) : Word :=
  s.readG a + signExtendNat (elem idx.toNat 32 i) 32 * word (f.width / 8)

/-- VLDS (R112). -/
def execVlds (x : XvFields) (ql : Qual) (d a b : Reg) (s : State) : Host.Outcome State Fault Refusal :=
  runMeaning (vectorGather x ql x.fmt.count d [a, b] [] fun s _ i => stridedAddress a b s i) s

/-- VSTS (R112). -/
def execVsts (x : XvFields) (ql : Qual) (d a b : Reg) (s : State) : Host.Outcome State Fault Refusal :=
  runMeaning (vectorScatter x ql x.fmt.count d [a, b] [] fun s _ i => stridedAddress a b s i) s

/-- VLDX: 32 elements (R112). -/
def execVldx (x : XvFields) (ql : Qual) (d a b : Reg) (s : State) : Host.Outcome State Fault Refusal :=
  runMeaning (vectorGather x ql 32 d [a] [vfield x.q b] fun s vs i =>
    indexedAddress x.fmt a s (vs.getD 0 0) i) s

/-- VSTX: 32 elements; the data is popped before the index (R109, R112). -/
def execVstx (x : XvFields) (ql : Qual) (d a b : Reg) (s : State) : Host.Outcome State Fault Refusal :=
  runMeaning (vectorScatter x ql 32 d [a] [vfield x.q b] fun s vs i =>
    indexedAddress x.fmt a s (vs.getD 1 0) i) s

end Sys2Proof.Machine
end

