-- ==== Sys2Proof/Machine/Walk.lean ====
section
/-! DEFINITION. Walks (R206 to R214): the start of a walk, WLDP and WRET, the install of a TLB entry, the
reservation of Keep blocks (R337), and the limit of a walk. -/

namespace Sys2Proof.Machine

/-! ## The start of a walk (R210, R211) -/

/-- The address-space descriptor of an ASID: ROOT and ENTRY, where it is valid. -/
def State.spaceOf (s : State) (d asid : Nat) : Option (Nat × Nat) :=
  let bs := memGetList s.mem ((s.die d).table + 16 * asid) 16
  let e := wordAt bs 8
  if flag e 16 && zeroField e 17 47 then some (natAt bs 0 8, field e 0 16) else none

/-- The registers with which a walk starts. -/
def walkRegisters (w : WalkReq) (root : Nat) : Vector Word 16 :=
  let g : Vector Word 16 := Vector.replicate 16 0
  let g := vset g 3 (word w.va)
  let g := vset g 4 (word root)
  let g := vset g 5 (word (w.log % 2 ^ 24 * 2 ^ 32 + w.user.toNat * 4 + w.kind))
  vset g 6 (word (field w.asid 0 24))

/-- TLB_MISS_WALK: the oldest request of a die starts a thread, at most 256 at once. -/
def execTlbMissWalk (die : Nat) (s : State) : Host.Outcome State Fault Refusal :=
  let d := s.die die
  match d.walks with
  | [] => .next s
  | w :: rest =>
    if 256 ≤ d.threads.length then .next s
    else
      let t : Thread := { tid := d.nextTid, req := w, g := Vector.replicate 16 0, pc := 0, count := 0, scratch := [] }
      let s := s.modDie die fun d => { d with walks := rest, nextTid := d.nextTid + 1 }
      match s.spaceOf die (field w.asid 0 16) with
      | none => .next (s.failWalk die t .routine)
      | some (root, entry) =>
        let t := { t with g := walkRegisters w root, pc := word entry }
        .next (s.modDie die fun d => { d with threads := d.threads ++ [t] })

/-- WALK_LIMIT_EXCEEDED: a walk that has executed 1,024 instructions fails. -/
def execWalkLimitExceeded (die tid : Nat) (s : State) : Host.Outcome State Fault Refusal :=
  match s.thread die tid with
  | some t => if 1024 ≤ t.count then .next (s.failWalk die t .routine) else .next s
  | none => .next s

/-! ## WLDP (R213) -/

/-- A local physical address that memory backs. -/
def State.hasMemory (s : State) (pa : Nat) : Bool := !isFabric pa && !absent s pa

/-- WLDP: it reads at the line's home. -/
def execWldp (d a : Reg) (s : State) : Host.Outcome State Fault Refusal :=
  runMeaning (after 8 do
    start .walk [d, a]
    let v ← getG a
    let pa := v.toNat
    let s ← get
    require (decide (pa % 8 = 0) && s.hasMemory pa) 0x18
    waitWhile (s.claimed (.mem pa))
    require ((firstPoison s.poison pa 8).isNone) 0x18
    setG d (wordAt (memGetList s.mem pa 8) 0)) s

/-! ## Keep blocks (R335, R337) -/

/-- The Keep blocks of a page that nobody has reserved; a block keeps its first owner (log 64). -/
def State.unreserved (s : State) (pa size : Nat) : List Nat :=
  ((List.range ((pa % 65536 + 2 ^ size + 65535) / 65536)).map fun i => (pa / 65536 + i) * 65536).filter fun b =>
    !s.keep.blocks.any fun k => k.pa == b

/-- Blocks that a controller keeps. -/
def State.keptBy (s : State) (ctrl : Nat) : Nat := (s.keep.blocks.filter fun b => keepCtrl b.pa == ctrl).length

/-- Has every controller room for new blocks? -/
def State.keepRoom (s : State) (new : List Nat) : Bool :=
  (List.range 12).all fun c => decide (s.keptBy c + (new.filter fun b => keepCtrl b == c).length ≤ 8192 * s.keep.gib)

/-- The bytes of a 64 KiB block that differ from zero, by offset. -/
def blockCells (m : List Host.Cell) (pa : Nat) : List Host.Cell :=
  (m.filter fun c => decide (pa ≤ c.1 ∧ c.1 < pa + 65536 ∧ c.2 ≠ 0)).map fun c => (c.1 - pa, c.2)

/-- Blocks reserved for a grid: their home contents go into the current slot. -/
def State.reserveBlocks (s : State) (grid : Nat) (new : List Nat) : State :=
  let add := new.map fun b =>
    ({ pa := b, grid := grid, cur := false, pend := false, inSet := false, slot0 := blockCells s.mem b,
       slot1 := [] } : KeepBlock)
  { s with keep := { s.keep with blocks := s.keep.blocks ++ add } }

/-! ## WRET (R206 to R208, R214) -/

/-- log2 of the page size of a size code. -/
def pageBits (code : Nat) : Option Nat :=
  match code with
  | 0 => some 12 | 1 => some 16 | 2 => some 21 | 3 => some 25 | 4 => some 30 | _ => none

/-- The fields of a leaf and its companion word that must be zero or legal; a page reaches no absent address. -/
def State.leafLegal (s : State) (leaf comp : Word) (size : Nat) : Bool :=
  let pa := field leaf 12 40 * 4096 / 2 ^ size * 2 ^ size
  zeroField leaf 52 12 && zeroField leaf 10 2 && decide (field leaf 7 2 < 2) && flag leaf 1 && zeroField comp 3 23 &&
    (isFabric pa || !absent s (pa + 2 ^ size - 1))

/-- An entry in the TLB of a cluster: 4,096 entries, the oldest replaced (log 20). -/
def Cluster.install (c : Cluster) (e : TlbEntry) : Cluster :=
  let l := c.tlb ++ [e]
  { c with tlb := l.drop (l.length - 4096) }

/-- Does a TLBINV since the walk began keep its result out of a cluster's TLB (R89)? -/
def WalkReq.cancelled (w : WalkReq) (cluster : Nat) (e : TlbEntry) : Bool :=
  w.cancel.any fun i => i.1 == cluster && e.removedBy i.2

/-- The TLB entry that a walk gives. -/
def WalkReq.entry (w : WalkReq) (leaf comp : Word) (size : Nat) : TlbEntry :=
  { va := w.va / 2 ^ size * 2 ^ size, size := size, asid := field w.asid 0 16, leaf := leaf, comp := comp }

/-- An entry installed for every cluster that awaits its walk, unless a removal there keeps it out (R89, R214). -/
def State.installFor (s : State) (w : WalkReq) (e : TlbEntry) : State :=
  (w.clusters.filter fun c => !w.cancelled c e).foldl (fun s c => s.modCluster c fun x => x.install e) s

/-- A walk's result is installed for its waiters; a page that recovery covers has its blocks reserved first (R337). -/
def State.install (s : State) (d : Nat) (t : Thread) (leaf comp : Word) (size : Nat) : State :=
  let w := t.req
  let e := w.entry leaf comp size
  let ended := s.modDie d fun x => { x with threads := x.threads.filter fun u => u.tid != t.tid }
  let pa := field leaf 12 40 * 4096 / 2 ^ size * 2 ^ size
  match w.clusters.all fun c => w.cancelled c e, flag comp 26 && !isFabric pa, w.grid with
  | false, true, some g =>
    let new := s.unreserved pa size
    if s.keepRoom new then (ended.reserveBlocks g new).installFor w e else s.failWalk d t .noKeep
  | _, _, _ => ended.installFor w e

/-- WRET: the walk ends. -/
def execWret (a b : Reg) (s : State) : Host.Outcome State Fault Refusal :=
  runMeaning (do
    start .walk [a, b]
    let leaf ← getG a
    let comp ← getG b
    let s ← get
    match s.turn with
    | .walker d tid =>
      match s.thread d tid with
      | none => stop (.fault .noContext)
      | some t =>
        if !flag leaf 0 then do
          set (s.failWalk d t .absent)
          leave
        else
          match pageBits (field comp 0 3) with
          | none => signal 0x18
          | some size => do
            require (s.leafLegal leaf comp size) 0x18
            set (s.install d t leaf comp size)
            leave
    | _ => signal 0x01) s

end Sys2Proof.Machine
end

