-- ==== Sys2Proof/Machine/Dispatch.lean ====
section
/-! DEFINITION. One arm per constructor of `Instr`: its meaning. -/

namespace Sys2Proof.Machine

def exec (i : Instr) (s : State) : Host.Outcome State Fault Refusal :=
  match i with
  | .add d a b => Sys2Proof.Machine.execAdd d a b s
  | .sub d a b => Sys2Proof.Machine.execSub d a b s
  | .and d a b => Sys2Proof.Machine.execAnd d a b s
  | .or d a b => Sys2Proof.Machine.execOr d a b s
  | .xor d a b => Sys2Proof.Machine.execXor d a b s
  | .sll d a b => Sys2Proof.Machine.execSll d a b s
  | .srl d a b => Sys2Proof.Machine.execSrl d a b s
  | .sra d a b => Sys2Proof.Machine.execSra d a b s
  | .slt d a b => Sys2Proof.Machine.execSlt d a b s
  | .sltu d a b => Sys2Proof.Machine.execSltu d a b s
  | .min d a b => Sys2Proof.Machine.execMin d a b s
  | .max d a b => Sys2Proof.Machine.execMax d a b s
  | .minu d a b => Sys2Proof.Machine.execMinu d a b s
  | .maxu d a b => Sys2Proof.Machine.execMaxu d a b s
  | .mul d a b => Sys2Proof.Machine.execMul d a b s
  | .mulh d a b => Sys2Proof.Machine.execMulh d a b s
  | .mulhu d a b => Sys2Proof.Machine.execMulhu d a b s
  | .div d a b => Sys2Proof.Machine.execDiv d a b s
  | .divu d a b => Sys2Proof.Machine.execDivu d a b s
  | .rem d a b => Sys2Proof.Machine.execRem d a b s
  | .remu d a b => Sys2Proof.Machine.execRemu d a b s
  | .clz d a => Sys2Proof.Machine.execClz d a s
  | .ctz d a => Sys2Proof.Machine.execCtz d a s
  | .popc d a => Sys2Proof.Machine.execPopc d a s
  | .extB d a => Sys2Proof.Machine.execExtB d a s
  | .extH d a => Sys2Proof.Machine.execExtH d a s
  | .extW d a => Sys2Proof.Machine.execExtW d a s
  | .addImm d a imm => Sys2Proof.Machine.execAddImm d a imm s
  | .andImm d a imm => Sys2Proof.Machine.execAndImm d a imm s
  | .orImm d a imm => Sys2Proof.Machine.execOrImm d a imm s
  | .xorImm d a imm => Sys2Proof.Machine.execXorImm d a imm s
  | .sltImm d a imm => Sys2Proof.Machine.execSltImm d a imm s
  | .sltuImm d a imm => Sys2Proof.Machine.execSltuImm d a imm s
  | .sllImm d a sh => Sys2Proof.Machine.execSllImm d a sh s
  | .srlImm d a sh => Sys2Proof.Machine.execSrlImm d a sh s
  | .sraImm d a sh => Sys2Proof.Machine.execSraImm d a sh s
  | .addXi d a imm => Sys2Proof.Machine.execAddXi d a imm s
  | .andXi d a imm => Sys2Proof.Machine.execAndXi d a imm s
  | .orXi d a imm => Sys2Proof.Machine.execOrXi d a imm s
  | .xorXi d a imm => Sys2Proof.Machine.execXorXi d a imm s
  | .sltXi d a imm => Sys2Proof.Machine.execSltXi d a imm s
  | .sltuXi d a imm => Sys2Proof.Machine.execSltuXi d a imm s
  | .bfx d a pos lenm1 => Sys2Proof.Machine.execBfx d a pos lenm1 s
  | .bfi d a pos lenm1 => Sys2Proof.Machine.execBfi d a pos lenm1 s
  | .lui d imm => Sys2Proof.Machine.execLui d imm s
  | .addpc d imm => Sys2Proof.Machine.execAddpc d imm s
  | .jal d o => Sys2Proof.Machine.execJal d o s
  | .jalr d a imm => Sys2Proof.Machine.execJalr d a imm s
  | .beq a b o => Sys2Proof.Machine.execBeq a b o s
  | .bne a b o => Sys2Proof.Machine.execBne a b o s
  | .blt a b o => Sys2Proof.Machine.execBlt a b o s
  | .bge a b o => Sys2Proof.Machine.execBge a b o s
  | .bltu a b o => Sys2Proof.Machine.execBltu a b o s
  | .bgeu a b o => Sys2Proof.Machine.execBgeu a b o s
  | .bqe q o => Sys2Proof.Machine.execBqe q o s
  | .ldB d base imm ql => Sys2Proof.Machine.execLdB d base imm ql s
  | .ldH d base imm ql => Sys2Proof.Machine.execLdH d base imm ql s
  | .ldW d base imm ql => Sys2Proof.Machine.execLdW d base imm ql s
  | .ldD d base imm ql => Sys2Proof.Machine.execLdD d base imm ql s
  | .lduB d base imm ql => Sys2Proof.Machine.execLduB d base imm ql s
  | .lduH d base imm ql => Sys2Proof.Machine.execLduH d base imm ql s
  | .lduW d base imm ql => Sys2Proof.Machine.execLduW d base imm ql s
  | .stB r base imm ql => Sys2Proof.Machine.execStB r base imm ql s
  | .stH r base imm ql => Sys2Proof.Machine.execStH r base imm ql s
  | .stW r base imm ql => Sys2Proof.Machine.execStW r base imm ql s
  | .stD r base imm ql => Sys2Proof.Machine.execStD r base imm ql s
  | .pref target write base imm ql => Sys2Proof.Machine.execPref target write base imm ql s
  | .vld d base imm ql => Sys2Proof.Machine.execVld d base imm ql s
  | .vst r base imm ql => Sys2Proof.Machine.execVst r base imm ql s
  | .ldBXl d base off ql => Sys2Proof.Machine.execLdBXl d base off ql s
  | .ldHXl d base off ql => Sys2Proof.Machine.execLdHXl d base off ql s
  | .ldWXl d base off ql => Sys2Proof.Machine.execLdWXl d base off ql s
  | .ldDXl d base off ql => Sys2Proof.Machine.execLdDXl d base off ql s
  | .lduBXl d base off ql => Sys2Proof.Machine.execLduBXl d base off ql s
  | .lduHXl d base off ql => Sys2Proof.Machine.execLduHXl d base off ql s
  | .lduWXl d base off ql => Sys2Proof.Machine.execLduWXl d base off ql s
  | .stBXl r base off ql => Sys2Proof.Machine.execStBXl r base off ql s
  | .stHXl r base off ql => Sys2Proof.Machine.execStHXl r base off ql s
  | .stWXl r base off ql => Sys2Proof.Machine.execStWXl r base off ql s
  | .stDXl r base off ql => Sys2Proof.Machine.execStDXl r base off ql s
  | .prefXl target write base off ql => Sys2Proof.Machine.execPrefXl target write base off ql s
  | .vldXl d base off ql => Sys2Proof.Machine.execVldXl d base off ql s
  | .vstXl r base off ql => Sys2Proof.Machine.execVstXl r base off ql s
  | .amoAddW d base b ql => Sys2Proof.Machine.execAmoAddW d base b ql s
  | .amoAndW d base b ql => Sys2Proof.Machine.execAmoAndW d base b ql s
  | .amoOrW d base b ql => Sys2Proof.Machine.execAmoOrW d base b ql s
  | .amoXorW d base b ql => Sys2Proof.Machine.execAmoXorW d base b ql s
  | .amoMinW d base b ql => Sys2Proof.Machine.execAmoMinW d base b ql s
  | .amoMaxW d base b ql => Sys2Proof.Machine.execAmoMaxW d base b ql s
  | .amoMinuW d base b ql => Sys2Proof.Machine.execAmoMinuW d base b ql s
  | .amoMaxuW d base b ql => Sys2Proof.Machine.execAmoMaxuW d base b ql s
  | .amoSwapW d base b ql => Sys2Proof.Machine.execAmoSwapW d base b ql s
  | .amoFaddW d base b ql => Sys2Proof.Machine.execAmoFaddW d base b ql s
  | .amoFminW d base b ql => Sys2Proof.Machine.execAmoFminW d base b ql s
  | .amoFmaxW d base b ql => Sys2Proof.Machine.execAmoFmaxW d base b ql s
  | .casW d base b ql => Sys2Proof.Machine.execCasW d base b ql s
  | .amoAddD d base b ql => Sys2Proof.Machine.execAmoAddD d base b ql s
  | .amoAndD d base b ql => Sys2Proof.Machine.execAmoAndD d base b ql s
  | .amoOrD d base b ql => Sys2Proof.Machine.execAmoOrD d base b ql s
  | .amoXorD d base b ql => Sys2Proof.Machine.execAmoXorD d base b ql s
  | .amoMinD d base b ql => Sys2Proof.Machine.execAmoMinD d base b ql s
  | .amoMaxD d base b ql => Sys2Proof.Machine.execAmoMaxD d base b ql s
  | .amoMinuD d base b ql => Sys2Proof.Machine.execAmoMinuD d base b ql s
  | .amoMaxuD d base b ql => Sys2Proof.Machine.execAmoMaxuD d base b ql s
  | .amoSwapD d base b ql => Sys2Proof.Machine.execAmoSwapD d base b ql s
  | .casD d base b ql => Sys2Proof.Machine.execCasD d base b ql s
  | .amoAddXa d base b ql pl wide => Sys2Proof.Machine.execAmoAddXa d base b ql pl wide s
  | .amoAndXa d base b ql pl wide => Sys2Proof.Machine.execAmoAndXa d base b ql pl wide s
  | .amoOrXa d base b ql pl wide => Sys2Proof.Machine.execAmoOrXa d base b ql pl wide s
  | .amoXorXa d base b ql pl wide => Sys2Proof.Machine.execAmoXorXa d base b ql pl wide s
  | .amoMinXa d base b ql pl wide => Sys2Proof.Machine.execAmoMinXa d base b ql pl wide s
  | .amoMaxXa d base b ql pl wide => Sys2Proof.Machine.execAmoMaxXa d base b ql pl wide s
  | .amoMinuXa d base b ql pl wide => Sys2Proof.Machine.execAmoMinuXa d base b ql pl wide s
  | .amoMaxuXa d base b ql pl wide => Sys2Proof.Machine.execAmoMaxuXa d base b ql pl wide s
  | .amoSwapXa d base b ql pl wide => Sys2Proof.Machine.execAmoSwapXa d base b ql pl wide s
  | .amoFaddXa d base b ql pl => Sys2Proof.Machine.execAmoFaddXa d base b ql pl s
  | .amoFminXa d base b ql pl => Sys2Proof.Machine.execAmoFminXa d base b ql pl s
  | .amoFmaxXa d base b ql pl => Sys2Proof.Machine.execAmoFmaxXa d base b ql pl s
  | .casXa d base b ql pl wide => Sys2Proof.Machine.execCasXa d base b ql pl wide s
  | .atomicActivation core => Sys2Proof.Machine.execAtomicActivation core s
  | .fence ql => Sys2Proof.Machine.execFence ql s
  | .rpseal d a => Sys2Proof.Machine.execRpseal d a s
  | .rpsealT d a => Sys2Proof.Machine.execRpsealT d a s
  | .rprestore d a => Sys2Proof.Machine.execRprestore d a s
  | .sysc => Sys2Proof.Machine.execSysc s
  | .retk => Sys2Proof.Machine.execRetk s
  | .wfi => Sys2Proof.Machine.execWfi s
  | .fend => Sys2Proof.Machine.execFend s
  | .brk => Sys2Proof.Machine.execBrk s
  | .tlbinv a b => Sys2Proof.Machine.execTlbinv a b s
  | .l1inv a => Sys2Proof.Machine.execL1inv a s
  | .srr d sel => Sys2Proof.Machine.execSrr d sel s
  | .srw sel a => Sys2Proof.Machine.execSrw sel a s
  | .srs sel a => Sys2Proof.Machine.execSrs sel a s
  | .src sel a => Sys2Proof.Machine.execSrc sel a s
  | .hint h => Sys2Proof.Machine.execHint h s
  | .hint64 h => Sys2Proof.Machine.execHint64 h s
  | .reservedEncoding why => Sys2Proof.Machine.execReservedEncoding why s
  | .lstr q a b => Sys2Proof.Machine.execLstr q a b s
  | .sstr q a b => Sys2Proof.Machine.execSstr q a b s
  | .qend q => Sys2Proof.Machine.execQend q s
  | .qpeek g q imm => Sys2Proof.Machine.execQpeek g q imm s
  | .qpeekD g q imm => Sys2Proof.Machine.execQpeekD g q imm s
  | .qcnt g q => Sys2Proof.Machine.execQcnt g q s
  | .push slot gs => Sys2Proof.Machine.execPush slot gs s
  | .pushr gc slot gs => Sys2Proof.Machine.execPushr gc slot gs s
  | .send gc cls gs => Sys2Proof.Machine.execSend gc cls gs s
  | .sendh gc cls gs => Sys2Proof.Machine.execSendh gc cls gs s
  | .barj lvl n => Sys2Proof.Machine.execBarj lvl n s
  | .bar d lvl n => Sys2Proof.Machine.execBar d lvl n s
  | .barl lvl n => Sys2Proof.Machine.execBarl lvl n s
  | .barst d lvl n => Sys2Proof.Machine.execBarst d lvl n s
  | .launch d a => Sys2Proof.Machine.execLaunch d a s
  | .abump d a arena => Sys2Proof.Machine.execAbump d a arena s
  | .abumpT d a arena => Sys2Proof.Machine.execAbumpT d a arena s
  | .mld md idx => Sys2Proof.Machine.execMld md idx s
  | .mslice d ms lvl => Sys2Proof.Machine.execMslice d ms lvl s
  | .fresume a => Sys2Proof.Machine.execFresume a s
  | .pair => Sys2Proof.Machine.execPair s
  | .unpair => Sys2Proof.Machine.execUnpair s
  | .vadd f k q d a b => Sys2Proof.Machine.execVadd f k q d a b s
  | .vsub f k q d a b => Sys2Proof.Machine.execVsub f k q d a b s
  | .vmul f k q d a b => Sys2Proof.Machine.execVmul f k q d a b s
  | .vfma f k q d a b => Sys2Proof.Machine.execVfma f k q d a b s
  | .vfms f k q d a b => Sys2Proof.Machine.execVfms f k q d a b s
  | .vmin f k q d a b => Sys2Proof.Machine.execVmin f k q d a b s
  | .vmax f k q d a b => Sys2Proof.Machine.execVmax f k q d a b s
  | .vabs f k q d a => Sys2Proof.Machine.execVabs f k q d a s
  | .vneg f k q d a => Sys2Proof.Machine.execVneg f k q d a s
  | .vrcp f k q d a => Sys2Proof.Machine.execVrcp f k q d a s
  | .vrsq f k q d a => Sys2Proof.Machine.execVrsq f k q d a s
  | .vexp2 f k q d a => Sys2Proof.Machine.execVexp2 f k q d a s
  | .vlog2 f k q d a => Sys2Proof.Machine.execVlog2 f k q d a s
  | .vshl f k q d a b => Sys2Proof.Machine.execVshl f k q d a b s
  | .vshr f k q d a b => Sys2Proof.Machine.execVshr f k q d a b s
  | .vshrA f k q d a b => Sys2Proof.Machine.execVshrA f k q d a b s
  | .vcmpEq f k q d a b => Sys2Proof.Machine.execVcmpEq f k q d a b s
  | .vcmpNe f k q d a b => Sys2Proof.Machine.execVcmpNe f k q d a b s
  | .vcmpLt f k q d a b => Sys2Proof.Machine.execVcmpLt f k q d a b s
  | .vcmpLe f k q d a b => Sys2Proof.Machine.execVcmpLe f k q d a b s
  | .vsel f k q d a b => Sys2Proof.Machine.execVsel f k q d a b s
  | .vperm f k q d a b => Sys2Proof.Machine.execVperm f k q d a b s
  | .vslideUp f k q d a b => Sys2Proof.Machine.execVslideUp f k q d a b s
  | .vslideDn f k q d a b => Sys2Proof.Machine.execVslideDn f k q d a b s
  | .vbcast f k q d a => Sys2Proof.Machine.execVbcast f k q d a s
  | .vredAdd f k q d a b => Sys2Proof.Machine.execVredAdd f k q d a b s
  | .vredMin f k q d a b => Sys2Proof.Machine.execVredMin f k q d a b s
  | .vredMax f k q d a b => Sys2Proof.Machine.execVredMax f k q d a b s
  | .vscanAdd f k q d a b => Sys2Proof.Machine.execVscanAdd f k q d a b s
  | .vmvg f q d a b => Sys2Proof.Machine.execVmvg f q d a b s
  | .vand k q d a b => Sys2Proof.Machine.execVand k q d a b s
  | .vor k q d a b => Sys2Proof.Machine.execVor k q d a b s
  | .vxor k q d a b => Sys2Proof.Machine.execVxor k q d a b s
  | .gmvv q d a => Sys2Proof.Machine.execGmvv q d a s
  | .kand d a b => Sys2Proof.Machine.execKand d a b s
  | .kor d a b => Sys2Proof.Machine.execKor d a b s
  | .knot d a => Sys2Proof.Machine.execKnot d a s
  | .kpop d a => Sys2Proof.Machine.execKpop d a s
  | .rnadd k q d a b => Sys2Proof.Machine.execRnadd k q d a b s
  | .rnmul k q d a b => Sys2Proof.Machine.execRnmul k q d a b s
  | .rnfrom k q d a => Sys2Proof.Machine.execRnfrom k q d a s
  | .rnto k q d a => Sys2Proof.Machine.execRnto k q d a s
  | .vaddXv x d a b => Sys2Proof.Machine.execVaddXv x d a b s
  | .vsubXv x d a b => Sys2Proof.Machine.execVsubXv x d a b s
  | .vmulXv x d a b => Sys2Proof.Machine.execVmulXv x d a b s
  | .vfmaXv x d a b c => Sys2Proof.Machine.execVfmaXv x d a b c s
  | .vfmsXv x d a b c => Sys2Proof.Machine.execVfmsXv x d a b c s
  | .vminXv x d a b => Sys2Proof.Machine.execVminXv x d a b s
  | .vmaxXv x d a b => Sys2Proof.Machine.execVmaxXv x d a b s
  | .vabsXv x d a => Sys2Proof.Machine.execVabsXv x d a s
  | .vnegXv x d a => Sys2Proof.Machine.execVnegXv x d a s
  | .vrcpXv x d a => Sys2Proof.Machine.execVrcpXv x d a s
  | .vrsqXv x d a => Sys2Proof.Machine.execVrsqXv x d a s
  | .vexp2Xv x d a => Sys2Proof.Machine.execVexp2Xv x d a s
  | .vlog2Xv x d a => Sys2Proof.Machine.execVlog2Xv x d a s
  | .vshlXv x d a b => Sys2Proof.Machine.execVshlXv x d a b s
  | .vshrXv x d a b => Sys2Proof.Machine.execVshrXv x d a b s
  | .vshrAXv x d a b => Sys2Proof.Machine.execVshrAXv x d a b s
  | .vcmpEqXv x d a b => Sys2Proof.Machine.execVcmpEqXv x d a b s
  | .vcmpNeXv x d a b => Sys2Proof.Machine.execVcmpNeXv x d a b s
  | .vcmpLtXv x d a b => Sys2Proof.Machine.execVcmpLtXv x d a b s
  | .vcmpLeXv x d a b => Sys2Proof.Machine.execVcmpLeXv x d a b s
  | .vselXv x d a b => Sys2Proof.Machine.execVselXv x d a b s
  | .vpermXv x d a b => Sys2Proof.Machine.execVpermXv x d a b s
  | .vslideUpXv x d a b => Sys2Proof.Machine.execVslideUpXv x d a b s
  | .vslideDnXv x d a b => Sys2Proof.Machine.execVslideDnXv x d a b s
  | .vbcastXv x d a => Sys2Proof.Machine.execVbcastXv x d a s
  | .vredAddXv x d a b => Sys2Proof.Machine.execVredAddXv x d a b s
  | .vredMinXv x d a b => Sys2Proof.Machine.execVredMinXv x d a b s
  | .vredMaxXv x d a b => Sys2Proof.Machine.execVredMaxXv x d a b s
  | .vscanAddXv x d a b => Sys2Proof.Machine.execVscanAddXv x d a b s
  | .vmvgXv x d a b => Sys2Proof.Machine.execVmvgXv x d a b s
  | .vcvt x sfmt p d a => Sys2Proof.Machine.execVcvt x sfmt p d a s
  | .vmxscale x b16 p d a => Sys2Proof.Machine.execVmxscale x b16 p d a s
  | .vmxq x b16 qp p d a b => Sys2Proof.Machine.execVmxq x b16 qp p d a b s
  | .vdotMx x b16 d a b c => Sys2Proof.Machine.execVdotMx x b16 d a b c s
  | .vlds x ql d a b => Sys2Proof.Machine.execVlds x ql d a b s
  | .vsts x ql d a b => Sys2Proof.Machine.execVsts x ql d a b s
  | .vldx x ql d a b => Sys2Proof.Machine.execVldx x ql d a b s
  | .vstx x ql d a b => Sys2Proof.Machine.execVstx x ql d a b s
  | .c16AddRr d src => Sys2Proof.Machine.execC16AddRr d src s
  | .c16Mov d src => Sys2Proof.Machine.execC16Mov d src s
  | .c16AddImm d imm => Sys2Proof.Machine.execC16AddImm d imm s
  | .c16Li d imm => Sys2Proof.Machine.execC16Li d imm s
  | .c16Sub d src => Sys2Proof.Machine.execC16Sub d src s
  | .c16And d src => Sys2Proof.Machine.execC16And d src s
  | .c16Or d src => Sys2Proof.Machine.execC16Or d src s
  | .c16Xor d src => Sys2Proof.Machine.execC16Xor d src s
  | .c16Sll d u => Sys2Proof.Machine.execC16Sll d u s
  | .c16Srl d u => Sys2Proof.Machine.execC16Srl d u s
  | .c16Sra d u => Sys2Proof.Machine.execC16Sra d u s
  | .c16LdDSp d u => Sys2Proof.Machine.execC16LdDSp d u s
  | .c16StDSp d u => Sys2Proof.Machine.execC16StDSp d u s
  | .c16LdW d src => Sys2Proof.Machine.execC16LdW d src s
  | .c16StW d src => Sys2Proof.Machine.execC16StW d src s
  | .c16LdD d src => Sys2Proof.Machine.execC16LdD d src s
  | .c16StD d src => Sys2Proof.Machine.execC16StD d src s
  | .c16J o => Sys2Proof.Machine.execC16J o s
  | .c16Jal o => Sys2Proof.Machine.execC16Jal o s
  | .c16Jr src => Sys2Proof.Machine.execC16Jr src s
  | .c16Jalr src => Sys2Proof.Machine.execC16Jalr src s
  | .c16Nop => Sys2Proof.Machine.execC16Nop s
  | .c16Fend => Sys2Proof.Machine.execC16Fend s
  | .c16Brk => Sys2Proof.Machine.execC16Brk s
  | .lidx f q a b c => Sys2Proof.Machine.execLidx f q a b c s
  | .lsisect f q a b c => Sys2Proof.Machine.execLsisect f q a b c s
  | .lmerge f q a b c => Sys2Proof.Machine.execLmerge f q a b c s
  | .lmpart f d a b c => Sys2Proof.Machine.execLmpart f d a b c s
  | .lcoord f q a b c => Sys2Proof.Machine.execLcoord f q a b c s
  | .sscat f a qd qi => Sys2Proof.Machine.execSscat f a qd qi s
  | .bldw d a b off => Sys2Proof.Machine.execBldw d a b off s
  | .bldwGexp d a b off => Sys2Proof.Machine.execBldwGexp d a b off s
  | .bset bsd a => Sys2Proof.Machine.execBset bsd a s
  | .bstg f d a b bsn => Sys2Proof.Machine.execBstg f d a b bsn s
  | .bchn f mode d a b n => Sys2Proof.Machine.execBchn f mode d a b n s
  | .bmma fa fb acc d a b c => Sys2Proof.Machine.execBmma fa fb acc d a b c s
  | .bmmap fa fb acc d a b c => Sys2Proof.Machine.execBmmap fa fb acc d a b c s
  | .baccKeep f rnd nsat d a b => Sys2Proof.Machine.execBaccKeep f rnd nsat d a b s
  | .baccTake f rnd nsat d a b => Sys2Proof.Machine.execBaccTake f rnd nsat d a b s
  | .baccClr d b => Sys2Proof.Machine.execBaccClr d b s
  | .baccRes f rnd nsat sh d a b => Sys2Proof.Machine.execBaccRes f rnd nsat sh d a b s
  | .baccRestake f rnd nsat sh d a b => Sys2Proof.Machine.execBaccRestake f rnd nsat sh d a b s
  | .brst label => Sys2Proof.Machine.execBrst label s
  | .bwait a => Sys2Proof.Machine.execBwait a s
  | .bpoll d a => Sys2Proof.Machine.execBpoll d a s
  | .geval op d a b c => Sys2Proof.Machine.execGeval op d a b c s
  | .gred op d a b c => Sys2Proof.Machine.execGred op d a b c s
  | .gseek d a b => Sys2Proof.Machine.execGseek d a b s
  | .gpfx op d a b c => Sys2Proof.Machine.execGpfx op d a b c s
  | .gexpMemory d a b c => Sys2Proof.Machine.execGexpMemory d a b c s
  | .gexpQueue d a q c => Sys2Proof.Machine.execGexpQueue d a q c s
  | .gexpWp d a c => Sys2Proof.Machine.execGexpWp d a c s
  | .gmv op d a b c => Sys2Proof.Machine.execGmv op d a b c s
  | .gwait a => Sys2Proof.Machine.execGwait a s
  | .gpoll d a => Sys2Proof.Machine.execGpoll d a s
  | .cpyq d a => Sys2Proof.Machine.execCpyq d a s
  | .cpyqb d a => Sys2Proof.Machine.execCpyqb d a s
  | .copyResume core ch => Sys2Proof.Machine.execCopyResume core ch s
  | .copyAbort core ch => Sys2Proof.Machine.execCopyAbort core ch s
  | .cwait a ch => Sys2Proof.Machine.execCwait a ch s
  | .cpoll d a ch => Sys2Proof.Machine.execCpoll d a ch s
  | .wldp d a => Sys2Proof.Machine.execWldp d a s
  | .wret a b => Sys2Proof.Machine.execWret a b s
  | .tlbMissWalk die => Sys2Proof.Machine.execTlbMissWalk die s
  | .walkLimitExceeded die tid => Sys2Proof.Machine.execWalkLimitExceeded die tid s
  | .hostDoorbell die io qp value => Sys2Proof.Machine.execHostDoorbell die io qp value s
  | .launchStart die clusters => Sys2Proof.Machine.execLaunchStart die clusters s
  | .gridCompletion grid => Sys2Proof.Machine.execGridCompletion grid s
  | .firingStart core => Sys2Proof.Machine.execFiringStart core s
  | .firingRetire core => Sys2Proof.Machine.execFiringRetire core s
  | .firingWatchdog core => Sys2Proof.Machine.execFiringWatchdog core s
  | .stealRequest core => Sys2Proof.Machine.execStealRequest core s
  | .stealAnswer core => Sys2Proof.Machine.execStealAnswer core s
  | .stealRoundTimeout core => Sys2Proof.Machine.execStealRoundTimeout core s
  | .messageArrival core => Sys2Proof.Machine.execMessageArrival core s
  | .hActivationStart core => Sys2Proof.Machine.execHActivationStart core s
  | .pinnedRecord core => Sys2Proof.Machine.execPinnedRecord core s
  | .recordPushRetry core => Sys2Proof.Machine.execRecordPushRetry core s
  | .activationLimit core => Sys2Proof.Machine.execActivationLimit core s
  | .dActivationStart core => Sys2Proof.Machine.execDActivationStart core s
  | .poisonRedelivery core ctx addr => Sys2Proof.Machine.execPoisonRedelivery core ctx addr s
  | .poisonSenderNotice core => Sys2Proof.Machine.execPoisonSenderNotice core s
  | .quantumBoundary grid => Sys2Proof.Machine.execQuantumBoundary grid s
  | .teamSwapOut grid team => Sys2Proof.Machine.execTeamSwapOut grid team s
  | .greDrainExpiry grid team => Sys2Proof.Machine.execGreDrainExpiry grid team s
  | .teamRestore grid team cluster => Sys2Proof.Machine.execTeamRestore grid team cluster s
  | .wfiTimeout core => Sys2Proof.Machine.execWfiTimeout core s
  | .bseJobStart cluster => Sys2Proof.Machine.execBseJobStart cluster s
  | .bseJobComplete cluster => Sys2Proof.Machine.execBseJobComplete cluster s
  | .greJobStart cluster => Sys2Proof.Machine.execGreJobStart cluster s
  | .greJobComplete cluster => Sys2Proof.Machine.execGreJobComplete cluster s
  | .completionPush cluster => Sys2Proof.Machine.execCompletionPush cluster s
  | .copyDispatch core => Sys2Proof.Machine.execCopyDispatch core s
  | .copyPageFault core ch => Sys2Proof.Machine.execCopyPageFault core ch s
  | .copyFaultDelivery core => Sys2Proof.Machine.execCopyFaultDelivery core s
  | .copyTransferComplete core ch => Sys2Proof.Machine.execCopyTransferComplete core ch s
  | .keepWrite ctrl => Sys2Proof.Machine.execKeepWrite ctrl s
  | .rcReleaseComplete core ctx => Sys2Proof.Machine.execRcReleaseComplete core ctx s
  | .sealDecision grid => Sys2Proof.Machine.execSealDecision grid s
  | .sealPrepare grid ctrl => Sys2Proof.Machine.execSealPrepare grid ctrl s
  | .sealCommit grid => Sys2Proof.Machine.execSealCommit grid s
  | .sealFlip grid => Sys2Proof.Machine.execSealFlip grid s
  | .sealAbandon grid => Sys2Proof.Machine.execSealAbandon grid s
  | .fingerprintExchange core => Sys2Proof.Machine.execFingerprintExchange core s
  | .partnerTimeout core => Sys2Proof.Machine.execPartnerTimeout core s
  | .pairTimeout core => Sys2Proof.Machine.execPairTimeout core s
  | .recordStoreParityError core slot idx => Sys2Proof.Machine.execRecordStoreParityError core slot idx s
  | .contextLost core => Sys2Proof.Machine.execContextLost core s
  | .machineCheck die => Sys2Proof.Machine.execMachineCheck die s
  | .dieReset die => Sys2Proof.Machine.execDieReset die s
  | .dieReload die => Sys2Proof.Machine.execDieReload die s
  | .scrub store at_ found => Sys2Proof.Machine.execScrub store at_ found s
  | .selfTestStart die => Sys2Proof.Machine.execSelfTestStart die s
  | .selfTestComplete cluster passed => Sys2Proof.Machine.execSelfTestComplete cluster passed s
  | .vectorPackage port pkg => Sys2Proof.Machine.execVectorPackage port pkg s
  | .forecastUpdate die due bse gre => Sys2Proof.Machine.execForecastUpdate die due bse gre s
  | .powerManagerTick => Sys2Proof.Machine.execPowerManagerTick s
  | .thermalThrottle die => Sys2Proof.Machine.execThermalThrottle die s
  | .thermalRecover die => Sys2Proof.Machine.execThermalRecover die s
  | .thermalReset die => Sys2Proof.Machine.execThermalReset die s
  | .migrationRequest page endpoint => Sys2Proof.Machine.execMigrationRequest page endpoint s
  | .migrationComplete page data => Sys2Proof.Machine.execMigrationComplete page data s
  | .migrationHoldExpiry page => Sys2Proof.Machine.execMigrationHoldExpiry page s
  | .linkTraining port lanes authentic => Sys2Proof.Machine.execLinkTraining port lanes authentic s
  | .portDown port => Sys2Proof.Machine.execPortDown port s
  | .inboundRequest port r => Sys2Proof.Machine.execInboundRequest port r s
  | .inboundMessage port m => Sys2Proof.Machine.execInboundMessage port m s
  | .remoteResponse id status data => Sys2Proof.Machine.execRemoteResponse id status data s
  | .remoteTimeout id => Sys2Proof.Machine.execRemoteTimeout id s
  | .egressArbitration port => Sys2Proof.Machine.execEgressArbitration port s
  | .directoryRecall endpoint line => Sys2Proof.Machine.execDirectoryRecall endpoint line s
  | .ctlsemWrite port tag => Sys2Proof.Machine.execCtlsemWrite port tag s
  | .ctlsemLeaseExpiry => Sys2Proof.Machine.execCtlsemLeaseExpiry s
  | .powerOn => Sys2Proof.Machine.execPowerOn s
  | .firmwareDownload port image => Sys2Proof.Machine.execFirmwareDownload port image s
  | .attestationRequest port nonce => Sys2Proof.Machine.execAttestationRequest port nonce s
  | .routeTableWrite port die endpoint value => Sys2Proof.Machine.execRouteTableWrite port die endpoint value s
  | .keyTableWrite port die entry dw0 dw1 => Sys2Proof.Machine.execKeyTableWrite port die entry dw0 dw1 s
  | .frameOwnerWrite port die frame value => Sys2Proof.Machine.execFrameOwnerWrite port die frame value s
  | .shareTableWrite port egress tenant weight => Sys2Proof.Machine.execShareTableWrite port egress tenant weight s
  | .powerCapWrite port watts => Sys2Proof.Machine.execPowerCapWrite port watts s
  | .resetRequest port what => Sys2Proof.Machine.execResetRequest port what s
  | .controlRegisterWrite port reg => Sys2Proof.Machine.execControlRegisterWrite port reg s
  | .storeBufferDrain core => Sys2Proof.Machine.execStoreBufferDrain core s
  | .claimedLineFinished cluster => Sys2Proof.Machine.execClaimedLineFinished cluster s
  | .gatingBufferParityError core idx => Sys2Proof.Machine.execGatingBufferParityError core idx s
  | .activationParityError core ctx => Sys2Proof.Machine.execActivationParityError core ctx s
  | .correctedErrorThreshold cluster => Sys2Proof.Machine.execCorrectedErrorThreshold cluster s
  | .linkLevelRetry port => Sys2Proof.Machine.execLinkLevelRetry port s

end Sys2Proof.Machine
end

