-- ==== Sys2Proof/Decode.lean ====
section
/-! DEFINITION. From the bits of an instruction to `Instr` (R47 to R65), total, rejecting by name
every encoding that is not an instruction (R65), and the encoder written from the same tables.
A word is a natural number whose bit 0 is bit <0> of the first halfword (R3, R47). Decoding reads
no state: where an instruction may run, its ord code and its register files are checked when it
executes, in the order of R65. -/

namespace Sys2Proof

/-! ## Fields -/

/-- Bits <lo+n-1:lo> of a word. -/
def fld (w lo n : Nat) : Nat := w / 2 ^ lo % 2 ^ n

/-- A 5-bit register field. -/
def regAt (w lo : Nat) : Reg := ⟨w / 2 ^ lo % 32, Nat.mod_lt _ (by decide)⟩

/-- A field of `n` bits as a bit vector. -/
def bitsAt (n w lo : Nat) : BitVec n := BitVec.ofNat n (w / 2 ^ lo)

/-- A 1-bit field. -/
def bitAt (w lo : Nat) : Bool := w / 2 ^ lo % 2 == 1

/-- A 3-bit mask field. -/
def kAt (w lo : Nat) : KReg := ⟨w / 2 ^ lo % 8, Nat.mod_lt _ (by decide)⟩

/-- A 4-bit number. -/
def nibAt (w lo : Nat) : Fin 16 := ⟨w / 2 ^ lo % 16, Nat.mod_lt _ (by decide)⟩

/-- `i` where the check holds, and the reason otherwise. -/
def need (ok : Bool) (why : Reserved) (i : Except Reserved Instr) : Except Reserved Instr :=
  if ok then i else .error why

/-- Fields that must be zero (R50). -/
def zero (x : Nat) (i : Except Reserved Instr) : Except Reserved Instr :=
  need (x == 0) .unusedField i

/-- The format of a code (R21). -/
def fmtOf : Nat → Option Fmt
  | 0 => some .f32 | 1 => some .bf16 | 2 => some .f16 | 3 => some .e4m3 | 4 => some .e5m2
  | 5 => some .e2m1 | 6 => some .mxf4 | 7 => some .gf4 | 8 => some .mxf8 | 9 => some .i8
  | 10 => some .i16 | 11 => some .i32 | 12 => some .rns3 | 13 => some .ui8 | 14 => some .i4
  | _ => none

/-- The rounding of a code (R20). -/
def rndOf : Nat → Option Rnd
  | 0 => some .rne | 1 => some .rtz | 2 => some .rdn | 3 => some .rup | 4 => some .rna
  | 5 => some .sr | 7 => some .dyn
  | _ => none

/-- The ord field (R49). -/
def ordOf : Nat → OrdCode
  | 0 => .plain | 1 => .acq | 2 => .rel | _ => .sc

/-- The scope field (R20). -/
def scopeOf : Nat → Option Scope
  | 0 => some .co | 1 => some .cl | 2 => some .di | 3 => some .dv | 4 => some .sy | 5 => some .rc
  | _ => none

/-- The rounding of BCHN (R297). -/
def chainOf : Nat → Option ChainMode
  | 0 => some .w | 1 => some .n16 | 2 => some .sr16 | _ => none

/-- The operator of M (R62). -/
def gopOf : Nat → Option GOp
  | 0 => some .sum | 1 => some .min | 2 => some .max | 3 => some .xor | 4 => some .mom
  | 5 => some .kdot | _ => none

/-- The place field of XA (R60). -/
def placeOf : Nat → Option AtomPlace
  | 0 => some .predictor | 1 => some .near | 2 => some .far | _ => none

/-- A format field: refused when it holds 0xF (R60). -/
def withFmt (c : Nat) (f : Fmt → Except Reserved Instr) : Except Reserved Instr :=
  match fmtOf c with
  | some x => f x
  | none => .error .formatCode

/-- A rounding field: refused when it holds 6 (R60). -/
def withRnd (c : Nat) (f : Rnd → Except Reserved Instr) : Except Reserved Instr :=
  match rndOf c with
  | some x => f x
  | none => .error .roundingCode

/-- The ord and scope fields of an access: scope codes 6 and 7, and a scope on a plain access, are
refused (R54). -/
def withQual (o s : Nat) (f : Qual → Except Reserved Instr) : Except Reserved Instr :=
  match scopeOf s with
  | some sc => need (o != 0 || s == 0) .scopeCode (f { ord := ordOf o, scope := sc })
  | none => .error .scopeCode

/-- The ord and scope fields of FENCE, which takes a scope under every ord (R56). -/
def withFenceQual (o s : Nat) (f : Qual → Except Reserved Instr) : Except Reserved Instr :=
  match scopeOf s with
  | some sc => f { ord := ordOf o, scope := sc }
  | none => .error .scopeCode

/-- A queue field holds 24 + n for `qn` (R50). -/
def withQueue (c : Nat) (f : QReg → Except Reserved Instr) : Except Reserved Instr :=
  need (24 ≤ c) .queueField (f ⟨(c - 24) % 8, Nat.mod_lt _ (by decide)⟩)

/-- A field that names a `bs` or `m` register (R50): bit 4 clear. -/
def withHalfFile (c : Nat) (f : Fin 16 → Except Reserved Instr) : Except Reserved Instr :=
  need (c < 16) .registerField (f ⟨c % 16, Nat.mod_lt _ (by decide)⟩)

/-- A field that names a `k` register (R50): bits <4:3> clear. -/
def withMask (c : Nat) (f : KReg → Except Reserved Instr) : Except Reserved Instr :=
  need (c < 8) .registerField (f ⟨c % 8, Nat.mod_lt _ (by decide)⟩)

/-! ## The 16-bit forms (R63) -/

/-- The code of a 16-bit instruction: 2 × bits <15:12> + bit <0>. -/
def code16 (w : Nat) : Nat := 2 * fld w 12 4 + fld w 0 1

/-- The 16-bit instruction of a halfword with bit <1> clear. -/
noncomputable def decode16 (w : Nat) : Except Reserved Instr :=
  let d := regAt w 2
  let s := regAt w 7
  let u := bitsAt 5 w 7
  match code16 w with
  | 1 => need (d.val != 0 && s.val != 0) .registerField (.ok (.c16AddRr d s))
  | 2 => need (d.val != 0) .registerField (.ok (.c16Mov d s))
  | 3 => .ok (.c16AddImm d u)
  | 4 => .ok (.c16Li d u)
  | 5 => .ok (.c16Sub d s)
  | 6 => .ok (.c16And d s)
  | 7 => .ok (.c16Or d s)
  | 8 => .ok (.c16Xor d s)
  | 9 => .ok (.c16Sll d u)
  | 10 => .ok (.c16Srl d u)
  | 11 => .ok (.c16Sra d u)
  | 12 => .ok (.c16LdDSp d u)
  | 13 => .ok (.c16StDSp d u)
  | 14 => .ok (.c16LdW d s)
  | 15 => .ok (.c16StW d s)
  | 16 => .ok (.c16LdD d s)
  | 17 => .ok (.c16StD d s)
  | 18 => .ok (.c16J (bitsAt 10 w 2))
  | 19 => .ok (.c16Jal (bitsAt 10 w 2))
  | 20 => zero d.val (.ok (.c16Jr s))
  | 21 => zero d.val (.ok (.c16Jalr s))
  | 22 => zero (fld w 2 10) (.ok .c16Nop)
  | 23 => zero (fld w 2 10) (.ok .c16Fend)
  | 24 => zero (fld w 2 10) (.ok .c16Brk)
  | _ => .error .code16

/-! ## The 32-bit forms (R49 to R59) -/

/-- OP (R52). -/
def decodeOp (w : Nat) : Except Reserved Instr :=
  let d := regAt w 8
  let a := regAt w 13
  let b := regAt w 18
  match fld w 23 9 with
  | 0 => .ok (.add d a b)
  | 1 => .ok (.sub d a b)
  | 2 => .ok (.and d a b)
  | 3 => .ok (.or d a b)
  | 4 => .ok (.xor d a b)
  | 5 => .ok (.sll d a b)
  | 6 => .ok (.srl d a b)
  | 7 => .ok (.sra d a b)
  | 8 => .ok (.slt d a b)
  | 9 => .ok (.sltu d a b)
  | 10 => .ok (.min d a b)
  | 11 => .ok (.max d a b)
  | 12 => .ok (.minu d a b)
  | 13 => .ok (.maxu d a b)
  | 16 => .ok (.mul d a b)
  | 17 => .ok (.mulh d a b)
  | 18 => .ok (.mulhu d a b)
  | 20 => .ok (.div d a b)
  | 21 => .ok (.divu d a b)
  | 22 => .ok (.rem d a b)
  | 23 => .ok (.remu d a b)
  | 24 => zero b.val (.ok (.clz d a))
  | 25 => zero b.val (.ok (.ctz d a))
  | 26 => zero b.val (.ok (.popc d a))
  | 28 => zero b.val (.ok (.extB d a))
  | 29 => zero b.val (.ok (.extH d a))
  | 30 => zero b.val (.ok (.extW d a))
  | _ => .error .minor

/-- OPI (R53). -/
def decodeOpi (w : Nat) : Except Reserved Instr :=
  let d := regAt w 8
  let a := regAt w 13
  let i := bitsAt 11 w 21
  let sh := bitsAt 6 w 21
  match fld w 18 3 with
  | 0 => .ok (.addImm d a i)
  | 1 => .ok (.andImm d a i)
  | 2 => .ok (.orImm d a i)
  | 3 => .ok (.xorImm d a i)
  | 4 => .ok (.sltImm d a i)
  | 5 => .ok (.sltuImm d a i)
  | 6 =>
    zero (fld w 29 3) <|
      match fld w 27 2 with
      | 0 => .ok (.sllImm d a sh)
      | 1 => .ok (.srlImm d a sh)
      | 2 => .ok (.sraImm d a sh)
      | _ => .error .minor
  | _ => .error .minor

/-- BITF (R51, R53). -/
def decodeBitf (w : Nat) : Except Reserved Instr :=
  match fld w 30 2 with
  | 0 => .ok (.bfx (regAt w 8) (regAt w 13) (bitsAt 6 w 18) (bitsAt 6 w 24))
  | 1 => .ok (.bfi (regAt w 8) (regAt w 13) (bitsAt 6 w 18) (bitsAt 6 w 24))
  | _ => .error .minor

/-- B (R55). -/
def decodeB (w : Nat) : Except Reserved Instr :=
  let a := regAt w 8
  let b := regAt w 13
  let o := bitsAt 11 w 21
  match fld w 18 3 with
  | 0 => .ok (.beq a b o)
  | 1 => .ok (.bne a b o)
  | 2 => .ok (.blt a b o)
  | 3 => .ok (.bge a b o)
  | 4 => .ok (.bltu a b o)
  | 5 => .ok (.bgeu a b o)
  | 6 => zero b.val (withQueue a.val fun q => .ok (.bqe q o))
  | _ => .error .minor

/-- PREF and its hint field (R54). -/
def decodePref (hintField : Nat) (i : Fin 3 → Bool → Instr) : Except Reserved Instr :=
  zero (hintField / 8) <|
    need (hintField / 2 % 4 < 3) .minor
      (.ok (i ⟨hintField / 2 % 4 % 3, Nat.mod_lt _ (by decide)⟩ (hintField % 2 == 1)))

/-- The RL majors 0x09 to 0x16 (R51, R54). -/
def decodeRl (major w : Nat) : Except Reserved Instr :=
  let d := regAt w 8
  let b := regAt w 13
  let i := bitsAt 9 w 23
  withQual (fld w 18 2) (fld w 20 3) fun ql =>
    match major with
    | 0x09 => .ok (.ldB d b i ql)
    | 0x0A => .ok (.ldH d b i ql)
    | 0x0B => .ok (.ldW d b i ql)
    | 0x0C => .ok (.ldD d b i ql)
    | 0x0D => .ok (.lduB d b i ql)
    | 0x0E => .ok (.lduH d b i ql)
    | 0x0F => .ok (.lduW d b i ql)
    | 0x10 => .ok (.stB d b i ql)
    | 0x11 => .ok (.stH d b i ql)
    | 0x12 => .ok (.stW d b i ql)
    | 0x13 => .ok (.stD d b i ql)
    | 0x14 => decodePref d.val fun t wr => .pref t wr b i ql
    | 0x15 => .ok (.vld d b i ql)
    | 0x16 => .ok (.vst d b i ql)
    | _ => .error .major32

/-- AMO.w and CAS.w, major 0x17 (R56). -/
def decodeAmoW (w : Nat) : Except Reserved Instr :=
  let d := regAt w 8
  let m := regAt w 13
  let b := regAt w 18
  withQual (fld w 27 2) (fld w 29 3) fun ql =>
    match fld w 23 4 with
    | 0 => .ok (.amoAddW d m b ql)
    | 1 => .ok (.amoAndW d m b ql)
    | 2 => .ok (.amoOrW d m b ql)
    | 3 => .ok (.amoXorW d m b ql)
    | 4 => .ok (.amoMinW d m b ql)
    | 5 => .ok (.amoMaxW d m b ql)
    | 6 => .ok (.amoMinuW d m b ql)
    | 7 => .ok (.amoMaxuW d m b ql)
    | 8 => .ok (.amoSwapW d m b ql)
    | 9 => .ok (.amoFaddW d m b ql)
    | 10 => .ok (.amoFminW d m b ql)
    | 11 => .ok (.amoFmaxW d m b ql)
    | 12 => .ok (.casW d m b ql)
    | _ => .error .minor

/-- AMO.d and CAS.d, major 0x18: no floating operation (R56). -/
def decodeAmoD (w : Nat) : Except Reserved Instr :=
  let d := regAt w 8
  let m := regAt w 13
  let b := regAt w 18
  withQual (fld w 27 2) (fld w 29 3) fun ql =>
    match fld w 23 4 with
    | 0 => .ok (.amoAddD d m b ql)
    | 1 => .ok (.amoAndD d m b ql)
    | 2 => .ok (.amoOrD d m b ql)
    | 3 => .ok (.amoXorD d m b ql)
    | 4 => .ok (.amoMinD d m b ql)
    | 5 => .ok (.amoMaxD d m b ql)
    | 6 => .ok (.amoMinuD d m b ql)
    | 7 => .ok (.amoMaxuD d m b ql)
    | 8 => .ok (.amoSwapD d m b ql)
    | 12 => .ok (.casD d m b ql)
    | _ => .error .minor

/-- RF (R56). -/
def decodeRf (w : Nat) : Except Reserved Instr :=
  let d := regAt w 8
  let a := regAt w 13
  match fld w 23 9 with
  | 0 => zero (d.val + a.val) (withFenceQual (fld w 18 2) (fld w 20 3) fun ql => .ok (.fence ql))
  | 1 => zero (fld w 18 5) (.ok (.rpseal d a))
  | 2 => zero (fld w 18 5) (.ok (.rpsealT d a))
  | 3 => zero (fld w 18 5) (.ok (.rprestore d a))
  | _ => .error .minor

/-- SYS (R56). -/
def decodeSys (w : Nat) : Except Reserved Instr :=
  let d := regAt w 8
  let a := regAt w 13
  let b := regAt w 18
  match fld w 23 9 with
  | 0 => zero (d.val + a.val + b.val) (.ok .sysc)
  | 1 => zero (d.val + a.val + b.val) (.ok .retk)
  | 2 => zero (d.val + a.val + b.val) (.ok .wfi)
  | 3 => zero (d.val + a.val + b.val) (.ok .fend)
  | 4 => zero (d.val + a.val + b.val) (.ok .brk)
  | 5 => zero d.val (.ok (.tlbinv a b))
  | 6 => zero (d.val + b.val) (.ok (.l1inv a))
  | _ => .error .minor

/-- SR (R56). -/
def decodeSr (w : Nat) : Except Reserved Instr :=
  let d := regAt w 8
  let a := regAt w 13
  let sel := bitsAt 8 w 21
  zero (fld w 29 3) <|
    match fld w 18 3 with
    | 0 => zero a.val (.ok (.srr d sel))
    | 1 => zero d.val (.ok (.srw sel a))
    | 2 => zero d.val (.ok (.srs sel a))
    | 3 => zero d.val (.ok (.src sel a))
    | _ => .error .minor

/-- QOP (R57). -/
def decodeQop (w : Nat) : Except Reserved Instr :=
  let ga := regAt w 13
  let gb := regAt w 18
  let i5 := fld w 23 5
  withQueue (fld w 8 5) fun q =>
    match fld w 28 4 with
    | 0 => zero i5 (.ok (.lstr q ga gb))
    | 1 => zero i5 (.ok (.sstr q ga gb))
    | 2 => zero (ga.val + gb.val + i5) (.ok (.qend q))
    | 3 =>
      zero gb.val <|
        if bitAt w 27 then .ok (.qpeekD ga q (bitsAt 4 w 23)) else .ok (.qpeek ga q (bitsAt 4 w 23))
    | 4 => zero (gb.val + i5) (.ok (.qcnt ga q))
    | _ => .error .minor

/-- TASKA (R58). -/
def decodeTaska (w : Nat) : Except Reserved Instr :=
  let d := regAt w 8
  let gs := regAt w 13
  let gc := regAt w 18
  let i6 := fld w 26 6
  let slot := bitsAt 4 w 26
  let n := bitsAt 6 w 26
  let lvl := bitsAt 3 w 18
  match fld w 23 3 with
  | 0 => zero (d.val + gc.val + i6 / 16) (.ok (.push slot gs))
  | 1 => zero (d.val + i6 / 16) (.ok (.pushr gc slot gs))
  | 2 => zero d.val (.ok (.send gc n gs))
  | 3 => zero d.val (.ok (.sendh gc n gs))
  | 4 => zero (d.val + gs.val + gc.val / 8) (.ok (.barj lvl n))
  | 5 => zero (gs.val + gc.val / 8) (.ok (.bar d lvl n))
  | 6 => zero (d.val + gs.val + gc.val / 8) (.ok (.barl lvl n))
  | _ => zero (gs.val + gc.val / 8) (.ok (.barst d lvl n))

/-- TASKB (R58). -/
def decodeTaskb (w : Nat) : Except Reserved Instr :=
  let d := regAt w 8
  let a := regAt w 13
  let b := regAt w 18
  let i6 := fld w 26 6
  let i3 := bitsAt 3 w 26
  match fld w 23 3 with
  | 0 => zero (b.val + i6) (.ok (.launch d a))
  | 1 =>
    zero (b.val + i6 / 16) <|
      if bitAt w 29 then .ok (.abumpT d a i3) else .ok (.abump d a i3)
  | 2 => zero (a.val + b.val + i6 / 8) (withHalfFile d.val fun m => .ok (.mld m i3))
  | 3 => zero (b.val + i6 / 8) (withHalfFile a.val fun m => .ok (.mslice d m i3))
  | 4 => zero (d.val + b.val + i6) (.ok (.fresume a))
  | 5 => zero (d.val + a.val + b.val + i6) (.ok .pair)
  | 6 => zero (d.val + a.val + b.val + i6) (.ok .unpair)
  | _ => .error .minor

/-- The element format of a vector major 0x1F to 0x26 (R51). -/
def majorFmt : Nat → Option Fmt
  | 0x1F => some .f32 | 0x20 => some .bf16 | 0x21 => some .f16 | 0x22 => some .e4m3
  | 0x23 => some .e5m2 | 0x24 => some .i32 | 0x25 => some .i16 | 0x26 => some .i8
  | _ => none

/-- The vector majors (R59). -/
def decodeV (f : Fmt) (w : Nat) : Except Reserved Instr :=
  let d := regAt w 8
  let a := regAt w 13
  let b := regAt w 18
  let k := kAt w 23
  let q := bitAt w 26
  match fld w 27 5 with
  | 0 => .ok (.vadd f k q d a b)
  | 1 => .ok (.vsub f k q d a b)
  | 2 => .ok (.vmul f k q d a b)
  | 3 => need f.isFloat .minor (need (!(q && decide (24 ≤ d.val))) .queueField (.ok (.vfma f k q d a b)))
  | 4 => need f.isFloat .minor (need (!(q && decide (24 ≤ d.val))) .queueField (.ok (.vfms f k q d a b)))
  | 5 => .ok (.vmin f k q d a b)
  | 6 => .ok (.vmax f k q d a b)
  | 7 => zero b.val (.ok (.vabs f k q d a))
  | 8 => zero b.val (.ok (.vneg f k q d a))
  | 9 => need f.isFloat .minor (zero b.val (.ok (.vrcp f k q d a)))
  | 10 => need f.isFloat .minor (zero b.val (.ok (.vrsq f k q d a)))
  | 11 => need f.isFloat .minor (zero b.val (.ok (.vexp2 f k q d a)))
  | 12 => need f.isFloat .minor (zero b.val (.ok (.vlog2 f k q d a)))
  | 13 => need (!f.isFloat) .minor (.ok (.vshl f k q d a b))
  | 14 => need (!f.isFloat) .minor (.ok (.vshr f k q d a b))
  | 15 => need (!f.isFloat) .minor (.ok (.vshrA f k q d a b))
  | 16 => withMask d.val fun kd => .ok (.vcmpEq f k q kd a b)
  | 17 => withMask d.val fun kd => .ok (.vcmpNe f k q kd a b)
  | 18 => withMask d.val fun kd => .ok (.vcmpLt f k q kd a b)
  | 19 => withMask d.val fun kd => .ok (.vcmpLe f k q kd a b)
  | 20 => .ok (.vsel f k q d a b)
  | 21 => .ok (.vperm f k q d a b)
  | 22 => .ok (.vslideUp f k q d a b)
  | 23 => .ok (.vslideDn f k q d a b)
  | 24 => zero b.val (.ok (.vbcast f k q d a))
  | 25 => .ok (.vredAdd f k q d a b)
  | 26 => .ok (.vredMin f k q d a b)
  | 27 => .ok (.vredMax f k q d a b)
  | 28 => .ok (.vscanAdd f k q d a b)
  | 29 => zero k.val (.ok (.vmvg f q d a b))
  | _ => .error .minor

/-- V.x (R59). -/
def decodeVx (w : Nat) : Except Reserved Instr :=
  let d := regAt w 8
  let a := regAt w 13
  let b := regAt w 18
  let k := kAt w 23
  let q := bitAt w 26
  match fld w 27 5 with
  | 0 => .ok (.vand k q d a b)
  | 1 => .ok (.vor k q d a b)
  | 2 => .ok (.vxor k q d a b)
  | 3 => zero (k.val + b.val) (.ok (.gmvv q d a))
  | 4 =>
    zero (fld w 23 4) <| withMask d.val fun kd => withMask a.val fun ka => withMask b.val fun kb =>
      .ok (.kand kd ka kb)
  | 5 =>
    zero (fld w 23 4) <| withMask d.val fun kd => withMask a.val fun ka => withMask b.val fun kb =>
      .ok (.kor kd ka kb)
  | 6 => zero (fld w 23 4 + b.val) <| withMask d.val fun kd => withMask a.val fun ka => .ok (.knot kd ka)
  | 7 => zero (fld w 23 4 + b.val) <| withMask a.val fun ka => .ok (.kpop d ka)
  | 8 => .ok (.rnadd k q d a b)
  | 9 => .ok (.rnmul k q d a b)
  | 10 => zero b.val (.ok (.rnfrom k q d a))
  | 11 => zero b.val (.ok (.rnto k q d a))
  | _ => .error .minor

/-- The 32-bit instruction of a word with bits <1:0> = 0b10 (R51). -/
def decode32 (w : Nat) : Except Reserved Instr :=
  match fld w 2 6 with
  | 0x00 => .ok (.hint (bitsAt 24 w 8))
  | 0x01 => decodeOp w
  | 0x02 => decodeOpi w
  | 0x03 => decodeBitf w
  | 0x04 => .ok (.lui (regAt w 8) (bitsAt 19 w 13))
  | 0x05 => .ok (.addpc (regAt w 8) (bitsAt 19 w 13))
  | 0x06 => .ok (.jal (regAt w 8) (bitsAt 19 w 13))
  | 0x07 => need (fld w 18 3 == 0) .minor (.ok (.jalr (regAt w 8) (regAt w 13) (bitsAt 11 w 21)))
  | 0x08 => decodeB w
  | 0x17 => decodeAmoW w
  | 0x18 => decodeAmoD w
  | 0x19 => decodeRf w
  | 0x1A => decodeSys w
  | 0x1B => decodeSr w
  | 0x1C => decodeQop w
  | 0x1D => decodeTaska w
  | 0x1E => decodeTaskb w
  | 0x27 => decodeVx w
  | m =>
    match majorFmt m with
    | some f => decodeV f w
    | none => decodeRl m w

/-! ## The 64-bit forms (R60 to R62) -/

/-- XI (R61). -/
def decodeXi (w : Nat) : Except Reserved Instr :=
  let d := regAt w 8
  let a := regAt w 13
  let i := bitsAt 32 w 32
  zero (fld w 18 10) <|
    match fld w 28 4 with
    | 0 => .ok (.addXi d a i)
    | 1 => .ok (.andXi d a i)
    | 2 => .ok (.orXi d a i)
    | 3 => .ok (.xorXi d a i)
    | 4 => .ok (.sltXi d a i)
    | 5 => .ok (.sltuXi d a i)
    | _ => .error .minor

/-- XL (R61): the base is ra; rb is zero. -/
def decodeXl (w : Nat) : Except Reserved Instr :=
  let d := regAt w 8
  let b := regAt w 13
  let off := bitsAt 32 w 32
  zero (fld w 18 5) <|
    withQual (fld w 23 2) (fld w 25 3) fun ql =>
      match fld w 28 4 with
      | 0 => .ok (.ldBXl d b off ql)
      | 1 => .ok (.ldHXl d b off ql)
      | 2 => .ok (.ldWXl d b off ql)
      | 3 => .ok (.ldDXl d b off ql)
      | 4 => .ok (.lduBXl d b off ql)
      | 5 => .ok (.lduHXl d b off ql)
      | 6 => .ok (.lduWXl d b off ql)
      | 7 => .ok (.stBXl d b off ql)
      | 8 => .ok (.stHXl d b off ql)
      | 9 => .ok (.stWXl d b off ql)
      | 10 => .ok (.stDXl d b off ql)
      | 11 => decodePref d.val fun t wr => .prefXl t wr b off ql
      | 12 => .ok (.vldXl d b off ql)
      | 13 => .ok (.vstXl d b off ql)
      | _ => .error .minor

/-- XA (R60, R61). -/
def decodeXa (w : Nat) : Except Reserved Instr :=
  let d := regAt w 8
  let m := regAt w 13
  let b := regAt w 18
  let wide := bitAt w 39
  zero (fld w 23 5 + fld w 40 24) <|
    withQual (fld w 34 2) (fld w 36 3) fun ql =>
      match placeOf (fld w 32 2) with
      | none => .error .minor
      | some pl =>
        match fld w 28 4 with
        | 0 => .ok (.amoAddXa d m b ql pl wide)
        | 1 => .ok (.amoAndXa d m b ql pl wide)
        | 2 => .ok (.amoOrXa d m b ql pl wide)
        | 3 => .ok (.amoXorXa d m b ql pl wide)
        | 4 => .ok (.amoMinXa d m b ql pl wide)
        | 5 => .ok (.amoMaxXa d m b ql pl wide)
        | 6 => .ok (.amoMinuXa d m b ql pl wide)
        | 7 => .ok (.amoMaxuXa d m b ql pl wide)
        | 8 => .ok (.amoSwapXa d m b ql pl wide)
        | 9 => need (!wide) .minor (.ok (.amoFaddXa d m b ql pl))
        | 10 => need (!wide) .minor (.ok (.amoFminXa d m b ql pl))
        | 11 => need (!wide) .minor (.ok (.amoFmaxXa d m b ql pl))
        | 12 => .ok (.casXa d m b ql pl wide)
        | _ => .error .minor

/-- XV fn4 0 (R61, R114 to R121, R128): fmt2 and imm11 are zero. -/
def decodeXv0 (x : XvFields) (w : Nat) : Except Reserved Instr :=
  let d := regAt w 8
  let a := regAt w 13
  let b := regAt w 18
  let c := regAt w 23
  let ok3 (i : Instr) : Except Reserved Instr := zero c.val (.ok i)
  let ok2 (i : Instr) : Except Reserved Instr := zero (b.val + c.val) (.ok i)
  let bits (r : Except Reserved Instr) : Except Reserved Instr := need x.noRounding .unusedField r
  zero (fld w 41 4 + fld w 53 11) <|
    need x.fmt.isVector .formatCode <|
      match fld w 32 5 with
      | 0 => ok3 (.vaddXv x d a b)
      | 1 => ok3 (.vsubXv x d a b)
      | 2 => ok3 (.vmulXv x d a b)
      | 3 => need x.fmt.isFloat .minor (.ok (.vfmaXv x d a b c))
      | 4 => need x.fmt.isFloat .minor (.ok (.vfmsXv x d a b c))
      | 5 => ok3 (.vminXv x d a b)
      | 6 => ok3 (.vmaxXv x d a b)
      | 7 => ok2 (.vabsXv x d a)
      | 8 => ok2 (.vnegXv x d a)
      | 9 => need x.fmt.isFloat .minor (ok2 (.vrcpXv x d a))
      | 10 => need x.fmt.isFloat .minor (ok2 (.vrsqXv x d a))
      | 11 => need x.fmt.isFloat .minor (ok2 (.vexp2Xv x d a))
      | 12 => need x.fmt.isFloat .minor (ok2 (.vlog2Xv x d a))
      | 13 => need (!x.fmt.isFloat) .minor (bits (ok3 (.vshlXv x d a b)))
      | 14 => need (!x.fmt.isFloat) .minor (bits (ok3 (.vshrXv x d a b)))
      | 15 => need (!x.fmt.isFloat) .minor (bits (ok3 (.vshrAXv x d a b)))
      | 16 => withMask d.val fun kd => bits (ok3 (.vcmpEqXv x kd a b))
      | 17 => withMask d.val fun kd => bits (ok3 (.vcmpNeXv x kd a b))
      | 18 => withMask d.val fun kd => bits (ok3 (.vcmpLtXv x kd a b))
      | 19 => withMask d.val fun kd => bits (ok3 (.vcmpLeXv x kd a b))
      | 20 => bits (ok3 (.vselXv x d a b))
      | 21 => bits (ok3 (.vpermXv x d a b))
      | 22 => bits (ok3 (.vslideUpXv x d a b))
      | 23 => bits (ok3 (.vslideDnXv x d a b))
      | 24 => bits (ok2 (.vbcastXv x d a))
      | 25 => ok3 (.vredAddXv x d a b)
      | 26 => ok3 (.vredMinXv x d a b)
      | 27 => ok3 (.vredMaxXv x d a b)
      | 28 => ok3 (.vscanAddXv x d a b)
      | 29 => zero x.k.val (bits (ok3 (.vmvgXv x d a b)))
      | _ => .error .minor

/-- XV fn4 1 (R122 to R125). -/
def decodeXv1 (x : XvFields) (w : Nat) : Except Reserved Instr :=
  let d := regAt w 8
  let a := regAt w 13
  let b := regAt w 18
  let c := regAt w 23
  let b16 := bitAt w 53
  match fld w 32 5 with
  | 0 =>
    zero (b.val + c.val + fld w 56 8) <|
      withFmt (fld w 41 4) fun s =>
        need (!x.fmt.isBlock && !s.isBlock) .formatCode <|
          need (decide (fld w 53 3 < partCount x.fmt s)) .unusedField
            (.ok (.vcvt x s (bitsAt 3 w 53) d a))
  | 1 =>
    zero (b.val + c.val + fld w 41 4 + fld w 54 3) <|
      need (x.rnd == .rne && !x.nsat) .unusedField <|
        need x.fmt.isBlock .formatCode <|
          need (!b16 || x.fmt == .gf4) .unusedField <|
            need (decide ((fld w 57 7 + 1) * scaleCount x.fmt b16 ≤ 128)) .unusedField
              (.ok (.vmxscale x b16 (bitsAt 7 w 57) d a))
  | 2 =>
    zero (c.val + fld w 41 4) <|
      need x.fmt.isBlock .formatCode <|
        need (!b16 || x.fmt == .gf4) .unusedField <|
          need (x.fmt != .mxf8 || decide (fld w 54 3 < 4)) .unusedField <|
            need (decide ((fld w 57 7 + 1) * scaleCount x.fmt b16 ≤ 128)) .unusedField
              (.ok (.vmxq x b16 (bitsAt 3 w 54) (bitsAt 7 w 57) d a b))
  | 3 =>
    zero (fld w 41 4 + fld w 54 10) <|
      need (x.rnd == .rne && !x.nsat) .unusedField <|
        need x.fmt.isBlock .formatCode <|
          need (!b16 || x.fmt == .gf4) .unusedField
            (.ok (.vdotMx x b16 d a b c))
  | _ => .error .minor

/-- XV fn4 2 (R112). -/
def decodeXv2 (x : XvFields) (w : Nat) : Except Reserved Instr :=
  let d := regAt w 8
  let a := regAt w 13
  let b := regAt w 18
  zero (fld w 23 5 + fld w 41 4 + fld w 58 6) <|
    need (x.rnd == .rne && !x.nsat) .unusedField <|
      need x.fmt.isElement .formatCode <|
        withQual (fld w 53 2) (fld w 55 3) fun ql =>
          match fld w 32 5 with
          | 0 => .ok (.vlds x ql d a b)
          | 1 => .ok (.vsts x ql d a b)
          | 2 => .ok (.vldx x ql d a b)
          | 3 => .ok (.vstx x ql d a b)
          | _ => .error .minor

/-- XV (R60, R61). -/
def decodeXv (w : Nat) : Except Reserved Instr :=
  withFmt (fld w 37 4) fun f =>
    withRnd (fld w 45 3) fun r =>
      let x : XvFields := { fmt := f, rnd := r, nsat := bitAt w 48, k := kAt w 49, q := bitAt w 52 }
      match fld w 28 4 with
      | 0 => decodeXv0 x w
      | 1 => decodeXv1 x w
      | 2 => decodeXv2 x w
      | _ => .error .minor

/-- BSE (R62, R297). -/
noncomputable def decodeBse (w : Nat) : Except Reserved Instr :=
  let d := regAt w 8
  let a := regAt w 13
  let b := regAt w 18
  let c := regAt w 23
  let off := bitsAt 16 w 48
  match fld w 28 4 with
  | 0 =>
    zero (c.val + fld w 32 8 + fld w 41 7) <|
      if bitAt w 40 then .ok (.bldwGexp d a b off) else .ok (.bldw d a b off)
  | 1 => zero (b.val + c.val + fld w 32 32) (withHalfFile d.val fun bsd => .ok (.bset bsd a))
  | 2 =>
    zero (c.val + fld w 36 7 + fld w 47 17) <| withFmt (fld w 32 4) fun f =>
      need f.isFloat .formatCode (.ok (.bstg f d a b (nibAt w 43)))
  | 3 =>
    zero (c.val + fld w 36 4 + fld w 48 16) <| withFmt (fld w 32 4) fun f =>
      need f.isFloat .formatCode <|
        match chainOf (fld w 40 3) with
        | some m => withHalfFile (fld w 43 5) fun n => .ok (.bchn f m d a b n)
        | none => .error .minor
  | 4 =>
    zero (fld w 40 8 + fld w 49 15) <| withFmt (fld w 32 4) fun fa => withFmt (fld w 36 4) fun fb =>
      .ok (.bmma fa fb (bitAt w 48) d a b c)
  | 5 =>
    zero (fld w 40 8 + fld w 49 15) <| withFmt (fld w 32 4) fun fa => withFmt (fld w 36 4) fun fb =>
      .ok (.bmmap fa fb (bitAt w 48) d a b c)
  | 6 =>
    let n := fld w 43 5
    let sh := bitsAt 5 w 43
    let nsat := bitAt w 51
    zero (c.val + fld w 36 4 + fld w 52 12) <|
      withFmt (fld w 32 4) fun f => withRnd (fld w 48 3) fun r =>
        match fld w 40 3 with
        | 0 => zero n (need f.isFloat .formatCode (.ok (.baccKeep f r nsat d a b)))
        | 1 => zero n (need f.isFloat .formatCode (.ok (.baccTake f r nsat d a b)))
        | 2 => zero (a.val + fld w 32 4 + n + fld w 48 4) (.ok (.baccClr d b))
        | 4 =>
          need f.isResidueOut .formatCode <|
            need (f != .rns3 || n == 0) .unusedField (.ok (.baccRes f r nsat sh d a b))
        | 5 =>
          need f.isResidueOut .formatCode <|
            need (f != .rns3 || n == 0) .unusedField (.ok (.baccRestake f r nsat sh d a b))
        | _ => .error .minor
  | 7 => zero (fld w 8 20 + fld w 32 16 + fld w 63 1) (.ok (.brst (bitsAt 15 w 48)))
  | 8 => zero (d.val + b.val + c.val + fld w 32 32) (.ok (.bwait a))
  | 9 => zero (b.val + c.val + fld w 32 32) (.ok (.bpoll d a))
  | _ => .error .minor

/-- An operator field of the GRE (R62). -/
def withOp (c : Nat) (f : GOp → Except Reserved Instr) : Except Reserved Instr :=
  match gopOf c with
  | some x => f x
  | none => .error .minor

/-- GRE (R62, R258): F, F2, N and I<63:50> are zero in every form. -/
noncomputable def decodeGre (w : Nat) : Except Reserved Instr :=
  let d := regAt w 8
  let a := regAt w 13
  let b := regAt w 18
  let c := regAt w 23
  let m := fld w 40 3
  let i := fld w 48 2
  zero (fld w 32 8 + fld w 43 5 + fld w 50 14) <|
    match fld w 28 4 with
    | 0 => zero i (withOp m fun op => .ok (.geval op d a b c))
    | 1 => zero i (withOp m fun op => .ok (.gred op d a b c))
    | 2 => zero (i + m + c.val) (.ok (.gseek d a b))
    | 3 => zero i (withOp m fun op => .ok (.gpfx op d a b c))
    | 4 =>
      zero m <|
        match i with
        | 0 => .ok (.gexpMemory d a b c)
        | 1 => withQueue b.val fun q => .ok (.gexpQueue d a q c)
        | 2 => zero b.val (.ok (.gexpWp d a c))
        | _ => .error .minor
    | 5 => zero i (withOp m fun op => need (op != .mom) .minor (.ok (.gmv op d a b c)))
    | 6 => zero (i + m + d.val + b.val + c.val) (.ok (.gwait a))
    | 7 => zero (i + m + b.val + c.val) (.ok (.gpoll d a))
    | _ => .error .minor

/-- Copy (R62, R321). -/
noncomputable def decodeCopy (w : Nat) : Except Reserved Instr :=
  let d := regAt w 8
  let a := regAt w 13
  let b := regAt w 18
  let c := regAt w 23
  let ch := bitsAt 2 w 43
  match fld w 28 4 with
  | 0 => zero (b.val + c.val + fld w 32 32) (need (a.val % 4 == 0) .registerField (.ok (.cpyq d a)))
  | 1 => zero (b.val + c.val + fld w 32 32) (need (a.val % 4 == 0) .registerField (.ok (.cpyqb d a)))
  | 2 => zero (d.val + b.val + c.val + fld w 32 11 + fld w 45 19) (.ok (.cwait a ch))
  | 3 => zero (b.val + c.val + fld w 32 11 + fld w 45 19) (.ok (.cpoll d a ch))
  | _ => .error .minor

/-- XS (R62, R138 to R143). -/
noncomputable def decodeXs (w : Nat) : Except Reserved Instr :=
  let d := regAt w 8
  let a := regAt w 13
  let b := regAt w 18
  let c := regAt w 23
  zero (fld w 36 28) <|
    withFmt (fld w 32 4) fun f =>
      match fld w 28 4 with
      | 0 => need f.isElement .formatCode (withQueue d.val fun q => .ok (.lidx f q a b c))
      | 1 => need f.isKey .formatCode (withQueue d.val fun q => .ok (.lsisect f q a b c))
      | 2 => need f.isKey .formatCode (withQueue d.val fun q => .ok (.lmerge f q a b c))
      | 3 => need f.isKey .formatCode (.ok (.lmpart f d a b c))
      | 4 =>
        need (f == .i16 || f == .i32) .formatCode (withQueue d.val fun q => .ok (.lcoord f q a b c))
      | 5 =>
        need f.isElement .formatCode <| zero d.val <|
          withQueue b.val fun qd => withQueue c.val fun qi => .ok (.sscat f a qd qi)
      | _ => .error .minor

/-- WALK (R61). -/
noncomputable def decodeWalk (w : Nat) : Except Reserved Instr :=
  zero (fld w 23 5 + fld w 32 32) <|
    match fld w 28 4 with
    | 0 => zero (fld w 18 5) (.ok (.wldp (regAt w 8) (regAt w 13)))
    | 1 => zero (fld w 8 5) (.ok (.wret (regAt w 13) (regAt w 18)))
    | _ => .error .minor

/-- The 64-bit instruction of a word with bits <1:0> = 0b11 (R61). -/
noncomputable def decode64 (w : Nat) : Except Reserved Instr :=
  match fld w 2 6 with
  | 0x00 => .ok (.hint64 (bitsAt 56 w 8))
  | 0x01 => decodeXi w
  | 0x02 => decodeXl w
  | 0x03 => decodeXa w
  | 0x04 => decodeXv w
  | 0x10 => decodeBse w
  | 0x11 => decodeGre w
  | 0x12 => decodeCopy w
  | 0x13 => decodeXs w
  | 0x14 => decodeWalk w
  | _ => .error .major64

/-- Halfwords of the instruction whose first halfword is `h` (R47). -/
def lengthOf (h : Nat) : Nat := if h % 4 < 2 then 1 else if h % 4 = 2 then 2 else 4

/-- The instruction in the low bits of a window of four halfwords (R47). -/
noncomputable def decode (w : Nat) : Except Reserved Instr :=
  if w % 4 < 2 then decode16 (w % 2 ^ 16)
  else if w % 4 = 2 then decode32 (w % 2 ^ 32)
  else decode64 (w % 2 ^ 64)

/-- The instruction of a table word: bit 0 is the least significant bit of the first halfword, and
every bit above `nbits` is zero. -/
noncomputable def decodeTableWord (nbits w : Nat) : Option Instr :=
  match decode (w % 2 ^ nbits) with
  | .ok i => some i
  | .error _ => none

/-! ## The encoder -/

/-- The code of a format (R21). -/
def Fmt.code : Fmt → Nat
  | .f32 => 0 | .bf16 => 1 | .f16 => 2 | .e4m3 => 3 | .e5m2 => 4 | .e2m1 => 5 | .mxf4 => 6
  | .gf4 => 7 | .mxf8 => 8 | .i8 => 9 | .i16 => 10 | .i32 => 11 | .rns3 => 12 | .ui8 => 13
  | .i4 => 14

/-- The code of a rounding (R20). -/
def Rnd.code : Rnd → Nat
  | .rne => 0 | .rtz => 1 | .rdn => 2 | .rup => 3 | .rna => 4 | .sr => 5 | .dyn => 7

/-- The code of an ordering (R49). -/
def OrdCode.code : OrdCode → Nat
  | .plain => 0 | .acq => 1 | .rel => 2 | .sc => 3

/-- The code of a scope (R20). -/
def Scope.code : Scope → Nat
  | .co => 0 | .cl => 1 | .di => 2 | .dv => 3 | .sy => 4 | .rc => 5

/-- The code of a chain mode (R297). -/
def ChainMode.code : ChainMode → Nat
  | .w => 0 | .n16 => 1 | .sr16 => 2

/-- The M code of an operator (R62). -/
def GOp.code : GOp → Nat
  | .sum => 0 | .min => 1 | .max => 2 | .xor => 3 | .mom => 4 | .kdot => 5

/-- The place code of an atomic (R60). -/
def AtomPlace.code : AtomPlace → Nat
  | .predictor => 0 | .near => 1 | .far => 2

/-- The vector major of a format (R51). -/
def Fmt.major : Fmt → Nat
  | .f32 => 0x1F | .bf16 => 0x20 | .f16 => 0x21 | .e4m3 => 0x22 | .e5m2 => 0x23
  | .i32 => 0x24 | .i16 => 0x25 | .i8 => 0x26 | _ => 0

/-- A 16-bit word of a code with two 5-bit fields (R63). -/
def enc16 (code rd rs : Nat) : Nat := code % 2 + rd * 2 ^ 2 + rs * 2 ^ 7 + code / 2 * 2 ^ 12

/-- A 16-bit word of a code with an offset (R63). -/
def enc16J (code off : Nat) : Nat := code % 2 + off * 2 ^ 2 + code / 2 * 2 ^ 12

/-- The low byte of a 32-bit word (R49). -/
def maj32 (m : Nat) : Nat := 2 + m * 2 ^ 2

/-- The low byte of a 64-bit word (R60). -/
def maj64 (m : Nat) : Nat := 3 + m * 2 ^ 2

/-- RR form (R49). -/
def encRR (m d a b fn : Nat) : Nat := maj32 m + d * 2 ^ 8 + a * 2 ^ 13 + b * 2 ^ 18 + fn * 2 ^ 23

/-- RI and B forms (R49). -/
def encRI (m d a fn3 i : Nat) : Nat := maj32 m + d * 2 ^ 8 + a * 2 ^ 13 + fn3 * 2 ^ 18 + i * 2 ^ 21

/-- RB form (R49). -/
def encRB (d a pos len op : Nat) : Nat :=
  maj32 0x03 + d * 2 ^ 8 + a * 2 ^ 13 + pos * 2 ^ 18 + len * 2 ^ 24 + op * 2 ^ 30

/-- U and J forms (R49). -/
def encU (m d i : Nat) : Nat := maj32 m + d * 2 ^ 8 + i * 2 ^ 13

/-- RL form (R49). -/
def encRL (m d a : Nat) (ql : Qual) (i : Nat) : Nat :=
  maj32 m + d * 2 ^ 8 + a * 2 ^ 13 + ql.ord.code * 2 ^ 18 + ql.scope.code * 2 ^ 20 + i * 2 ^ 23

/-- RA form (R49). -/
def encRA (m d a b op : Nat) (ql : Qual) : Nat :=
  maj32 m + d * 2 ^ 8 + a * 2 ^ 13 + b * 2 ^ 18 + op * 2 ^ 23 + ql.ord.code * 2 ^ 27 +
    ql.scope.code * 2 ^ 29

/-- Q form (R49). -/
def encQ (q a b i fn : Nat) : Nat :=
  maj32 0x1C + (24 + q) * 2 ^ 8 + a * 2 ^ 13 + b * 2 ^ 18 + i * 2 ^ 23 + fn * 2 ^ 28

/-- T form (R49). -/
def encT (m d a b op i : Nat) : Nat :=
  maj32 m + d * 2 ^ 8 + a * 2 ^ 13 + b * 2 ^ 18 + op * 2 ^ 23 + i * 2 ^ 26

/-- V form (R49). -/
def encV (m d a b : Nat) (k : KReg) (q : Bool) (fn : Nat) : Nat :=
  maj32 m + d * 2 ^ 8 + a * 2 ^ 13 + b * 2 ^ 18 + k.val * 2 ^ 23 + q.toNat * 2 ^ 26 + fn * 2 ^ 27

/-- The low word of a 64-bit form (R60). -/
def encX (m d a b c fn : Nat) : Nat :=
  maj64 m + d * 2 ^ 8 + a * 2 ^ 13 + b * 2 ^ 18 + c * 2 ^ 23 + fn * 2 ^ 28

/-- XL form (R60). -/
def encXL (d a fn : Nat) (ql : Qual) (off : Nat) : Nat :=
  maj64 0x02 + d * 2 ^ 8 + a * 2 ^ 13 + ql.ord.code * 2 ^ 23 + ql.scope.code * 2 ^ 25 +
    fn * 2 ^ 28 + off * 2 ^ 32

/-- XA form (R60). -/
def encXA (d a b op : Nat) (ql : Qual) (pl : AtomPlace) (wide : Bool) : Nat :=
  encX 0x03 d a b 0 op + pl.code * 2 ^ 32 + ql.ord.code * 2 ^ 34 + ql.scope.code * 2 ^ 36 +
    wide.toNat * 2 ^ 39

/-- XV form (R60). -/
def encXV (x : XvFields) (d a b c fn4 fn5 fmt2 imm : Nat) : Nat :=
  encX 0x04 d a b c fn4 + fn5 * 2 ^ 32 + x.fmt.code * 2 ^ 37 + fmt2 * 2 ^ 41 + x.rnd.code * 2 ^ 45 +
    x.nsat.toNat * 2 ^ 48 + x.k.val * 2 ^ 49 + x.q.toNat * 2 ^ 52 + imm * 2 ^ 53

/-- XE form (R60). -/
def encXE (m d a b c fn4 f f2 mm n i : Nat) : Nat :=
  encX m d a b c fn4 + f * 2 ^ 32 + f2 * 2 ^ 36 + mm * 2 ^ 40 + n * 2 ^ 43 + i * 2 ^ 48

/-- The ordering field of the XV memory forms (R112). -/
def Qual.imm (ql : Qual) : Nat := ql.ord.code + ql.scope.code * 4

/-- The PREF hint field (R54). -/
def prefHint (t : Fin 3) (wr : Bool) : Nat := wr.toNat + t.val * 2

/-- The rounding and saturation bits of BACC's I field (R62). -/
def baccI (r : Rnd) (nsat : Bool) : Nat := r.code + nsat.toNat * 8

/-- The word of an instruction, from the encoding tables of R49 to R63; events have none. -/
def encode : Instr → Option Nat
  | .add d a b => some (encRR 1 d a b 0)
  | .sub d a b => some (encRR 1 d a b 1)
  | .and d a b => some (encRR 1 d a b 2)
  | .or d a b => some (encRR 1 d a b 3)
  | .xor d a b => some (encRR 1 d a b 4)
  | .sll d a b => some (encRR 1 d a b 5)
  | .srl d a b => some (encRR 1 d a b 6)
  | .sra d a b => some (encRR 1 d a b 7)
  | .slt d a b => some (encRR 1 d a b 8)
  | .sltu d a b => some (encRR 1 d a b 9)
  | .min d a b => some (encRR 1 d a b 10)
  | .max d a b => some (encRR 1 d a b 11)
  | .minu d a b => some (encRR 1 d a b 12)
  | .maxu d a b => some (encRR 1 d a b 13)
  | .mul d a b => some (encRR 1 d a b 16)
  | .mulh d a b => some (encRR 1 d a b 17)
  | .mulhu d a b => some (encRR 1 d a b 18)
  | .div d a b => some (encRR 1 d a b 20)
  | .divu d a b => some (encRR 1 d a b 21)
  | .rem d a b => some (encRR 1 d a b 22)
  | .remu d a b => some (encRR 1 d a b 23)
  | .clz d a => some (encRR 1 d a 0 24)
  | .ctz d a => some (encRR 1 d a 0 25)
  | .popc d a => some (encRR 1 d a 0 26)
  | .extB d a => some (encRR 1 d a 0 28)
  | .extH d a => some (encRR 1 d a 0 29)
  | .extW d a => some (encRR 1 d a 0 30)
  | .addImm d a i => some (encRI 2 d a 0 i.toNat)
  | .andImm d a i => some (encRI 2 d a 1 i.toNat)
  | .orImm d a i => some (encRI 2 d a 2 i.toNat)
  | .xorImm d a i => some (encRI 2 d a 3 i.toNat)
  | .sltImm d a i => some (encRI 2 d a 4 i.toNat)
  | .sltuImm d a i => some (encRI 2 d a 5 i.toNat)
  | .sllImm d a sh => some (encRI 2 d a 6 sh.toNat)
  | .srlImm d a sh => some (encRI 2 d a 6 (sh.toNat + 64))
  | .sraImm d a sh => some (encRI 2 d a 6 (sh.toNat + 128))
  | .addXi d a i => some (encX 1 d a 0 0 0 + i.toNat * 2 ^ 32)
  | .andXi d a i => some (encX 1 d a 0 0 1 + i.toNat * 2 ^ 32)
  | .orXi d a i => some (encX 1 d a 0 0 2 + i.toNat * 2 ^ 32)
  | .xorXi d a i => some (encX 1 d a 0 0 3 + i.toNat * 2 ^ 32)
  | .sltXi d a i => some (encX 1 d a 0 0 4 + i.toNat * 2 ^ 32)
  | .sltuXi d a i => some (encX 1 d a 0 0 5 + i.toNat * 2 ^ 32)
  | .bfx d a p l => some (encRB d a p.toNat l.toNat 0)
  | .bfi d a p l => some (encRB d a p.toNat l.toNat 1)
  | .lui d i => some (encU 4 d i.toNat)
  | .addpc d i => some (encU 5 d i.toNat)
  | .jal d o => some (encU 6 d o.toNat)
  | .jalr d a i => some (encRI 7 d a 0 i.toNat)
  | .beq a b o => some (encRI 8 a b 0 o.toNat)
  | .bne a b o => some (encRI 8 a b 1 o.toNat)
  | .blt a b o => some (encRI 8 a b 2 o.toNat)
  | .bge a b o => some (encRI 8 a b 3 o.toNat)
  | .bltu a b o => some (encRI 8 a b 4 o.toNat)
  | .bgeu a b o => some (encRI 8 a b 5 o.toNat)
  | .bqe q o => some (encRI 8 (24 + q.val) 0 6 o.toNat)
  | .ldB d b i ql => some (encRL 0x09 d b ql i.toNat)
  | .ldH d b i ql => some (encRL 0x0A d b ql i.toNat)
  | .ldW d b i ql => some (encRL 0x0B d b ql i.toNat)
  | .ldD d b i ql => some (encRL 0x0C d b ql i.toNat)
  | .lduB d b i ql => some (encRL 0x0D d b ql i.toNat)
  | .lduH d b i ql => some (encRL 0x0E d b ql i.toNat)
  | .lduW d b i ql => some (encRL 0x0F d b ql i.toNat)
  | .stB r b i ql => some (encRL 0x10 r b ql i.toNat)
  | .stH r b i ql => some (encRL 0x11 r b ql i.toNat)
  | .stW r b i ql => some (encRL 0x12 r b ql i.toNat)
  | .stD r b i ql => some (encRL 0x13 r b ql i.toNat)
  | .pref t wr b i ql => some (encRL 0x14 (prefHint t wr) b ql i.toNat)
  | .vld d b i ql => some (encRL 0x15 d b ql i.toNat)
  | .vst r b i ql => some (encRL 0x16 r b ql i.toNat)
  | .ldBXl d b off ql => some (encXL d b 0 ql off.toNat)
  | .ldHXl d b off ql => some (encXL d b 1 ql off.toNat)
  | .ldWXl d b off ql => some (encXL d b 2 ql off.toNat)
  | .ldDXl d b off ql => some (encXL d b 3 ql off.toNat)
  | .lduBXl d b off ql => some (encXL d b 4 ql off.toNat)
  | .lduHXl d b off ql => some (encXL d b 5 ql off.toNat)
  | .lduWXl d b off ql => some (encXL d b 6 ql off.toNat)
  | .stBXl r b off ql => some (encXL r b 7 ql off.toNat)
  | .stHXl r b off ql => some (encXL r b 8 ql off.toNat)
  | .stWXl r b off ql => some (encXL r b 9 ql off.toNat)
  | .stDXl r b off ql => some (encXL r b 10 ql off.toNat)
  | .prefXl t wr b off ql => some (encXL (prefHint t wr) b 11 ql off.toNat)
  | .vldXl d b off ql => some (encXL d b 12 ql off.toNat)
  | .vstXl r b off ql => some (encXL r b 13 ql off.toNat)
  | .amoAddW d m b ql => some (encRA 0x17 d m b 0 ql)
  | .amoAndW d m b ql => some (encRA 0x17 d m b 1 ql)
  | .amoOrW d m b ql => some (encRA 0x17 d m b 2 ql)
  | .amoXorW d m b ql => some (encRA 0x17 d m b 3 ql)
  | .amoMinW d m b ql => some (encRA 0x17 d m b 4 ql)
  | .amoMaxW d m b ql => some (encRA 0x17 d m b 5 ql)
  | .amoMinuW d m b ql => some (encRA 0x17 d m b 6 ql)
  | .amoMaxuW d m b ql => some (encRA 0x17 d m b 7 ql)
  | .amoSwapW d m b ql => some (encRA 0x17 d m b 8 ql)
  | .amoFaddW d m b ql => some (encRA 0x17 d m b 9 ql)
  | .amoFminW d m b ql => some (encRA 0x17 d m b 10 ql)
  | .amoFmaxW d m b ql => some (encRA 0x17 d m b 11 ql)
  | .casW d m b ql => some (encRA 0x17 d m b 12 ql)
  | .amoAddD d m b ql => some (encRA 0x18 d m b 0 ql)
  | .amoAndD d m b ql => some (encRA 0x18 d m b 1 ql)
  | .amoOrD d m b ql => some (encRA 0x18 d m b 2 ql)
  | .amoXorD d m b ql => some (encRA 0x18 d m b 3 ql)
  | .amoMinD d m b ql => some (encRA 0x18 d m b 4 ql)
  | .amoMaxD d m b ql => some (encRA 0x18 d m b 5 ql)
  | .amoMinuD d m b ql => some (encRA 0x18 d m b 6 ql)
  | .amoMaxuD d m b ql => some (encRA 0x18 d m b 7 ql)
  | .amoSwapD d m b ql => some (encRA 0x18 d m b 8 ql)
  | .casD d m b ql => some (encRA 0x18 d m b 12 ql)
  | .amoAddXa d m b ql pl wd => some (encXA d m b 0 ql pl wd)
  | .amoAndXa d m b ql pl wd => some (encXA d m b 1 ql pl wd)
  | .amoOrXa d m b ql pl wd => some (encXA d m b 2 ql pl wd)
  | .amoXorXa d m b ql pl wd => some (encXA d m b 3 ql pl wd)
  | .amoMinXa d m b ql pl wd => some (encXA d m b 4 ql pl wd)
  | .amoMaxXa d m b ql pl wd => some (encXA d m b 5 ql pl wd)
  | .amoMinuXa d m b ql pl wd => some (encXA d m b 6 ql pl wd)
  | .amoMaxuXa d m b ql pl wd => some (encXA d m b 7 ql pl wd)
  | .amoSwapXa d m b ql pl wd => some (encXA d m b 8 ql pl wd)
  | .amoFaddXa d m b ql pl => some (encXA d m b 9 ql pl false)
  | .amoFminXa d m b ql pl => some (encXA d m b 10 ql pl false)
  | .amoFmaxXa d m b ql pl => some (encXA d m b 11 ql pl false)
  | .casXa d m b ql pl wd => some (encXA d m b 12 ql pl wd)
  | .fence ql => some (encRL 0x19 0 0 ql 0)
  | .rpseal d a => some (encRR 0x19 d a 0 1)
  | .rpsealT d a => some (encRR 0x19 d a 0 2)
  | .rprestore d a => some (encRR 0x19 d a 0 3)
  | .sysc => some (encRR 0x1A 0 0 0 0)
  | .retk => some (encRR 0x1A 0 0 0 1)
  | .wfi => some (encRR 0x1A 0 0 0 2)
  | .fend => some (encRR 0x1A 0 0 0 3)
  | .brk => some (encRR 0x1A 0 0 0 4)
  | .tlbinv a b => some (encRR 0x1A 0 a b 5)
  | .l1inv a => some (encRR 0x1A 0 a 0 6)
  | .srr d sel => some (encRI 0x1B d 0 0 sel.toNat)
  | .srw sel a => some (encRI 0x1B 0 a 1 sel.toNat)
  | .srs sel a => some (encRI 0x1B 0 a 2 sel.toNat)
  | .src sel a => some (encRI 0x1B 0 a 3 sel.toNat)
  | .hint h => some (maj32 0 + h.toNat * 2 ^ 8)
  | .hint64 h => some (maj64 0 + h.toNat * 2 ^ 8)
  | .lstr q a b => some (encQ q a b 0 0)
  | .sstr q a b => some (encQ q a b 0 1)
  | .qend q => some (encQ q 0 0 0 2)
  | .qpeek g q i => some (encQ q g 0 i.toNat 3)
  | .qpeekD g q i => some (encQ q g 0 (i.toNat + 16) 3)
  | .qcnt g q => some (encQ q g 0 0 4)
  | .push slot gs => some (encT 0x1D 0 gs 0 0 slot.toNat)
  | .pushr gc slot gs => some (encT 0x1D 0 gs gc 1 slot.toNat)
  | .send gc n gs => some (encT 0x1D 0 gs gc 2 n.toNat)
  | .sendh gc n gs => some (encT 0x1D 0 gs gc 3 n.toNat)
  | .barj lvl n => some (encT 0x1D 0 0 lvl.toNat 4 n.toNat)
  | .bar d lvl n => some (encT 0x1D d 0 lvl.toNat 5 n.toNat)
  | .barl lvl n => some (encT 0x1D 0 0 lvl.toNat 6 n.toNat)
  | .barst d lvl n => some (encT 0x1D d 0 lvl.toNat 7 n.toNat)
  | .launch d a => some (encT 0x1E d a 0 0 0)
  | .abump d a i => some (encT 0x1E d a 0 1 i.toNat)
  | .abumpT d a i => some (encT 0x1E d a 0 1 (i.toNat + 8))
  | .mld m i => some (encT 0x1E m 0 0 2 i.toNat)
  | .mslice d m i => some (encT 0x1E d m 0 3 i.toNat)
  | .fresume a => some (encT 0x1E 0 a 0 4 0)
  | .pair => some (encT 0x1E 0 0 0 5 0)
  | .unpair => some (encT 0x1E 0 0 0 6 0)
  | .vadd f k q d a b => some (encV f.major d a b k q 0)
  | .vsub f k q d a b => some (encV f.major d a b k q 1)
  | .vmul f k q d a b => some (encV f.major d a b k q 2)
  | .vfma f k q d a b => some (encV f.major d a b k q 3)
  | .vfms f k q d a b => some (encV f.major d a b k q 4)
  | .vmin f k q d a b => some (encV f.major d a b k q 5)
  | .vmax f k q d a b => some (encV f.major d a b k q 6)
  | .vabs f k q d a => some (encV f.major d a 0 k q 7)
  | .vneg f k q d a => some (encV f.major d a 0 k q 8)
  | .vrcp f k q d a => some (encV f.major d a 0 k q 9)
  | .vrsq f k q d a => some (encV f.major d a 0 k q 10)
  | .vexp2 f k q d a => some (encV f.major d a 0 k q 11)
  | .vlog2 f k q d a => some (encV f.major d a 0 k q 12)
  | .vshl f k q d a b => some (encV f.major d a b k q 13)
  | .vshr f k q d a b => some (encV f.major d a b k q 14)
  | .vshrA f k q d a b => some (encV f.major d a b k q 15)
  | .vcmpEq f k q d a b => some (encV f.major d a b k q 16)
  | .vcmpNe f k q d a b => some (encV f.major d a b k q 17)
  | .vcmpLt f k q d a b => some (encV f.major d a b k q 18)
  | .vcmpLe f k q d a b => some (encV f.major d a b k q 19)
  | .vsel f k q d a b => some (encV f.major d a b k q 20)
  | .vperm f k q d a b => some (encV f.major d a b k q 21)
  | .vslideUp f k q d a b => some (encV f.major d a b k q 22)
  | .vslideDn f k q d a b => some (encV f.major d a b k q 23)
  | .vbcast f k q d a => some (encV f.major d a 0 k q 24)
  | .vredAdd f k q d a b => some (encV f.major d a b k q 25)
  | .vredMin f k q d a b => some (encV f.major d a b k q 26)
  | .vredMax f k q d a b => some (encV f.major d a b k q 27)
  | .vscanAdd f k q d a b => some (encV f.major d a b k q 28)
  | .vmvg f q d a b => some (encV f.major d a b 0 q 29)
  | .vand k q d a b => some (encV 0x27 d a b k q 0)
  | .vor k q d a b => some (encV 0x27 d a b k q 1)
  | .vxor k q d a b => some (encV 0x27 d a b k q 2)
  | .gmvv q d a => some (encV 0x27 d a 0 0 q 3)
  | .kand d a b => some (encV 0x27 d a b 0 false 4)
  | .kor d a b => some (encV 0x27 d a b 0 false 5)
  | .knot d a => some (encV 0x27 d a 0 0 false 6)
  | .kpop d a => some (encV 0x27 d a 0 0 false 7)
  | .rnadd k q d a b => some (encV 0x27 d a b k q 8)
  | .rnmul k q d a b => some (encV 0x27 d a b k q 9)
  | .rnfrom k q d a => some (encV 0x27 d a 0 k q 10)
  | .rnto k q d a => some (encV 0x27 d a 0 k q 11)
  | .vaddXv x d a b => some (encXV x d a b 0 0 0 0 0)
  | .vsubXv x d a b => some (encXV x d a b 0 0 1 0 0)
  | .vmulXv x d a b => some (encXV x d a b 0 0 2 0 0)
  | .vfmaXv x d a b c => some (encXV x d a b c 0 3 0 0)
  | .vfmsXv x d a b c => some (encXV x d a b c 0 4 0 0)
  | .vminXv x d a b => some (encXV x d a b 0 0 5 0 0)
  | .vmaxXv x d a b => some (encXV x d a b 0 0 6 0 0)
  | .vabsXv x d a => some (encXV x d a 0 0 0 7 0 0)
  | .vnegXv x d a => some (encXV x d a 0 0 0 8 0 0)
  | .vrcpXv x d a => some (encXV x d a 0 0 0 9 0 0)
  | .vrsqXv x d a => some (encXV x d a 0 0 0 10 0 0)
  | .vexp2Xv x d a => some (encXV x d a 0 0 0 11 0 0)
  | .vlog2Xv x d a => some (encXV x d a 0 0 0 12 0 0)
  | .vshlXv x d a b => some (encXV x d a b 0 0 13 0 0)
  | .vshrXv x d a b => some (encXV x d a b 0 0 14 0 0)
  | .vshrAXv x d a b => some (encXV x d a b 0 0 15 0 0)
  | .vcmpEqXv x d a b => some (encXV x d a b 0 0 16 0 0)
  | .vcmpNeXv x d a b => some (encXV x d a b 0 0 17 0 0)
  | .vcmpLtXv x d a b => some (encXV x d a b 0 0 18 0 0)
  | .vcmpLeXv x d a b => some (encXV x d a b 0 0 19 0 0)
  | .vselXv x d a b => some (encXV x d a b 0 0 20 0 0)
  | .vpermXv x d a b => some (encXV x d a b 0 0 21 0 0)
  | .vslideUpXv x d a b => some (encXV x d a b 0 0 22 0 0)
  | .vslideDnXv x d a b => some (encXV x d a b 0 0 23 0 0)
  | .vbcastXv x d a => some (encXV x d a 0 0 0 24 0 0)
  | .vredAddXv x d a b => some (encXV x d a b 0 0 25 0 0)
  | .vredMinXv x d a b => some (encXV x d a b 0 0 26 0 0)
  | .vredMaxXv x d a b => some (encXV x d a b 0 0 27 0 0)
  | .vscanAddXv x d a b => some (encXV x d a b 0 0 28 0 0)
  | .vmvgXv x d a b => some (encXV x d a b 0 0 29 0 0)
  | .vcvt x s p d a => some (encXV x d a 0 0 1 0 s.code p.toNat)
  | .vmxscale x b16 p d a => some (encXV x d a 0 0 1 1 0 (b16.toNat + p.toNat * 16))
  | .vmxq x b16 qp p d a b => some (encXV x d a b 0 1 2 0 (b16.toNat + qp.toNat * 2 + p.toNat * 16))
  | .vdotMx x b16 d a b c => some (encXV x d a b c 1 3 0 b16.toNat)
  | .vlds x ql d a b => some (encXV x d a b 0 2 0 0 ql.imm)
  | .vsts x ql d a b => some (encXV x d a b 0 2 1 0 ql.imm)
  | .vldx x ql d a b => some (encXV x d a b 0 2 2 0 ql.imm)
  | .vstx x ql d a b => some (encXV x d a b 0 2 3 0 ql.imm)
  | .c16AddRr d s => some (enc16 1 d s)
  | .c16Mov d s => some (enc16 2 d s)
  | .c16AddImm d i => some (enc16 3 d i.toNat)
  | .c16Li d i => some (enc16 4 d i.toNat)
  | .c16Sub d s => some (enc16 5 d s)
  | .c16And d s => some (enc16 6 d s)
  | .c16Or d s => some (enc16 7 d s)
  | .c16Xor d s => some (enc16 8 d s)
  | .c16Sll d u => some (enc16 9 d u.toNat)
  | .c16Srl d u => some (enc16 10 d u.toNat)
  | .c16Sra d u => some (enc16 11 d u.toNat)
  | .c16LdDSp d u => some (enc16 12 d u.toNat)
  | .c16StDSp d u => some (enc16 13 d u.toNat)
  | .c16LdW d s => some (enc16 14 d s)
  | .c16StW d s => some (enc16 15 d s)
  | .c16LdD d s => some (enc16 16 d s)
  | .c16StD d s => some (enc16 17 d s)
  | .c16J o => some (enc16J 18 o.toNat)
  | .c16Jal o => some (enc16J 19 o.toNat)
  | .c16Jr s => some (enc16 20 0 s)
  | .c16Jalr s => some (enc16 21 0 s)
  | .c16Nop => some (enc16J 22 0)
  | .c16Fend => some (enc16J 23 0)
  | .c16Brk => some (enc16J 24 0)
  | .lidx f q a b c => some (encXE 0x13 (24 + q) a b c 0 f.code 0 0 0 0)
  | .lsisect f q a b c => some (encXE 0x13 (24 + q) a b c 1 f.code 0 0 0 0)
  | .lmerge f q a b c => some (encXE 0x13 (24 + q) a b c 2 f.code 0 0 0 0)
  | .lmpart f d a b c => some (encXE 0x13 d a b c 3 f.code 0 0 0 0)
  | .lcoord f q a b c => some (encXE 0x13 (24 + q) a b c 4 f.code 0 0 0 0)
  | .sscat f a qd qi => some (encXE 0x13 0 a (24 + qd) (24 + qi) 5 f.code 0 0 0 0)
  | .bldw d a b off => some (encXE 0x10 d a b 0 0 0 0 0 0 off.toNat)
  | .bldwGexp d a b off => some (encXE 0x10 d a b 0 0 0 0 1 0 off.toNat)
  | .bset bsd a => some (encXE 0x10 bsd a 0 0 1 0 0 0 0 0)
  | .bstg f d a b bsn => some (encXE 0x10 d a b 0 2 f.code 0 0 bsn 0)
  | .bchn f m d a b n => some (encXE 0x10 d a b 0 3 f.code 0 m.code n 0)
  | .bmma fa fb acc d a b c => some (encXE 0x10 d a b c 4 fa.code fb.code 0 0 acc.toNat)
  | .bmmap fa fb acc d a b c => some (encXE 0x10 d a b c 5 fa.code fb.code 0 0 acc.toNat)
  | .baccKeep f r ns d a b => some (encXE 0x10 d a b 0 6 f.code 0 0 0 (baccI r ns))
  | .baccTake f r ns d a b => some (encXE 0x10 d a b 0 6 f.code 0 1 0 (baccI r ns))
  | .baccClr d b => some (encXE 0x10 d 0 b 0 6 0 0 2 0 0)
  | .baccRes f r ns sh d a b => some (encXE 0x10 d a b 0 6 f.code 0 4 sh.toNat (baccI r ns))
  | .baccRestake f r ns sh d a b => some (encXE 0x10 d a b 0 6 f.code 0 5 sh.toNat (baccI r ns))
  | .brst l => some (encXE 0x10 0 0 0 0 7 0 0 0 0 l.toNat)
  | .bwait a => some (encXE 0x10 0 a 0 0 8 0 0 0 0 0)
  | .bpoll d a => some (encXE 0x10 d a 0 0 9 0 0 0 0 0)
  | .geval op d a b c => some (encXE 0x11 d a b c 0 0 0 op.code 0 0)
  | .gred op d a b c => some (encXE 0x11 d a b c 1 0 0 op.code 0 0)
  | .gseek d a b => some (encXE 0x11 d a b 0 2 0 0 0 0 0)
  | .gpfx op d a b c => some (encXE 0x11 d a b c 3 0 0 op.code 0 0)
  | .gexpMemory d a b c => some (encXE 0x11 d a b c 4 0 0 0 0 0)
  | .gexpQueue d a q c => some (encXE 0x11 d a (24 + q) c 4 0 0 0 0 1)
  | .gexpWp d a c => some (encXE 0x11 d a 0 c 4 0 0 0 0 2)
  | .gmv op d a b c => some (encXE 0x11 d a b c 5 0 0 op.code 0 0)
  | .gwait a => some (encXE 0x11 0 a 0 0 6 0 0 0 0 0)
  | .gpoll d a => some (encXE 0x11 d a 0 0 7 0 0 0 0 0)
  | .cpyq d a => some (encXE 0x12 d a 0 0 0 0 0 0 0 0)
  | .cpyqb d a => some (encXE 0x12 d a 0 0 1 0 0 0 0 0)
  | .cwait a ch => some (encXE 0x12 0 a 0 0 2 0 0 0 ch.toNat 0)
  | .cpoll d a ch => some (encXE 0x12 d a 0 0 3 0 0 0 ch.toNat 0)
  | .wldp d a => some (encX 0x14 d a 0 0 0)
  | .wret a b => some (encX 0x14 0 a b 0 1)
  | _ => none

end Sys2Proof
end

