-- ==== Sys2Proof/Machine/Fetch.lean ====
section
/-! DEFINITION. Fetching and decoding the next instruction of whoever executes (R33, R47, R48). -/

namespace Sys2Proof.Machine

/-- The store from which a turn fetches (R33, R210). -/
def State.storeOf (s : State) : Turn → List Half
  | .core n .l => (s.core n).stores.l
  | .core n .s => (s.core n).stores.s
  | .core n _ => (s.core n).stores.c
  | .walker d _ => (s.die d).store
  | .io d n => (s.ioCore d n).store
  | .env => []

/-- The halfwords of a window from an index, as a number: bit 0 is bit <0> of the first (R47). -/
def window (store : List Half) (i : Nat) : Nat :=
  (store.getD i 0).toNat + (store.getD (i + 1) 0).toNat * 2 ^ 16 +
    (store.getD (i + 2) 0).toNat * 2 ^ 32 + (store.getD (i + 3) 0).toNat * 2 ^ 48

/-- What a fetch finds: an instruction, or the cause that the stream raises (R33). -/
inductive Fetched where
  | instr (i : Instr)
  | cause (c : Nat) (tval : Word)
  deriving DecidableEq, Repr

/-- The instruction at an offset of a store: an odd offset raises 0x03; a halfword outside the loaded
routines raises 0x0C (R33, R48); an encoding that is no instruction is RESERVED_ENCODING (R65). -/
noncomputable def fetchAt (store : List Half) (pc : Word) : Fetched :=
  let i := pc.toNat / 2
  if pc.toNat % 2 = 1 then .cause 0x03 pc
  else if store.length ≤ i then .cause 0x0C 0
  else if store.length < i + lengthOf (store.getD i 0).toNat then .cause 0x0C 0
  else
    match decode (window store i) with
    | .ok ins => .instr ins
    | .error why => .instr (.reservedEncoding why)

/-- The instruction that a turn executes next. -/
noncomputable def State.fetch (s : State) : Fetched := fetchAt (s.storeOf s.turn) s.pc

end Sys2Proof.Machine
end

