-- ==== Sys2Proof/Machine/Agents.lean ====
section
/-! DEFINITION. What each agent of the part does when it moves (log 10): a stream that issues, or the event that
falls due. Events that time or the outside world brings about come from the agenda alone. -/

namespace Sys2Proof.Machine

/-- What an agent does: execute an instruction or an event at a state, reach a state outright, or nothing. -/
inductive Choice where
  | run (s : State) (i : Instr)
  | reach (s : State)
  | idle

/-- Does an event have an effect now? -/
def State.isDue (s : State) (i : Instr) : Bool :=
  match exec i { s with turn := .env } with
  | .next t => t != { s with turn := .env }
  | _ => false

/-- The first event of a list that has an effect. -/
def due (s : State) (is : List Instr) : Choice :=
  match is.find? fun i => s.isDue i with
  | some i => .run { s with turn := .env } i
  | none => .idle

/-- The next instruction of a turn, or the trap of its fetch (R33). -/
noncomputable def issue (s : State) (t : Turn) : Choice :=
  let s := { s with turn := t }
  match s.fetch with
  | .instr i => .run s i
  | .cause c v => .reach (s.trapTurn c v)

/-! ## Streams of a core (R34, R35, R162, R368) -/

/-- Does a pair keep a stream from issuing (R368): its interval is closed and it does not lag, or another stream's
operation comes first? -/
def State.pairHolds (s : State) (n : Nat) (x : Ctx) : Bool :=
  let c := s.core n
  let p := s.core (partnerOf n)
  let i := ix 2 (streamNo x)
  c.paired &&
    if flag c.pair.ctl 2 then !(flag p.pair.ctl 2 && decide (c.pair.retired.get i < p.pair.retired.get i))
    else match c.pair.closer with | some y => decide (x ≠ y) | none => false

/-- The close that a core owes its pair: its partner has closed and its own F has come as far, or its team is
leaving. -/
def State.pairCloses (s : State) (n : Nat) : Option (Option Ctx) :=
  let c := s.core n
  let p := s.core (partnerOf n)
  if !c.paired || flag c.pair.ctl 2 then none
  else if flag p.pair.ctl 2 && decide (p.pair.retired.get 0 ≤ c.pair.retired.get 0) then some p.pair.closer
  else if s.leaving n && c.intervalOpen then some none
  else none

/-- Is a core's die under reset? -/
def State.down (s : State) (n : Nat) : Bool := (s.die (dieOf n)).inReset

/-- May F, L or S of a core issue: not while its team leaves, except that a pair's closed interval is brought level
(R162, R368)? -/
def State.mayIssue (s : State) (n : Nat) (x : Ctx) : Bool :=
  !s.pairHolds n x && (!s.leaving n || ((s.core n).paired && flag (s.core n).pair.ctl 2))

/-- What F does in its clock. -/
noncomputable def chooseF (s : State) (n : Nat) : Choice :=
  let c := s.core n
  if flag c.pair.ctl 2 then (if s.mayIssue n .f then issue s (.core n .f) else .idle)
  else if s.noticeDue n then .reach (s.takeNotice n)
  else if c.fIdle then due s [.firingStart n]
  else if !s.mayIssue n .f || c.wfi then .idle
  else if c.allEnded && !c.fc.inTrap then due s [.firingRetire n]
  else if c.f.cEnded && !c.fc.inTrap then .idle
  else issue s (.core n .f)

/-- Does D take the next clock: it runs, and its turn has come or nothing else runs (R35)? -/
def Core.dNext (c : Core) : Bool := c.dAct.isSome && (c.dTurn || (c.hAct.isNone && (c.fIdle || c.wfi)))

/-- The C-stream of a core: H starts at F's boundary; D takes every other clock, and those that F cannot use; H comes
before F. -/
noncomputable def chooseC (s : State) (n : Nat) : Choice :=
  if s.down n then .idle
  else
    match due s [.hActivationStart n, .activationLimit n] with
    | .run t i => .run t i
    | _ =>
      match s.pairCloses n with
      | some closer => .reach (s.modCore n fun c => c.closeInterval closer)
      | none =>
        let c := s.core n
        let t := s.modCore n fun c => { c with dTurn := c.dAct.isSome && !c.dNext }
        if c.dNext then issue t (.core n .d)
        else if c.hAct.isSome then issue t (.core n .h)
        else
          match chooseF t n with
          | .idle => if c.dAct.isSome then issue (s.modCore n fun c => { c with dTurn := false }) (.core n .d) else .idle
          | x => x

/-- The L-stream or S-stream of a core. -/
noncomputable def chooseStream (s : State) (n : Nat) (x : Ctx) (ended : Bool) : Choice :=
  if s.down n || ended || (s.core n).f.held || (s.core n).fIdle || !s.mayIssue n x then .idle
  else issue s (.core n x)

/-! ## Walkers and I/O cores (R211, R392) -/

/-- A walker starts a walk that waits, or its first thread issues. -/
noncomputable def chooseWalk (s : State) (d : Nat) : Choice :=
  if (s.die d).inReset then .idle
  else
    match due s [.tlbMissWalk d] with
    | .run t i => .run t i
    | _ =>
      match (s.die d).threads with
      | [] => .idle
      | t :: _ => if 1024 ≤ t.count then due s [.walkLimitExceeded d t.tid] else issue s (.walker d t.tid)

/-- An I/O core whose routine runs. -/
noncomputable def chooseIo (s : State) (d k : Nat) : Choice :=
  if (s.die d).inReset || !(s.ioCore d k).running then .idle else issue s (.io d k)

/-! ## Schedulers (R7, R162, R344) -/

/-- No tables: where only the levels of a record matter. -/
def noTables : LaunchTables := { stages := [], shape := [], arenas := [], classes := [], header := [], image := 0 }

/-- Nothing loaded. -/
def noLoad : LaunchLoad := { stores := { c := [], l := [], s := [] }, records := [], used := [] }

/-- Clusters for the next launch of a die: the free ones from some cluster on that R161 allows. -/
def State.grant (s : State) (d : Nat) : List Nat :=
  match nextLaunch (s.die d).launches with
  | none => []
  | some q =>
    let c := recordField q.record 8 32 16
    let info := launchInfo q.record noTables noLoad
    let free := (List.range Config.clusterCount).filter fun cl => s.clusterFree cl
    let from_ (o : Nat) : List Nat := (free.filter fun cl => decide (o ≤ cl)).take c
    let legal (l : List Nat) : Bool :=
      l.length == c && info.placedLegal ((List.range (Nat.min info.clusters c)).map fun k => (k, l.getD k 0))
    (((List.range Config.clusterCount).map from_).find? legal).getD []

/-- The events of a scheduler. -/
noncomputable def schedulerEvents (s : State) (d : Nat) : List Instr :=
  let perGrid := s.grids.flatMap fun g =>
    [.gridCompletion g.1, .sealFlip g.1, .sealCommit g.1, .sealDecision g.1] ++
      (g.2.place.map fun p => Instr.teamSwapOut g.1 p.1) ++
      (g.2.saved.flatMap fun p => g.2.granted.map fun cl => Instr.teamRestore g.1 p.1 cl)
  let owed := (s.owed.filter fun o => dieOf o.core == d).map fun o => Instr.gridCompletion o.grid
  perGrid ++ owed ++ [.launchStart d (s.grant d)]

/-! ## The choice of an agent -/

/-- The contexts of a core. -/
def contexts : List Ctx := [.f, .h, .d, .l, .s]

/-- What the network interface of a core does with what has reached it. That the page of a fibre has been served is no
word of its own (R165), so a record is taken from an inbox only. -/
noncomputable def netEvents (s : State) (n : Nat) : List Instr :=
  [.messageArrival n] ++ (if (s.core (s.actor n)).inbox.isEmpty then [] else [.pinnedRecord n]) ++
    [.atomicActivation n, .recordPushRetry n, .dActivationStart n]

/-- What an agent does. -/
noncomputable def choose (s : State) : Agent → Choice
  | .cStream n => chooseC s n
  | .lStream n => chooseStream s n .l (s.core n).f.l.ended
  | .sStream n => chooseStream s n .s (s.core n).f.s.ended
  | .drain n => due s ((contexts.map fun x => Instr.rcReleaseComplete n x) ++ [.storeBufferDrain n])
  | .net n => due s (netEvents s n)
  | .steal n => due s [.stealAnswer n, .stealRequest n, .stealRoundTimeout n]
  | .bse cl => due s [.bseJobComplete cl, .completionPush cl, .claimedLineFinished cl, .bseJobStart cl]
  | .gre cl => due s [.greJobComplete cl, .completionPush cl, .claimedLineFinished cl, .greJobStart cl]
  | .copy n =>
    due s (((List.range 4).map fun ch => Instr.copyTransferComplete n ch) ++ [.copyFaultDelivery n] ++
      ((List.range 4).map fun ch => Instr.copyPageFault n ch) ++ [.copyDispatch n, .claimedLineFinished (clusterOf n)])
  | .walker d => chooseWalk s d
  | .ioCore d k => chooseIo s d k
  | .keep ctrl => due s ((s.grids.map fun g => Instr.sealPrepare g.1 ctrl) ++ [.keepWrite ctrl])
  | .pairs n => due s [.fingerprintExchange n]
  | .scheduler d => due s (schedulerEvents s d)
  | .egress p => due s [.egressArbitration p]

end Sys2Proof.Machine
end

