-- ==== Sys2Proof/Machine/Step.lean ====
section
/-! DEFINITION. One step of the part: the next move of the agenda, or else the agent whose turn it
is (log 10). -/

namespace Sys2Proof.Machine

/-- A choice carried out. -/
noncomputable def carryOut (s : State) : Choice → Host.Outcome State Fault Refusal
  | .run t i => exec i t
  | .reach t => .next t
  | .idle => .next s

/-- One step. -/
noncomputable def step (s : State) : Host.Outcome State Fault Refusal :=
  match s.agenda with
  | .event i :: rest => exec i { s with agenda := rest, turn := .env }
  | .agent a :: rest => carryOut { s with agenda := rest } (choose { s with agenda := rest } a)
  | [] =>
    match s.agents with
    | [] => .next s
    | a :: as => carryOut { s with agents := as ++ [a] } (choose { s with agents := as ++ [a] } a)

/-- A core that runs a firing of slot 0 with the given C routine, at offset 0, in the mode that reset
leaves (M). -/
def Core.withRoutine (c : Core) (code : List Half) : Core :=
  { c with
    firing := .slot 0
    f := { c.f with cEnded := false }
    fc := { c.fc with pc := 0 }
    stores := { c.stores with c := code } }

/-- The four halfwords of a table word, its bits above `nbits` zero (R47). -/
def tableHalves (nbits w : Nat) : List Half :=
  (List.range 4).map fun i => BitVec.ofNat 16 (w % 2 ^ nbits / 2 ^ (16 * i))

/-- `s` with the instruction placed where the next step fetches: the routine store of core 0 at offset
0, a firing running there, and core 0's C-stream to move next (log 18). -/
def State.withFetchWord (s : State) (nbits w : Nat) : State :=
  { s with agenda := [], agents := [.cStream 0] }.modCore 0 fun c => c.withRoutine (tableHalves nbits w)

end Sys2Proof.Machine
end

