-- ==== Sys2Proof/Safety.lean ====
section
/-! DEFINITION. The words that statements use: what a safe memory is, who executes, and what a step leaves alone. -/

namespace Sys2Proof.Machine

/-- A safe state's memory is in canonical form: addresses strictly rising, no byte listed that an unlisted
address would read as. -/
def memoryWf (s : State) : Prop := Memory.wf s.mem = true

/-- Whoever's turn it is can execute: a stream or context of a core, an I/O core, a walker thread that exists. -/
def State.executing (s : State) : Bool :=
  match s.turn with
  | .env => false
  | .walker d t => (s.thread d t).isSome
  | _ => true

/-- A stream or context of a core executes. -/
def State.runs (s : State) (n : Nat) (x : Ctx) : Prop := s.turn = .core n x

/-- A context keeps everything but its general registers and its offset. -/
def Context.onlyRegisters (k k' : Context) : Prop := { k' with g := k.g, pc := k.pc } = k

/-- A stream keeps everything but its registers and its offset. -/
def StreamState.onlyRegisters (t t' : StreamState) : Prop := { t' with g := t.g, pc := t.pc } = t

/-- A core keeps everything but general registers and offsets of its contexts and streams, what its pair counts
and notes (R368), the count of an activation (R35), and the remote answers already used. -/
def Core.onlyRegisters (c c' : Core) : Prop :=
  { c' with fc := c.fc, hc := c.hc, dc := c.dc, f := c.f, hAct := c.hAct, dAct := c.dAct, waits := c.waits,
            pair := c.pair } = c ∧
  c.fc.onlyRegisters c'.fc ∧ c.hc.onlyRegisters c'.hc ∧ c.dc.onlyRegisters c'.dc ∧
  { c'.f with l := c.f.l, s := c.f.s } = c.f ∧ c.f.l.onlyRegisters c'.f.l ∧ c.f.s.onlyRegisters c'.f.s ∧
  { c'.waits with remote := c.waits.remote } = c.waits

/-- The state keeps everything but registers and offset of whoever executes, with what a core counts about them:
so do memory, every special register, every flag, and every other core. -/
def State.registersOnly (s t : State) : Prop :=
  match s.turn with
  | .core n _ =>
    { t with cores := s.cores } = s ∧ (∀ m, m ≠ n → t.core m = s.core m) ∧ (s.core n).onlyRegisters (t.core n)
  | .io d k =>
    { t with dies := s.dies } = s ∧ (∀ e, ix 3 e ≠ ix 3 d → t.die e = s.die e) ∧
    { t.die d with io := (s.die d).io } = s.die d ∧ (∀ j, j ≠ k → t.ioCore d j = s.ioCore d j) ∧
    { t.ioCore d k with ctx := (s.ioCore d k).ctx } = s.ioCore d k ∧
    (s.ioCore d k).ctx.onlyRegisters (t.ioCore d k).ctx
  | .walker d _ =>
    { t with dies := s.dies } = s ∧ (∀ e, ix 3 e ≠ ix 3 d → t.die e = s.die e) ∧
    { t.die d with threads := (s.die d).threads } = s.die d ∧
    (t.die d).threads.map (fun th => (th.tid, th.req, th.scratch)) =
      (s.die d).threads.map fun th => (th.tid, th.req, th.scratch)
  | .env => t = s

/-- `t` follows `s` by an instruction of `len` bytes that writes `v` to a general register and nothing else: `g0`
discards what is written (R36). -/
def State.wrote (s t : State) (len : Nat) (d : Reg) (v : Word) : Prop :=
  t.readG d = (if d = 0 then 0 else v) ∧ t.pc = s.pc + word len ∧ (∀ r, r ≠ d → t.readG r = s.readG r) ∧
    s.registersOnly t

/-- `t` follows `s` by an instruction that writes no register and goes on at `next`. -/
def State.movedTo (s t : State) (next : Word) : Prop :=
  t.pc = next ∧ (∀ r, t.readG r = s.readG r) ∧ s.registersOnly t

/-! ## What an instruction does -/

/-- An instruction of `len` bytes runs: it writes `v` to `d` and nothing else. -/
def Writes (s : State) (i : Instr) (len : Nat) (d : Reg) (v : Word) : Prop :=
  ∃ t, exec i s = .next t ∧ s.wrote t len d v

/-- An instruction runs: it changes nothing, and its stream goes on at `next`. -/
def GoesTo (s : State) (i : Instr) (next : Word) : Prop :=
  ∃ t, exec i s = .next t ∧ s.movedTo t next

/-- A jump runs: it writes the link `v` to `d` and nothing else, and its stream goes on at `next`. -/
def Links (s : State) (i : Instr) (d : Reg) (v next : Word) : Prop :=
  ∃ t, exec i s = .next t ∧ t.pc = next ∧ t.readG d = (if d = 0 then 0 else v) ∧
    (∀ r, r ≠ d → t.readG r = s.readG r) ∧ s.registersOnly t

/-- An instruction has no effect but to raise a cause (R32): whoever executes takes the trap in the state before
the instruction. -/
def Raises (s : State) (i : Instr) (cause : Nat) (tval : Word) : Prop :=
  exec i s = .next ((s.keepPassed s).trapTurn cause tval)

/-- An instruction of `len` bytes runs to its end in state `t`, and whoever executes goes on past it. -/
def Retires (s : State) (i : Instr) (len : Nat) (t : State) : Prop :=
  exec i s = .next (t.retire (s.pc + word len))

/-- An instruction waits: nothing changes, and it issues again. -/
def Waits (s : State) (i : Instr) : Prop := exec i s = .next s

/-- An instruction waits on a queue: the core notes at which instruction the stream waits (R153), nothing else changes,
and it issues again. -/
def Stalls (s : State) (i : Instr) (n : Nat) (x : Ctx) : Prop :=
  exec i s = .next (s.modCore n fun c =>
    { c with f := { c.f with stalls := vset c.f.stalls (ix 2 (streamNo x)) (some (c.pc x)) } })

/-- A context of a core executes, and its core is not one of a pair. -/
def State.alone (s : State) (n : Nat) (x : Ctx) : Prop := s.turn = .core n x ∧ (s.core n).paired = false

/-- The state keeps every other core, memory, the grids, the dies and everything else but one core, and what the
clusters remember of failed walks. -/
def State.onlyCore (s t : State) (n : Nat) : Prop :=
  { t with cores := s.cores, clusters := s.clusters } = s ∧ (∀ m, m ≠ n → t.core m = s.core m) ∧
    ∀ m, { t.cluster m with fails := (s.cluster m).fails } = s.cluster m

/-! ## Accesses to memory -/

/-- The set of a line in the RDC of a die has room for one more line (R17, R203). -/
def State.rdcRoom (s : State) (d line : Nat) : Prop :=
  ((s.die d).rdc.filter fun p => p.1 % 8192 == line % 8192).length < 16

/-- The RDC of a die agrees with memory: every line in it is clean, and as its home has it (R203). -/
def State.rdcAgrees (s : State) (d : Nat) : Prop := ∀ p ∈ (s.die d).rdc, p.2 = s.fetchLine p.1

/-- The state keeps everything but what loads of at most `k` lines leave in caches and predictors (R203, R205, R222).
Where every set of the die's RDC has room for `k` lines, or the RDC agrees with memory, every context of every core
reads every byte as before, and memory is the same; otherwise a full set first writes a line back. -/
def State.tracesOnly (s t : State) (n k : Nat) : Prop :=
  { t with caches := s.caches, fresh := s.fresh, dies := s.dies, mem := s.mem, poison := s.poison } = s ∧
    (∀ e, { t.die e with rdc := (s.die e).rdc, predict := (s.die e).predict } = s.die e) ∧
    ((∀ line, ((s.die (dieOf n)).rdc.filter fun p => p.1 % 8192 == line % 8192).length + k ≤ 16) ∨
        s.rdcAgrees (dieOf n) →
      t.mem = s.mem ∧ t.poison = s.poison ∧ ∀ m y q, t.readByte m y q = s.readByte m y q)

/-- The `len` bytes at `va` pass the checks 2, 3, 5 and 6 of R78 for a context of a core: they lie in one page, outside
the windows 1 to 7 of a slot, at the place `p`, and no engine has claimed them. `rc` says whether on an RC page. -/
def State.reaches (s : State) (n : Nat) (x : Ctx) (store : Bool) (va len : Nat) (p : Place) (rc : Bool) : Prop :=
  canonical va = true ∧ canonical (va + len - 1) = true ∧ va + len ≤ 2 ^ 64 ∧ va % 4096 + len ≤ 4096 ∧
    (inScratch va = true → va % 2 ^ 19 + len ≤ 0x60000 ∧ va / 2 ^ 19 % 8 = 0) ∧
    (∃ unc, s.spot (s.viewer n x) store va = .at_ p rc unc) ∧
    s.claimed p = false ∧ s.claimed (p.add (len - 1)) = false

/-- The `len` bytes at a place as a context of a core reads them, lowest first, as one number. -/
def State.loads (s : State) (n : Nat) (x : Ctx) (p : Place) (len : Nat) : Nat :=
  natOf ((List.range len).map fun i => s.readByte n x (p.add i))

/-- No byte of a place is poisoned for a context of a core (R361). -/
def State.sound (s : State) (n : Nat) (x : Ctx) (p : Place) (len : Nat) : Prop :=
  ∀ i, i < len → s.bytePoisoned n x (p.add i) = false

/-- What the ordering of a load does before it reads (R79): a ticket under `.sc`, and from die scope on the clean lines
of the RDC go. -/
def State.acquired (s : State) (n : Nat) (ql : Qual) : State :=
  let s := if ql.ord = .sc then { s with ticket := s.ticket + 1 } else s
  if ql.ord ≠ .plain ∧ ql.scope ≠ .co ∧ ql.scope ≠ .cl then s.dropCleanRdc (dieOf n) else s

/-- The state keeps everything but memory, scratchpads, the buffers of one core, what accesses leave in caches and
predictors, and the registers and offset of whoever executes. -/
def State.storesOnly (s t : State) (n : Nat) : Prop :=
  { t with cores := s.cores, mem := s.mem, poison := s.poison, caches := s.caches, dies := s.dies, keep := s.keep,
           fresh := s.fresh } = s ∧
    (∀ m, m ≠ n → { t.core m with mem := { (s.core m).mem with
      scratch := (t.core m).mem.scratch, poison := (t.core m).mem.poison } } = t.core m ∧
      { t.core m with mem := (s.core m).mem } = s.core m) ∧
    (s.core n).onlyRegisters { t.core n with mem := (s.core n).mem } ∧
    (∀ e, { t.die e with rdc := (s.die e).rdc, predict := (s.die e).predict } = s.die e) ∧
    { t.keep with msgs := s.keep.msgs } = s.keep

/-- An instruction of `len` bytes stores `bs` at `p`: the context that executes reads them there, every context of
every core reads every other byte as before, and registers, flags and everything else are kept. -/
def StoresAt (s : State) (i : Instr) (n : Nat) (x : Ctx) (len : Nat) (p : Place) (bs : List Byte) : Prop :=
  ∃ t, exec i s = .next t ∧ t.pc = s.pc + word len ∧ (∀ r, t.readG r = s.readG r) ∧
    (∀ k, k < bs.length → t.readByte n x (p.add k) = bs.getD k 0) ∧
    (∀ m y q, q.within p bs.length = none → t.readByte m y q = s.readByte m y q) ∧ s.storesOnly t n

/-- A store of `len` bytes at `p` goes through at once (R14, R80, R367): F's store buffer, the gating buffer of an
activation, or the Keep has room, only activations gate stores, the scratchpad stored to is not one of a pair, and for
the L-stream and the S-stream, which store past every buffer, none of their stores stands in one, and the RDC does not
hold the line and has room for it. -/
def State.takes (s : State) (n : Nat) (x : Ctx) (p : Place) (len : Nat) (rc : Bool) : Prop :=
  let c := s.core n
  (x = .f → c.mem.taken < 32 ∧
    (rc = true → s.gateUse n + (c.mem.buffer.filter fun e => e.parts.any (·.rc)).length < 256)) ∧
  (x = .h ∨ x = .d →
    (c.mem.gate.filter fun e => e.act && decide (e.ctx = x)).length < 32 ∧ s.gateUse n < 256) ∧
  (x = .l ∨ x = .s → (∀ e ∈ c.mem.buffer, e.ctx ≠ x) ∧ (rc = true → s.gateUse n < 256)) ∧
  (∀ e ∈ c.mem.gate, e.ctx = .h ∨ e.ctx = .d) ∧
  (∀ k o, p = .scratch k o → (s.core k).paired = false ∧ (s.core (partnerOf k)).paired = false) ∧
  (x = .l ∨ x = .s → ∀ pa, p = .mem pa → homeDie pa = dieOf n ∨
    ∀ line ∈ [pa / 128, (pa + len - 1) / 128],
      sget (s.die (dieOf n)).rdc line = none ∧ s.rdcRoom (dieOf n) line)

/-! ## Vector instructions (R109, R110) -/

/-- A source as it stands: a vector register, or the entry at the head of a queue. -/
def Core.operand (c : Core) (x : Ctx) : VField → VWord
  | .reg r => (c.context x).v.get r
  | .queue q => ((c.f.q.get q).head?.map QEntry.bits).getD 0

/-- A core after a source has been read: a queue has lost its head. -/
def Core.popped (c : Core) : VField → Core
  | .reg _ => c
  | .queue q => c.setQueue q (c.f.q.get q).tail

/-- The sources of a vector instruction, read in their order, and the core after them. -/
def Core.operands (c : Core) (x : Ctx) : List VField → List VWord × Core
  | [] => ([], c)
  | f :: fs =>
    let rest := (c.popped f).operands x fs
    (c.operand x f :: rest.1, rest.2)

/-- The old value behind the inactive elements of a destination: 0 in a queue entry (R109). -/
def Core.before (c : Core) (x : Ctx) : VField → VWord
  | .reg r => (c.context x).v.get r
  | .queue _ => 0

/-- A vector instruction has its operands (R109, R110): registers of the context, queues in their direction and only in
F, data in every entry popped, room for the entry pushed, and no store in the buffer that a push must drain first
(R144). -/
def Core.supplies (c : Core) (x : Ctx) (srcs dst : List VField) : Prop :=
  (∀ f ∈ srcs ++ dst, f.inFile x = true) ∧ (∀ f ∈ srcs, f.poppable x = true) ∧ (∀ f ∈ dst, f.pushable x = true) ∧
    (∀ q, countQueue srcs q ≤ (c.f.q.get q).length ∧ QEntry.mark ∉ (c.f.q.get q).take (countQueue srcs q)) ∧
    ∀ q, VField.queue q ∈ dst → (c.f.q.get q).length < 8 ∧ c.mem.buffer = []

/-- A core that keeps flags and a generator, and whose vector destination has taken `v`: a register, or one more entry
of a queue. -/
def Core.yields (c : Core) (x : Ctx) (dst : VField) (v : VWord) (fl : Nat) (seed : Word) : Core :=
  let c := c.modContext x fun k => { k with fpstat := k.fpstat ||| word fl }
  let c : Core := { c with f := { c.f with srseed := seed } }
  match dst with
  | .reg r => c.modContext x fun k => k.writeV r v
  | .queue q => c.setQueue q (c.f.q.get q ++ [.data v])

/-- A vector instruction of `len` bytes runs: its sources are read, and its destination takes `v`; `fl` joins the flags,
the generator stands at `seed`, and nothing else changes. -/
def Yields (s : State) (i : Instr) (n : Nat) (x : Ctx) (len : Nat) (srcs : List VField) (dst : VField) (v : VWord)
    (fl : Nat) (seed : Word) : Prop :=
  Retires s i len (s.setCore n ((((s.core n).operands x srcs).2).yields x dst v fl seed))

/-- A form may run here (R41, R65, R109): no mask in D, mode 5 in F alone, its general registers in the file, and in the
64-bit format under Q below 24. -/
def State.admits (s : State) (x : Ctx) (F : VecForm) (gs : List Reg) : Prop :=
  (x = .f ∨ x = .h ∨ x = .d) ∧ (x = .d → F.k = 0) ∧ (modeOf F.rnd s.context = 5 → x = .f) ∧ holds s.turn gs = true ∧
    (F.len = 8 → F.q = true → ∀ r ∈ gs, r.val < 24)

/-- The generator after `m` draws (R101). -/
def drawn (seed : Word) : Nat → Word
  | 0 => seed
  | m + 1 => srStep (drawn seed m)

/-- A result by lanes (R109, R114, R102): each active element of width `w` among `count` takes its code, the others the
old bits; the flags are those of the active elements; where the instruction draws, each active element draws once,
ascending. `op` gives code and flags of an element from its draw. -/
def Lanewise (w count : Nat) (k : KWord) (old : VWord) (draws : Bool) (seed : Word) (op : Nat → Nat → Nat × Nat)
    (v : VWord) (fl : Nat) (seed' : Word) : Prop :=
  let turn (i : Nat) : Word := if draws then drawn seed ((List.range i).countP fun j => active k w j) else seed
  let draw (i : Nat) : Nat := if draws then srBits (turn (i + 1)) else 0
  (∀ i, i < count → elem v.toNat w i = if active k w i then (op i (draw i)).1 % 2 ^ w else elem old.toNat w i) ∧
    fl = (List.range count).foldl (fun fl i => if active k w i then fl ||| (op i (draw i)).2 else fl) 0 ∧
    seed' = turn count


/-! ## List walks (R140 to R143) -/

/-- The intersection of R141 from a position, on the keys of two lists: until an entry is full or a list is
exhausted. `fuel` bounds the passes. -/
def isect (A B : Nat → Int) (nA nB : Nat) : Nat → WalkPoint → WalkPoint
  | 0, p => { p with ended := true }
  | fuel + 1, p =>
    if 32 ≤ p.lanes.length then p
    else if nA ≤ p.i ∨ nB ≤ p.j then { p with ended := true }
    else if A p.i < B p.j then isect A B nA nB fuel { p with i := p.i + 1 }
    else if B p.j < A p.i then isect A B nA nB fuel { p with j := p.j + 1 }
    else isect A B nA nB fuel { p with lanes := p.lanes ++ [p.i, p.j], i := p.i + 1, j := p.j + 1 }

/-- The merge of R141 from a position: until an entry is full or both lists are exhausted. -/
def merged (A B : Nat → Int) (nA nB : Nat) : Nat → WalkPoint → WalkPoint
  | 0, p => { p with ended := true }
  | fuel + 1, p =>
    if 32 ≤ p.lanes.length then p
    else if nA ≤ p.i ∧ nB ≤ p.j then { p with ended := true }
    else if nB ≤ p.j ∨ (p.i < nA ∧ A p.i ≤ B p.j) then
      merged A B nA nB fuel { p with lanes := p.lanes ++ [p.i], i := p.i + 1 }
    else merged A B nA nB fuel { p with lanes := p.lanes ++ [0x80000000 ||| p.j], j := p.j + 1 }

/-- The rows of R143 from a position: row `i` once for each element from `offs i` to `offs (i + 1)`. -/
def coords (offs : Nat → Int) (rows : Nat) : Nat → WalkPoint → WalkPoint
  | 0, p => { p with ended := true }
  | fuel + 1, p =>
    if 32 ≤ p.lanes.length then p
    else if rows ≤ p.i then { p with ended := true }
    else if offs p.i + p.j < offs (p.i + 1) then
      coords offs rows fuel { p with lanes := p.lanes ++ [p.i], j := p.j + 1 }
    else coords offs rows fuel { p with i := p.i + 1, j := 0 }

/-- Key `i` of format `f` of an array at `base`, as the L-stream of a core reads it: signed but for UINT8. -/
def State.keyAt (s : State) (n : Nat) (f : Fmt) (base : Word) (i : Nat) (key : Int) : Prop :=
  ∃ p rc, let len := f.width / 8
    s.reaches n .l false (base + BitVec.ofNat 64 (i * len)).toNat len p rc ∧ s.sound n .l p len ∧
    key = if f = .ui8 then (s.loads n .l p len : Int) else (BitVec.ofNat f.width (s.loads n .l p len)).toInt

/-- A list as the L-stream of a core reads it through its descriptor at `va` (R140): `len` keys, which of a counting
list are its indices. -/
def State.listAt (s : State) (n : Nat) (f : Fmt) (va : Word) (len : Nat) (keys : Nat → Int) : Prop :=
  ∃ p rc, s.reaches n .l false va.toNat 16 p rc ∧ s.sound n .l p 16 ∧
    let d := s.loads n .l p 16
    d / 2 ^ 95 % 2 ^ 32 = 0 ∧ d / 2 ^ 64 % 2 ^ 31 = len ∧
    ∀ i, i < len → if d / 2 ^ 127 % 2 = 1 then keys i = i else s.keyAt n f (BitVec.ofNat 64 d) i (keys i)

/-- The state after an entry step of an L-stream's walk or gather, which goes on at `next` where it has ended and issues
again otherwise (R135). -/
def State.stepped (s : State) (ended : Bool) (n : Nat) (x : Ctx) (next : Word) : State :=
  if ended then s.retire next else s.modCore n fun c => c.dropAnswers x

/-! ## Releases (R79, R230) -/

/-- A release of a context of a core outside every pair goes through at once (R230, R232): what it waits for leaves the
store buffer, and no store of it to another endpoint is under way. -/
def State.settles (s : State) (n : Nat) (x : Ctx) (sc : Scope) : Prop := (s.drainAll n).storesAhead n x sc = false

/-- The state after a release of a core: its stores have left the store buffer, and from die scope on the dirty bytes of
the RDC are at home. -/
def State.released (s : State) (n : Nat) (sc : Scope) : State :=
  if sc = .co ∨ sc = .cl then s.drainAll n else (s.drainAll n).writeBackRdc (dieOf n)

/-- The state after an acquire of a core: from die scope on the clean lines of the RDC are gone. -/
def State.acquires (s : State) (n : Nat) (sc : Scope) : State :=
  if sc = .co ∨ sc = .cl then s else s.dropCleanRdc (dieOf n)

/-! ## Engine jobs (R261, R300, R301) -/

/-- A memory operand of an engine job passes the checks of an issue (R300): in a scratchpad every raw byte through
window 0, elsewhere its first line, which a job that reads finds without poison. -/
def State.operandOk (s : State) (n : Nat) (store : Bool) (va len : Nat) : Prop :=
  canonical va = true ∧ canonical (va + len - 1) = true ∧ va + len ≤ 2 ^ 64 ∧
    if inScratch va then
      va / 2 ^ 19 % 8 = 0 ∧ va % 2 ^ 19 + len ≤ 0x60000 ∧
        ∃ k, s.slotCore (s.issuer n) (slotOf va).1 = .ok k ∧ (store = true → s.priv = 0 → 4096 ≤ va % 2 ^ 19)
    else
      ∃ p rc unc, s.spot (s.issuer n) store va = .at_ p rc unc ∧
        (store = false → ∀ i, i < len → va % 128 + i < 128 → s.bytePoisoned n .f (p.add i) = false)

/-- Elements `lo` to `lo + m − 1` of an operand in a window pass the checks of an issue (R194, R300). -/
def State.windowOk (s : State) (n va lo m : Nat) : Prop :=
  windowRange (s.core n).sr.wcfg va lo m = none ∧
    ∃ k, s.slotCore (s.issuer n) (slotOf va).1 = .ok k

/-- The `len` bytes of a block that an issue copies, within one page, unclaimed and without poison (R259, R299). -/
def State.blockAt (s : State) (n va len : Nat) (bs : List Byte) : Prop :=
  canonical va = true ∧ va < 2 ^ 64 ∧ va % 4096 + len ≤ 4096 ∧
    (inScratch va = true → va / 2 ^ 19 % 8 = 0 ∧ va % 2 ^ 19 + len ≤ 0x60000) ∧
    ∃ p rc unc, s.spot (s.issuer n) false va = .at_ p rc unc ∧ s.claimed p = false ∧
      s.claimed (p.add (len - 1)) = false ∧ s.sound n .f p len ∧
      bs = (List.range len).map fun i => s.readByte n .f (p.add i)

/-- What a job captures at issue (R88, R301). -/
def State.captures (s : State) (n : Nat) (push : Option Nat) : Captured :=
  let c := s.core n
  { core := n, log := c.ident.log, asid := c.sr.asid, user := decide (c.fc.priv = 0), mode := c.fc.frm.toNat % 8,
    wcfg := c.sr.wcfg, seed := c.f.srseed, push := push, scope := .dv, fire := c.f.fire,
    upcall := decide (c.firing = .upcall) }

/-- The queue of an engine takes a job of a core now (R262, R295): it has room, and the core's turn has come. -/
def State.admitted (s : State) (n : Nat) (jobs : Nat) (q : Intake) : Prop :=
  jobs < 32 ∧ s.intakeTurn (clusterOf n) (n % 8) q = true

/-- The lines of a destination that an issue claims (R233): those of its pages, which have all been translated, up to
the first that fails its checks, and no more than a job may hold. -/
def State.claimsOf (s : State) (n : Nat) (dest : Option (Nat × Nat)) (ls : List Place) : Prop :=
  match dest with
  | none => ls = []
  | some (va, len) =>
    if len = 0 ∨ 1 ≤ windowAt va then ls = []
    else s.destPages (s.issuer n) va 32768 (pagePieces va len) = .lines ls

/-- An instruction issues a BSE job (R301): its turn at the queue is noted, and after a release the job stands last in
the queue of its cluster, with its destination lines claimed; BJOB and `d` name it, the firing holds the engine, and a
job that draws steps the generator. -/
def IssuesBse (s : State) (i : Instr) (n : Nat) (d : Reg) (cmd : BseCmd) (push : Option Nat) (dest : Option (Nat × Nat))
    (draw : Bool) : Prop :=
  let cl := s.cluster (clusterOf n)
  let id := nextId (cl.bse.map (·.id)) 64 cl.nextBse
  let job : BseJob :=
    { id := id, cap := s.captures n push, cmd := cmd, begun := false, result := none, lines := [], pushing := false }
  let t := s.modCluster (clusterOf n) fun c => { c with bseIn := c.bseIn.take (n % 8) }
  t.settles n .f .dv →
  let t := t.released n .dv
  ∀ ls, t.claimsOf n dest ls →
    let t := t.modCluster (clusterOf n) fun c => { c with bse := c.bse ++ [job], nextBse := (id + 1) % 65536 }
    let t := t.modCore n fun c => { c with sr := { c.sr with bjob := BitVec.ofNat 64 (65536 + id) } }
    let t := t.claimLines (.bse (clusterOf n) id) ls
    let t := t.modCore n fun c => { c with f := { c.f with
      holdsBse := true, srseed := if draw then srStep c.f.srseed else c.f.srseed } }
    Retires s i 8 (t.writeG d (BitVec.ofNat 64 id))

/-- An instruction issues a GRE job (R261): its turn at the queue is noted, and after a release the job stands last in
the queue of its cluster, with its destination lines claimed; GJOB and `d` name it. -/
def IssuesGre (s : State) (i : Instr) (n : Nat) (d : Reg) (cmd : GreCmd) (op : GOp) (gd block xdesc : List Byte)
    (rrt : Word) : Prop :=
  let cl := s.cluster (clusterOf n)
  let id := nextId (cl.gre.map (·.id)) 64 cl.nextGre
  let job : GreJob :=
    { id := id, cap := s.captures n (greArgsOf block).push, cmd := cmd, op := op, gd := gd, rrt := rrt, args := block,
      xdesc := xdesc, begun := false, result := none, lines := [], queue := [], stream := [], taken := false,
      pushing := false }
  let t := s.modCluster (clusterOf n) fun c => { c with greIn := c.greIn.take (n % 8) }
  t.settles n .f .dv →
  let t := t.released n .dv
  ∀ ls, t.claimsOf n (greDest cmd (grammarOf gd) (greArgsOf block) rrt.toNat) ls →
    let t := t.modCluster (clusterOf n) fun c => { c with gre := c.gre ++ [job], nextGre := (id + 1) % 65536 }
    let t := t.modCore n fun c => { c with sr := { c.sr with gjob := BitVec.ofNat 64 (65536 + id) } }
    let t := t.claimLines (.gre (clusterOf n) id) ls
    Retires s i 8 (t.writeG d (BitVec.ofNat 64 id))

/-! ## Events -/

/-- An event or an instruction answers a state of which `P` holds. -/
def Happens (s : State) (i : Instr) (P : State → Prop) : Prop := ∃ t, exec i s = .next t ∧ P t

/-- An event has nothing to do. -/
def Nothing (s : State) (i : Instr) : Prop := exec i s = .next s

/-- The state keeps everything but one core. -/
def State.coreOnly (s t : State) (n : Nat) : Prop := { t with cores := s.cores } = s ∧ ∀ m, m ≠ n → t.core m = s.core m

/-- The state after a release at system scope of all dies: every dirty byte of an RDC is at home (R203, R230). -/
def State.atHome (s : State) : State := (List.range 4).foldl (fun s d => s.writeBackRdc d) s

/-- A completion has been reported (R9, R234): in the completion queue of an I/O core, and an interrupt with it, or it is
owed to the record that a device-side LAUNCH named. -/
def State.reported (s t : State) (to_ : CompleteTo) (asid : Word) (grid cause : Nat) : Prop :=
  t.results = s.results ++ [(to_, grid, cause)] ∧
    match to_ with
    | .queue d k qp =>
      t.control = { s.control with raised := s.control.raised + 1 } ∧ t.owed = s.owed ∧
        ∀ q, (s.ioCore d k).queue qp = some q →
          (t.ioCore d k).queue qp = some { q with done := q.done ++ [(grid, cause)] }
    | .device n target =>
      t.control = s.control ∧ t.owed = s.owed ++ [{ core := n, target := target, asid := asid, grid := grid, cause := cause }]

/-- Of a list in which `p` names a candidate and `rank` its rank, `x` is the candidate of highest rank, and of these the
first. -/
def FirstBest {α : Type} (l : List α) (p : α → Prop) (rank : α → Nat) (x : α) : Prop :=
  ∃ pre post, l = pre ++ x :: post ∧ p x ∧ (∀ y ∈ pre, p y → rank y < rank x) ∧ ∀ y ∈ post, p y → rank y ≤ rank x

/-- A core fires a stage with records, oldest first (R151): they fill the registers from `g16` on, every other register
is 0 and `k0` all ones, the queues are empty, the streams that the stage has start at their entries, and FIRE counts
the firing among those of the launch (R42). The generator stays, except in the srseed mode (R167). -/
def Core.fires (c c' : Core) (i : LaunchInfo) (st : Stage) (rs : List Rec) : Prop :=
  c'.firing = .slot st.slot ∧ c'.fc.pc = BitVec.ofNat 64 st.centry ∧ c'.fc.inTrap = false ∧
  c'.fc.fpstat = 0 ∧ c'.fc.frm = 0 ∧ c'.fc.status = setField c.fc.status 10 2 0 ∧
  (∀ r : Reg, c'.fc.readG r =
    if 16 ≤ r.val ∧ r.val < 16 + 2 * rs.length then
      ((rs[(r.val - 16) / 2]?).map fun w => if r.val % 2 = 0 then w.w0 else w.w1).getD 0
    else 0) ∧
  (∀ r, c'.fc.v.get r = 0) ∧ (∀ q, c'.f.q.get q = []) ∧ (∀ m, c'.f.m.get m = 0) ∧ (∀ b, c'.f.bs.get b = 0) ∧
  c'.f.k.get 0 = BitVec.allOnes 128 ∧ (∀ k, k ≠ 0 → c'.f.k.get k = 0) ∧ c'.f.cEnded = false ∧
  (c'.f.l.ended = true ↔ st.lentry = 0xFFFF) ∧ (st.lentry ≠ 0xFFFF → c'.f.l.pc = BitVec.ofNat 64 st.lentry) ∧
  (c'.f.s.ended = true ↔ st.sentry = 0xFFFF) ∧ (st.sentry ≠ 0xFFFF → c'.f.s.pc = BitVec.ofNat 64 st.sentry) ∧
  (∀ r, c'.f.l.readG r = 0 ∧ c'.f.s.readG r = 0) ∧ c'.f.rstLabel = none ∧ c'.f.bars = [] ∧
  c'.seq = c.seq + 1 ∧ field c'.f.fire 8 32 = c'.seq % 2 ^ 32 ∧ field c'.f.fire 4 2 = rs.length - 1 ∧
  field c'.f.fire 0 4 = st.slot ∧
  c'.f.srseed =
    if i.has .srseed then srSeed (i.seed ^^^ c'.fc.readG 16 ^^^ (c'.fc.readG 17).rotateLeft 32) else c.f.srseed

/-- A core's deques keep every record but those of one slot. -/
def Core.otherDeques (c c' : Core) (k : Fin 16) : Prop := ∀ j, j ≠ k → c'.work.deques.get j = c.work.deques.get j

/-! ## Steps -/

/-- The instruction at the offset of whoever executes: an even offset, all its halfwords inside the store, and the
decoder reads it (R33, R47, R48). -/
def State.holdsAt (t : State) (i : Instr) : Prop :=
  let store := t.storeOf t.turn
  let k := t.pc.toNat / 2
  t.pc.toNat % 2 = 0 ∧ k + lengthOf (store.getD k 0).toNat ≤ store.length ∧ decode (window store k) = .ok i

/-- What a turn that issues does: it executes the instruction that its store holds; an odd offset raises 0x03, a
halfword outside the store 0x0C, and an encoding that is no instruction is executed as such (R33, R48, R65). -/
def State.issues (t : State) (o : Host.Outcome State Fault Refusal) : Prop :=
  let store := t.storeOf t.turn
  let k := t.pc.toNat / 2
  let inside := k + lengthOf (store.getD k 0).toNat ≤ store.length
  (∀ i, t.holdsAt i → o = exec i t) ∧
  (t.pc.toNat % 2 = 1 → o = .next (t.trapTurn 0x03 t.pc)) ∧
  (t.pc.toNat % 2 = 0 → ¬ inside → o = .next (t.trapTurn 0x0C 0)) ∧
  (∀ why, t.pc.toNat % 2 = 0 → inside → decode (window store k) = .error why → o = exec (.reservedEncoding why) t)

end Sys2Proof.Machine
end

