-- ==== Sys2Proof/Certificates/Slice0/Obligations.lean ====
section
/-! DEFINITION. The statements for the provers. A statement says what the spec's rules say an instruction, an event
or the machine does; its docstring names the rules. -/

open Sys2Proof Sys2Proof.Machine

/-! ## Encodings -/

/-- Decoding the word of a well-formed instruction gives the instruction back, with every operand at every value
that its encoding admits (R49 to R63). -/
def Obligations.Decode_of_encode : Prop :=
  ∀ i : Instr, i.wf = true → ∃ w, encode i = some w ∧ decode w = .ok i

/-- Whatever the bits, what the decoder gives is well-formed: no reserved code, format, scope or field becomes an
instruction (R65). -/
def Obligations.Decode_wellFormed : Prop :=
  ∀ (w : Nat) (i : Instr), decode w = .ok i → i.wf = true

/-! ## Integer registers (R66 to R70) -/

/-- The two-source register operations, in every context that executes: the result as R66 tabulates it, both
sources read first, no flag, no trap; `g0` discards (R36), and nothing else changes.

CLZ, CTZ, POPC and EXT (R66): zeros above the highest one, zeros below the lowest one, ones, and the low byte,
halfword or word sign-extended. -/
def Obligations.Register_operations : Prop :=
  (∀ (s : State) (d a b : Reg), s.executing = true → holds s.turn [d, a, b] = true →
    let x := s.readG a
    let y := s.readG b
    Writes s (.add d a b) 4 d (BitVec.ofNat 64 (x.toNat + y.toNat)) ∧
    Writes s (.sub d a b) 4 d (x - y) ∧
    Writes s (.and d a b) 4 d (x &&& y) ∧
    Writes s (.or d a b) 4 d (x ||| y) ∧
    Writes s (.xor d a b) 4 d (x ^^^ y) ∧
    Writes s (.sll d a b) 4 d (x <<< (y.toNat % 64)) ∧
    Writes s (.srl d a b) 4 d (x >>> (y.toNat % 64)) ∧
    Writes s (.sra d a b) 4 d (x.sshiftRight (y.toNat % 64)) ∧
    Writes s (.slt d a b) 4 d (if x.toInt < y.toInt then 1 else 0) ∧
    Writes s (.sltu d a b) 4 d (if x.toNat < y.toNat then 1 else 0) ∧
    Writes s (.min d a b) 4 d (if x.toInt ≤ y.toInt then x else y) ∧
    Writes s (.max d a b) 4 d (if x.toInt ≤ y.toInt then y else x) ∧
    Writes s (.minu d a b) 4 d (if x.toNat ≤ y.toNat then x else y) ∧
    Writes s (.maxu d a b) 4 d (if x.toNat ≤ y.toNat then y else x) ∧
    Writes s (.mul d a b) 4 d (BitVec.ofNat 64 (x.toNat * y.toNat)) ∧
    Writes s (.mulh d a b) 4 d (BitVec.ofInt 64 (x.toInt * y.toInt / 2 ^ 64)) ∧
    Writes s (.mulhu d a b) 4 d (BitVec.ofNat 64 (x.toNat * y.toNat / 2 ^ 64))) ∧
  (∀ (s : State) (d a : Reg), s.executing = true → holds s.turn [d, a] = true →
    let x := s.readG a
    (∃ n, n ≤ 64 ∧ (∀ i, 64 - n ≤ i → i < 64 → x.getLsbD i = false) ∧ (n < 64 → x.getLsbD (63 - n) = true) ∧
      Writes s (.clz d a) 4 d (BitVec.ofNat 64 n)) ∧
    (∃ n, n ≤ 64 ∧ (∀ i, i < n → x.getLsbD i = false) ∧ (n < 64 → x.getLsbD n = true) ∧
      Writes s (.ctz d a) 4 d (BitVec.ofNat 64 n)) ∧
    Writes s (.popc d a) 4 d (BitVec.ofNat 64 ((List.range 64).countP fun i => x.getLsbD i)) ∧
    Writes s (.extB d a) 4 d ((x.setWidth 8).signExtend 64) ∧
    Writes s (.extH d a) 4 d ((x.setWidth 16).signExtend 64) ∧
    Writes s (.extW d a) 4 d ((x.setWidth 32).signExtend 64))

/-- Division truncates toward zero, for every pair of operands (R67): −2^63 / −1 is −2^63 with remainder 0; a zero
divisor gives all ones and the dividend while STATUS.DZE is 0.

A zero divisor under STATUS.DZE raises 0x3B with TVAL 0 (R67): no register is written. -/
def Obligations.Division : Prop :=
  (∀ (s : State) (d a b : Reg), s.executing = true → holds s.turn [d, a, b] = true →
    let x := s.readG a
    let y := s.readG b
    (y ≠ 0 →
      Writes s (.div d a b) 4 d (BitVec.ofInt 64 (x.toInt.tdiv y.toInt)) ∧
      Writes s (.rem d a b) 4 d (BitVec.ofInt 64 (x.toInt - x.toInt.tdiv y.toInt * y.toInt)) ∧
      Writes s (.divu d a b) 4 d (BitVec.ofNat 64 (x.toNat / y.toNat)) ∧
      Writes s (.remu d a b) 4 d (BitVec.ofNat 64 (x.toNat % y.toNat))) ∧
    (y = 0 → s.context.dze = false →
      Writes s (.div d a b) 4 d (BitVec.allOnes 64) ∧ Writes s (.rem d a b) 4 d x ∧
      Writes s (.divu d a b) 4 d (BitVec.allOnes 64) ∧ Writes s (.remu d a b) 4 d x) ∧
    (x = BitVec.intMin 64 → y = BitVec.allOnes 64 →
      Writes s (.div d a b) 4 d (BitVec.intMin 64) ∧ Writes s (.rem d a b) 4 d 0)) ∧
  (∀ (s : State) (d a b : Reg), s.executing = true → holds s.turn [d, a, b] = true →
    s.readG b = 0 → s.context.dze = true →
      Raises s (.div d a b) 0x3B 0 ∧ Raises s (.divu d a b) 0x3B 0 ∧
      Raises s (.rem d a b) 0x3B 0 ∧ Raises s (.remu d a b) 0x3B 0)

/-- The immediate forms: OPI with 11 bits and XI with 32 bits sign-extended, shifts by 0 to 63, LUI and ADDPC
(R53, R61, R68, R70).

BFX takes bits <pos+len-1:pos>, zero-extended; BFI replaces them by the low bits of its source and keeps the
others. A field that leaves the register, pos + len above 64, raises 0x01 (R69).

The 16-bit register forms have the effect of their expansions, and are two bytes long (R63). -/
def Obligations.Immediate_operations : Prop :=
  (∀ (s : State) (d a : Reg) (i : BitVec 11) (j : BitVec 32) (sh : BitVec 6) (u : BitVec 19),
    s.executing = true → holds s.turn [d, a] = true →
    let x := s.readG a
    let i' := i.signExtend 64
    let j' := j.signExtend 64
    Writes s (.addImm d a i) 4 d (x + i') ∧ Writes s (.addXi d a j) 8 d (x + j') ∧
    Writes s (.andImm d a i) 4 d (x &&& i') ∧ Writes s (.andXi d a j) 8 d (x &&& j') ∧
    Writes s (.orImm d a i) 4 d (x ||| i') ∧ Writes s (.orXi d a j) 8 d (x ||| j') ∧
    Writes s (.xorImm d a i) 4 d (x ^^^ i') ∧ Writes s (.xorXi d a j) 8 d (x ^^^ j') ∧
    Writes s (.sltImm d a i) 4 d (if x.toInt < i'.toInt then 1 else 0) ∧
    Writes s (.sltXi d a j) 8 d (if x.toInt < j'.toInt then 1 else 0) ∧
    Writes s (.sltuImm d a i) 4 d (if x.toNat < i'.toNat then 1 else 0) ∧
    Writes s (.sltuXi d a j) 8 d (if x.toNat < j'.toNat then 1 else 0) ∧
    Writes s (.sllImm d a sh) 4 d (x <<< sh.toNat) ∧
    Writes s (.srlImm d a sh) 4 d (x >>> sh.toNat) ∧
    Writes s (.sraImm d a sh) 4 d (x.sshiftRight sh.toNat) ∧
    Writes s (.lui d u) 4 d (BitVec.ofInt 64 (u.toInt * 2 ^ 11)) ∧
    Writes s (.addpc d u) 4 d (s.pc + BitVec.ofInt 64 (2 * u.toInt))) ∧
  (∀ (s : State) (d a : Reg) (pos lenm1 : BitVec 6), s.executing = true → holds s.turn [d, a] = true →
    let x := s.readG a
    let p := pos.toNat
    let n := lenm1.toNat + 1
    (p + n ≤ 64 →
      (∃ v, Writes s (.bfx d a pos lenm1) 4 d v ∧
        ∀ i, i < 64 → v.getLsbD i = (decide (i < n) && x.getLsbD (p + i))) ∧
      (∃ v, Writes s (.bfi d a pos lenm1) 4 d v ∧
        ∀ i, i < 64 → v.getLsbD i =
          if p ≤ i ∧ i < p + n then x.getLsbD (i - p) else (s.readG d).getLsbD i)) ∧
    (64 < p + n → Raises s (.bfx d a pos lenm1) 0x01 0 ∧ Raises s (.bfi d a pos lenm1) 0x01 0)) ∧
  (∀ (s : State) (d a : Reg) (i : BitVec 5), s.executing = true → holds s.turn [d, a] = true →
    let x := s.readG d
    let y := s.readG a
    Writes s (.c16AddRr d a) 2 d (x + y) ∧
    Writes s (.c16Mov d a) 2 d y ∧
    Writes s (.c16AddImm d i) 2 d (x + i.signExtend 64) ∧
    Writes s (.c16Li d i) 2 d (i.signExtend 64) ∧
    Writes s (.c16Sub d a) 2 d (x - y) ∧
    Writes s (.c16And d a) 2 d (x &&& y) ∧
    Writes s (.c16Or d a) 2 d (x ||| y) ∧
    Writes s (.c16Xor d a) 2 d (x ^^^ y) ∧
    Writes s (.c16Sll d i) 2 d (x <<< i.toNat) ∧
    Writes s (.c16Srl d i) 2 d (x >>> i.toNat) ∧
    Writes s (.c16Sra d i) 2 d (x.sshiftRight i.toNat))

/-! ## Control flow (R71 to R76) -/

/-- A branch whose condition holds goes to its own offset plus twice its field, and past itself otherwise; no
register, flag or byte of memory changes (R71).

Jumps link the offset past themselves, the target formed before the link is written: JAL and its 16-bit forms
from their own offset, JALR and its 16-bit forms from a register; an odd register target raises 0x03 with the
target as TVAL (R63, R72).

A hint is a no-op, whatever it holds (R65, R75): only the offset moves on. -/
def Obligations.Control_flow : Prop :=
  (∀ (s : State) (a b : Reg) (o : BitVec 11), s.executing = true → holds s.turn [a, b] = true →
    let x := s.readG a
    let y := s.readG b
    let goal := s.pc + BitVec.ofInt 64 (2 * o.toInt)
    let past := s.pc + 4
    GoesTo s (.beq a b o) (if x = y then goal else past) ∧
    GoesTo s (.bne a b o) (if x ≠ y then goal else past) ∧
    GoesTo s (.blt a b o) (if x.toInt < y.toInt then goal else past) ∧
    GoesTo s (.bge a b o) (if y.toInt ≤ x.toInt then goal else past) ∧
    GoesTo s (.bltu a b o) (if x.toNat < y.toNat then goal else past) ∧
    GoesTo s (.bgeu a b o) (if y.toNat ≤ x.toNat then goal else past)) ∧
  (∀ (s : State) (d a : Reg) (o : BitVec 19) (c : BitVec 10) (i : BitVec 11),
    s.executing = true → holds s.turn [d, a] = true →
    let pc := s.pc
    let reg := s.readG a + BitVec.ofInt 64 (2 * i.toInt)
    Links s (.jal d o) d (pc + 4) (pc + BitVec.ofInt 64 (2 * o.toInt)) ∧
    Links s (.c16J c) 0 (pc + 2) (pc + BitVec.ofInt 64 (2 * c.toInt)) ∧
    Links s (.c16Jal c) 1 (pc + 2) (pc + BitVec.ofInt 64 (2 * c.toInt)) ∧
    (reg.toNat % 2 = 0 → Links s (.jalr d a i) d (pc + 4) reg) ∧
    (reg.toNat % 2 = 1 → Raises s (.jalr d a i) 0x03 reg) ∧
    ((s.readG a).toNat % 2 = 0 →
      Links s (.c16Jr a) 0 (pc + 2) (s.readG a) ∧ Links s (.c16Jalr a) 1 (pc + 2) (s.readG a)) ∧
    ((s.readG a).toNat % 2 = 1 →
      Raises s (.c16Jr a) 0x03 (s.readG a) ∧ Raises s (.c16Jalr a) 0x03 (s.readG a))) ∧
  (∀ (s : State) (h : BitVec 24) (k : BitVec 56), s.executing = true →
    GoesTo s (.hint h) (s.pc + 4) ∧ GoesTo s (.hint64 k) (s.pc + 8) ∧ GoesTo s .c16Nop (s.pc + 2))

/-! ## Ends of instructions, traps and returns (R40, R44, R73, R74, R76, R83 to R86) -/

/-- Trap entry (R40, R84): EPC, CAUSE and TVAL name the instruction, its stream and the cause; PP and PIE take PRIV
and IE; IE is cleared; PRIV becomes K, or M for 0x3F and from M; the C-stream goes to TVEC; a firing's streams are
held. Registers, flags and every other context are kept. The upcalls of R165, and what R362 and R363 do to an
activation, are not this entry. -/
def Obligations.Trap_entry : Prop :=
  ∀ (s : State) (n : Nat) (x : Ctx) (cause : Nat) (tval : Word), s.alone n x → cause < 64 →
    let act := x = .h ∨ x = .d
    let c := s.core n
    let k := c.context x
    let t := s.trapTurn cause tval
    let c' := t.core n
    let k' := c'.context x
    (¬ act → k.inTrap = false → k.priv = 0 → k.upe = true → cause ∉ [0x10, 0x11, 0x12]) →
    (act → k.inTrap = false → cause ∉ [0x0E, 0x0F, 0x31]) →
    k'.epc.toNat = (c.pc x).toNat / 2 % 2 ^ 15 * 2 ∧
    k'.cause.toNat = (match x with | .l => 0x100 | .s => 0x200 | _ => 0) + cause ∧ k'.tval = tval ∧
    k'.pp = k.priv ∧ flag k'.status 6 = k.ie ∧ k'.ie = false ∧
    k'.priv = (if cause = 0x3F ∨ k.priv = 3 then 3 else 1) ∧
    (∀ i, i ∉ [5, 6, 8, 9, 10, 11] → k'.status.getLsbD i = k.status.getLsbD i) ∧
    k'.pc.toNat = c.sr.tvec.toNat / 2 % 2 ^ 15 * 2 ∧ k'.inTrap = true ∧
    { k' with epc := k.epc, cause := k.cause, tval := k.tval, status := k.status, pc := k.pc, inTrap := k.inTrap } = k ∧
    (act → c'.f = c.f) ∧
    (¬ act → c'.f.held = true ∧ (c.f.held = false → c'.f.heldPc = c.fc.pc) ∧
      { c'.f with held := c.f.held, heldPc := c.f.heldPc, l := c.f.l, s := c.f.s } = c.f ∧
      { c'.f.l with walk := c.f.l.walk } = c.f.l ∧ { c'.f.s with walk := c.f.s.walk } = c.f.s) ∧
    (∀ y, y = .f ∨ y = .h ∨ y = .d → y ≠ (if act then x else .f) → c'.context y = c.context y) ∧
    { c' with fc := c.fc, hc := c.hc, dc := c.dc, f := c.f, waits := c.waits } = c ∧
    { c'.waits with remote := c.waits.remote } = c.waits ∧ s.onlyCore t n

/-- SYSC raises 0x06 in U and 0x07 in K and M with TVAL 4, BRK raises 0x05 with its length, and an encoding that is
not an instruction raises 0x01: the trap is their whole effect (R65, R76, R83).

RETK (R85): PRIV and IE come back from PP and PIE (in H and D, IE reads 0, R44), the stream that CAUSE names
resumes at EPC and C at its own offset, and the held streams go on; nothing else changes. U raises 0x02, K with
PP = M raises 0x01, and so do the L-stream and the S-stream. A firing whose context is lost ends (R364). -/
def Obligations.Traps_and_returns : Prop :=
  (∀ (s : State) (n : Nat) (x : Ctx) (why : Reserved), s.turn = .core n x →
    Raises s .sysc (if s.priv = 0 then 0x06 else 0x07) 4 ∧
    Raises s .brk 0x05 4 ∧ Raises s .c16Brk 0x05 2 ∧ Raises s (.reservedEncoding why) 0x01 0) ∧
  (∀ (s : State) (n : Nat) (x : Ctx), s.alone n x →
    let c := s.core n
    let k := c.context x
    let at_ := k.epc.toNat / 2 % 2 ^ 15 * 2
    let stream := if x = .f then k.cause.toNat / 2 ^ 8 % 4 else 0
    (x = .l ∨ x = .s → Raises s .retk 0x01 0) ∧
    (x ≠ .l → x ≠ .s → k.priv = 0 → Raises s .retk 0x02 0) ∧
    (x ≠ .l → x ≠ .s → k.priv = 1 → k.pp = 3 → Raises s .retk 0x01 0) ∧
    (x ≠ .l → x ≠ .s → k.priv ≠ 0 → (k.priv = 1 → k.pp ≠ 3) → (x = .f → c.lost = false) →
      ∃ t, exec .retk s = .next t ∧
        let c' := t.core n
        let k' := c'.context x
        k'.priv = k.pp ∧ k'.ie = (decide (x = .f) && flag k.status 6) ∧
        (∀ i, i ∉ [5, 10, 11] → k'.status.getLsbD i = k.status.getLsbD i) ∧
        (if stream = 1 then c'.f.l.pc.toNat = at_ else c'.f.l.pc = c.f.l.pc) ∧
        (if stream = 2 then c'.f.s.pc.toNat = at_ else c'.f.s.pc = c.f.s.pc) ∧
        (if stream = 1 ∨ stream = 2 then k'.pc = c.f.heldPc else k'.pc.toNat = at_) ∧
        c'.f.held = (decide (x ≠ .f) && c.f.held) ∧ k'.inTrap = false ∧
        { k' with status := k.status, pc := k.pc, inTrap := k.inTrap } = k ∧
        { c'.f with held := c.f.held, l := c.f.l, s := c.f.s } = c.f ∧
        { c'.f.l with pc := c.f.l.pc } = c.f.l ∧ { c'.f.s with pc := c.f.s.pc } = c.f.s ∧
        (∀ y, y = .f ∨ y = .h ∨ y = .d → y ≠ x → c'.context y = c.context y) ∧
        { c' with fc := c.fc, hc := c.hc, dc := c.dc, f := c.f } = c ∧ s.onlyCore t n) ∧
    (x = .f → k.priv ≠ 0 → (k.priv = 1 → k.pp ≠ 3) → c.lost = true → exec .retk s = .next (s.endFiring n)))

/-- QEND pushes a mark, QPEEK reads a doubleword of the head and under `.d` dequeues data but never a mark, QCNT counts
(R136). A push of the C-stream first drains the store buffer (R144). A full queue makes QEND wait, an empty one QPEEK,
and the core notes where the stream waits (R153); a stream that does not use the queue so raises 0x0A, and
so does QEND on the queue of an outstanding GEXP (R268).

BQE (R37, R73): an empty queue makes it wait; a mark is removed and the branch taken; data stays, and the stream
goes on. It runs in the stream that reads the queue, and raises 0x0A elsewhere. -/
def Obligations.Queue_operations : Prop :=
  (∀ (s : State) (n : Nat) (x : Ctx) (q : QReg) (g : Reg) (i : BitVec 4), s.alone n x →
    let c := s.core n
    let l := c.f.q.get q
    let reads := [Ctx.f, .f, .f, .f, .s, .s, .f, .l].getD q.val .f
    let writes := [Ctx.l, .l, .l, .l, .f, .f, .s, .f].getD q.val .f
    let queue (s : State) (e : List QEntry) : State := s.modCore n fun c =>
      { c with f := { c.f with q := c.f.q.set q.val e q.isLt, stalls := Vector.replicate 3 none } }
    let drained := s.drainAll n
    (x ≠ writes → Raises s (.qend q) 0x0A 0) ∧
    (x = writes → q.val < 4 ∧ s.gexpTargets n q = true → Raises s (.qend q) 0x0A 0) ∧
    (x = writes → ¬ (q.val < 4 ∧ s.gexpTargets n q = true) →
      (8 ≤ l.length → Stalls s (.qend q) n x) ∧
      (l.length < 8 → x ≠ .f → Retires s (.qend q) 4 (queue s (l ++ [.mark]))) ∧
      (l.length < 8 → x = .f → (drained.core n).mem.buffer = [] →
        Retires s (.qend q) 4 (queue drained (l ++ [.mark]))) ∧
      (l.length < 8 → x = .f → (drained.core n).mem.buffer ≠ [] → exec (.qend q) s = .next drained)) ∧
    (holds s.turn [g] = true →
      (x ≠ reads → Raises s (.qpeek g q i) 0x0A 0 ∧ Raises s (.qpeekD g q i) 0x0A 0) ∧
      (x = reads →
        match l with
        | [] => Stalls s (.qpeek g q i) n x ∧ Stalls s (.qpeekD g q i) n x
        | .mark :: _ => Writes s (.qpeek g q i) 4 g 0 ∧ Writes s (.qpeekD g q i) 4 g 0
        | .data v :: rest =>
          let w := (v >>> (64 * i.toNat)).setWidth 64
          Writes s (.qpeek g q i) 4 g w ∧ Retires s (.qpeekD g q i) 4 ((queue s rest).writeG g w)) ∧
      (x ≠ reads → x ≠ writes → Raises s (.qcnt g q) 0x0A 0) ∧
      (x = reads ∨ x = writes →
        Writes s (.qcnt g q) 4 g (BitVec.ofNat 64 (l.length + if l.head? = some .mark then 16 else 0))))) ∧
  (∀ (s : State) (n : Nat) (x : Ctx) (q : QReg) (o : BitVec 11), s.alone n x →
    let c := s.core n
    let reads := [Ctx.f, .f, .f, .f, .s, .s, .f, .l].getD q.val .f
    (x ≠ reads → Raises s (.bqe q o) 0x0A 0) ∧
    (x = reads →
      match c.f.q.get q with
      | [] => Stalls s (.bqe q o) n x
      | .data _ :: _ => GoesTo s (.bqe q o) (s.pc + 4)
      | .mark :: rest =>
        exec (.bqe q o) s = .next
          ((s.setCore n { c with f := { c.f with q := c.f.q.set q.val rest q.isLt, stalls := Vector.replicate 3 none } }).retire
            (s.pc + BitVec.ofInt 64 (2 * o.toInt)))))

/-- FEND in both forms ends the stream that executes it (R34, R74); in H and D it ends the activation, whose stores,
records and messages leave then; on an I/O core the routine. A handler that has not returned takes its firing or
activation with it (DESIGN CHOICE, log 23).

WFI suspends F, and does nothing in H and D; the L-stream and the S-stream raise 0x01 (R64, R86). -/
def Obligations.Ends_and_waits : Prop :=
  (∀ (s : State) (i : Instr), i = .fend ∨ i = .c16Fend →
    (∀ n x, s.alone n x →
      let c := s.core n
      (x = .l → exec i s = .next (s.setCore n { c with f := { c.f with l := { c.f.l with ended := true } } })) ∧
      (x = .s → exec i s = .next (s.setCore n { c with f := { c.f with s := { c.f.s with ended := true } } })) ∧
      (x = .f → c.fc.inTrap = false →
        exec i s = .next (s.setCore n { c with f := { c.f with cEnded := true } })) ∧
      (x = .f → c.fc.inTrap = true → exec i s = .next (s.endFiring n)) ∧
      (x = .h ∨ x = .d → (c.context x).inTrap = false → exec i s = .next (s.endActivation n x)) ∧
      (x = .h ∨ x = .d → (c.context x).inTrap = true → exec i s = .next (s.dropActivation n x))) ∧
    (∀ d k, s.turn = .io d k → exec i s = .next (s.modIo d k fun c => { c with running := false }))) ∧
  (∀ (s : State) (n : Nat) (x : Ctx), s.alone n x →
    (x = .f → Retires s .wfi 4 (s.setCore n { s.core n with wfi := true })) ∧
    (x = .h ∨ x = .d → GoesTo s .wfi (s.pc + 4)) ∧
    (x = .l ∨ x = .s → Raises s .wfi 0x01 0))

/-- Where an instruction may not run it raises the cause that R64 gives, whatever its operands: 0x01, 0x0A for the
queue instructions in H and D, 0x1E for a barrier in H. An I/O core raises 0x01 outside the scalar profile. -/
def Obligations.Placement : Prop :=
  ∀ (s : State) (n : Nat) (x : Ctx) (a b c d : Reg) (q q' : QReg) (i4 : BitVec 4) (i6 : BitVec 6) (o3 : BitVec 3)
    (o11 : BitVec 11) (sel : BitVec 8) (f : Fmt) (k : KReg) (ql : Qual) (pl : AtomPlace) (w : Bool) (xf : XvFields)
    (m : Fin 16) (i9 : BitVec 9) (ch : BitVec 2) (o16 : BitVec 16) (o15 : BitVec 15) (g : GOp),
    let cOnly : List Instr := [.rpseal d a, .rpsealT d a, .rprestore d a, .retk, .wfi, .tlbinv a b, .l1inv a, .srw sel a,
      .srs sel a, .src sel a, .vld d a i9 ql, .vst d a i9 ql, .vadd f k w d a b, .vselXv xf d a b, .vdotMx xf w d a b c,
      .amoAddW d a b ql, .casD d a b ql, .amoSwapXa d a b ql pl w]
    let queues : List Instr := [.qend q, .qpeek d q i4, .qpeekD d q i4, .qcnt d q, .bqe q o11]
    let lOnly : List Instr := [.lstr q a b, .lidx f q a b c, .lsisect f q a b c, .lmerge f q a b c, .lmpart f d a b c,
      .lcoord f q a b c]
    let sOnly : List Instr := [.sstr q a b, .sscat f a q q']
    let fAndH : List Instr := [.push i4 a, .pushr b i4 a, .send b i6 a, .sendh b i6 a, .abump d a o3, .abumpT d a o3]
    let barriers : List Instr := [.barj o3 i6, .bar d o3 i6, .barl o3 i6, .barst d o3 i6]
    let fOnly : List Instr := [.launch d a, .mld m o3, .mslice d m o3, .fresume a, .pair, .unpair, .bldw d a b o16,
      .bset m a, .brst o15, .bwait a, .bpoll d a, .geval g d a b c, .gwait a, .gpoll d a, .cpyq d a, .cpyqb d a,
      .cwait a ch, .cpoll d a ch]
    let walks : List Instr := [.wldp d a, .wret a b]
    (s.turn = .core n x →
      (x = .l ∨ x = .s → ∀ i ∈ cOnly, Raises s i 0x01 0) ∧
      (x = .h ∨ x = .d → ∀ i ∈ queues, Raises s i 0x0A 0) ∧
      (x ≠ .l → ∀ i ∈ lOnly, Raises s i 0x01 0) ∧
      (x ≠ .s → ∀ i ∈ sOnly, Raises s i 0x01 0) ∧
      (x ≠ .f → x ≠ .h → ∀ i ∈ fAndH, Raises s i 0x01 0) ∧
      (x ≠ .f → ∀ i ∈ barriers, Raises s i (if x = .h then 0x1E else 0x01) 0) ∧
      (x ≠ .f → ∀ i ∈ fOnly, Raises s i 0x01 0) ∧
      (∀ i ∈ walks, Raises s i 0x01 0)) ∧
    (∀ e j, s.turn = .io e j →
      ∀ i ∈ cOnly ++ queues ++ lOnly ++ sOnly ++ fAndH ++ barriers ++ fOnly ++ walks ++ [.fence ql, .sysc, .brk, .srr d sel],
        Raises s i 0x01 0) ∧
    (∀ e j, s.turn = .walker e j → (s.thread e j).isSome = true →
      ∀ i ∈ cOnly ++ queues ++ lOnly ++ sOnly ++ fAndH ++ barriers ++ fOnly ++ [.fend, .sysc, .brk, .srr d sel],
        Raises s i 0x18 0)

/-! ## Special registers (R41 to R46, R87, R88) -/

/-- SRR reads every special register that R41 lists: the value goes to the register, and nothing else changes. The
registers of K raise 0x02 in U; a selector that is not listed raises 0x01. -/
def Obligations.Special_register_reads : Prop :=
  ∀ (s : State) (n : Nat) (x : Ctx) (d : Reg), s.alone n x → holds s.turn [d] = true →
    let c := s.core n
    let k := c.context x
    let r := (s.gridOf n).map (·.recov)
    let reads (sel : BitVec 8) (v : Word) : Prop := Writes s (.srr d sel) 4 d v
    reads 0x00 (if x = .h ∨ x = .d then c.f.fire &&& ~~~ 0xF else c.f.fire) ∧
    reads 0x01 (BitVec.ofNat 64 (n % 8)) ∧
    reads 0x02 (BitVec.ofNat 64 (c.ident.log % 2 ^ 24 + if k.priv = 0 then 0 else n / 8 * 2 ^ 40)) ∧
    (∀ i : Fin 8, reads (0x08 + BitVec.ofNat 8 i.val) (c.ident.lvlid.get i)) ∧
    reads 0x10 k.fpstat ∧ reads 0x11 k.frm ∧ reads 0x12 c.f.srseed ∧
    (∀ i : Fin 5, reads (0x19 + BitVec.ofNat 8 i.val) (c.sr.wcfg.get i)) ∧
    (∀ i : Fin 4, reads (0x20 + BitVec.ofNat 8 i.val) (c.jobs.chans.get i).watermark) ∧
    reads 0x28 (setField c.sr.bjob 32 3 (s.bseOut n)) ∧ reads 0x29 (setField c.sr.gjob 32 3 (s.greOut n)) ∧
    reads 0x2A c.sr.bstat ∧ reads 0x2B c.sr.gstat ∧ reads 0x32 c.sr.uvec ∧
    reads 0x40 (setField c.sr.rpstat 8 1 ((r.map fun r => r.rpend.toNat).getD 0)) ∧
    reads 0x41 (BitVec.ofNat 64 ((r.map (·.seq)).getD 0)) ∧
    reads 0x42 (BitVec.ofNat 64 ((r.map (·.expect)).getD 0)) ∧
    reads 0x43 (BitVec.ofNat 64 ((r.map (·.count)).getD 0)) ∧
    (∀ i : Fin 4, reads (0x44 + BitVec.ofNat 8 i.val) ((r.map fun r => r.digestWord i.val).getD 0)) ∧
    reads 0x58 (s.die (dieOf n)).forecast ∧
    (k.priv ≠ 0 →
      reads 0x03 (BitVec.ofNat 64 (dieOf n)) ∧ reads 0x30 k.status ∧ reads 0x31 c.sr.tvec ∧ reads 0x33 k.epc ∧
      reads 0x34 k.cause ∧ reads 0x35 k.tval ∧ reads 0x36 c.sr.asid ∧ reads 0x50 c.pair.ctl ∧ reads 0x51 c.pair.fprint) ∧
    (k.priv = 0 → ∀ sel ∈ [0x03, 0x30, 0x31, 0x33, 0x34, 0x35, 0x36, 0x50, 0x51], Raises s (.srr d sel) 0x02 0) ∧
    (∀ sel : BitVec 8, sel.toNat ∉ List.range' 0x00 4 ++ List.range' 0x08 8 ++ List.range' 0x10 3 ++
        List.range' 0x19 5 ++ List.range' 0x20 4 ++ List.range' 0x28 4 ++ List.range' 0x30 7 ++
        List.range' 0x40 8 ++ [0x50, 0x51, 0x58] →
      Raises s (.srr d sel) 0x01 0)

/-- SRW, SRS and SRC write the source, the OR and the AND NOT into the register, at every privilege that R41 lets
write, and change nothing else: STATUS keeps CTX and PRIV, and outside F its IE (R44); SRSEED takes 1 for 0 (R101);
PAIRCTL takes ROLLBK and SUSPECT (R370); RPSTAT, RPSEQ, RPCOUNT and RPDIGEST change nothing (R342).

What a write to a special register raises, without any effect (R41, R87): 0x02 where U lacks the privilege, 0x01
for a selector that is not listed, for a read-only register, for a nonzero reserved field, and for the values that
R44, R45, R100, R195, R196 and R393 exclude. -/
def Obligations.Special_register_writes : Prop :=
  (∀ (s : State) (n : Nat) (x : Ctx) (sel : BitVec 8) (a : Reg) (i : Instr) (v : Word),
    s.alone n x → x ≠ .l → x ≠ .s → holds s.turn [a] = true →
    let y := s.readG a
    let old := s.readSr n x sel.toNat
    let c := s.core n
    let k := c.context x
    let puts (c' : Core) : Prop := Retires s i 4 (s.setCore n c')
    (i, v) ∈ [(Instr.srw sel a, y), (.srs sel a, old ||| y), (.src sel a, old &&& ~~~ y)] →
    (sel = 0x10 → v.toNat < 2 ^ 6 → puts (c.setContext x { k with fpstat := v })) ∧
    (sel = 0x11 → v.toNat < 6 → puts (c.setContext x { k with frm := v })) ∧
    (sel = 0x12 → puts { c with f := { c.f with srseed := if v = 0 then 1 else v } }) ∧
    (∀ j : Fin 5, j.val ≠ 3 → sel = 0x19 + BitVec.ofNat 8 j.val → v.toNat % 2 ^ 7 = 0 → v.toNat / 2 ^ 7 < 0xC00 →
      puts { c with sr := { c.sr with wcfg := c.sr.wcfg.set j.val v j.isLt } }) ∧
    (sel = 0x1C → field v 4 3 = 0 → field v 19 7 = 0 → field v 45 3 = 0 → field v 7 12 < 0xC00 →
      field v 26 19 < 0x60000 → field v 1 3 ∈ [0, 2, 5] →
      puts { c with sr := { c.sr with wcfg := c.sr.wcfg.set 3 v } }) ∧
    (k.priv ≠ 0 →
      (sel = 0x30 → field v 0 3 = 0 → v.toNat < 2 ^ 14 → field v 8 2 ≠ 2 →
        ∃ st : Word, puts (c.setContext x { k with status := st }) ∧ ∀ b, b < 64 →
          st.getLsbD b =
            if b ∈ [3, 4, 6, 7, 8, 9] ∨ (b = 5 ∧ x = .f) then v.getLsbD b else k.status.getLsbD b) ∧
      (v.toNat < 2 ^ 16 → v.toNat % 2 = 0 →
        (sel = 0x31 → puts { c with sr := { c.sr with tvec := v } }) ∧
        (sel = 0x32 → puts { c with sr := { c.sr with uvec := v } }) ∧
        (sel = 0x33 → puts (c.setContext x { k with epc := v }))) ∧
      (sel = 0x34 → v.toNat < 2 ^ 10 → field v 6 2 = 0 → field v 8 2 ≠ 3 → puts (c.setContext x { k with cause := v })) ∧
      (sel = 0x35 → puts (c.setContext x { k with tval := v })) ∧
      (sel = 0x36 → v.toNat < 2 ^ 24 → puts { c with sr := { c.sr with asid := v } }) ∧
      (sel = 0x50 → v.toNat < 2 ^ 48 → field v 1 1 = 0 → field v 6 26 = 0 →
        ∃ w : Word, puts { c with pair := { c.pair with ctl := w } } ∧ ∀ b, b < 64 →
          w.getLsbD b = if b = 4 ∨ 32 ≤ b ∧ b < 48 then v.getLsbD b else c.pair.ctl.getLsbD b) ∧
      (sel = 0x42 → v.toNat < 2 ^ 16 →
        Retires s i 4 (match c.ident.grid with
          | some g => s.modGrid g fun g => { g with recov := { g.recov with expect := v.toNat } }
          | none => s)) ∧
      (sel = 0x58 → v.toNat < 2 ^ 48 → field v 0 10 ≤ 320 →
        Retires s i 4 (s.modDie (dieOf n) fun d => { d with forecast := v })) ∧
      (sel = 0x40 → v.toNat < 2 ^ 32 → field v 4 3 = 0 → field v 9 7 = 0 → GoesTo s i (s.pc + 4)) ∧
      (sel = 0x43 → v.toNat < 2 ^ 16 → GoesTo s i (s.pc + 4)) ∧
      (sel ∈ [0x41, 0x44, 0x45, 0x46, 0x47] → GoesTo s i (s.pc + 4)))) ∧
  (∀ (s : State) (n : Nat) (x : Ctx) (sel : BitVec 8) (a : Reg) (i : Instr) (v : Word),
    s.alone n x → x ≠ .l → x ≠ .s → holds s.turn [a] = true →
    let y := s.readG a
    let old := s.readSr n x sel.toNat
    let k := (s.core n).context x
    let readOnly := List.range' 0x00 3 ++ List.range' 0x08 8 ++ List.range' 0x20 4 ++ List.range' 0x28 4
    let ofKernel := [0x03, 0x51] ++ List.range' 0x30 7 ++ List.range' 0x40 4 ++ [0x50, 0x58]
    let reserved : List (Nat × Nat × Nat) :=
      [(0x10, 6, 58), (0x11, 3, 61), (0x19, 0, 7), (0x19, 19, 45), (0x1A, 0, 7), (0x1A, 19, 45), (0x1B, 0, 7),
       (0x1B, 19, 45), (0x1C, 4, 3), (0x1C, 19, 7), (0x1C, 45, 3), (0x1D, 0, 7), (0x1D, 19, 45), (0x30, 0, 3),
       (0x30, 14, 50), (0x31, 0, 1), (0x31, 16, 48), (0x32, 0, 1), (0x32, 16, 48), (0x33, 0, 1), (0x33, 16, 48),
       (0x34, 6, 2), (0x34, 10, 54), (0x36, 24, 40), (0x40, 4, 3), (0x40, 9, 7), (0x40, 32, 32), (0x42, 16, 48),
       (0x43, 16, 48), (0x50, 1, 1), (0x50, 6, 26), (0x50, 48, 16), (0x58, 48, 16)]
    (i, v) ∈ [(Instr.srw sel a, y), (.srs sel a, old ||| y), (.src sel a, old &&& ~~~ y)] →
    (sel.toNat ∈ readOnly → Raises s i 0x01 0) ∧
    (k.priv = 0 → sel.toNat ∈ ofKernel → Raises s i 0x02 0) ∧
    (k.priv ≠ 0 → sel = 0x03 ∨ sel = 0x51 → Raises s i 0x01 0) ∧
    (k.priv = 0 → sel.toNat ∈ List.range' 0x44 4 → Raises s i 0x01 0) ∧
    (sel.toNat ∉ readOnly ++ ofKernel ++ List.range' 0x10 3 ++ List.range' 0x19 5 ++ List.range' 0x44 4 →
      Raises s i 0x01 0) ∧
    (k.priv ≠ 0 ∨ sel.toNat ∉ ofKernel →
      (∀ lo m, (sel.toNat, lo, m) ∈ reserved → field v lo m ≠ 0 → Raises s i 0x01 0) ∧
      (sel = 0x11 → 6 ≤ field v 0 3 → Raises s i 0x01 0) ∧
      (sel ∈ [0x19, 0x1A, 0x1B, 0x1C, 0x1D] → 0xC00 ≤ field v 7 12 → Raises s i 0x01 0) ∧
      (sel = 0x1C → 0x60000 ≤ field v 26 19 ∨ field v 1 3 ∉ [0, 2, 5] → Raises s i 0x01 0) ∧
      (sel = 0x30 → field v 8 2 = 2 → Raises s i 0x01 0) ∧
      (sel = 0x34 → field v 8 2 = 3 → Raises s i 0x01 0) ∧
      (sel = 0x58 → 320 < field v 0 10 → Raises s i 0x01 0)))

/-! ## Translation control, L1 and fences (R89, R90, R230, R232) -/

/-- TLBINV removes from the TLBs that it reaches exactly the entries that R89 names, a global one only for every ASID,
once the stores that they translated are performed; no register or byte of memory changes. L1INV drops the lines that
R90 names. U raises 0x02.

FENCE (R203, R224, R230, R232): unless it is an acquire the stream's stores are performed, from die scope on with
the dirty bytes of the RDC; `.sc` takes a ticket; unless it is a release the clean lines of the RDC go. At recovery
scope a release outside a recoverable launch raises 0x2E, is registered once, waits, and ends when it has been
counted (R339). -/
def Obligations.Translation_and_fences : Prop :=
  (∀ (s : State) (n : Nat) (x : Ctx) (a b : Reg), s.alone n x → x ≠ .l → x ≠ .s → holds s.turn [a, b] = true →
    let va := (s.readG a).toNat
    let w := s.readG b
    let reach := w.toNat / 2 ^ 18 % 4
    let reached (cl : Nat) : Prop :=
      if reach = 0 then cl = n / 8 else if reach = 1 then cl / 40 = n / 8 / 40 else cl < 160
    let named (e : TlbEntry) : Bool :=
      (w.getLsbD 17 || decide (e.va ≤ va ∧ va < e.va + 2 ^ e.size)) &&
      (w.getLsbD 16 || (decide (e.asid = w.toNat % 2 ^ 16) && !flag e.leaf 9))
    let asid := (s.core n).sr.asid.toNat % 2 ^ 16
    (s.priv = 0 → Raises s (.tlbinv a b) 0x02 0 ∧ Raises s (.l1inv a) 0x02 0) ∧
    (s.priv ≠ 0 → 2 ^ 20 ≤ w.toNat ∨ reach = 3 → Raises s (.tlbinv a b) 0x01 0) ∧
    (s.priv ≠ 0 → w.toNat < 2 ^ 20 → reach ≠ 3 →
      (∀ p ∈ s.cores, p.2.mem.buffer = [] ∧ p.2.mem.gate = []) →
      (∀ cl, (∀ j ∈ (s.cluster cl).bse, j.lines = []) ∧ ∀ j ∈ (s.cluster cl).gre, j.lines = []) →
      (∀ r ∈ s.fabric.reqs, match r.kind with | .write .. => False | .atomic .. => False | _ => True) →
      ∃ t, exec (.tlbinv a b) s = .next t ∧ t.pc = s.pc + 4 ∧ (∀ r, t.readG r = s.readG r) ∧
        t.mem = s.mem ∧ t.keep = s.keep ∧ (∀ m, (t.core m).mem = (s.core m).mem) ∧
        ∀ cl, { t.cluster cl with tlb := (s.cluster cl).tlb } = s.cluster cl ∧
          (reached cl → (t.cluster cl).tlb = (s.cluster cl).tlb.filter fun e => !named e) ∧
          (¬ reached cl → (t.cluster cl).tlb = (s.cluster cl).tlb)) ∧
    (s.priv ≠ 0 →
      Retires s (.l1inv a) 4 { s with caches := { s.caches with l1 := s.caches.l1.filter fun t =>
        !(decide (t.1 = n) && (decide (a = 0) || decide (t.2.1 = va / 128 ∧ t.2.2.1 = asid))) } })) ∧
  (∀ (s : State) (n : Nat) (x : Ctx) (ql : Qual), s.alone n x → (s.die 0).inReset = false →
    let d := dieOf n
    let far := ql.scope ≠ .co ∧ ql.scope ≠ .cl
    let drained := s.drainAll n
    let released := if ql.ord = .acq then s else if far then drained.writeBackRdc d else drained
    let ticketed := if ql.ord = .sc then { released with ticket := released.ticket + 1 } else released
    let acquired := if ql.ord ≠ .rel ∧ far then ticketed.dropCleanRdc d else ticketed
    let recovering := ql.scope = .rc ∧ ql.ord ≠ .acq
    (¬ recovering → ql.ord = .acq ∨ s.settles n x ql.scope → Retires s (.fence ql) 4 acquired) ∧
    (¬ recovering → ql.ord ≠ .acq → ¬ s.settles n x ql.scope → exec (.fence ql) s = .next drained) ∧
    (recovering → (¬ s.hasMode n .recoverable ∨ x = .l ∨ x = .s) → Raises s (.fence ql) 0x2E 0) ∧
    (recovering → s.hasMode n .recoverable → x ≠ .l → x ≠ .s →
      let mine := (s.core n).waits.rcRel.find? fun w => w.isOf x s.pc
      (∀ w, mine = some w → w.done = false → Waits s (.fence ql)) ∧
      (∀ w, mine = some w → w.done = true → ql.ord = .rel →
        Retires s (.fence ql) 4 (s.modCore n fun c => { c with waits := { c.waits with
          rcRel := c.waits.rcRel.filter fun w => !w.isOf x s.pc } })) ∧
      (mine = none → s.settles n x ql.scope →
        exec (.fence ql) s = .next ((drained.writeBackRdc d).modCore n fun c => { c with waits := { c.waits with
          rcRel := c.waits.rcRel ++ [{ ctx := x, pc := s.pc, done := false, data := [] }] } })) ∧
      (mine = none → ¬ s.settles n x ql.scope → exec (.fence ql) s = .next drained)))

/-! ## Loads, stores and prefetches (R77 to R82, R111) -/

/-- LD and LDU in the RL, XL and 16-bit forms (R63, R77): the bytes at base plus offset, low byte first (R3), go to the
register sign- or zero-extended; `g0` discards them. Every other register, every flag and all of memory are kept: a
load changes only what caches and predictors hold, and a full set of the RDC first writes a line back. An ordered load must be aligned, and acquires before it reads. -/
def Obligations.Loads : Prop :=
  ∀ (s : State) (n : Nat) (x : Ctx) (d b : Reg) (i9 : BitVec 9) (o32 : BitVec 32) (u5 : BitVec 5) (ql : Qual),
    s.alone n x → holds s.turn [d, b] = true →
    let base := s.readG b
    let rl (k : Nat) : Word := base + BitVec.ofInt 64 (i9.toInt * k)
    let xl : Word := base + o32.signExtend 64
    let plain : Qual := { ord := .plain, scope := .co }
    ∀ (i : Instr) (ilen len : Nat) (signed : Bool) (va : Word) (q : Qual) (p : Place) (rc : Bool),
      (i, ilen, len, signed, va, q) ∈
        [(Instr.ldB d b i9 ql, 4, 1, true, rl 1, ql), (.ldH d b i9 ql, 4, 2, true, rl 2, ql),
         (.ldW d b i9 ql, 4, 4, true, rl 4, ql), (.ldD d b i9 ql, 4, 8, true, rl 8, ql),
         (.lduB d b i9 ql, 4, 1, false, rl 1, ql), (.lduH d b i9 ql, 4, 2, false, rl 2, ql),
         (.lduW d b i9 ql, 4, 4, false, rl 4, ql),
         (.ldBXl d b o32 ql, 8, 1, true, xl, ql), (.ldHXl d b o32 ql, 8, 2, true, xl, ql),
         (.ldWXl d b o32 ql, 8, 4, true, xl, ql), (.ldDXl d b o32 ql, 8, 8, true, xl, ql),
         (.lduBXl d b o32 ql, 8, 1, false, xl, ql), (.lduHXl d b o32 ql, 8, 2, false, xl, ql),
         (.lduWXl d b o32 ql, 8, 4, false, xl, ql),
         (.c16LdDSp d u5, 2, 8, true, s.readG 2 + BitVec.ofNat 64 (u5.toNat * 8), plain),
         (.c16LdW d b, 2, 4, true, base, plain), (.c16LdD d b, 2, 8, true, base, plain)] →
      q.ord ≠ .rel → (q.ord ≠ .plain → va.toNat % len = 0) → (q.ord = .sc → (s.die 0).inReset = false) →
      s.reaches n x false va.toNat len p rc → s.sound n x p len →
      let u := s.acquired n q
      let raw := BitVec.ofNat (8 * len) (u.loads n x p len)
      ∃ w t, exec i s = .next t ∧ u.tracesOnly w n 2 ∧
        w.wrote t ilen d (if signed then raw.signExtend 64 else raw.setWidth 64)

/-- ST in the RL, XL and 16-bit forms (R63, R77, R80): the low bytes of the register, low byte first (R3), at base plus
offset. The context that stored reads them at once; every other byte of memory reads as before, everywhere.

An ordered store (R79, R230): the stream's earlier stores are performed first, `.sc` takes a ticket, and the store
itself is performed at once; from die scope on the RDC writes back. In H and D it stays gated (R14). A scope rc
without an RC page raises 0x2E, and a misaligned one 0x04 with the address.
F, H and D alone buffer their stores (log 12). That scope rc raises 0x2E outside a recoverable launch too is the
model's reading (log 96). -/
def Obligations.Stores : Prop :=
  (∀ (s : State) (n : Nat) (x : Ctx) (r b : Reg) (i9 : BitVec 9) (o32 : BitVec 32) (u5 : BitVec 5),
    s.alone n x → holds s.turn [r, b] = true →
    let base := s.readG b
    let rl (k : Nat) : Word := base + BitVec.ofInt 64 (i9.toInt * k)
    let xl : Word := base + o32.signExtend 64
    let ql : Qual := { ord := .plain, scope := .co }
    ∀ (i : Instr) (ilen len : Nat) (va : Word) (p : Place) (rc : Bool),
      (i, ilen, len, va) ∈
        [(Instr.stB r b i9 ql, 4, 1, rl 1), (.stH r b i9 ql, 4, 2, rl 2), (.stW r b i9 ql, 4, 4, rl 4),
         (.stD r b i9 ql, 4, 8, rl 8), (.stBXl r b o32 ql, 8, 1, xl), (.stHXl r b o32 ql, 8, 2, xl),
         (.stWXl r b o32 ql, 8, 4, xl), (.stDXl r b o32 ql, 8, 8, xl),
         (.c16StDSp r u5, 2, 8, s.readG 2 + BitVec.ofNat 64 (u5.toNat * 8)),
         (.c16StW r b, 2, 4, base), (.c16StD r b, 2, 8, base)] →
      s.reaches n x true va.toNat len p rc → s.takes n x p len rc →
      StoresAt s i n x ilen p (bytesOf len (s.readG r).toNat)) ∧
  (∀ (s : State) (n : Nat) (x : Ctx) (r b : Reg) (i9 : BitVec 9) (ord : OrdCode) (scope : Scope) (p : Place) (rc : Bool),
    s.alone n x → holds s.turn [r, b] = true → ord = .rel ∨ ord = .sc → (s.die 0).inReset = false →
    (s.core n).mem.buffer = [] → s.takes n x p 8 rc →
    let ql : Qual := { ord := ord, scope := scope }
    let va := (s.readG b + BitVec.ofInt 64 (i9.toInt * 8)).toNat
    let bs := bytesOf 8 (s.readG r).toNat
    let far := scope ≠ .co ∧ scope ≠ .cl
    let u := if far then s.writeBackRdc (dieOf n) else s
    let u := if ord = .sc then { u with ticket := u.ticket + 1 } else u
    (canonical va = true → canonical (va + 7) = true → va + 8 ≤ 2 ^ 64 → va % 8 ≠ 0 →
      Raises s (.stD r b i9 ql) 0x04 (BitVec.ofNat 64 va)) ∧
    (va % 8 = 0 → s.reaches n x true va 8 p rc → scope = .rc → rc = false ∨ ¬ s.hasMode n .recoverable →
      (∀ w ∈ (s.core n).waits.rcRel, w.isOf x s.pc = false) →
      Raises s (.stD r b i9 ql) 0x2E (BitVec.ofNat 64 va)) ∧
    (va % 8 = 0 → s.reaches n x true va 8 p rc → scope ≠ .rc → x ≠ .h → x ≠ .d →
      s.settles n x scope →
      ∃ w unc, u.tracesOnly w n 0 ∧
        let part : StorePart := { place := p, bytes := bs, mask := 0xFF, rc := rc, uncached := unc }
        let w := w.perform { core := n, ctx := x } part false
        Retires s (.stD r b i9 ql) 4 (if far then w.writeBackRdc (dieOf n) else w)) ∧
    (va % 8 = 0 → s.reaches n x true va 8 p rc → scope ≠ .rc → x = .h ∨ x = .d →
      let u := if ord = .sc then { s with ticket := s.ticket + 1 } else s
      ∃ w e unc, u.tracesOnly w n 0 ∧ e.ctx = x ∧ e.act = true ∧
        e.parts = [{ place := p, bytes := bs, mask := 0xFF, rc := rc, uncached := unc }] ∧
        (e.wide = true ↔ far) ∧ e.poisoned = false ∧
        Retires s (.stD r b i9 ql) 4 (w.setCore n { s.core n with mem := { (s.core n).mem with
          gate := (s.core n).mem.gate ++ [e] } })))

/-- VLD and VST in both forms (R111): 128 bytes between memory and a vector register, in F, H and D; nothing else
changes. -/
def Obligations.Vector_loads_and_stores : Prop :=
  ∀ (s : State) (n : Nat) (x : Ctx) (v b : Reg) (i9 : BitVec 9) (o32 : BitVec 32) (ql : Qual) (p : Place) (rc : Bool),
    s.alone n x → x ≠ .l → x ≠ .s → holds s.turn [b] = true → v.val < vectorFile x →
    let c := s.core n
    let plain : Qual := { ord := .plain, scope := .co }
    let rl := s.readG b + BitVec.ofInt 64 (i9.toInt * 128)
    let xl := s.readG b + o32.signExtend 64
    (∀ i ilen va, (i, ilen, va) ∈ [(Instr.vld v b i9 ql, 4, rl), (.vldXl v b o32 ql, 8, xl)] →
      ql.ord = .plain ∨ ql.ord = .acq → (ql.ord ≠ .plain → va.toNat % 128 = 0) →
      s.reaches n x false va.toNat 128 p rc → s.sound n x p 128 →
      let u := s.acquired n ql
      ∃ w, u.tracesOnly w n 2 ∧
        Retires s i ilen (w.setCore n (c.setContext x ((c.context x).writeV v (BitVec.ofNat 1024 (u.loads n x p 128)))))) ∧
    (∀ i ilen va, (i, ilen, va) ∈ [(Instr.vst v b i9 plain, 4, rl), (.vstXl v b o32 plain, 8, xl)] →
      s.reaches n x true va.toNat 128 p rc → s.takes n x p 128 rc →
      StoresAt s i n x ilen p (bytesOf 128 ((c.context x).v.get v).toNat))

/-- The checks of an access, in their order (R78, R81, R190, R194, R219): each failure raises its cause with the
address, and nothing else happens.

Translation and permission (R209): what an entry of the TLB must allow, in the order of the checks. A kernel-half
address and a page without U keep U out; a store needs W and D; the cluster must be named. -/
def Obligations.Access_checks : Prop :=
  (∀ (s : State) (n : Nat) (x : Ctx) (d b r : Reg) (ql : Qual),
    s.alone n x → holds s.turn [d, b, r] = true →
    let va := s.readG b
    let a := va.toNat
    let plain : Qual := { ord := .plain, scope := .co }
    let accesses : List (Instr × Nat × Bool) :=
      [(.ldB d b 0 plain, 1, false), (.ldH d b 0 plain, 2, false), (.ldW d b 0 plain, 4, false),
       (.ldD d b 0 plain, 8, false), (.stB d b 0 plain, 1, true), (.stH d b 0 plain, 2, true),
       (.stW d b 0 plain, 4, true), (.stD d b 0 plain, 8, true)]
    (ql.ord = .rel → Raises s (.ldD d b 0 ql) 0x1D 0) ∧ (ql.ord = .acq → Raises s (.stD d b 0 ql) 0x1D 0) ∧
    ∀ i len store, (i, len, store) ∈ accesses →
      let window := a / 2 ^ 19 % 8
      (canonical a = false → Raises s i 0x15 va) ∧
      (canonical a = true → 2 ^ 64 < a + len ∨ canonical (a + len - 1) = false → Raises s i 0x16 va) ∧
      (canonical a = true → a + len ≤ 2 ^ 64 → canonical (a + len - 1) = true → inScratch a = true →
        (6 ≤ window → Raises s i 0x1A va) ∧
        (window = 0 → 0x60000 < a % 2 ^ 19 + len → Raises s i 0x1A va) ∧
        (window = 4 → flag ((s.core n).sr.wcfg.get 3) 0 = false → Raises s i 0x19 va) ∧
        (1 ≤ window → window ≤ 5 → window ≠ 4 ∨ flag ((s.core n).sr.wcfg.get 3) 0 = true →
          len ≠ 4 ∨ a % 4 ≠ 0 → Raises s i 0x1A va)) ∧
      (canonical a = true → a + len ≤ 2 ^ 64 → canonical (a + len - 1) = true → inScratch a = false →
        a % 4096 + len ≤ 4096 → ∀ cause, cause ≠ 0x38 → s.spot (s.viewer n x) store a = .bad cause → Raises s i cause va)) ∧
  (∀ (s : State) (v : Viewer) (store : Bool) (va : Nat) (e : TlbEntry), inScratch va = false → v.engine = false →
    tlbFind (s.cluster v.cluster).tlb (v.asid.toNat % 2 ^ 16) va = some e →
    let absent := if store then 0x11 else 0x10
    let bit (i : Nat) : Bool := e.leaf.getLsbD i
    let pa := e.leaf.toNat / 2 ^ 12 % 2 ^ 40 * 4096 / 2 ^ e.size * 2 ^ e.size + va % 2 ^ e.size
    (bit 0 = false → s.spot v store va = .bad absent) ∧
    (bit 0 = true → v.user = true → 0xFF00000000000000 ≤ va ∨ bit 3 = false → s.spot v store va = .bad 0x13) ∧
    (bit 0 = true → (v.user = true → va < 0xFF00000000000000 ∧ bit 3 = true) → store = true → bit 2 = false →
      s.spot v store va = .bad 0x13) ∧
    (bit 0 = true → (v.user = true → va < 0xFF00000000000000 ∧ bit 3 = true) → (store = true → bit 2 = true) →
      (bit 5 = false ∨ store = true ∧ bit 6 = false → s.spot v store va = .bad absent) ∧
      (bit 5 = true → (store = true → bit 6 = true) →
        let allowed := e.comp.getLsbD (32 + v.log / 2 ^ (e.comp.toNat / 2 ^ 27 % 2 ^ 5) % 32)
        (allowed = false → s.spot v store va = .bad 0x14) ∧
        (allowed = true → pa < 0xC000000000 → (s.die (pa / 0x3000000000)).inReset = false →
          sget s.fabric.pages (pa / 4096) = none →
          s.spot v store va = .at_ (.mem pa) (e.comp.getLsbD 26) (bit 7)))))

/-- LD.w, LDU.w and ST.w through windows 1 to 3 and 5 of a core's own slot (R81, R194, R197): a load widens the element
to FP32, or reconstructs the residue, and a store encodes to nearest with saturation, or takes residues; the flags go
to FPSTAT, and only the element's bytes change. -/
def Obligations.Windows : Prop :=
  ∀ (s : State) (n : Nat) (x : Ctx) (d b : Reg) (own : Nat), s.alone n x → holds s.turn [d, b] = true →
    let c := s.core n
    let k := c.context x
    let va := (s.readG b).toNat
    let ql : Qual := { ord := .plain, scope := .co }
    let w := va / 2 ^ 19 % 8
    let e := windowElem c.sr.wcfg w (va % 2 ^ 19)
    let p := Place.scratch own e.raw
    let raw := s.loads n x p e.bytes
    inScratch va = true → va < 2 ^ 64 → w ∈ [1, 2, 3, 5] → va % 4 = 0 → va % 2 ^ 19 < 0x60000 →
    e.raw + e.bytes ≤ 0x60000 → s.slotCore (s.viewer n x) ((va - 0xFF000000000000) / 2 ^ 22) = .ok own →
    s.claimed p = false → s.claimed (p.add (e.bytes - 1)) = false →
    (s.sound n x p e.bytes → (w = 5 → rnsHint raw = true → k.rnge = false) →
      let pattern := if w = 5 then (rnsValue raw % 2 ^ 32).toNat else widen32 ([.bf16, .e4m3, .e5m2].getD (w - 1) .bf16) raw
      let fl := if w = 5 ∧ rnsHint raw = true then fRNG else 0
      ∀ i v, (i, v) ∈ [(Instr.ldW d b 0 ql, (BitVec.ofNat 32 pattern).signExtend 64),
          (.lduW d b 0 ql, (BitVec.ofNat 32 pattern).setWidth 64)] →
        ∃ t, exec i s = .next t ∧ (s.setCore n (c.setContext x { k with fpstat := k.fpstat ||| word fl })).wrote t 4 d v) ∧
    (s.takes n x p e.bytes false → (k.priv = 0 → 4096 ≤ e.raw) →
      let v := (s.readG d).toNat % 2 ^ 32
      let f : Fmt := [.bf16, .e4m3, .e5m2].getD (w - 1) .bf16
      let coded := if w = 5 then (rnsOfInt (signedNat v 32), 0) else encodeNum f 0 true 0 false (decodeFloat .f32 v)
      ∃ t, exec (.stW d b 0 ql) s = .next t ∧ t.pc = s.pc + 4 ∧ (∀ r, t.readG r = s.readG r) ∧
        (∀ j, j < e.bytes → t.readByte n x (p.add j) = (bytesOf e.bytes coded.1).getD j 0) ∧
        (∀ m y q, q.within p e.bytes = none → t.readByte m y q = s.readByte m y q) ∧
        (s.setCore n (c.setContext x { k with fpstat := k.fpstat ||| word coded.2 })).storesOnly t n)

/-- PREF in both forms never faults for its address, and changes nothing but what caches and predictors hold (R82,
R212). Where its page must be walked first, it asks for the walk and issues again; where a check fails it is dropped.

Scalar accesses in a walk reach the 256 bytes of its own area alone, plain, and fail the walk elsewhere with 0x18
(R212); an I/O core reaches local memory through the RDC of its die, and a poisoned word raises 0x31 (DESIGN CHOICE,
log 22). -/
def Obligations.Accesses_elsewhere : Prop :=
  (∀ (s : State) (target : Fin 3) (write : Bool) (b : Reg) (i9 : BitVec 9) (o32 : BitVec 32),
    let ql : Qual := { ord := .plain, scope := .co }
    s.executing = true → holds s.turn [b] = true →
    ∀ (i : Instr) (len : Nat) (va : Word),
      (i, len, va) ∈ [(Instr.pref target write b i9 ql, 4, s.readG b + BitVec.ofInt 64 (i9.toInt * 128)),
        (.prefXl target write b o32 ql, 8, s.readG b + o32.signExtend 64)] →
      (∀ n x, s.turn = .core n x →
        match s.prefetchPlace (s.viewer n x) va.toNat with
        | .line _ _ => ∃ u t, s.tracesOnly u n 1 ∧ exec i s = .next t ∧ u.movedTo t (s.pc + word len)
        | .walk => exec i s = .next (s.requestWalk (s.viewer n x) false (va.toNat / 128 * 128))
        | .drop => ∃ t, exec i s = .next t ∧ (s.forgetWaits n x).movedTo t (s.pc + word len)) ∧
      ((∀ n x, s.turn ≠ .core n x) → GoesTo s i (s.pc + word len))) ∧
  (∀ (s : State) (d b : Reg), holds s.turn [d, b] = true →
    let va := (s.readG b).toNat
    let ql : Qual := { ord := .plain, scope := .co }
    (∀ die tid th, s.turn = .walker die tid → s.thread die tid = some th →
      (va + 8 ≤ 256 →
        Writes s (.ldD d b 0 ql) 4 d (BitVec.ofNat 64 (natOf (memGetList th.scratch va 8))) ∧
        Retires s (.stD d b 0 ql) 4
          (s.setThread die tid fun u => { u with scratch := memSetList u.scratch va (bytesOf 8 (s.readG d).toNat) })) ∧
      (256 < va + 8 → Raises s (.ldD d b 0 ql) 0x18 0 ∧ Raises s (.stD d b 0 ql) 0x18 0)) ∧
    (∀ die k, s.turn = .io die k → va + 8 ≤ 0xC000000000 → s.keep.gib = 0 →
      s.claimed (.mem va) = false → s.claimed (.mem (va + 7)) = false →
      ((∀ j, j < 8 → s.paPoisoned die (va + j) = false) →
        Writes s (.ldD d b 0 ql) 4 d (BitVec.ofNat 64 (natOf ((List.range 8).map fun j => s.readPa die (va + j))))) ∧
      (∀ j, j < 8 → s.paPoisoned die (va + j) = true → (∀ m, m < j → s.paPoisoned die (va + m) = false) →
        Raises s (.ldD d b 0 ql) 0x31 (BitVec.ofNat 64 (va + j))) ∧
      Retires s (.stD d b 0 ql) 4
        ((s.evictRange die va 8).writeRc none none va (bytesOf 8 (s.readG d).toNat))))

/-! ## Atomics (R218 to R226) -/

/-- AMO and CAS in the RA and XA forms (R218, R219, R220): the old value at the place goes to the register, sign-extended
(zero-extended from FP32), the new value to its bytes; a CAS that fails writes nothing. The integer forms compute at
their width, signed or unsigned as named; FADD, FMIN and FMAX set the flags of their one rounding or selection. Every
other byte of memory, register and flag is kept. The statement takes an aligned address of the core's own slot or of
memory, with the store buffer drained, no store under way to another endpoint before a release, and nothing of other
dies in the RDC.
The predictor's microsecond and the RDC's choice are free (log 11). -/
def Obligations.Atomics : Prop :=
  ∀ (s : State) (n : Nat) (x : Ctx) (d b r : Reg) (ql : Qual) (pl : AtomPlace) (wide : Bool),
    s.alone n x → x ≠ .l → x ≠ .s → holds s.turn [d, b, r] = true → (s.core n).mem.buffer = [] →
    (s.die 0).inReset = false → (s.die (dieOf n)).rdc = [] → ql.scope ≠ .rc → ¬ (ql.ord = .sc ∧ pl = .near) →
    (ql.ord = .rel ∨ ql.ord = .sc → s.settles n x ql.scope) → (∀ w ∈ (s.core n).waits.atoms, w.ctx ≠ x) →
    s.gateUse n < 256 →
    let va := (s.readG b).toNat
    let xw := if wide then 8 else 4
    let signed (k v : Nat) : Int := (BitVec.ofNat (8 * k) v).toInt
    let int (f : Nat → Nat → Nat → Nat) : Nat → Nat → Nat → Nat → Option Nat × Nat :=
      fun k old y _ => (some (f k old y), 0)
    let add := int fun k old y => (old + y) % 2 ^ (8 * k)
    let min := int fun k old y => if signed k old ≤ signed k y then old else y
    let max := int fun k old y => if signed k old < signed k y then y else old
    let minu := int fun _ old y => if old ≤ y then old else y
    let maxu := int fun _ old y => if old ≤ y then y else old
    let cas : Nat → Nat → Nat → Nat → Option Nat × Nat := fun _ old y cmp => (if old = cmp then some y else none, 0)
    let fadd : Nat → Nat → Nat → Nat → Option Nat × Nat := fun _ old y _ =>
      let sum := Value.add 0 (decodeFloat .f32 old) (decodeFloat .f32 y)
      (some (roundFp32 sum.1).1, sum.2 ||| (roundFp32 sum.1).2)
    let pick (max : Bool) : Nat → Nat → Nat → Nat → Option Nat × Nat := fun _ old y _ =>
      (some (selectCode .f32 max old y).1, (selectCode .f32 max old y).2)
    ∀ (i : Instr) (ilen len : Nat) (float : Bool) (op : Nat → Nat → Nat → Nat → Option Nat × Nat)
      (p : Place) (rc : Bool),
      (i, ilen, len, float, op) ∈
        [(Instr.amoAddW d b r ql, 4, 4, false, add), (.amoAndW d b r ql, 4, 4, false, int fun _ => (· &&& ·)),
         (.amoOrW d b r ql, 4, 4, false, int fun _ => (· ||| ·)), (.amoXorW d b r ql, 4, 4, false, int fun _ => (· ^^^ ·)),
         (.amoMinW d b r ql, 4, 4, false, min), (.amoMaxW d b r ql, 4, 4, false, max),
         (.amoMinuW d b r ql, 4, 4, false, minu), (.amoMaxuW d b r ql, 4, 4, false, maxu),
         (.amoSwapW d b r ql, 4, 4, false, int fun _ _ y => y), (.amoFaddW d b r ql, 4, 4, true, fadd),
         (.amoFminW d b r ql, 4, 4, true, pick false), (.amoFmaxW d b r ql, 4, 4, true, pick true),
         (.casW d b r ql, 4, 4, false, cas),
         (.amoAddD d b r ql, 4, 8, false, add), (.amoAndD d b r ql, 4, 8, false, int fun _ => (· &&& ·)),
         (.amoOrD d b r ql, 4, 8, false, int fun _ => (· ||| ·)), (.amoXorD d b r ql, 4, 8, false, int fun _ => (· ^^^ ·)),
         (.amoMinD d b r ql, 4, 8, false, min), (.amoMaxD d b r ql, 4, 8, false, max),
         (.amoMinuD d b r ql, 4, 8, false, minu), (.amoMaxuD d b r ql, 4, 8, false, maxu),
         (.amoSwapD d b r ql, 4, 8, false, int fun _ _ y => y), (.casD d b r ql, 4, 8, false, cas),
         (.amoAddXa d b r ql pl wide, 8, xw, false, add), (.amoAndXa d b r ql pl wide, 8, xw, false, int fun _ => (· &&& ·)),
         (.amoOrXa d b r ql pl wide, 8, xw, false, int fun _ => (· ||| ·)),
         (.amoXorXa d b r ql pl wide, 8, xw, false, int fun _ => (· ^^^ ·)),
         (.amoMinXa d b r ql pl wide, 8, xw, false, min), (.amoMaxXa d b r ql pl wide, 8, xw, false, max),
         (.amoMinuXa d b r ql pl wide, 8, xw, false, minu), (.amoMaxuXa d b r ql pl wide, 8, xw, false, maxu),
         (.amoSwapXa d b r ql pl wide, 8, xw, false, int fun _ _ y => y), (.amoFaddXa d b r ql pl, 8, 4, true, fadd),
         (.amoFminXa d b r ql pl, 8, 4, true, pick false), (.amoFmaxXa d b r ql pl, 8, 4, true, pick true),
         (.casXa d b r ql pl wide, 8, xw, false, cas)] →
      va % len = 0 → s.reaches n x true va len p rc →
      (∀ o off, p = .scratch o off → o = n) →
      let bytes := match p with | .scratch _ off => memGetList (s.core n).mem.scratch off len | .mem pa => memGetList s.mem pa len
      let clean := match p with
        | .scratch _ off => ∀ k, k < len → (s.core n).mem.poison.contains ((off + k) / 8) = false
        | .mem pa => ∀ k, k < len → s.poison.contains ((pa + k) / 8) = false
      clean →
      let k := (s.core n).context x
      let old := natOf bytes
      let result := op len old ((s.readG r).toNat % 2 ^ (8 * len)) ((s.readG d).toNat % 2 ^ (8 * len))
      let value := if float then BitVec.ofNat 64 old else (BitVec.ofNat (8 * len) old).signExtend 64
      let new := match result.1 with | some v => bytesOf len v | none => bytes
      ∃ t, exec i s = .next t ∧ t.pc = s.pc + word ilen ∧ t.readG d = (if d = 0 then 0 else value) ∧
        (∀ g, g ≠ d → t.readG g = s.readG g) ∧
        (match p with
          | .scratch _ off =>
            t.mem = s.mem ∧ (∀ m, m ≠ n → (t.core m).mem = (s.core m).mem) ∧
              ∀ a, memGet (t.core n).mem.scratch a =
                if off ≤ a ∧ a < off + len then new.getD (a - off) 0 else memGet (s.core n).mem.scratch a
          | .mem pa =>
            (∀ m, (t.core m).mem = (s.core m).mem) ∧
              ∀ a, memGet t.mem a = if pa ≤ a ∧ a < pa + len then new.getD (a - pa) 0 else memGet s.mem a) ∧
        (t.core n).mem.buffer = [] ∧ (t.core n).mem.gate = (s.core n).mem.gate ∧
        ((s.core n).setContext x { k with fpstat := k.fpstat ||| word result.2 }).onlyRegisters
          { t.core n with mem := (s.core n).mem } ∧
        (∀ m, m ≠ n → { t.core m with mem := (s.core m).mem } = s.core m) ∧ t.grids = s.grids ∧ t.clusters = s.clusters

/-- What an atomic raises, without any effect (R78, R218, R219): 0x1D for `.sc` with `.near`, 0x04 for an address that its
width does not divide, 0x1C in windows 1 to 5.

An atomic on another core's slot (R223): F sends it to the owner's inbox once, and waits until its answer has come; in
H and D it raises 0x1C. Its activation performs it on the owner as an H message runs: when no H activation runs and
STATUS.IE is set (R35), on an unclaimed line. -/
def Obligations.Atomic_traps_and_activations : Prop :=
  (∀ (s : State) (n : Nat) (x : Ctx) (d b r : Reg) (ql : Qual) (pl : AtomPlace),
    s.alone n x → x ≠ .l → x ≠ .s → holds s.turn [d, b, r] = true →
    let va := s.readG b
    let a := va.toNat
    let plain : Qual := { ord := .plain, scope := .co }
    let c := s.core n
    (ql.ord = .sc → Raises s (.casXa d b r ql .near true) 0x1D 0) ∧
    (canonical a = true → a + 8 ≤ 2 ^ 64 → canonical (a + 7) = true → ql.ord ≠ .sc ∨ pl ≠ .near →
      (a % 8 ≠ 0 → Raises s (.amoAddD d b r ql) 0x04 va ∧ Raises s (.casXa d b r ql pl true) 0x04 va) ∧
      (a % 8 = 0 → inScratch a = true → 1 ≤ a / 2 ^ 19 % 8 → a / 2 ^ 19 % 8 ≤ 5 →
        Raises s (.amoAddD d b r ql) 0x1C va ∧ Raises s (.casXa d b r ql pl true) 0x1C va)) ∧
    (∀ o off, a % 8 = 0 → s.reaches n x true a 8 (.scratch o off) false → o ≠ n →
      (x ≠ .f → (∀ w ∈ c.waits.atoms, w.ctx ≠ x) → Raises s (.amoAddD d b r plain) 0x1C va) ∧
      (x = .f → c.mem.buffer = [] → (∀ w ∈ c.waits.atoms, w.ctx ≠ x) →
        let i : Item := { src := some { core := n, ctx := .f }, kind := .atomic off 8, lvlid := s.lvlid0 n, cls := 0,
                          w0 := s.readG r, w1 := s.readG d, scope := .co, port := none }
        ∃ w, w.ctx = .f ∧ w.fire = c.f.fire ∧ w.pc = s.pc ∧ w.va = va ∧ w.item = i ∧ w.answer = none ∧
          let t := s.setCore n { c with waits := { c.waits with atoms := c.waits.atoms ++ [w] } }
          let p : NetItem := { grid := c.ident.grid.getD 0, target := s.lvlid0 o, item := i, held := false }
          exec (.amoAddD d b r plain) s = .next { t with net := s.net ++ [p] }) ∧
      (∀ w old fl, x = .f → c.waits.atoms = [w] → w.ctx = .f → w.fire = c.f.fire → w.pc = s.pc → w.va = va →
        (w.answer = none → Waits s (.amoAddD d b r plain)) ∧
        (w.answer = some (.ok (old, fl)) →
          Retires s (.amoAddD d b r plain) 4 ((s.setCore n { c with
            waits := { c.waits with atoms := [] }, fc := { c.fc with fpstat := c.fc.fpstat ||| fl } }).writeG d old))))) ∧
  (∀ (s : State) (k : Nat) (i : Item) (rest : List Item) (off len : Nat),
    (s.core k).paired = false → (s.core k).hAct = none → (s.core k).inbox = i :: rest → i.kind = .atomic off len →
    ((s.core k).fc.ie = false ∨ s.claimed (.scratch k off) = true → Nothing s (.atomicActivation k)) ∧
    ((s.core k).fc.ie = true → s.claimed (.scratch k off) = false →
      (∀ j, j < len → (s.core k).mem.poison.contains ((off + j) / 8) = false) →
      let old := natOf (memGetList (s.core k).mem.scratch off len)
      let result := (AtomOp.ofCode i.cls).apply len old i.w0.toNat i.w1.toNat
      ∃ t, exec (.atomicActivation k) s = .next t ∧ (t.core k).inbox = rest ∧ t.mem = s.mem ∧
        (∀ a, memGet (t.core k).mem.scratch a =
          match result.1 with
          | some v => if off ≤ a ∧ a < off + len then (bytesOf len v).getD (a - off) 0 else memGet (s.core k).mem.scratch a
          | none => memGet (s.core k).mem.scratch a) ∧
        (∀ iss, i.src = some iss →
          (t.core iss.core).waits.atoms = answerFirst i (.ok (word old, word result.2)) (s.core iss.core).waits.atoms) ∧
        (∀ m, { t.core m with inbox := (s.core m).inbox, mem := (s.core m).mem, waits := (s.core m).waits } = s.core m)))

/-! ## Vector instructions (R109 to R128) -/

/-- The arithmetic of R114 in both formats: the exact result of each active element, rounded once to the format; mode 5
draws once for each (R102). Inactive elements keep their bits, or are 0 in a queue entry (R109). -/
def Obligations.Vector_arithmetic : Prop :=
  ∀ (s : State) (n : Nat) (x : Ctx) (f : Fmt) (k : KReg) (q : Bool) (y : XvFields) (d a b c : Reg), s.alone n x →
    let V := form32 f k q
    let X := form64 y
    let add : Nat → Value → Value → Value → Value × Nat := fun m p r _ => Value.add m p r
    let sub : Nat → Value → Value → Value → Value × Nat := fun m p r _ => Value.add m p r.neg
    let mul : Nat → Value → Value → Value → Value × Nat := fun _ p r _ => Value.mul p r
    let fused (g : Value → Value) : Nat → Value → Value → Value → Value × Nat := fun m p r t =>
      ((Value.add m (Value.mul p r).1 (g t)).1, (Value.mul p r).2 ||| (Value.add m (Value.mul p r).1 (g t)).2)
    let sign (g : Value → Value) : Nat → Value → Value → Value → Value × Nat := fun _ p _ _ =>
      if p.isNan then (.nan false, Value.nanFlags p p) else (g p, 0)
    ∀ (i : Instr) (F : VecForm) (dst : VField) (srcs : List VField)
      (exact : Nat → Value → Value → Value → Value × Nat),
      (i, F, dst, srcs, exact) ∈
        [(Instr.vadd f k q d a b, V, V.field d, [V.field a, V.field b], add),
         (.vsub f k q d a b, V, V.field d, [V.field a, V.field b], sub),
         (.vmul f k q d a b, V, V.field d, [V.field a, V.field b], mul),
         (.vfma f k q d a b, V, .reg d, [V.field a, V.field b, .reg d], fused id),
         (.vfms f k q d a b, V, .reg d, [V.field a, V.field b, .reg d], fused Value.neg),
         (.vabs f k q d a, V, V.field d, [V.field a], sign Value.abs),
         (.vneg f k q d a, V, V.field d, [V.field a], sign Value.neg),
         (.vaddXv y d a b, X, X.field d, [X.field a, X.field b], add),
         (.vsubXv y d a b, X, X.field d, [X.field a, X.field b], sub),
         (.vmulXv y d a b, X, X.field d, [X.field a, X.field b], mul),
         (.vfmaXv y d a b c, X, X.field d, [X.field a, X.field b, X.field c], fused id),
         (.vfmsXv y d a b c, X, X.field d, [X.field a, X.field b, X.field c], fused Value.neg),
         (.vabsXv y d a, X, X.field d, [X.field a], sign Value.abs),
         (.vnegXv y d a, X, X.field d, [X.field a], sign Value.neg)] →
      s.admits x F [] → (s.core n).supplies x srcs [dst] →
      let mode := modeOf F.rnd s.context
      let val (j e : Nat) : Value :=
        decodeNum F.fmt (elem (((s.core n).operands x srcs).1.getD j 0).toNat F.fmt.width e)
      let op (e r : Nat) : Nat × Nat :=
        let z := exact mode (val 0 e) (val 1 e) (val 2 e)
        let code := encodeNum F.fmt mode F.sat r false z.1
        (code.1, z.2 ||| code.2)
      ∃ v fl seed, Yields s i n x F.len srcs dst v fl seed ∧
        Lanewise F.fmt.width F.fmt.count ((s.core n).f.readK F.k) ((s.core n).before x dst) (mode == 5)
          (s.core n).f.srseed op v fl seed

/-- Selection, functions and shifts (R115 to R117): VMIN and VMAX take one operand's code; VRCP and VRSQ round under
the mode, and draw under mode 5; VEXP2 and VLOG2 round to nearest, and draw nothing; shifts by the width or more give
zeros, or the sign. -/
def Obligations.Vector_functions : Prop :=
  ∀ (s : State) (n : Nat) (x : Ctx) (f : Fmt) (k : KReg) (q : Bool) (y : XvFields) (d a b : Reg), s.alone n x →
    let V := form32 f k q
    let X := form64 y
    let pick (max : Bool) : VecForm → Nat → Nat → Nat → Nat → Nat × Nat := fun F _ _ p r => selectCode F.fmt max p r
    let rcp : VecForm → Nat → Nat → Nat → Nat → Nat × Nat := fun F mode draw p _ => rcpCode F.fmt mode F.sat draw p
    let rsq : VecForm → Nat → Nat → Nat → Nat → Nat × Nat := fun F mode draw p _ => rsqCode F.fmt mode F.sat draw p
    let exp2 : VecForm → Nat → Nat → Nat → Nat → Nat × Nat := fun F _ _ p _ => exp2Code F.fmt F.sat p
    let log2 : VecForm → Nat → Nat → Nat → Nat → Nat × Nat := fun F _ _ p _ => log2Code F.fmt F.sat p
    let shl : VecForm → Nat → Nat → Nat → Nat → Nat × Nat := fun F _ _ p r => (p * 2 ^ r, 0)
    let shr : VecForm → Nat → Nat → Nat → Nat → Nat × Nat := fun F _ _ p r => (p / 2 ^ r, 0)
    let sra : VecForm → Nat → Nat → Nat → Nat → Nat × Nat := fun F _ _ p r =>
      (((BitVec.ofNat F.fmt.width p).sshiftRight r).toNat, 0)
    ∀ (i : Instr) (F : VecForm) (srcs : List VField) (draws : Bool)
      (code : VecForm → Nat → Nat → Nat → Nat → Nat × Nat),
      (i, F, srcs, draws, code) ∈
        [(Instr.vmin f k q d a b, V, [V.field a, V.field b], false, pick false),
         (.vmax f k q d a b, V, [V.field a, V.field b], false, pick true),
         (.vrcp f k q d a, V, [V.field a], true, rcp), (.vrsq f k q d a, V, [V.field a], true, rsq),
         (.vexp2 f k q d a, V, [V.field a], false, exp2), (.vlog2 f k q d a, V, [V.field a], false, log2),
         (.vshl f k q d a b, V, [V.field a, V.field b], false, shl),
         (.vshr f k q d a b, V, [V.field a, V.field b], false, shr),
         (.vshrA f k q d a b, V, [V.field a, V.field b], false, sra),
         (.vminXv y d a b, X, [X.field a, X.field b], false, pick false),
         (.vmaxXv y d a b, X, [X.field a, X.field b], false, pick true),
         (.vrcpXv y d a, X, [X.field a], true, rcp), (.vrsqXv y d a, X, [X.field a], true, rsq),
         (.vexp2Xv y d a, X, [X.field a], false, exp2), (.vlog2Xv y d a, X, [X.field a], false, log2),
         (.vshlXv y d a b, X, [X.field a, X.field b], false, shl),
         (.vshrXv y d a b, X, [X.field a, X.field b], false, shr),
         (.vshrAXv y d a b, X, [X.field a, X.field b], false, sra)] →
      s.admits x F [] → (s.core n).supplies x srcs [F.field d] →
      let mode := modeOf F.rnd s.context
      let lane (j e : Nat) : Nat := elem (((s.core n).operands x srcs).1.getD j 0).toNat F.fmt.width e
      ∃ v fl seed, Yields s i n x F.len srcs (F.field d) v fl seed ∧
        Lanewise F.fmt.width F.fmt.count ((s.core n).f.readK F.k) ((s.core n).before x (F.field d))
          (draws && mode == 5) (s.core n).f.srseed (fun e r => code F mode r (lane 0 e) (lane 1 e)) v fl seed

/-- The moves of R119 and R128 copy bits, and set no flag: VSEL takes each element from the source that the mask names;
VPERM, VSLIDE and VBCAST write active elements; GMVV sets the low doubleword; VMVG extends one element into a general
register. -/
def Obligations.Vector_moves : Prop :=
  ∀ (s : State) (n : Nat) (x : Ctx) (f : Fmt) (k : KReg) (q : Bool) (y : XvFields) (d a b : Reg), s.alone n x →
    let c := s.core n
    ∀ (F : VecForm) (sel perm up down bcast mvg : Instr),
      (F, sel, perm, up, down, bcast, mvg) ∈
        [(form32 f k q, .vsel f k q d a b, .vperm f k q d a b, .vslideUp f k q d a b, .vslideDn f k q d a b,
          .vbcast f k q d a, .vmvg f q d a b),
         (form64 y, .vselXv y d a b, .vpermXv y d a b, .vslideUpXv y d a b, .vslideDnXv y d a b, .vbcastXv y d a,
          .vmvgXv y d a b)] →
      let w := F.fmt.width
      let m := F.fmt.count
      let mask := c.f.readK F.k
      let two := [F.field a, F.field b]
      let one := [F.field a]
      let lane (srcs : List VField) (j e : Nat) : Nat := elem ((c.operands x srcs).1.getD j 0).toNat w e
      let moves (i : Instr) (srcs : List VField) (code : Nat → Nat) : Prop :=
        ∃ v, Yields s i n x F.len srcs (F.field d) v 0 c.f.srseed ∧
          Lanewise w m mask (c.before x (F.field d)) false c.f.srseed (fun e _ => (code e, 0)) v 0 c.f.srseed
      let dist := (s.readG b).toNat
      let j := (s.readG b).toNat % m
      (s.admits x F [] → c.supplies x two [F.field d] →
        (∃ v, Yields s sel n x F.len two (F.field d) v 0 c.f.srseed ∧
          ∀ e, e < m → elem v.toNat w e = if active mask w e then lane two 0 e else lane two 1 e) ∧
        moves perm two fun e => lane two 0 (lane two 1 e % m)) ∧
      (s.admits x F [b] → c.supplies x one [F.field d] →
        moves up one (fun e => if dist ≤ e then lane one 0 (e - dist) else 0) ∧
        moves down one (fun e => if e + dist < m then lane one 0 (e + dist) else 0)) ∧
      (s.admits x F [a] → c.supplies x [] [F.field d] → moves bcast [] fun _ => (s.readG a).toNat) ∧
      (s.admits x { F with k := if F.len = 4 then 0 else F.k } [d, b] → c.supplies x one [] →
        Retires s mvg F.len ((s.setCore n (c.operands x one).2).writeG d
          (if F.fmt.isFloat then BitVec.ofNat 64 (lane one 0 j) else (BitVec.ofNat w (lane one 0 j)).signExtend 64))) ∧
      (x ≠ .l → x ≠ .s → holds s.turn [a] = true → c.supplies x [] [vfield q d] →
        Yields s (.gmvv q d a) n x 4 [] (vfield q d) ((s.readG a).setWidth 1024) 0 c.f.srseed)

/-- Bitwise logic by bytes, residues by words (R117, R126): RNADD and RNMUL on each residue, RNFROM and RNTO between a
residue word and an INT32 lane. A hint that RNTO meets sets RNG, or raises 0x3A under RNGE with the index. -/
def Obligations.Vector_logic_and_residues : Prop :=
  ∀ (s : State) (n : Nat) (x : Ctx) (k : KReg) (q : Bool) (d a b : Reg), s.alone n x → x ≠ .l → x ≠ .s → (x = .d → k = 0) →
    let c := s.core n
    let mask := c.f.readK k
    let dst := vfield q d
    let two := [vfield q a, vfield q b]
    let one := [vfield q a]
    let lanes (i : Instr) (srcs : List VField) (w m : Nat) (code : Nat → Nat → Nat) (flags : Nat) : Prop :=
      let lane (j e : Nat) : Nat := elem ((c.operands x srcs).1.getD j 0).toNat w e
      ∃ v, Yields s i n x 4 srcs dst v flags c.f.srseed ∧
        Lanewise w m mask (c.before x dst) false c.f.srseed (fun e _ => (code (lane 0 e) (lane 1 e), 0)) v 0 c.f.srseed
    (c.supplies x two [dst] →
      lanes (.vand k q d a b) two 8 128 (· &&& ·) 0 ∧ lanes (.vor k q d a b) two 8 128 (· ||| ·) 0 ∧
      lanes (.vxor k q d a b) two 8 128 (· ^^^ ·) 0 ∧
      lanes (.rnadd k q d a b) two 32 32 rnsAdd 0 ∧ lanes (.rnmul k q d a b) two 32 32 rnsMul 0) ∧
    (c.supplies x one [dst] →
      let lane (e : Nat) : Nat := elem (c.operand x (vfield q a)).toNat 32 e
      let hints := (List.range 32).filter fun e => active mask 32 e && rnsHint (lane e)
      lanes (.rnfrom k q d a) one 32 32 (fun p _ => rnsOfInt (BitVec.ofNat 32 p).toInt) 0 ∧
      (hints = [] → lanes (.rnto k q d a) one 32 32 (fun p _ => (rnsValue p % 2 ^ 32).toNat) 0) ∧
      (hints ≠ [] → (c.context x).rnge = false →
        lanes (.rnto k q d a) one 32 32 (fun p _ => (rnsValue p % 2 ^ 32).toNat) fRNG) ∧
      (∀ e es, hints = e :: es → (c.context x).rnge = true → Raises s (.rnto k q d a) 0x3A (BitVec.ofNat 64 e)))

/-- Compares write a mask register, in F alone and never k0: every bit of an active element's bytes for which the
comparison holds (R118); a NaN makes all but `ne` false, −0 equals +0. KAND, KOR and KNOT compute masks in F; KPOP
counts, in F and H (R127).

Queues as operands (R37, R38, R109, R110): a queue against its direction, or named in H or D, raises 0x0A; an empty
source or a full destination makes the instruction wait; a mark raises 0x08 and stays. A register outside the file
raises 0x01. -/
def Obligations.Vector_masks : Prop :=
  (∀ (s : State) (n : Nat) (x : Ctx) (f : Fmt) (k : KReg) (q : Bool) (y : XvFields) (kd ka kb : KReg) (d a b : Reg),
    s.alone n x →
    let c := s.core n
    let V := form32 f k q
    let X := form64 y
    let nan (p r : Value) : Bool := p.isNan || r.isNan
    let eq (p r : Value) : Bool := !nan p r && decide (Value.cmp p r = 0)
    let ne (p r : Value) : Bool := nan p r || decide (Value.cmp p r ≠ 0)
    let lt (p r : Value) : Bool := !nan p r && decide (Value.cmp p r < 0)
    let le (p r : Value) : Bool := !nan p r && decide (Value.cmp p r ≤ 0)
    let masked (i : Instr) (m : KWord) : Prop :=
      Retires s i 4 (s.setCore n { c with f := { c.f with k := c.f.k.set kd.val m kd.isLt } })
    (∀ (i : Instr) (F : VecForm) (rel : Value → Value → Bool),
      (i, F, rel) ∈
        [(Instr.vcmpEq f k q kd a b, V, eq), (.vcmpNe f k q kd a b, V, ne), (.vcmpLt f k q kd a b, V, lt),
         (.vcmpLe f k q kd a b, V, le), (.vcmpEqXv y kd a b, X, eq), (.vcmpNeXv y kd a b, X, ne),
         (.vcmpLtXv y kd a b, X, lt), (.vcmpLeXv y kd a b, X, le)] →
      s.admits x F [] → F.fmt.width ∈ [8, 16, 32] →
      let w := F.fmt.width
      let srcs := [F.field a, F.field b]
      let val (j e : Nat) : Value := decodeNum F.fmt (elem ((c.operands x srcs).1.getD j 0).toNat w e)
      let mask := c.f.readK F.k
      (x = .f → kd ≠ 0 → c.supplies x srcs [] →
        ∃ m : KWord, (∀ j, j < 128 →
            m.getLsbD j = (active mask w (8 * j / w) && rel (val 0 (8 * j / w)) (val 1 (8 * j / w)))) ∧
          let fl := (List.range F.fmt.count).foldl
            (fun fl e => if active mask w e then fl ||| Value.nanFlags (val 0 e) (val 1 e) else fl) 0
          let c' := (c.operands x srcs).2
          let c' := c'.modContext x fun k => { k with fpstat := k.fpstat ||| word fl }
          Retires s i F.len (s.setCore n { c' with f := { c'.f with k := c'.f.k.set kd.val m kd.isLt } })) ∧
      (x ≠ .f ∨ kd = 0 → Raises s i 0x01 0)) ∧
    (x = .f → kd ≠ 0 → masked (.kand kd ka kb) (c.f.readK ka &&& c.f.readK kb) ∧
      masked (.kor kd ka kb) (c.f.readK ka ||| c.f.readK kb) ∧ masked (.knot kd ka) (~~~ c.f.readK ka)) ∧
    (x ≠ .f ∨ kd = 0 → Raises s (.kand kd ka kb) 0x01 0 ∧ Raises s (.kor kd ka kb) 0x01 0 ∧ Raises s (.knot kd ka) 0x01 0) ∧
    (x = .f ∨ x = .h → holds s.turn [d] = true →
      Writes s (.kpop d ka) 4 d (BitVec.ofNat 64 ((List.range 128).countP fun j => (c.f.readK ka).getLsbD j)))) ∧
  (∀ (s : State) (n : Nat) (x : Ctx) (f : Fmt) (y : XvFields) (d a b : Reg), s.alone n x →
    let c := s.core n
    let reads (q : Nat) : Bool := q < 4 || q == 6
    ∀ (i : Instr) (F : VecForm), (i, F) ∈ [(Instr.vadd f 0 true d a b, form32 f 0 true), (.vaddXv y d a b, form64 y)] →
      s.admits x F [] →
      let queue (r : Reg) : Bool := F.q && decide (24 ≤ r.val)
      let outside (r : Reg) : Bool := !queue r && decide ([Ctx.f, .h, .d].zip [32, 8, 4] |>.any fun p =>
        decide (p.1 = x ∧ p.2 ≤ r.val))
      let wrong := (queue a && !(decide (x = .f) && reads (a.val - 24))) ||
        (queue b && !(decide (x = .f) && reads (b.val - 24))) ||
        (queue d && !(decide (x = .f) && !reads (d.val - 24)))
      let entries (r : Reg) : List QEntry := c.f.q.get (ix 7 (r.val - 24))
      (outside a || outside b || outside d → Raises s i 0x01 0) ∧
      (outside a = false → outside b = false → outside d = false →
        (wrong = true → Raises s i 0x0A 0) ∧
        (wrong = false →
          (queue a = true → entries a = [] → Stalls s i n x) ∧ (queue b = true → entries b = [] → Stalls s i n x) ∧
          (queue a = true → queue b = true → a = b → (entries a).length < 2 → Stalls s i n x) ∧
          (queue d = true → 8 ≤ (entries d).length → Stalls s i n x) ∧
          ((queue a = true → a = b → 2 ≤ (entries a).length) → (queue b = true → entries b ≠ []) →
            (queue d = true → (entries d).length < 8) →
            queue a = true → (∃ es, entries a = .mark :: es) → Raises s i 0x08 0))))

/-- Reductions and scans (R120, R121): element 0 of VRED is the tree of the active elements joined with element 0 of the
second source, and the other elements are 0; an integer sum is exact until its one saturation. VSCAN's elements are
the running sum from the last element of the second source, and under mode 5 each active element draws once (R102). -/
def Obligations.Vector_reductions : Prop :=
  ∀ (s : State) (n : Nat) (x : Ctx) (f : Fmt) (k : KReg) (q : Bool) (y : XvFields) (d a b : Reg), s.alone n x →
    let c := s.core n
    let V := form32 f k q
    let X := form64 y
    (∀ (i : Instr) (F : VecForm) (op : RedOp),
      (i, F, op) ∈ [(Instr.vredAdd f k q d a b, V, RedOp.add), (.vredMin f k q d a b, V, .min),
        (.vredMax f k q d a b, V, .max), (.vredAddXv y d a b, X, .add), (.vredMinXv y d a b, X, .min),
        (.vredMaxXv y d a b, X, .max)] →
      let srcs := [F.field a, F.field b]
      let src (j : Nat) : Nat := ((c.operands x srcs).1.getD j 0).toNat
      let mask := c.f.readK F.k
      let mode := modeOf F.rnd s.context
      let w := F.fmt.width
      let m := F.fmt.count
      let val (j e : Nat) : Int := intOf (decodeNum F.fmt (elem (src j) w e))
      s.admits x F [] → c.supplies x srcs [F.field d] →
      ∃ v fl seed, Yields s i n x F.len srcs (F.field d) v fl seed ∧
        (∀ e, 0 < e → e < m → elem v.toNat w e = 0) ∧
        (let r := reduce op F.fmt mode F.sat mask (src 0) (src 1) c.f.srseed
         elem v.toNat w 0 = r.1 % 2 ^ w ∧ fl = r.2.1 ∧ seed = r.2.2) ∧
        ((∀ e, e < m → active mask w e = false) → elem v.toNat w 0 = elem (src 1) w 0 ∧ fl = 0 ∧ seed = c.f.srseed) ∧
        (op = .add → F.fmt.isFloat = false → (∃ e, e < m ∧ active mask w e = true) → mode ≠ 5 →
          let total := val 1 0 + ((List.range m).map fun e => if active mask w e then val 0 e else 0).sum
          let code := encodeNum F.fmt mode F.sat 0 false (Value.ofInt total)
          elem v.toNat w 0 = code.1 % 2 ^ w ∧ fl = code.2 ∧ seed = c.f.srseed)) ∧
    (∀ (i : Instr) (F : VecForm), (i, F) ∈ [(Instr.vscanAdd f k q d a b, V), (.vscanAddXv y d a b, X)] →
      let srcs := [F.field a, F.field b]
      let src (j : Nat) : Nat := ((c.operands x srcs).1.getD j 0).toNat
      let mask := c.f.readK F.k
      let mode := modeOf F.rnd s.context
      let w := F.fmt.width
      let m := F.fmt.count
      let val (j e : Nat) : Int := intOf (decodeNum F.fmt (elem (src j) w e))
      s.admits x F [] → c.supplies x srcs [F.field d] →
      ∃ v fl seed, Yields s i n x F.len srcs (F.field d) v fl seed ∧
        (F.fmt.isFloat = true →
          let l := scanFloat F.fmt mode F.sat mask (src 0) (src 1) c.f.srseed
          (∀ e, e < m → elem v.toNat w e = l.codes.getD e 0 % 2 ^ w) ∧ fl = l.flags ∧ seed = l.seed) ∧
        (F.fmt.isFloat = false →
          let total (e : Nat) : Int :=
            val 1 (m - 1) + ((List.range (e + 1)).map fun j => if active mask w j then val 0 j else 0).sum
          let code (e : Nat) : Nat × Nat := encodeNum F.fmt 0 true 0 false (Value.ofInt (total e))
          (∀ e, e < m → elem v.toNat w e = (code e).1 % 2 ^ w) ∧
            fl = (List.range m).foldl (fun fl e => fl ||| (code e).2) 0 ∧
            seed = if mode = 5 then drawn c.f.srseed ((List.range m).countP fun e => active mask w e) else c.f.srseed))

/-- VCVT converts each active element between any two formats (R122); VMXSCALE writes one scale for each block, VMXQ
quantizes lanes against the scales and skips blocks under the skip code, VDOT.mx writes the FP32 dot product to
element 0 and zeros elsewhere (R123 to R125). -/
def Obligations.Vector_conversions : Prop :=
  ∀ (s : State) (n : Nat) (x : Ctx) (y : XvFields) (sf : Fmt) (b16 : Bool) (p3 qp : BitVec 3) (p : BitVec 7)
    (d a b c3 : Reg), s.alone n x →
    let c := s.core n
    let F := form64 y
    let dst := F.field d
    let src (srcs : List VField) (j : Nat) : Nat := ((c.operands x srcs).1.getD j 0).toNat
    let mask := c.f.readK F.k
    let mode := modeOf F.rnd s.context
    let w := y.fmt.width
    s.admits x F [] →
    (c.supplies x [F.field a] [dst] →
      let old := c.before x dst
      let part := Nat.min y.fmt.count sf.count
      let from_ (e : Nat) : Option Nat :=
        if sf.count ≤ y.fmt.count then (if p3.toNat * part ≤ e ∧ e < p3.toNat * part + part then some (e - p3.toNat * part) else none)
        else if e < part then some (p3.toNat * part + e) else none
      let hinted (e : Nat) : Bool :=
        match from_ e with
        | some j => active mask w e && decide (sf = .rns3 ∧ y.fmt ≠ .rns3) && rnsHint (elem (src [F.field a] 0) 32 j)
        | none => false
      ((∀ e, e < y.fmt.count → hinted e = false) → mode ≠ 5 →
        ∃ v fl, Yields s (.vcvt y sf p3 d a) n x 8 [F.field a] dst v fl c.f.srseed ∧
          ∀ e, e < y.fmt.count → elem v.toNat w e =
            match from_ e with
            | none => elem old.toNat w e
            | some j =>
              let code := elem (src [F.field a] 0) sf.width j
              if active mask w e = false then elem old.toNat w e
              else if y.fmt = .rns3 ∧ sf = .rns3 then code % 2 ^ w
              else (encodeNum y.fmt mode F.sat 0 (isIntFmt sf) (decodeNum sf code)).1 % 2 ^ w) ∧
      (∀ l h, convert y.fmt sf mode F.sat p3.toNat mask (src [F.field a] 0) old.toNat c.f.srseed = (l, h) →
        (∀ j, h = some j → (c.context x).rnge = true → Raises s (.vcvt y sf p3 d a) 0x3A (BitVec.ofNat 64 j)) ∧
        (h.isSome = true → (c.context x).rnge = false →
          ∃ v, Yields s (.vcvt y sf p3 d a) n x 8 [F.field a] dst v (fRNG ||| l.flags) l.seed)) ∧
      (let r := blockScales y.fmt b16 mask (src [F.field a] 0)
       let lo := p.toNat * scaleCount y.fmt b16
       ∃ v, Yields s (.vmxscale y b16 p d a) n x 8 [F.field a] dst v r.2 c.f.srseed ∧
         ∀ e, e < 128 → elem v.toNat 8 e =
           if lo ≤ e ∧ e < lo + r.1.length then r.1.getD (e - lo) 0 % 256 else elem old.toNat 8 e)) ∧
    (c.supplies x [F.field a, F.field b] [dst] → mode ≠ 5 →
      let srcs := [F.field a, F.field b]
      let old := c.before x dst
      ∃ v fl, Yields s (.vmxq y b16 qp p d a b) n x 8 srcs dst v fl c.f.srseed ∧
        ∀ e, e < y.fmt.count → elem v.toNat w e =
          let lane := e - 32 * qp.toNat
          let scale := elem (src srcs 1) 8 (p.toNat * scaleCount y.fmt b16 + lane / blockSize y.fmt b16)
          if 32 * qp.toNat ≤ e ∧ lane < 32 ∧ active mask 32 lane = true then
            if isSkip y.fmt scale then 0
            else (encodeNum (codeFmt y.fmt) mode F.sat 0 false
              (Value.div (decodeFloat .f32 (elem (src srcs 0) 32 lane)) (scaleNum y.fmt scale)).1).1 % 2 ^ w
          else elem old.toNat w e) ∧
    (c.supplies x [F.field a, F.field b, F.field c3] [dst] →
      let srcs := [F.field a, F.field b, F.field c3]
      let z := dotProduct y.fmt b16 mask (src srcs 0) (src srcs 1) (src srcs 2)
      Yields s (.vdotMx y b16 d a b c3) n x 8 srcs dst (BitVec.ofNat 1024 z.1) z.2 c.f.srseed)

/-- VLDS and VLDX gather, VSTS and VSTX scatter (R112): element `i` of the mask at base plus stride, or base plus a
signed index; the inactive elements of a load keep their bits, and no byte but those of active elements is written;
where two overlap, the higher index stands. -/
def Obligations.Vector_gather_and_scatter : Prop :=
  ∀ (s : State) (n : Nat) (x : Ctx) (y : XvFields) (d a b : Reg) (P : Nat → Place) (R : Nat → Bool), s.alone n x →
    let c := s.core n
    let F := form64 y
    let w := y.fmt.width
    let len := w / 8
    let mask := c.f.readK F.k
    let ql : Qual := { ord := .plain, scope := .co }
    let strided (e : Nat) : Word := s.readG a + BitVec.ofNat 64 e * s.readG b
    let indexed (v : VWord) (e : Nat) : Word :=
      s.readG a + (BitVec.ofNat 32 (elem v.toNat 32 e)).signExtend 64 * BitVec.ofNat 64 len
    let idxOf (srcs : List VField) (j : Nat) : VWord := (c.operands x srcs).1.getD j 0
    y.rnd = .rne → 8 ≤ w → w % 8 = 0 →
    (∀ i gs srcs m (va : Nat → Word),
      (i, gs, srcs, m, va) ∈ [(Instr.vlds y ql d a b, [a, b], [], y.fmt.count, strided),
        (.vldx y ql d a b, [a], [F.field b], 32, indexed (idxOf [F.field b] 0))] →
      s.admits x F gs → c.supplies x srcs [F.field d] →
      (∀ e, e < m → active mask w e = true →
        s.reaches n x false (va e).toNat len (P e) (R e) ∧ s.sound n x (P e) len) →
      ∃ u v, s.tracesOnly u n 64 ∧
        Retires s i 8 (u.setCore n (((c.operands x srcs).2).yields x (F.field d) v 0 c.f.srseed)) ∧
        ∀ e, e < y.fmt.count → elem v.toNat w e =
          if e < m ∧ active mask w e = true then s.loads n x (P e) len else elem (c.before x (F.field d)).toNat w e) ∧
    (∀ i gs srcs m (va : Nat → Word),
      (i, gs, srcs, m, va) ∈ [(Instr.vsts y ql d a b, [a, b], [F.field d], y.fmt.count, strided),
        (.vstx y ql d a b, [a], [F.field d, F.field b], 32, indexed (idxOf [F.field d, F.field b] 1))] →
      s.admits x F gs → c.supplies x srcs [] →
      let stored := (List.range m).filter fun e => active mask w e
      let hit (e : Nat) (p : Place) : Option Nat := p.within (P e) len
      (∀ e, e < m → active mask w e = true →
        s.reaches n x true (va e).toNat len (P e) (R e) ∧ R e = false ∧ s.takes n x (P e) len false) →
      (s.core n).mem.taken + stored.length ≤ 32 →
      ((s.core n).mem.gate.filter fun g => g.act && decide (g.ctx = x)).length + stored.length ≤ 32 →
      s.gateUse n + stored.length ≤ 256 →
      ∃ t, exec i s = .next t ∧ t.pc = s.pc + 8 ∧ (∀ r, t.readG r = s.readG r) ∧
        (∀ p, t.readByte n x p =
          match stored.reverse.find? fun e => (hit e p).isSome with
          | some e => (bytesOf len (elem (idxOf srcs 0).toNat w e)).getD ((hit e p).getD 0) 0
          | none => s.readByte n x p) ∧
        (∀ m y p, (∀ e ∈ stored, hit e p = none) → t.readByte m y p = s.readByte m y p) ∧
        (s.setCore n (c.operands x srcs).2).storesOnly t n)

/-! ## Queues and streams (R134 to R143) -/

/-- LSTR pushes and SSTR stores one entry a step, moves the address on and counts down; a count of 0 does nothing; a
mark makes SSTR raise 0x08 and stays (R135, R137). The progress registers hold what the completed steps left.

LIDX gathers up to an entry of indexed elements a step, 0 for the index 0xFFFFFFFF and for the lanes beyond, and
moves on over the indices used (R138). SSCAT scatters the elements of one entry to the indices of another and pops
both; a mark at the indices ends it and stays, a mark at the data raises 0x08 (R139). -/
def Obligations.Streams : Prop :=
  (∀ (s : State) (n : Nat) (x : Ctx) (q : QReg) (a b : Reg) (p : Place) (rc : Bool), s.alone n x →
    holds s.turn [a, b] = true → (a = b → a = 0) →
    let c := s.core n
    let l := c.f.q.get q
    let va := s.readG a
    let left := s.readG b
    let stepped (u : State) (e : List QEntry) : State :=
      State.stepped (((u.modCore n fun c => c.setQueue q e).writeG a (va + 128)).writeG b (left - 1)) (left == 1) n x (s.pc + 4)
    (x = .l → q.val < 4 →
      (left = 0 → GoesTo s (.lstr q a b) (s.pc + 4)) ∧
      (left ≠ 0 → s.gexpTargets n q = true → Raises s (.lstr q a b) 0x0A 0) ∧
      (left ≠ 0 → s.gexpTargets n q = false → 8 ≤ l.length → Stalls s (.lstr q a b) n x) ∧
      (left ≠ 0 → s.gexpTargets n q = false → l.length < 8 → s.reaches n x false va.toNat 128 p rc → s.sound n x p 128 →
        ∃ u, s.tracesOnly u n 2 ∧
          exec (.lstr q a b) s = .next (stepped u (l ++ [.data (BitVec.ofNat 1024 (s.loads n x p 128))])))) ∧
    (x = .s → q.val = 4 ∨ q.val = 5 →
      (left = 0 → GoesTo s (.sstr q a b) (s.pc + 4)) ∧
      (left ≠ 0 → l = [] → Stalls s (.sstr q a b) n x) ∧
      (left ≠ 0 → l.head? = some .mark → Raises s (.sstr q a b) 0x08 0) ∧
      (∀ v rest, left ≠ 0 → l = .data v :: rest → s.reaches n x true va.toNat 128 p rc → s.takes n x p 128 rc →
        ∃ u, (∀ k, k < 128 → u.readByte n x (p.add k) = (bytesOfV v).getD k 0) ∧
          (∀ m y z, z.within p 128 = none → u.readByte m y z = s.readByte m y z) ∧ s.storesOnly u n ∧
          exec (.sstr q a b) s = .next (stepped u rest)))) ∧
  (∀ (s : State) (n : Nat) (x : Ctx) (f : Fmt) (q qi : QReg) (a b c : Reg) (P : Nat → Place) (R : Nat → Bool)
    (idx : Nat → Nat), s.alone n x → 8 ≤ f.width → f.width % 8 = 0 →
    let len := f.width / 8
    let l := (s.core n).f.q.get q
    let base := s.readG a
    let address (z : Nat) : Nat := (base + (BitVec.ofNat 32 z).signExtend 64 * BitVec.ofNat 64 len).toNat
    (x = .l → q.val < 4 → holds s.turn [a, b, c] = true → (b = c → b = 0) →
      let at_ := s.readG b
      let left := s.readG c
      let k := Nat.min f.count left.toNat
      (left = 0 → GoesTo s (.lidx f q a b c) (s.pc + 8)) ∧
      (left ≠ 0 → s.gexpTargets n q = false → 8 ≤ l.length → Stalls s (.lidx f q a b c) n x) ∧
      (left ≠ 0 → s.gexpTargets n q = false → l.length < 8 →
        (∀ e, e < k → s.keyAt n .i32 at_ e (BitVec.ofNat 32 (idx e)).toInt ∧ idx e < 2 ^ 32) →
        (∀ e, e < k → idx e ≠ 0xFFFFFFFF → s.reaches n x false (address (idx e)) len (P e) (R e) ∧ s.sound n x (P e) len) →
        ∃ u v, s.tracesOnly u n 17 ∧
          (∀ e, e < f.count → elem v.toNat f.width e =
            if e < k ∧ idx e ≠ 0xFFFFFFFF then s.loads n x (P e) len else 0) ∧
          exec (.lidx f q a b c) s = .next (State.stepped
            (((u.modCore n fun c => c.setQueue q (l ++ [.data v])).writeG b (at_ + BitVec.ofNat 64 (4 * k))).writeG c
              (left - BitVec.ofNat 64 k)) (left.toNat == k) n x (s.pc + 8)))) ∧
    (x = .s → q.val = 4 ∨ q.val = 5 → qi.val = 4 ∨ qi.val = 5 → holds s.turn [a] = true →
      let i := Instr.sscat f a q qi
      let li := (s.core n).f.q.get qi
      (q = qi → Raises s i 0x01 0) ∧
      (q ≠ qi →
        (li = [] → Stalls s i n x) ∧ (li.head? = some .mark → GoesTo s i (s.pc + 8)) ∧
        (∀ w restI, li = .data w :: restI →
          (l = [] → Stalls s i n x) ∧ (l.head? = some .mark → Raises s i 0x08 0) ∧
          (∀ v rest, l = .data v :: rest →
            let lane (e : Nat) : Nat := elem w.toNat 32 e
            let named (e : Nat) : Prop := e < 32 ∧ lane e ≠ 0xFFFFFFFF
            (∀ e, named e → s.reaches n x true (address (lane e)) len (P e) false ∧ s.takes n x (P e) len false ∧
              ∀ pa, P e = .mem pa → homeDie pa = dieOf n) →
            ∃ u, s.storesOnly u n ∧
              (∀ e, named e → (∀ e', named e' → e' ≠ e → ∀ j, j < len → ((P e).add j).within (P e') len = none) →
                ∀ j, j < len → u.readByte n x ((P e).add j) = (bytesOf len (elem v.toNat f.width e)).getD j 0) ∧
              (∀ m y z, (∀ e, named e → z.within (P e) len = none) → u.readByte m y z = s.readByte m y z) ∧
              exec i s = .next (State.stepped
                ((u.modCore n fun c => c.setQueue qi restI).modCore n fun c => c.setQueue q rest) false n x 0))))))

/-- LSISECT, LMERGE and LCOORD push the lanes that R141 and R143 give, 32 to an entry and all ones beyond the last, and
record the position; LMPART finds the split of R142 by its two comparisons. A nonzero reserved field of a descriptor,
and rows from 2^31, raise 0x27. -/
def Obligations.List_walks : Prop :=
  ∀ (s : State) (n : Nat) (f : Fmt) (q : QReg) (d a b c : Reg) (nA nB : Nat) (A B : Nat → Int),
    s.alone n .l → q.val < 4 → f ∈ [.i8, .i16, .i32, .ui8] →
    let l := (s.core n).f.q.get q
    let start := if c = 0 then (s.core n).f.l.walk.getD 0 else s.readG c
    let from_ : WalkPoint := { lanes := [], i := start.toNat % 2 ^ 32, j := start.toNat / 2 ^ 32, ended := false }
    let walks (i : Instr) (p : WalkPoint) : Prop :=
      ∃ u, s.tracesOnly u n 17 ∧
        let v := BitVec.ofNat 1024 (packElems 32 ((List.range 32).map fun e => p.lanes.getD e 0xFFFFFFFF))
        let pos := BitVec.ofNat 64 (p.j % 2 ^ 32 * 2 ^ 32 + p.i % 2 ^ 32)
        let t := if p.lanes = [] then u else u.modCore n fun c => c.setQueue q (l ++ [.data v])
        let t := (t.writeG c pos).modCore n fun c => c.keepWalk (if p.ended then none else some pos)
        exec i s = .next (t.stepped p.ended n .l (s.pc + 8))
    (holds s.turn [a, b, c] = true → s.gexpTargets n q = false → l.length < 8 →
      (s.listAt n f (s.readG a) nA A → s.listAt n f (s.readG b) nB B →
        walks (.lsisect f q a b c) (isect A B nA nB (nA + nB + 33) from_) ∧
        walks (.lmerge f q a b c) (merged A B nA nB 34 from_)) ∧
      (∀ rows, (s.readG b).toNat = rows → rows < 2 ^ 31 → (∀ i, i ≤ rows → s.keyAt n f (s.readG a) i (A i)) →
        walks (.lcoord f q a b c) (coords A rows (rows + 34) from_)) ∧
      (2 ^ 31 ≤ (s.readG b).toNat → Raises s (.lcoord f q a b c) 0x27 0) ∧
      (∀ p rc, s.reaches n .l false (s.readG a).toNat 16 p rc → s.sound n .l p 16 →
        s.loads n .l p 16 / 2 ^ 95 % 2 ^ 32 ≠ 0 →
        Raises s (.lsisect f q a b c) 0x27 (s.readG a) ∧ Raises s (.lmerge f q a b c) 0x27 (s.readG a))) ∧
    (holds s.turn [d, a, b, c] = true → s.listAt n f (s.readG a) nA A → s.listAt n f (s.readG b) nB B →
      let k := Nat.min (s.readG c).toNat (nA + nB)
      ∃ u lo, s.tracesOnly u n 17 ∧ k - nB ≤ lo ∧ lo ≤ Nat.min k nA ∧
        (k - nB < lo → A (lo - 1) ≤ B (k - lo)) ∧ (lo < Nat.min k nA → B (k - 1 - lo) < A lo) ∧
        Retires s (.lmpart f d a b c) 8 (u.writeG d (BitVec.ofNat 64 ((k - lo) * 2 ^ 32 + lo))))

/-! ## Tasks, messages, barriers (R169 to R184, R371) -/

/-- PUSH puts a record at the head of a deque of its core, and PUSHR at that of the core it names, or, behind an earlier
item of the pusher, into the inbox; SEND and SENDH send the message that the class table gives. All release first; from H they are held to FEND, and the 9th
raises 0x0F. An odd source raises 0x01, an empty slot or too many pushes 0x0B, a class that is not the grid's 0x1F, a
core outside the grid or the unit 0x3D; a full store or inbox makes them wait (R169, R171, R173).
What the sender checks for another device is the model's (log 26). -/
def Obligations.Records_and_messages : Prop :=
  ∀ (s : State) (n : Nat) (x : Ctx) (gid : Nat) (g : Grid) (gc gs : Reg) (slot : BitVec 4) (cls : BitVec 6) (st : Stage),
    s.alone n x → x = .f ∨ x = .h → holds s.turn [gc, gs] = true → (s.core n).ident.grid = some gid →
    s.grid gid = some g →
    let c := s.core n
    let me := s.lvlid0 n
    let w := s.readG gc
    let target := w.toNat % 2 ^ 32
    let here := w.toNat / 2 ^ 32 = 0xFFFF
    let r : Rec := { w0 := s.readG gs, w1 := s.readG (ix 31 (gs.val + 1)), pinned := false }
    let item (kind : ItemKind) (cls : Nat) (sc : Scope) : Item :=
      { src := some { core := n, ctx := x }, kind := kind, lvlid := me, cls := cls, w0 := r.w0, w1 := r.w1, scope := sc,
        port := none }
    let sc := g.info.levelScope st.level
    let k := ix 15 slot.toNat
    let counted (t : State) : State := t.modCore n fun c =>
      { c with f := { c.f with pushes := c.f.pushes.set k.val (c.f.pushes.get k + 1) k.isLt } }
    let held (i : Instr) (o : OutItem) : Prop := ∀ a, x = .h → c.hAct = some a →
      (a.out.length < 8 →
        Retires s i 4 (s.modCore n fun c => { c with hAct := some { a with out := a.out ++ [o] } })) ∧
      (8 ≤ a.out.length → Raises s i 0x0F 0)
    let mayPush := c.f.pushes.get k <
      (match c.firing with | .slot j => ((g.info.stage j).map fun o => o.pushesTo slot.toNat).getD 0 | _ => 0)
    let push := Instr.push slot gs
    let pushr := Instr.pushr gc slot gs
    (gs.val % 2 = 1 → ∀ i ∈ [push, pushr, .send gc cls gs, .sendh gc cls gs], Raises s i 0x01 0) ∧
    (gs.val % 2 = 0 →
      (g.info.stage slot.toNat = none → Raises s push 0x0B 0 ∧ (here → target < 8 * g.info.clusters → Raises s pushr 0x0B 0)) ∧
      (2 ^ 48 ≤ w.toNat → ∀ i ∈ [pushr, .send gc cls gs, .sendh gc cls gs], Raises s i 0x01 0) ∧
      (w.toNat < 2 ^ 48 → ¬ here → ∀ i ∈ [pushr, .send gc cls gs, .sendh gc cls gs],
        (s.hasMode n .remote = false → Raises s i 0x13 0) ∧
        (s.hasMode n .remote = true → 1023 < w.toNat / 2 ^ 32 → Raises s i 0x36 0)) ∧
      (here → 8 * g.info.clusters ≤ target → ∀ i ∈ [pushr, .send gc cls gs, .sendh gc cls gs], Raises s i 0x3D w) ∧
      (g.info.stage slot.toNat = some st →
        (x = .f → ¬ mayPush → Raises s push 0x0B 0) ∧
        (x = .f → mayPush → c.work.free = 0 → Waits s push) ∧
        (x = .f → mayPush → c.work.free ≠ 0 → s.settles n x sc →
          Retires s push 4 (counted ((s.released n sc).deliverRecord gid me slot.toNat r))) ∧
        (x = .f → mayPush → c.work.free ≠ 0 → ¬ s.settles n x sc → exec push s = .next (s.drainAll n)) ∧
        held push (.record (s.mailbox g me) slot.toNat r.w0 r.w1 sc) ∧
        (here → target < 8 * g.info.clusters →
          let sameUnit := g.info.unitOf st.level me = g.info.unitOf st.level target
          let to_ := s.mailbox g target
          let behind := s.itemBefore g gid to_ { core := n, ctx := x }
          let full := if to_ = s.mailbox g me then c.work.free = 0 else s.storeFull g to_ = true
          (¬ sameUnit → Raises s pushr 0x3D w) ∧
          (sameUnit → held pushr (.record to_ slot.toNat r.w0 r.w1 sc)) ∧
          (sameUnit → x = .f → ¬ mayPush → Raises s pushr 0x0B 0) ∧
          (sameUnit → x = .f → mayPush →
            (behind = true → s.inboxFull g gid to_ = true → Waits s pushr) ∧
            (behind = true → s.inboxFull g gid to_ = false → s.settles n x sc →
              Retires s pushr 4 (counted ((s.released n sc).sendItem g gid to_ (item (.record slot.toNat) 0 sc)))) ∧
            (behind = false → full → Waits s pushr) ∧
            (behind = false → ¬ full → s.settles n x sc →
              Retires s pushr 4 (counted ((s.released n sc).deliverRecord gid target slot.toNat r)))))) ∧
      (here → target < 8 * g.info.clusters → ∀ i high, (i, high) ∈ [(Instr.send gc cls gs, false), (.sendh gc cls gs, true)] →
        let to_ := s.mailbox g target
        let way := g.between me target
        (g.info.classes[cls.toNat]? = none ∨ (∃ e, g.info.classes[cls.toNat]? = some e ∧
            (e.inst = false ∨ e.high ≠ high ∨ high = false ∧ g.info.stage (e.target % 16) = none)) → Raises s i 0x1F 0) ∧
        (∀ e, g.info.classes[cls.toNat]? = some e → e.inst = true → e.high = high →
          (high = false → (g.info.stage (e.target % 16)).isSome = true) →
          let m := item (if high then .high e.target e.priv else .low (e.target % 16)) cls.toNat way
          held i (.message to_ m) ∧
          (x = .f → s.inboxFull g gid to_ = true → Waits s i) ∧
          (x = .f → s.inboxFull g gid to_ = false → s.settles n x way →
            Retires s i 4 ((s.released n way).sendItem g gid to_ m))))) ∧
    (∀ m, g.coreOf target = some m → (s.core m).paired = false →
      let t := s.deliverRecord gid target slot.toNat r
      let old := s.core m
      (∀ j : Fin 16, (t.core m).work.deques.get j =
        if j.val = slot.toNat then r :: old.work.deques.get j else old.work.deques.get j) ∧
      (t.core m).wfi = false ∧ { t.core m with wfi := old.wfi, work := old.work } = old ∧ s.onlyCore t m)

/-- BARJ registers the firing, BARL withdraws it, BARST reads the four counts, and BAR arrives once a phase, waits for
its end, and returns how many withdrew in it (R174 to R178). The last arrival, and a withdrawal that leaves only
arrivals, end the phase. A level the launch lacks, a barrier not joined, joined twice, or a fifth one raises 0x1E. -/
def Obligations.Barriers : Prop :=
  ∀ (s : State) (n gid : Nat) (g : Grid) (d : Reg) (lvl : BitVec 3) (num : BitVec 6),
    s.alone n .f → (s.core n).ident.grid = some gid → s.grid gid = some g →
    let bars := (s.core n).f.bars
    let key (r : BarReg) : Bool := r.lvl == lvl.toNat && r.n == num.toNat
    let b := g.barrier lvl.toNat (g.info.unitOf lvl.toNat (s.lvlid0 n)) num.toNat
    let sc := g.info.levelScope lvl.toNat
    let put (t : State) (l : List BarReg) (b : Barrier) : State :=
      (t.modCore n fun c => { c with f := { c.f with bars := l } }).modGrid gid fun g => g.setBarrier b
    let mark (r : BarReg) (p : Option Nat) : List BarReg :=
      bars.map fun y => if y.lvl = r.lvl ∧ y.n = r.n then { r with arrived := p } else y
    let barj := Instr.barj lvl num
    let bar := Instr.bar d lvl num
    let barl := Instr.barl lvl num
    let barst := Instr.barst d lvl num
    let ended (b : Barrier) : Barrier := if b.a = b.g ∧ 0 < b.a then { b with a := 0, last := b.w, w := 0, p := b.p + 1 } else b
    (g.info.levels.length < lvl.toNat → ∀ i ∈ [barj, bar, barl, barst], Raises s i 0x1E 0) ∧
    (lvl.toNat ≤ g.info.levels.length →
      (4 ≤ bars.length ∨ bars.any key = true → Raises s barj 0x1E 0) ∧
      (bars.length < 4 → bars.any key = false →
        Retires s barj 4 (put s (bars ++ [{ lvl := lvl.toNat, n := num.toNat, arrived := none }]) { b with g := b.g + 1 })) ∧
      (bars.any key = false → ∀ i ∈ [bar, barl, barst], Raises s i 0x1E 0) ∧
      (∀ r, bars.find? key = some r →
        Writes s barst 4 d (BitVec.ofNat 64
          (b.w % 2 ^ 16 + b.a % 2 ^ 16 * 2 ^ 16 + b.g % 2 ^ 16 * 2 ^ 32 + b.p % 2 ^ 16 * 2 ^ 48)) ∧
        Retires s barl 4 (put s (bars.filter fun y => !key y)
          (ended { b with g := b.g - 1, a := if r.arrived = some b.p then b.a - 1 else b.a })) ∧
        (r.arrived = none → ¬ s.settles n .f sc → exec bar s = .next (s.drainAll n)) ∧
        (r.arrived = none → s.settles n .f sc →
          let b' := { b with a := b.a + 1 }
          (b'.a ≠ b.g → exec bar s = .next (put (s.released n sc) (mark r (some b.p)) b')) ∧
          (b'.a = b.g → Retires s bar 4
            (((put (s.released n sc) (mark r none) (ended b')).acquires n sc).writeG d (BitVec.ofNat 64 b.w)))) ∧
        (r.arrived = some b.p → Waits s bar) ∧
        (∀ p, r.arrived = some p → p ≠ b.p → Retires s bar 4
          (((s.modCore n fun c => { c with f := { c.f with bars := mark r none } }).acquires n sc).writeG d
            (BitVec.ofNat 64 b.last)))))

/-- LAUNCH queues a record at the scheduler of its die and returns the grid's number, or a busy code from 64 on (R179).
ABUMP takes room from an arena, and gives 0, or traps, where none is left (R181). MLD and MSLICE load a shape block and
slice it (R182, R183). FRESUME puts a fibre in the place of its firing (R184). PAIR and UNPAIR wait for the partner,
and then change both cores (R371).
That ABUMP reaches its table, and FRESUME the fibre area, as K does is the model's (log 49); grid numbers follow
log 9. -/
def Obligations.Task_services : Prop :=
  ∀ (s : State) (n : Nat) (x : Ctx) (d a : Reg) (arena i3 : BitVec 3) (md : Fin 16), s.alone n x →
    holds s.turn [d, a] = true →
    let c := s.core n
    let va := (s.readG a).toNat
    (x = .f →
      let i := Instr.launch d a
      let lperm := ((s.infoOf n).map (·.lperm)).getD false
      (s.priv = 0 → lperm = false → Raises s i 0x02 0) ∧
      (s.priv ≠ 0 ∨ lperm = true → va % 256 ≠ 0 → Raises s i 0x04 (s.readG a)) ∧
      (∀ p rc, s.priv ≠ 0 ∨ lperm = true → va % 256 = 0 → s.reaches n x false va 256 p rc → s.sound n x p 256 →
        s.claimed (p.add 128) = false → c.mem.buffer = [] → s.settles n x .sy →
        let record := (List.range 256).map fun k => s.readByte n x (p.add k)
        let die := dieOf n
        let id := s.freeGridId (s.grids.length + 257) s.nextGrid
        ∃ u, s.tracesOnly u n 2 ∧
          (64 ≤ (s.die die).launches.length → Retires s i 4 ((u.released n .sy).writeG d (BitVec.ofNat 64 (2 ^ 63)))) ∧
          ((s.die die).launches.length < 64 →
            let req : LaunchReq :=
              { record := writeGridAsid record id (c.sr.asid.toNat % 2 ^ 16),
                by_ := .device n (wordAt record 104), tenant := (s.infoOf n).map (·.tenant) }
            Retires s i 4 (State.writeG { ((u.released n .sy).modDie die fun y => { y with launches := y.launches ++ [req] })
              with nextGrid := (id + 1) % 2 ^ 32 } d (BitVec.ofNat 64 id))))) ∧
    (x = .f ∨ x = .h →
      let room := (s.infoOf n).bind fun i => (i.arenas[arena.toNat]?).map fun y => (i.arenaVa, y)
      let size := s.readG a
      (room = none → Retires s (.abump d a arena) 4 (s.writeG d 0) ∧ Raises s (.abumpT d a arena) 0x0D size) ∧
      (∀ table y, room = some (table, y) →
        let at_ := table.toNat + 32 * arena.toNat + 16
        ∀ pa rc unc, s.spot { s.viewer n x with user := false } true at_ = .at_ (.mem pa) rc unc →
        (s.claimed (.mem pa) = true ∨ s.claimed (.mem (pa + 7)) = true →
          Waits s (.abump d a arena) ∧ Waits s (.abumpT d a arena)) ∧
        (s.claimed (.mem pa) = false → s.claimed (.mem (pa + 7)) = false →
          (∀ j, j < 8 → s.isPoisoned n (.mem (pa + j)) = true →
            (∀ m, m < j → s.isPoisoned n (.mem (pa + m)) = false) →
            Raises s (.abump d a arena) 0x31 (BitVec.ofNat 64 (at_ + j)) ∧
            Raises s (.abumpT d a arena) 0x31 (BitVec.ofNat 64 (at_ + j))) ∧
          ((∀ j, j < 8 → s.isPoisoned n (.mem (pa + j)) = false) →
            let u := if homeDie pa = dieOf n then s else s.evictRdc (dieOf n) (pa / 128)
            let old := natOf (memGetList u.mem pa 8)
            let need := (size.toNat + 2 ^ y.align - 1) / 2 ^ y.align * 2 ^ y.align
            let new := bytesOf 8 (old + need)
            (y.size.toNat < old + need →
              Retires s (.abump d a arena) 4 (u.writeG d 0) ∧ Raises s (.abumpT d a arena) 0x0D size) ∧
            (old + need ≤ y.size.toNat →
              let t := if rc then u.writeRc (some { core := n, ctx := x }) none pa new else u.writeHome pa new
              let t := t.writeG d (y.base + BitVec.ofNat 64 old)
              Retires s (.abump d a arena) 4 t ∧ Retires s (.abumpT d a arena) 4 t))))) ∧
    (x = .f →
      let at_ (k : Nat) : Place := .scratch n (32 * i3.toNat + k)
      (s.claimed (at_ 0) = true → Waits s (.mld md i3)) ∧
      (∀ j, s.claimed (at_ 0) = false → j < 32 → s.bytePoisoned n .f (at_ j) = true →
        (∀ m, m < j → s.bytePoisoned n .f (at_ m) = false) →
        Raises s (.mld md i3) 0x31 (BitVec.ofNat 64 (0xFF000000000000 + s.lvlid0 n * 2 ^ 22 + 32 * i3.toNat + j))) ∧
      (s.claimed (at_ 0) = false → (∀ j, j < 32 → s.bytePoisoned n .f (at_ j) = false) →
        Retires s (.mld md i3) 4 (s.modCore n fun c =>
          { c with f :=
            { c.f with
              m := c.f.m.set md.val (BitVec.ofNat 256 (natOf ((List.range 32).map fun k => s.readByte n .f (at_ k)))) md.isLt
              mIdx := c.f.mIdx.set md.val (some i3.toNat) md.isLt } })) ∧
      (∀ info, s.infoOf n = some info →
        let l := i3.toNat
        let block := c.f.m.get md
        let cores := if l = 0 then 1 else 8 * info.teamsPerUnit l
        let parts := Nat.max (field block (32 + 28 * l) 16) 1
        let part := s.lvlid0 n % cores % parts
        let m := field block 0 31
        (info.levels.length < l → Raises s (.mslice d md i3) 0x1E 0) ∧
        (l ≤ info.levels.length →
          Writes s (.mslice d md i3) 4 d (BitVec.ofNat 64
            (if block.getLsbD (32 + 28 * l + 16) then
              2 ^ 63 + (if part < m then (m - part + parts - 1) / parts else 0) * 2 ^ 32 + part
            else
              (m / parts + (if part < m % parts then 1 else 0)) * 2 ^ 32 +
                (part * (m / parts) + Nat.min part (m % parts))))))) ∧
    (x = .f →
      let i := Instr.fresume a
      let still := c.f.l.ended = true ∧ c.f.s.ended = true ∧ ∀ q, c.f.q.get q = []
      (va ∉ s.fibreSlots n → Raises s i 0x13 (s.readG a)) ∧
      (va ∈ s.fibreSlots n → c.mem.buffer = [] →
        match s.reach (s.fibreViewer n .f) true va 16384 with
        | .ask g => exec i s = .next (g s)
        | .bad => Raises s i 0x13 (s.readG a)
        | .pages l => l.any (fun p => s.anyClaimed (.mem p.pa) p.len) = false →
          (∀ p ∈ l, ∀ k, k < p.len → s.bytePoisoned n .f (.mem (p.pa + k)) = false) →
          let bs := l.flatMap fun p => (List.range p.len).map fun k => s.readByte n .f (.mem (p.pa + k))
          let valid := natAt bs 0 1 % 2 = 1
          let k := c.fibreAt va
          let label := natAt bs 0x80 8
          (¬ valid → Raises s i 0x13 (s.readG a)) ∧
          (valid → ¬ still → Raises s i 0x09 0) ∧
          (valid → still → s.firingStreams n = true → exec i s = .next ((s.discardStreams (clusterOf n) fun j =>
            j.streams && j.cap.ofFiring s n).trapTurn 0x09 0)) ∧
          (valid → still → s.firingStreams n = false → (∀ j, j < 256 → s.bytePoisoned n .f (.scratch n j) = false) →
            ∃ t, exec i s = .next t ∧
              let c' := t.core n
              c'.firing = .slot (natAt bs 0x28 1 % 16) ∧
              (∀ r : Fin 32, r ≠ 0 → c'.fc.g.get r = wordAt bs (0x80 + 8 * r.val)) ∧
              (∀ r : Fin 32, c'.fc.v.get r = vwordOf (slice bs (0x1000 + 128 * r.val) 128)) ∧
              (∀ r : Fin 8, r ≠ 0 → c'.f.k.get r = BitVec.ofNat 128 (natAt bs (0x170 + 16 * r.val) 16)) ∧
              (∀ r : Fin 16,
                c'.f.l.g.get r = wordAt bs (0x200 + 8 * r.val) ∧ c'.f.s.g.get r = wordAt bs (0x280 + 8 * r.val)) ∧
              c'.f.l.pc = BitVec.ofNat 64 (natAt bs 0x12 2) ∧ c'.f.s.pc = BitVec.ofNat 64 (natAt bs 0x14 2) ∧
              c'.fc.priv = 0 ∧ c'.f.srseed = wordAt bs 0x20 ∧
              c'.f.fire = wordAt bs 0x28 &&& 0xFFFFFFFF3F ∧ c'.seq = c.seq ∧ c'.f.bars = k.bars ∧
              (k.gone = false → c'.fc.pc = BitVec.ofNat 64 (natAt bs 0x10 2) ∧ c'.sr.bstat = k.bstat) ∧
              (k.gone = true → label / 2 ^ 16 % 2 = 1 → label % 2 = 1 → natAt bs 0x16 1 % 2 = 0 →
                c'.fc.pc = BitVec.ofNat 64 (2 * (label / 2 % 2 ^ 15)) ∧ c'.sr.bstat = 0x30100) ∧
              (∀ p rest, l = p :: rest → homeDie p.pa = dieOf n →
                memGet t.mem p.pa = bs.getD 0 0 &&& 0xFE ∧
                  ∀ q, q ≠ p.pa → memGet t.mem q = memGet s.mem q)))) ∧
    (x = .f →
      let p := if n % 2 = 0 then n + 1 else n - 1
      let joins (m : Nat) : Option Bool := (s.core m).pair.joining
      (s.priv = 0 → Raises s .pair 0x02 0 ∧ Raises s .unpair 0x02 0) ∧
      (s.priv ≠ 0 → s.hasMode n .checked = true → Raises s .unpair 0x01 0) ∧
      (s.priv ≠ 0 → s.hasMode n .checked = false → GoesTo s .unpair (s.pc + 4)) ∧
      (s.priv ≠ 0 → joins p ≠ some true →
        (joins n = some true → Waits s .pair) ∧
        (joins n ≠ some true →
          exec .pair s = .next (s.modCore n fun c => { c with pair := { c.pair with joining := some true } }))) ∧
      (s.priv ≠ 0 → joins p = some true → (s.core p).paired = false →
        ∃ t, exec .pair s = .next t ∧ ∀ m, m = n ∨ m = p →
          let o := s.core m
          let o' := t.core m
          o'.paired = true ∧ flag o'.pair.ctl 2 = false ∧ flag o'.pair.ctl 3 = false ∧
          flag o'.pair.ctl 5 = decide (m % 2 = 1) ∧ o'.pair.joining = none ∧ o'.fc.pc = o.fc.pc + 4 ∧
          o'.pair.start = some { fc := o'.fc, f := o.f } ∧ { o'.fc with pc := o.fc.pc } = o.fc ∧
          { o' with fc := o.fc, pair := o.pair } = o)) ∧
    (∀ (m : Nat) (t : State), t.turn = .core m .f → t.priv ≠ 0 → (t.core m).paired = true →
      t.hasMode m .checked = false → (t.core m).intervalOpen = false →
      let p := if m % 2 = 0 then m + 1 else m - 1
      (t.core p).pair.joining = some false →
        ∃ u, exec .unpair t = .next u ∧ ∀ k, k = m ∨ k = p →
          let o := t.core k
          let o' := u.core k
          o'.paired = false ∧ flag o'.pair.ctl 2 = false ∧ flag o'.pair.ctl 5 = false ∧ o'.pair.start = none ∧
          o'.fc.pc = o.fc.pc + 4 ∧ { o'.fc with pc := o.fc.pc } = o.fc ∧ { o' with fc := o.fc, pair := o.pair } = o)

/-! ## Engines (R258 to R273, R297 to R314) and the copy unit (R321 to R334) -/

/-- An instruction that issues a BSE job and passes the checks of R300 queues the job that R302 to R306 give, with what
R301 captures. It waits while the core has 4 jobs; while the cluster has 32, or another core that waits comes first, it
joins those that wait (R295). A count, region or tile block against R286, R290, R293 or R298 raises 0x20, a stage against
R288 raises 0x21, a pair without its level 0x3D.
The scope of the release, a rejection's TVAL and the checks of BLDW.gexp are the model's (logs 27, 30,
71). -/
def Obligations.BSE_issue : Prop :=
  ∀ (s : State) (n : Nat) (d a b c : Reg) (f fb : Fmt) (mode : ChainMode) (bsn : Fin 16) (off : BitVec 16) (acc nsat : Bool)
    (rnd : Rnd) (sh : BitVec 5) (t : List Byte), s.alone n .f →
    let cl := s.cluster (clusterOf n)
    let room := s.bseOut n < 4 ∧ s.admitted n cl.bse.length cl.bseIn
    let core := s.core n
    let crowded (i : Instr) : Prop := (4 ≤ s.bseOut n → Waits s i) ∧
      (s.bseOut n < 4 → ¬ s.admitted n cl.bse.length cl.bseIn → exec i s = .next (s.modCluster (clusterOf n) fun c =>
        { c with bseIn := c.bseIn.join (n % 8, core.f.fire, core.fc.pc) }))
    let src := s.readG a
    let w := s.readG b
    let bytes := w.toNat % 2 ^ 19
    let pushed := pushSlot w
    let r := regionOf w
    let legal (bacc : Bool) : Prop := w.toNat / 2 ^ 57 = 0 ∧ w.getLsbD 50 = false ∧ (bacc = false → w.getLsbD 51 = false) ∧
      1 ≤ r.rows ∧ 1 ≤ r.cols ∧ r.cols ≤ 4096 ∧ r.base + r.rows * r.cols ≤ 196608
    let chains (i : Instr) (mode : ChainMode) (regs : List (Fin 16)) : Prop :=
      let stages := regs.map fun k => core.f.bs.get k
      let size := f.width / 8
      let shape := legal false ∧ ∃ k, k < 12 ∧ r.cols = 2 ^ (k + 1)
      crowded i ∧ (room → ¬ shape → Raises s i 0x20 0) ∧
      (room → shape → a = 0 ∨ windowAt src.toNat ≠ 0 ∨ src.toNat % size = 0 →
        (stages.all (stageLegal f r.cols) = false → Raises s i 0x21 0) ∧
        (stages.all (stageLegal f r.cols) = true →
          a = 0 ∨ windowAt src.toNat = 0 ∧ s.operandOk n false src.toNat (r.rows * r.cols * size) ∨
            1 ≤ windowAt src.toNat ∧ windowAt src.toNat ≤ 3 ∧ s.windowOk n src.toNat 0 (r.rows * r.cols) →
          IssuesBse s i n d (.chain f mode (if a = 0 then none else some src) r stages) pushed none (mode == .sr16)))
    let reads (i : Instr) (op : BaccOp) (f : Fmt) (rnd : Rnd) (nsat : Bool) (sh : Nat) (dst : Word) : Prop :=
      let clr := op = .clr
      let size := f.width / 8
      let raw := clr ∨ (op = .res ∨ op = .restake) ∧ f = .rns3
      crowded i ∧ (room → ¬ legal true → Raises s i 0x20 0) ∧
      (room → legal true → clr ∨ dst.toNat % size = 0 →
        (r.part = true → s.bindsPair n = false → Raises s i 0x3D 0) ∧
        ((r.part = true → s.bindsPair n = true) → clr ∨ s.operandOk n true dst.toNat (r.rows * r.cols * size) →
          IssuesBse s i n d (.readout op f rnd nsat sh dst r) pushed
            (if op = .clr then none else some (dst.toNat, r.rows * r.cols * size))
            (decide (modeOf rnd core.fc = 5) && !decide raw)))
    let tiles (i : Instr) (pair : Bool) : Prop :=
      let at_ := (s.readG c).toNat
      let wcfg := core.sr.wcfg
      let x := operandAt wcfg src.toNat f
      let y := operandAt wcfg w.toNat fb
      let side (o : Operand) (rows ld scale : Nat) : Prop :=
        let m := (rows - 1) * ld + natAt t 4 4
        let block := tileBlock o (windowConfig wcfg 4) (natAt t 52 1 % 2 == 1)
        if o.win = 0 then s.operandOk n false o.va ((m * o.fmt.width + 7) / 8) ∧
          (isBlockFmt o.fmt = true → s.operandOk n false scale (m / block))
        else ∀ k, k < rows → s.windowOk n o.va (k * ld) (natAt t 4 4)
      crowded i ∧ (room → at_ % 64 ≠ 0 → Raises s i 0x20 (s.readG c)) ∧
      (room → at_ % 64 = 0 → s.blockAt n at_ 64 t →
        let legal := tileLegal wcfg pair x y t = true ∧ tilePlaced s n pair src.toNat = true ∧
          tilePlaced s n pair w.toNat = true
        (¬ legal → Raises s i 0x20 0) ∧ (legal → pair = true → s.bindsPair n = false → Raises s i 0x3D 0) ∧
        (legal → (pair = true → s.bindsPair n = true) → side x (natAt t 0 2) (natAt t 8 4) (natAt t 32 8) →
          side y (natAt t 2 2) (natAt t 12 4) (natAt t 40 8) →
          IssuesBse s i n d (.tile pair f fb acc src w t)
            (if natAt t 53 1 / 16 % 2 = 1 then some (natAt t 53 1 % 16) else none) none false))
    (let i := Instr.bldw d a b off
     let shape := w.toNat / 2 ^ 57 = 0 ∧ w.toNat / 2 ^ 19 % 2 ^ 33 = 0 ∧ bytes % 16 = 0 ∧ 16 ≤ bytes ∧ bytes ≤ 262144 ∧
       16 * off.toNat + bytes ≤ 262144 ∧ src.toNat % 16 = 0
     crowded i ∧ (room → ¬ shape → Raises s i 0x20 0) ∧
     (room → shape → s.operandOk n false src.toNat bytes →
       IssuesBse s i n d (.load src bytes (16 * off.toNat)) pushed none false)) ∧
    (let i := Instr.bldwGexp d a b off
     let id := src.toNat % 65536
     let shape := w.toNat / 2 ^ 57 = 0 ∧ w.toNat % 2 ^ 52 = 0
     crowded i ∧ (room → ¬ shape → Raises s i 0x20 0) ∧
     (∀ j wf, room → shape → cl.gre.find? (fun j => j.id == id && j.cap.core == n) = some j → j.weightFormat = some wf →
       (∀ k ∈ cl.bse, ∀ o, k.cmd ≠ .loadGexp id o) → 16 * off.toNat + j.expandCount * (wf.width / 8) ≤ 262144 →
       IssuesBse s i n d (.loadGexp id (16 * off.toNat)) pushed none false)) ∧
    chains (.bstg f d a b bsn) .w [bsn] ∧
    chains (.bchn f mode d a b bsn) mode ((List.finRange 16).filter fun k => decide (k ≤ bsn)) ∧
    tiles (.bmma f fb acc d a b c) false ∧ tiles (.bmmap f fb acc d a b c) true ∧
    reads (.baccKeep f rnd nsat d a b) .keep f rnd nsat 0 src ∧ reads (.baccTake f rnd nsat d a b) .take f rnd nsat 0 src ∧
    reads (.baccClr d b) .clr .f32 .rne false 0 0 ∧
    reads (.baccRes f rnd nsat sh d a b) .res f rnd nsat sh.toNat src ∧
    reads (.baccRestake f rnd nsat sh d a b) .restake f rnd nsat sh.toNat src

/-- An instruction that issues a GRE job copies the descriptors that its operands name, makes the checks of R261 in
their order, and queues the job (R258 to R268): a misaligned or illegal grammar descriptor raises 0x24, an argument
block 0x27, a pairing 0x28, a queue that an outstanding GEXP fills 0x0A. It waits while the core has 4 jobs; while the
cluster has 32, or another core that waits comes first, it joins those that wait (R262).
The scope of the release and a rejection's TVAL are the model's (logs 27, 30). -/
def Obligations.GRE_issue : Prop :=
  ∀ (s : State) (n : Nat) (d a b c : Reg) (op : GOp) (q : QReg) (g block x : List Byte), s.alone n .f →
    let cl := s.cluster (clusterOf n)
    let room := s.greOut n < 4 ∧ s.admitted n cl.gre.length cl.greIn
    let gd := s.readG a
    let free := q.val < 4 ∧ s.gexpTargets n q = false
    ∀ (i : Instr) (cmd : GreCmd) (op' : GOp) (rrt : Word) (br : Reg) (queue : Bool),
      (i, cmd, op', rrt, br, queue) ∈
        [(Instr.geval op d a b c, GreCmd.eval, op, s.readG b, c, false), (.gred op d a b c, .red, op, s.readG b, c, false),
         (.gseek d a b, .seek, GOp.sum, 0, b, false), (.gpfx op d a b c, .pfx, op, s.readG b, c, false),
         (.gexpMemory d a b c, .expand (.memory (s.readG b)), .sum, 0, c, false),
         (.gexpQueue d a q c, .expand (.queue q), .sum, 0, c, true),
         (.gexpWp d a c, .expand .weightPort, .sum, 0, c, false), (.gmv op d a b c, .mv, op, s.readG b, c, false)] →
      let at_ := (s.readG br).toNat
      let kdot := cmd.folds = true ∧ op' = .kdot
      let xat := natAt block 8 8
      (queue = true → ¬ free → Raises s i 0x0A 0) ∧
      ((queue = true → free) →
        (4 ≤ s.greOut n → Waits s i) ∧
        (s.greOut n < 4 → ¬ s.admitted n cl.gre.length cl.greIn → exec i s = .next (s.modCluster (clusterOf n) fun c =>
          { c with greIn := c.greIn.join (n % 8, (s.core n).f.fire, (s.core n).fc.pc) })) ∧
        (room → gd.toNat % 64 ≠ 0 → Raises s i 0x24 gd) ∧
        (room → gd.toNat % 64 = 0 → s.blockAt n gd.toNat 64 g →
          (br ≠ 0 → at_ % 32 ≠ 0 → Raises s i 0x27 (s.readG br)) ∧
          ((if br = 0 then block = List.replicate 32 0 else at_ % 32 = 0 ∧ s.blockAt n at_ 32 block) →
            (kdot → xat % 16 ≠ 0 → Raises s i 0x27 (BitVec.ofNat 64 xat)) ∧
            ((if kdot then xat % 16 = 0 ∧ s.blockAt n xat 16 x else x = []) →
              (descriptorLegal g = false → Raises s i 0x24 0) ∧
              (descriptorLegal g = true → pairingLegal cmd op' (grammarOf g) (greArgsOf block) x = false →
                Raises s i 0x28 0) ∧
              (descriptorLegal g = true → pairingLegal cmd op' (grammarOf g) (greArgsOf block) x = true →
                (argumentsLegal cmd op' (grammarOf g) block x rrt.toNat = false → Raises s i 0x27 0) ∧
                (argumentsLegal cmd op' (grammarOf g) block x rrt.toNat = true → IssuesGre s i n d cmd op' g block x rrt))))))

/-- BSET writes a port register, BRST a label, and ends the hold (R303, R307). BWAIT and GWAIT wait for an outstanding job,
take its status, its flags and its acquire, and trap for a job that failed; BPOLL and GPOLL return at once, with STATE
4 for a job that runs; an unknown job reads 0 (R270 to R273, R309 to R312). -/
def Obligations.Engine_waits : Prop :=
  ∀ (s : State) (n : Nat) (d a : Reg) (k : Fin 16) (label : BitVec 15), s.alone n .f →
    let c := s.core n
    let v := s.readG a
    let id := v.toNat % 65536
    (v.toNat < 2 ^ 32 → v.toNat / 2 ^ 7 % 2 ^ 9 = 0 → Retires s (.bset k a) 8
      (s.setCore n { c with f := { c.f with bs := c.f.bs.set k.val (v.setWidth 32) k.isLt } })) ∧
    (2 ^ 32 ≤ v.toNat ∨ v.toNat / 2 ^ 7 % 2 ^ 9 ≠ 0 → Raises s (.bset k a) 0x21 0) ∧
    Retires s (.brst label) 8 (s.setCore n { c with f := { c.f with rstLabel := some label.toNat, holdsBse := false } }) ∧
    (let labelled (w : Word) : Word := setField w 8 1 c.f.rstLabel.isSome.toNat
     let done := c.jobs.bseDone.find? fun j => j.id == id
     let status (w : Word) (fl : Nat) (t : State) : State := t.modCore n fun c =>
       { c with sr := { c.sr with bstat := labelled w }, fc := { c.fc with fpstat := c.fc.fpstat ||| BitVec.ofNat 64 fl } }
     (s.bseRuns n id = true → Waits s (.bwait a) ∧
       Retires s (.bpoll d a) 8 ((status (4 * 65536) 0 s).writeG d (labelled (4 * 65536)))) ∧
     (s.bseRuns n id = false → done = none →
       Retires s (.bwait a) 8 (status 0 0 s) ∧ Retires s (.bpoll d a) 8 ((status 0 0 s).writeG d (labelled 0))) ∧
     (∀ j, s.bseRuns n id = false → done = some j →
       let u := (s.modCore n fun c => { c with jobs := { c.jobs with bseDone := c.jobs.bseDone.filter fun j => j.id != id } }).acquires
         n j.scope
       let t := status j.stat (j.flags % 256) u
       let state := field j.stat 16 3
       let hinted := state = 1 ∧ flag j.stat 9 = true ∧ c.fc.rnge = true
       (state = 2 ∨ state = 3 → exec (.bwait a) s = .next (t.trapKept 0x22 (BitVec.ofNat 64 id))) ∧
       (hinted → exec (.bwait a) s = .next (t.trapKept 0x3A (BitVec.ofNat 64 (field j.stat 19 45))) ∧
         exec (.bpoll d a) s = .next ((t.writeG d (labelled j.stat)).trapKept 0x3A (BitVec.ofNat 64 (field j.stat 19 45)))) ∧
       (state ≠ 2 → state ≠ 3 → ¬ hinted → Retires s (.bwait a) 8 t) ∧
       (¬ hinted → Retires s (.bpoll d a) 8 (t.writeG d (labelled j.stat))))) ∧
    (let done := c.jobs.greDone.find? fun j => j.id == id
     let status (w : Word) (fl : Nat) (t : State) : State := t.modCore n fun c =>
       { c with sr := { c.sr with gstat := w }, fc := { c.fc with fpstat := c.fc.fpstat ||| BitVec.ofNat 64 fl } }
     (s.greRuns n id = true → Waits s (.gwait a) ∧
       Retires s (.gpoll d a) 8 ((status (4 * 65536) 0 s).writeG d (4 * 65536))) ∧
     (s.greRuns n id = false → done = none →
       Retires s (.gwait a) 8 (status 0 0 s) ∧ Retires s (.gpoll d a) 8 ((status 0 0 s).writeG d 0)) ∧
     (∀ j, s.greRuns n id = false → done = some j →
       let u := (s.modCore n fun c => { c with jobs := { c.jobs with greDone := c.jobs.greDone.filter fun j => j.id != id } }).acquires
         n j.scope
       let t := status j.stat (j.flags % 256) u
       let failed := field j.stat 16 3 = 2 ∨ field j.stat 16 3 = 3
       (failed → exec (.gwait a) s = .next (t.trapKept 0x29 (BitVec.ofNat 64 id))) ∧
       (¬ failed → Retires s (.gwait a) 8 t) ∧ Retires s (.gpoll d a) 8 (t.writeG d j.stat)))

/-- CPYQ and CPYQB put a request into the FIFO after a release, with the next number of its channel; with 16 in it CPYQ
waits and CPYQB returns a busy code; RESUME and ABORT act on a delivered fault at once (R324, R329). CWAIT waits for a
number, CPOLL reports it with the channel's STALL and FAIL and clears FAIL; a number never issued raises 0x2A (R327).
The scope of the release is the model's (log 27). -/
def Obligations.Copy_requests : Prop :=
  ∀ (s : State) (n : Nat) (d a : Reg) (ch : BitVec 2), s.alone n .f →
    let c := s.core n
    let reg (k : Nat) : Word := s.readG (ix 31 (a.val + k))
    let w0 := reg 0
    let op := field w0 0 4
    let chan := field w0 8 2
    let legal := copyWordsLegal c w0 (reg 1) (reg 2) (reg 3) = true
    let lands := w0.getLsbD 12 = true
    let refused : Option Nat := match s.infoOf n with | some i => landingCause i w0 (reg 2) | none => some 0x2A
    let both (p : Instr → Prop) : Prop := p (.cpyq d a) ∧ p (.cpyqb d a)
    let sc : Scope := if s.hasMode n .remote then .sy else .dv
    (¬ legal → both fun i => Raises s i 0x2A 0) ∧
    (∀ e, legal → lands → refused = some e → both fun i => Raises s i e 0) ∧
    (legal → (lands → refused = none) →
      (op = 1 ∨ op = 2 → (reg 3).toNat % 32 ≠ 0 → both fun i => Raises s i 0x2C 0) ∧
      (op = 3 ∨ op = 4 →
        let id := ((c.chan chan).run.map fun t => t.req.id).getD 0
        both fun i => Retires s i 8
          ((if op = 3 then s.copyResume n chan else s.copyAbort n chan).writeG d (BitVec.ofNat 64 id))) ∧
      (op < 3 → (op = 0 ∨ (reg 3).toNat % 32 = 0) →
        (16 ≤ c.jobs.fifo.length →
          Waits s (.cpyq d a) ∧ Retires s (.cpyqb d a) 8 (s.writeG d (BitVec.ofNat 64 (2 ^ 63)))) ∧
        (c.jobs.fifo.length < 16 → s.settles n .f sc →
          let id := ((c.chan chan).issued + 1) % 2 ^ 32
          let req : CopyReq :=
            { id := id, user := decide (c.fc.priv = 0), asid := c.sr.asid, wcfg := c.sr.wcfg, w0 := w0,
              w1 := reg 1, w2 := reg 2, w3 := reg 3 }
          let t := (s.released n sc).modCore n fun c =>
            let k := ix 3 chan
            let chans := c.jobs.chans.set k.val { c.jobs.chans.get k with issued := id } k.isLt
            { c with jobs := { c.jobs with chans := chans, fifo := c.jobs.fifo ++ [req] } }
          both fun i => Retires s i 8 (t.writeG d (BitVec.ofNat 64 id))))) ∧
    (let k := c.chan ch.toNat
     let id := (s.readG a).toNat % 2 ^ 32
     let upTo (m : Nat) : Bool := decide ((m + 2 ^ 32 - id) % 2 ^ 32 < 2 ^ 31)
     (upTo k.issued = false →
       Raises s (.cwait a ch) 0x2A (BitVec.ofNat 64 id) ∧ Raises s (.cpoll d a ch) 0x2A (BitVec.ofNat 64 id)) ∧
     (upTo k.issued = true →
       (upTo k.done = false → Waits s (.cwait a ch)) ∧ (upTo k.done = true → Retires s (.cwait a ch) 8 (s.acquires n sc)) ∧
       (let t := if upTo k.done then s.acquires n sc else s
        Retires s (.cpoll d a ch) 8 ((t.modCore n fun c => c.modChan ch.toNat fun k => { k with fail := false }).writeG d
          (BitVec.ofNat 64 ((upTo k.done).toNat + k.stall.toNat * 2 + k.fail.toNat * 4)))))) ∧
    (∀ m j, let k := (s.core m).chan j
      (k.stall = true → k.dlv = true →
        (∃ t, exec (.copyResume m j) s = .next t ∧ t.mem = s.mem ∧ (∀ o, o ≠ m → t.core o = s.core o) ∧
          t.core m = (s.core m).modChan j fun k => { k with stall := false, dlv := false }) ∧
        (∃ t, exec (.copyAbort m j) s = .next t ∧ t.mem = s.mem ∧ (∀ o, o ≠ m → t.core o = s.core o) ∧
          t.core m = (s.core m).modChan j fun k => k.failRun 0x2B)) ∧
      (k.stall = false ∨ k.dlv = false → exec (.copyResume m j) s = .next s ∧ exec (.copyAbort m j) s = .next s))

/-! ## Walks (R206 to R214) -/

/-- A walk starts with the address, the root, the request and the ASID in its registers, at most 256 at once (R210, R211);
WLDP reads a doubleword of memory at its home (R213); WRET installs the leaf for every cluster that waits and has not
removed it since (R89, R214), at most 4,096 to a cluster, and for an RC page reserves its blocks (R206, R208, R337), or
reports that there is none. A walk that traps, or runs for 1,024 instructions, fails for all who wait.
Poison and a reserved leaf fail a walk (log 73); a block keeps its first grid (log 64). -/
def Obligations.Walks : Prop :=
  ∀ (s : State) (d tid : Nat) (a b : Reg) (th : Thread),
    let gone (t : State) : Prop := (t.die d).threads = (s.die d).threads.filter fun u => u.tid != tid
    let fails (t : State) (w : WalkReq) (f : WalkFail) : Prop :=
      ∀ c, (t.cluster c).fails =
        (s.cluster c).fails ++ (w.waiters.filter fun r => r.cluster == c).map fun r => (r, w.va, f)
    (s.turn = .walker d tid → s.thread d tid = some th →
      let pa := (s.readG b).toNat
      let w := th.req
      let leaf := s.readG a
      let comp := s.readG b
      let backed := pa % 8 = 0 ∧ isFabric pa = false ∧ absent s pa = false
      (holds s.turn [a, b] = true →
        (¬ backed → Raises s (.wldp a b) 0x18 0) ∧
        (backed → s.claimed (.mem pa) = true → Waits s (.wldp a b)) ∧
        (backed → s.claimed (.mem pa) = false → (∀ i, i < 8 → (pa + i) / 8 ∉ s.poison) →
          Writes s (.wldp a b) 8 a (BitVec.ofNat 64 (natOf ((List.range 8).map fun i => memGet s.mem (pa + i))))) ∧
        (backed → s.claimed (.mem pa) = false → pa / 8 ∈ s.poison → Raises s (.wldp a b) 0x18 0) ∧
        (leaf.getLsbD 0 = false → ∃ t, exec (.wret a b) s = .next t ∧ gone t ∧ fails t w .absent ∧ t.mem = s.mem) ∧
        (∀ size, leaf.getLsbD 0 = true → [some 12, some 16, some 21, some 25, some 30][comp.toNat % 8]? = some (some size) →
          s.leafLegal leaf comp size = true →
          let page := field leaf 12 40 * 4096 / 2 ^ size * 2 ^ size
          let e : TlbEntry :=
            { va := w.va / 2 ^ size * 2 ^ size, size := size, asid := w.asid.toNat % 2 ^ 16, leaf := leaf, comp := comp }
          let keeps := comp.getLsbD 26 = true ∧ isFabric page = false ∧ w.grid.isSome = true
          let waits := w.clusters.filter fun c => !w.cancelled c e
          let installed (t : State) : Prop := ∀ c,
            let l := (s.cluster c).tlb ++ [e]
            (t.cluster c).tlb = if c ∈ waits then l.drop (l.length - 4096) else (s.cluster c).tlb
          (waits = [] → ∃ t, exec (.wret a b) s = .next t ∧ gone t ∧ (∀ c, t.cluster c = s.cluster c)) ∧
          (waits ≠ [] → ¬ keeps →
            ∃ t, exec (.wret a b) s = .next t ∧ gone t ∧ installed t ∧ t.mem = s.mem ∧ t.keep = s.keep) ∧
          (waits ≠ [] → keeps →
            let new := s.unreserved page size
            (s.keepRoom new = false → ∃ t, exec (.wret a b) s = .next t ∧ gone t ∧ fails t w .noKeep) ∧
            (s.keepRoom new = true →
              ∃ t, exec (.wret a b) s = .next t ∧ gone t ∧ installed t ∧ t.mem = s.mem ∧
                t.keep.blocks.map (fun k => (k.pa, some k.grid)) =
                  s.keep.blocks.map (fun k => (k.pa, some k.grid)) ++ new.map fun k => (k, w.grid)))) ∧
        (leaf.getLsbD 0 = true → 5 ≤ comp.toNat % 8 → Raises s (.wret a b) 0x18 0))) ∧
    (∀ c v, s.turn = .walker d tid → s.thread d tid = some th →
      ∃ t, s.trapTurn c v = t ∧ gone t ∧ fails t th.req .routine ∧ t.mem = s.mem) ∧
    (s.thread d tid = some th → 1024 ≤ th.count →
      ∃ t, exec (.walkLimitExceeded d tid) s = .next t ∧ gone t ∧ fails t th.req .routine) ∧
    (s.thread d tid = some th → th.count < 1024 → exec (.walkLimitExceeded d tid) s = .next s) ∧
    (∀ w rest, (s.die d).walks = w :: rest → (s.die d).threads.length < 256 →
      let bs := memGetList s.mem ((s.die d).table + 16 * (w.asid.toNat % 2 ^ 16)) 16
      let entry := natAt bs 8 8
      (entry / 2 ^ 16 = 1 →
        ∃ t th', exec (.tlbMissWalk d) s = .next t ∧ (t.die d).walks = rest ∧ t.mem = s.mem ∧
          (t.die d).threads = (s.die d).threads ++ [th'] ∧ th'.req = w ∧ th'.tid = (s.die d).nextTid ∧
          th'.pc = BitVec.ofNat 64 (entry % 2 ^ 16) ∧ th'.count = 0 ∧ th'.scratch = [] ∧
          ∀ r : Fin 16, th'.g.get r =
            if r = 3 then BitVec.ofNat 64 w.va else if r = 4 then BitVec.ofNat 64 (natAt bs 0 8)
            else if r = 5 then BitVec.ofNat 64 (w.log % 2 ^ 24 * 2 ^ 32 + (if w.user then 4 else 0) + w.kind)
            else if r = 6 then BitVec.ofNat 64 (w.asid.toNat % 2 ^ 24) else 0) ∧
      (entry / 2 ^ 16 ≠ 1 →
        ∃ t, exec (.tlbMissWalk d) s = .next t ∧ (t.die d).walks = rest ∧ fails t w .routine)) ∧
    ((s.die d).walks = [] ∨ 256 ≤ (s.die d).threads.length → exec (.tlbMissWalk d) s = .next s)

/-! ## Recovery points (R335 to R350) -/

/-- RPSEAL waits for its context's RC writes, asks for a seal, and takes its result into RPSTAT and `d`; `.t` traps on a
refusal (R344). A decision refuses below the expected count or with RPEND, and cuts otherwise; twelve prepare records
make a commit record; the flip makes the pending slots current and counts the sequence up; an abandoned seal gives its
count back (R345). The Keep applies a write to the pending slot, held while a seal holds the block (R338, R346), and a
release whose writes are acknowledged counts once (R339).
Which waiting seal comes next is free, and the flip is one step (logs 78, 79). -/
def Obligations.Seals : Prop :=
  ∀ (s : State) (n : Nat) (x : Ctx) (d a : Reg) (p : Place) (rc : Bool) (gid : Nat) (g : Grid),
    (s.alone n x → x = .f ∨ x = .h ∨ x = .d → holds s.turn [d, a] = true →
      let c := s.core n
      let va := (s.readG a).toNat
      let both (q : Instr → Prop) : Prop := q (.rpseal d a) ∧ q (.rpsealT d a)
      (s.hasMode n .recoverable = false → both fun i => Raises s i 0x2E 0) ∧
      (s.hasMode n .recoverable = true → va % 16 ≠ 0 → both fun i => Raises s i 0x04 (s.readG a)) ∧
      (s.hasMode n .recoverable = true → va % 16 = 0 → s.reaches n x false va 16 p rc → s.sound n x p 16 →
        let quiet := s.rcPending { core := n, ctx := x } = false
        let resume := (List.range 16).map fun k => s.readByte n x (p.add k)
        (¬ quiet → both fun i => exec i s = .next (s.drainAll n)) ∧
        (quiet → c.waits.sealOf = none →
          let first : Option Nat := match s.gridOf n with
            | some g => if g.recov.sealer.isSome then none else some (g.quantum + 1)
            | none => some 0
          let w : SealWait := { ctxs := [x], resume := resume, phase := .waiting, quantum := first, residents := [] }
          both fun i => exec i s = .next (s.setCore n { c with
            waits := { c.waits with sealOf := some w }, sr := { c.sr with rpstat := setField c.sr.rpstat 0 4 1 } })) ∧
        (∀ w, quiet → c.waits.sealOf = some w →
          (w.ctxs.contains x = true → (∀ v, w.phase ≠ .done v) → both fun i => Waits s i) ∧
          (w.ctxs.contains x = false → (∀ v, w.phase ≠ .done v) →
            both fun i => exec i s = .next (s.setCore n { c with
              waits := { c.waits with sealOf := some { w with ctxs := w.ctxs ++ [x] } } })) ∧
          (∀ v, w.ctxs.contains x = false → w.phase = .done v → both fun i => Waits s i) ∧
          (∀ v, w.ctxs.contains x = true → w.phase = .done v →
            let left := w.ctxs.filter fun y => decide (y ≠ x)
            ∃ u, s.tracesOnly u n 1 ∧
              let t := (u.setCore n { c with
                waits := { c.waits with sealOf := if left = [] then none else some { w with ctxs := left } },
                sr := { c.sr with rpstat := setField v 8 1 0 } }).writeG d v
              Retires s (.rpseal d a) 4 t ∧
              (field v 0 4 ≠ 4 → Retires s (.rpsealT d a) 4 t) ∧
              (field v 0 4 = 4 → exec (.rpsealT d a) s =
                .next (t.trapKept (if v.getLsbD 8 then 0x30 else 0x2F) (BitVec.ofNat 64 (field v 16 16)))))))) ∧
    (s.grid gid = some g →
      let r := g.recov
      let ws := s.ripeSeals g
      ((∀ m ∈ s.waitingSeals g, ∀ w, (s.core m).waits.sealOf = some w → w.awaitsTeams g = true) →
        exec (.sealDecision gid) s = .next s) ∧
      (∀ m, r.sealer = none → r.restore = false → ws[Config.freeIndex s.fresh % Nat.max 1 ws.length]? = some m →
        m ∈ s.waitingSeals g ∧ ∃ w, (s.core m).waits.sealOf = some w ∧ w.awaitsTeams g = false ∧
          let u : State := { s with fresh := s.fresh + 1 }
          (r.rpend = true ∨ r.count < r.expect →
            exec (.sealDecision gid) s = .next (u.finishSeal gid (u.lvlid0 m) 4 r.count)) ∧
          (r.rpend = false → r.expect ≤ r.count → exec (.sealDecision gid) s = .next (u.cutSeal gid m w))) ∧
      (∀ m w, let t := s.cutSeal gid m w
        (t.keep.blocks = s.keep.blocks.map fun b => if b.grid = gid then { b with inSet := b.pend } else b) ∧
          (t.grid gid).map (·.recov) = some { r with
            sealer := some (s.lvlid0 m), cut := r.count, count := 0, resume := w.resume, prepared := [], commit := false }) ∧
      (∀ ctrl, r.sealer.isSome = true → r.commit = false → ctrl < 12 → (∀ q ∈ r.prepared, q.1 ≠ ctrl) →
        let set_ := s.keep.setOf gid ctrl
        let record := prepareRecord gid ctrl (r.seq + 1) set_.length (setDigest set_)
        ∃ t, exec (.sealPrepare gid ctrl) s = .next t ∧
          t.keep.logs = (s.keep.logs.filter fun l => !(l.1 == ctrl && isPrepare gid (r.seq + 1) l)) ++ [(ctrl, record)] ∧
          (t.grid gid).map (·.recov) = some { r with prepared := r.prepared ++ [(ctrl, setDigest set_)] } ∧ t.mem = s.mem) ∧
      (r.sealer.isSome = true → r.commit = false → r.prepared.length = 12 →
        ∃ t, exec (.sealCommit gid) s = .next t ∧ t.keep.logs = s.keep.logs ++ [(0, r.commitRecord gid)] ∧
          (t.grid gid).map (·.recov) = some { r with commit := true, last := r.commitRecord gid } ∧ t.mem = s.mem) ∧
      (∀ m, r.sealer = some m → r.commit = true →
        ∃ t, exec (.sealFlip gid) s = .next t ∧
          t.keep.blocks = (s.keep.blocks.map fun b =>
            if b.grid = gid ∧ b.inSet = true then { b with cur := !b.cur, pend := false, inSet := false } else b) ∧
          (t.grid gid).map (·.recov) = some { r with
            seq := r.seq + 1, digest := sm3 r.last, sealer := none, commit := false, prepared := [] } ∧ t.mem = s.mem) ∧
      (∀ m, r.sealer = some m → r.commit = false →
        ∃ t, exec (.sealAbandon gid) s = .next t ∧
          t.keep.blocks = (s.keep.blocks.map fun b => if b.grid = gid then { b with inSet := false } else b) ∧
          (t.grid gid).map (·.recov) = some { r with
            count := Nat.min (r.count + r.cut) 65535, sealer := none, prepared := [] } ∧ t.mem = s.mem) ∧
      (r.sealer = none → r.commit = false → ∀ i ∈ [Instr.sealCommit gid, .sealFlip gid, .sealAbandon gid],
        exec i s = .next s)) ∧
    (∀ ctrl,
      let mine := s.keep.msgs.find? fun m => m.ctrl == ctrl && !s.keep.holds m
      (mine = none → exec (.keepWrite ctrl) s = .next s) ∧
      (∀ m, mine = some m → exec (.keepWrite ctrl) s = .next { s with keep := s.keep.apply m }) ∧
      ∀ (b : KeepBlock) (o : Nat) (bs : List Byte),
        let b' := b.write o bs
        let old := if b.pend = b.cur then b.slot0 else b.slot1
        b'.pend = true ∧ b'.cur = b.cur ∧ (if b.cur then b'.slot1 = b.slot1 else b'.slot0 = b.slot0) ∧
          ∀ k, memGet (if b.cur then b'.slot0 else b'.slot1) k =
            if o ≤ k ∧ k < o + bs.length then bs.getD (k - o) 0 else memGet old k) ∧
    (let c := s.core n
     let counts := (∃ w ∈ c.waits.rcRel, w.ctx = x ∧ w.done = false) ∧ s.rcPending { core := n, ctx := x } = false
     (¬ counts → exec (.rcReleaseComplete n x) s = .next s) ∧
     (counts → c.ident.grid = some gid → s.grid gid = some g →
       ∃ t, exec (.rcReleaseComplete n x) s = .next t ∧
         (t.core n).waits.rcRel = (c.waits.rcRel.map fun w => if w.ctx = x then { w with done := true } else w) ∧
         (t.grid gid).map (·.recov) = some { g.recov with count := Nat.min (g.recov.count + 1) 65535 } ∧ t.mem = s.mem))

/-- RPRESTORE (R350): U raises 0x02; an unknown grid, or one that is not recoverable, gives 4; a seal under way comes
first, as do walks of the pages that the restore reaches and stores that wait for other jobs' lines. Otherwise every
firing and activation of the grid is killed, every block that has been written since the last point reads as its current
slot again, messages and held stores of the grid's cores are dropped, counts and RPEND are cleared, and `d` and RPSTAT say
whether a torn point was found and whether the grid starts from its initial records.
That the firing which executes RPRESTORE is killed with its grid is the model's reading (log 37). -/
def Obligations.Restore : Prop :=
  ∀ (s : State) (n : Nat) (x : Ctx) (d a : Reg), s.alone n x → x = .f ∨ x = .h ∨ x = .d → holds s.turn [d, a] = true →
    let gid := (s.readG a).toNat % 2 ^ 32
    (s.priv = 0 → Raises s (.rprestore d a) 0x02 0) ∧
    (s.priv ≠ 0 → ((s.grid gid).all fun g => !g.info.has .recoverable) = true → Writes s (.rprestore d a) 4 d 4) ∧
    (∀ g, s.priv ≠ 0 → s.grid gid = some g → g.info.has .recoverable = true →
      (∀ m, g.recov.sealer = some m →
        exec (.rprestore d a) s = .next (s.setGrid gid { g with recov := { g.recov with restore := true } })) ∧
      (∀ f, g.recov.sealer = none → s.restorePages (dieOf n) g = .error f →
        exec (.rprestore d a) s = .next (f (s.setGrid gid { g with recov := { g.recov with restore := true } }))) ∧
      (∀ p, g.recov.sealer = none → s.restorePages (dieOf n) g = .ok p → s.mayStop g = false →
        exec (.rprestore d a) s = .next ((s.drainGrid g).modRecovery gid fun r => { r with restore := true })) ∧
      (∀ p, g.recov.sealer = none → s.restorePages (dieOf n) g = .ok p → s.mayStop g = true →
        (s.keep.blocks.map (·.pa)).Nodup → (∀ b ∈ s.keep.blocks, b.pa % 65536 = 0) →
        (∀ b ∈ s.keep.blocks, ∀ o ∈ (if b.cur then b.slot1 else b.slot0).map (·.1), o < 65536) →
        ∃ t r, exec (.rprestore d a) s = .next t ∧
          r / 2 = (if g.recov.seq = 0 then 1 else 0) ∧ t.readG d = (if d = 0 then 0 else BitVec.ofNat 64 r) ∧
          field (t.core n).sr.rpstat 0 4 = 5 ∧ (t.core n).sr.rpstat.getLsbD 7 = decide (r % 2 = 1) ∧
          (∀ b ∈ s.keep.blocks, b.grid = gid → b.pend = true → ∀ o, o < 65536 →
            memGet t.mem (b.pa + o) = memGet (if b.cur then b.slot1 else b.slot0) o) ∧
          (∀ m, m ∈ g.cores → (t.core m).firing = .idle ∧ (t.core m).hAct = none ∧ (t.core m).dAct = none ∧
            (t.core m).inbox = [] ∧ (t.core m).mem.gate = []) ∧
          (t.grid gid).map (fun g => (g.recov.count, g.recov.rpend, g.recov.seq)) = some (0, false, g.recov.seq)))

/-! ## Launches, firings, steals (R7, R147 to R154, R158, R234) -/

/-- HOST_DOORBELL reads the new entries of a command queue, as many as the scheduler has room for (R234). LAUNCH_START
takes of the launches of highest priority the oldest: an invalid record completes with 0x3C; a valid one starts on free
clusters of the number it asks for, its first teams placed, its cores bound with the images, identities and tables that
it names, and USED of every arena 0 (R7, R158, R180, R200, R201). GRID_COMPLETION reports a grid that has finished, and
frees it, or writes the record of one that a device-side LAUNCH named (R9).
The order of the launches, how a scheduler reaches tables and the record, zero fields, the layout of a queue's entries and
of a completion, and a number in use are the model's (logs 31 to 33, 49, 51 to 55, 92). -/
def Obligations.Launches : Prop :=
  ∀ (s : State) (die io qp value gid : Nat) (clusters : List Nat) (q : IoQueue) (r : LaunchReq) (g : Grid),
    ((s.ioCore die io).queue qp = some q → q.entries ≠ 0 → q.next < value →
      let k := Nat.min (value - q.next) (64 - (s.die die).launches.length)
      Happens s (.hostDoorbell die io qp value) fun t =>
        (t.die die).launches = (s.die die).launches ++ ((List.range k).map fun i =>
          ({ record := memGetList s.mem (q.base + 256 * ((q.next + i) % q.entries)) 256, by_ := .queue die io q.qp,
             tenant := none } : LaunchReq)) ∧
        ((t.ioCore die io).queue qp).map (·.next) = some (q.next + k) ∧ t.mem = s.mem) ∧
    ((s.ioCore die io).queue qp = some q → value ≤ q.next → Nothing s (.hostDoorbell die io qp value)) ∧
    (FirstBest (s.die die).launches (fun _ => True) (fun x => recordField x.record 0 6 2) r →
      let id := recordField r.record 0 32 32
      let v := launchViewer die (recordAsid r.record)
      let ready := (s.die die).inReset = false ∧ s.firmwareRuns = true
      let arenas := natAt r.record 40 8
      let invalid : Prop := Happens s (.launchStart die clusters) fun t =>
        s.reported t r.by_ (recordAsid r.record) id 0x3C ∧ (t.die die).launches = (s.die die).launches.erase r ∧
          t.mem = s.atHome.mem ∧ t.grids = s.grids ∧ t.cores = s.cores
      (¬ ready → Nothing s (.launchStart die clusters)) ∧
      (∀ f, ready → s.tablesOf v r.record = .error (some f) → exec (.launchStart die clusters) s = .next (f s)) ∧
      (ready → s.tablesOf v r.record = .error none → invalid) ∧
      (∀ tables, ready → s.tablesOf v r.record = .ok tables →
        (launchLegal r.record tables r.tenant = false → invalid) ∧
        (∀ f, launchLegal r.record tables r.tenant = true → s.loadOf v tables arenas = .error (some f) →
          exec (.launchStart die clusters) s = .next (f s)) ∧
        (launchLegal r.record tables r.tenant = true → s.loadOf v tables arenas = .error none → invalid)) ∧
      (∀ tables load, ready → s.tablesOf v r.record = .ok tables → s.loadOf v tables arenas = .ok load →
        let info := launchInfo r.record tables load
        let n := Nat.min info.clusters clusters.length
        launchLegal r.record tables r.tenant = true → s.grid id = none →
        clusters.length = recordField r.record 8 32 16 → clusters.Nodup → (∀ c ∈ clusters, s.clusterFree c = true) →
        info.placedLegal ((List.range n).map fun k => (k, clusters.getD k 0)) = true →
        Happens s (.launchStart die clusters) fun t =>
          (t.die die).launches = (s.die die).launches.erase r ∧ t.results = s.results ∧
          (∃ g, t.grid id = some g ∧ g.info = info ∧ g.granted = clusters ∧ g.by_ = r.by_ ∧ g.quantum = 0 ∧
            g.failed = none ∧ g.barriers = [] ∧ (∀ k, k < n → sget g.place k = clusters[k]?) ∧
            (∀ k, n ≤ k → k < info.clusters → sget g.place k = none ∧ (sget g.saved k).isSome = true)) ∧
          (∀ k c j, k < n → clusters[k]? = some c → j < 8 →
            let b := t.core (8 * c + j)
            b.ident.grid = some id ∧ b.ident.log = k ∧ b.ident.lvlid = info.lvlids (8 * k + j) ∧ b.firing = .idle ∧
            b.stores = load.stores ∧ b.sr.wcfg = tables.wcfg ∧ b.sr.tvec = info.tvec ∧ b.sr.uvec = info.uvec ∧
            b.sr.asid = BitVec.ofNat 64 (info.tenant * 2 ^ 16 + info.asid) ∧ b.fc.status = info.status ∧
            b.paired = info.has .checked ∧ memGetList b.mem.scratch 0 256 = tables.shape) ∧
          ((∀ p ∈ (s.die die).rdc, p.2.dirty = []) →
            ∀ p ∈ load.used.flatten, ∀ i, i < p.len → memGet t.mem (p.pa + i) = 0))) ∧
    (s.grid gid = some g →
      (s.gridDone gid g = true →
        Happens s (.gridCompletion gid) fun t =>
          s.reported t g.by_ g.info.asidReg gid (g.failed.getD 0) ∧ t.grid gid = none ∧
          (∀ n ∈ g.cores, { t.core n with mem := Core.reset.mem } = Core.reset) ∧ ∀ b ∈ t.keep.blocks, b.grid ≠ gid) ∧
      (s.gridDone gid g = false → Nothing s (.gridCompletion gid))) ∧
    (s.grid gid = none → (∀ o ∈ s.owed, o.grid ≠ gid) → Nothing s (.gridCompletion gid)) ∧
    (∀ o, s.grid gid = none → s.owed.find? (fun o => o.grid == gid) = some o →
      let bs := Config.completionBytes o.grid o.cause
      let pages := s.gatherPages (launchViewer (dieOf o.core) o.asid) true o.target.toNat bs.length
      ((s.die (dieOf o.core)).inReset = true → Nothing s (.gridCompletion gid)) ∧
      ((s.die (dieOf o.core)).inReset = false →
        (∀ f, pages = .error (some f) → exec (.gridCompletion gid) s = .next (f s)) ∧
        (pages = .error none → Happens s (.gridCompletion gid) fun t => t.owed = s.owed.erase o ∧ t.mem = s.mem) ∧
        (∀ p, pages = .ok [p] → (∀ q ∈ (s.die (dieOf o.core)).rdc, q.2.dirty = []) →
          Happens s (.gridCompletion gid) fun t => t.owed = s.owed.erase o ∧ memGetList t.mem p.pa bs.length = bs)))

/-- FIRING_START selects among the ready stages: one passed over 64 times first, then the highest priority, then the
longest ready (R150); the firing takes its records from the head of the deque (R151). FIRING_RETIRE ends a firing whose
streams have ended and whose queues are empty, and withdraws its registrations (R152, R176); with an entry or a mark left
F raises 0x09. FIRING_WATCHDOG brings 0x39 where every stream that runs waits on a queue (R153), and WFI_TIMEOUT ends a
WFI (R86). What an ended firing leaves in its registers is the model's (log 89).

STEAL_REQUEST asks the next victim of a thief's round, its own cluster first, and ends a round without a further one;
STEAL_ANSWER gives the thief exactly c unpinned records from the tail of the victim's stage of highest priority that may
give them, which the thief fires at once, or a refusal; after 256 clocks a new round starts (R154, R155). -/
def Obligations.Firings : Prop :=
  (∀ (s : State) (n : Nat) (i : LaunchInfo) (st : Stage), (s.core n).paired = false →
    let c := s.core n
    let w := ((s.refreshReady n).core n).work
    let k : Fin 16 := ix 15 st.slot
    let prio (j : Nat) : Nat := ((i.stage j).map (·.prio)).getD 0
    let starved (j : Nat) : Prop := 64 ≤ w.passed.get (ix 15 j)
    let stalls (x : Ctx) : Prop := c.f.stalls.get (ix 2 (streamNo x)) = some (c.pc x)
    (s.inService n = true → c.firing = .idle → s.infoOf n = some i → i.stage st.slot = some st → st.slot < 16 →
      1 ≤ st.rate → st.rate ≤ 4 →
      (starved st.slot ∧ st.slot ∈ w.ready ∧ ∀ j ∈ w.ready, starved j → st.slot ≤ j) ∨
        ((∀ j ∈ w.ready, ¬ starved j) ∧ FirstBest w.ready (fun _ => True) prio st.slot) →
      Happens s (.firingStart n) fun t =>
        let u := t.core n
        c.fires u i st ((c.work.deques.get k).take st.rate).reverse ∧
        u.work.deques.get k = (c.work.deques.get k).drop st.rate ∧ c.otherDeques u k ∧ u.work.passed.get k = 0 ∧
        { t with cores := s.cores, dies := s.dies } = s ∧ (∀ m, m ≠ n → t.core m = s.core m) ∧ u.mem = c.mem ∧
        u.sr = c.sr ∧ u.inbox = c.inbox ∧ u.hc = c.hc ∧ u.dc = c.dc ∧ u.jobs = c.jobs) ∧
    (c.firing ≠ .idle → c.fc.inTrap = false → c.f.cEnded = true → c.f.l.ended = true → c.f.s.ended = true →
      let outstanding := s.firingStreams n
      let empty := ∀ q, c.f.q.get q = []
      (outstanding = false → empty →
        Happens s (.firingRetire n) fun t =>
          let u := t.core n
          u.firing = .idle ∧ u.fc = { c.fc with inTrap := false } ∧ u.wfi = false ∧
          u.f = { c.f with
            l := { c.f.l with walk := none }, s := { c.f.s with walk := none }, q := Vector.replicate 8 [], held := false,
            heldPc := 0, rstLabel := none, holdsBse := false, pushes := Vector.replicate 16 0, bars := [],
            stalls := Vector.replicate 3 none } ∧ u.work = c.work ∧ u.mem = c.mem ∧
          u.jobs = c.jobs ∧ (∀ m, m ≠ n → t.core m = s.core m) ∧ t.mem = s.mem ∧ t.clusters = s.clusters ∧
          ∀ b, c.f.bars = [b] → (s.gridOf n).isSome = true →
            t.barrierOf n b.lvl b.n = (s.barrierOf n b.lvl b.n).withdraw b.arrived) ∧
      (outstanding = true ∨ ¬ empty →
        Happens s (.firingRetire n) fun t =>
          (t.core n).fc = c.fc.enterTrap c.sr.tvec c.fc.pc 0 0x09 0 ∧ (t.core n).firing = c.firing)) ∧
    (c.firing = .idle ∨ c.f.cEnded = false ∨ c.f.l.ended = false ∨ c.f.s.ended = false → Nothing s (.firingRetire n)) ∧
    (c.firing ≠ .idle → c.fc.inTrap = false → (c.f.cEnded = false ∨ c.f.l.ended = false ∨ c.f.s.ended = false) →
      (c.f.cEnded = true ∨ stalls .f) → (c.f.l.ended = true ∨ stalls .l) → (c.f.s.ended = true ∨ stalls .s) →
      exec (.firingWatchdog n) s =
        .next (s.setCore n { c with notices := c.notices ++ [{ cause := 0x39, tval := 0 }] })) ∧
    exec (.wfiTimeout n) s = .next (s.setCore n { c with wfi := false })) ∧
  (∀ (s : State) (n k v : Nat) (g : Grid) (x : Stage), (s.core n).paired = false →
    let c := s.core n
    let u := s.refreshReady n
    let st := c.work.steal
    let me := s.lvlid0 n
    (u.thieving n = true → st.asked = none → st.failed = false →
      (st.tried < 7 →
        Happens s (.stealRequest n) fun t =>
          (t.core n).work.steal = { st with asked := some (8 * (me / 8) + (me + 1 + st.tried) % 8) } ∧
          (t.core n).work.deques = c.work.deques ∧ s.coreOnly t n) ∧
      ((u.victims n)[st.tried]? = none →
        Happens s (.stealRequest n) fun t =>
          (t.core n).work.steal = { st with failed := true } ∧ (t.core n).work.deques = c.work.deques ∧ s.coreOnly t n)) ∧
    (st.asked = some v → s.gridOf n = some g →
      let refused := s.setCore n (c.setSteal { st with asked := none, tried := st.tried + 1 })
      (g.coreOf v = none → exec (.stealAnswer n) s = .next refused) ∧
      (g.coreOf v = some k → (s.core k).paired = false → k ≠ n → s.thieving n = true → dieOf k = dieOf n →
        let d (y : Stage) : List Rec := (s.core k).work.deques.get (ix 15 y.slot)
        let mayGive (y : Stage) : Prop :=
          y.valid = true ∧ 1 ≤ y.level ∧ y.rate ≤ (d y).length ∧ (∀ r ∈ (d y).drop ((d y).length - y.rate), r.pinned = false) ∧
          g.info.unitOf y.level me = g.info.unitOf y.level v ∧ sumNat (y.ports.map (·.2)) + c.fibreReserve g.info ≤
            c.work.free
        ((∀ y ∈ g.info.stages, ¬ mayGive y) → exec (.stealAnswer n) s = .next refused) ∧
        (FirstBest g.info.stages mayGive (·.prio) x → 1 ≤ x.rate → x.rate ≤ 4 → x.slot < 16 →
          Happens s (.stealAnswer n) fun t =>
            c.fires (t.core n) g.info x ((d x).drop ((d x).length - x.rate)).reverse ∧
            (t.core n).work.steal = { tried := 0, asked := none, failed := false, last := some (v / 8) } ∧
            (t.core n).work.deques = c.work.deques ∧
            (t.core k).work.deques.get (ix 15 x.slot) = (d x).take ((d x).length - x.rate) ∧
            (s.core k).otherDeques (t.core k) (ix 15 x.slot) ∧ (∀ m, m ≠ n → m ≠ k → t.core m = s.core m)))) ∧
    (st.failed = true →
      exec (.stealRoundTimeout n) s = .next (s.setCore n (c.setSteal { st with failed := false, tried := 0 }))) ∧
    (st.failed = false → Nothing s (.stealRoundTimeout n)))

/-! ## Messages, activations, notices (R35, R156, R157, R170, R171, R330, R362) -/

/-- MESSAGE_ARRIVAL puts the oldest item on its way into an inbox that has room (R156). PINNED_RECORD makes of the item
at the head of the inbox a record, where the store has room beyond the firing's reserve: of a message a pinned one, of
a record that came behind one a plain one (R157, R170); with an empty inbox it is the completion notice of a fibre, a
pinned record to slot FRES (R165). RECORD_PUSH_RETRY lands what an activation has sent, where there is room (R171).
That the head of an inbox holds up what follows, what a notice holds and when it comes are the model's (logs 82, 91). -/
def Obligations.Messages : Prop :=
  ∀ (s : State) (n k : Nat) (m : NetItem) (pre post : List NetItem) (i : Item) (rest : List Item) (slot : Nat) (g : Grid),
    (s.core n).paired = false →
    let c := s.core n
    let here (y : NetItem) : Prop := some y.grid = c.ident.grid ∧ y.target = (c.ident.lvlid.get 0).toNat ∧ y.held = false
    let mine (y : NetItem) : Prop := y.held = true ∧ ∃ iss, y.item.src = some iss ∧ iss.core = n
    let reserve := ((s.infoOf n).map fun i => c.reserve i).getD 0
    (s.net = pre ++ m :: post → here m → (∀ y ∈ pre, ¬ here y) →
      (c.inbox.length < 32 →
        Happens s (.messageArrival n) fun t =>
          t.net = pre ++ post ∧ t.core n = { c with wfi := false, inbox := c.inbox ++ [m.item] } ∧
          s.coreOnly { t with net := s.net } n) ∧
      (32 ≤ c.inbox.length → Nothing s (.messageArrival n))) ∧
    ((∀ y ∈ s.net, ¬ here y) → Nothing s (.messageArrival n)) ∧
    (c.inbox = i :: rest →
      let taken (pinned : Bool) : Prop := Happens s (.pinnedRecord n) fun t =>
        let u := t.core n
        u.inbox = rest ∧ u.wfi = false ∧ c.otherDeques u (ix 15 slot) ∧ s.coreOnly t n ∧
          u.work.deques.get (ix 15 slot) = { w0 := i.w0, w1 := i.w1, pinned := pinned } :: c.work.deques.get (ix 15 slot)
      (i.kind = .low slot → reserve < c.work.free → taken true) ∧
      (i.kind = .low slot → c.work.free ≤ reserve → Nothing s (.pinnedRecord n)) ∧
      (i.kind = .record slot → reserve < c.work.free → taken false) ∧
      (i.kind = .record slot → c.work.free ≤ reserve → Nothing s (.pinnedRecord n)) ∧
      (∀ target priv, i.kind = .high target priv → Nothing s (.pinnedRecord n))) ∧
    (c.inbox = [] → (∀ k ∈ c.fibres, k.noticed = true) → Nothing s (.pinnedRecord n)) ∧
    (∀ info fibre, c.inbox = [] → s.infoOf n = some info → c.fibres.reverse.find? (fun k => !k.noticed) = some fibre →
      (info.stage info.fres).isSome = true → reserve < c.work.free →
      Happens s (.pinnedRecord n) fun t =>
        let u := t.core n
        (∃ w0 w1, u.work.deques.get (ix 15 info.fres) =
          { w0 := w0, w1 := w1, pinned := true } :: c.work.deques.get (ix 15 info.fres)) ∧
        c.otherDeques u (ix 15 info.fres) ∧ s.coreOnly { t with fresh := s.fresh } n ∧ u.inbox = [] ∧ u.wfi = false ∧
        u.fibres = c.fibres.map fun k => if k.slot = fibre.slot then { k with noticed := true } else k) ∧
    (s.net = pre ++ m :: post → mine m → (∀ y ∈ pre, ¬ mine y) →
      (∀ y ∈ pre, ¬ (y.grid = m.grid ∧ y.target = m.target ∧ y.item.src = m.item.src)) → s.grid m.grid = some g →
      g.coreOf m.target = some k → (s.core k).paired = false →
      let b := s.core k
      let behind := ∃ y ∈ b.inbox, y.src = m.item.src
      let room := b.inbox.length + s.inbound m.grid m.target < 32
      (m.item.kind = .record slot → ¬ behind → b.reserve g.info < b.work.free →
        Happens s (.recordPushRetry n) fun t =>
          t.net = pre ++ post ∧ b.otherDeques (t.core k) (ix 15 slot) ∧
          (t.core k).work.deques.get (ix 15 slot) =
            { w0 := m.item.w0, w1 := m.item.w1, pinned := false } :: b.work.deques.get (ix 15 slot)) ∧
      ((∀ j, m.item.kind ≠ .record j) ∨ behind → room →
        Happens s (.recordPushRetry n) fun t =>
          t.net = pre ++ post ∧ t.core k = { b with wfi := false, inbox := b.inbox ++ [m.item] })) ∧
    ((∀ y ∈ s.net, ¬ mine y) → Nothing s (.recordPushRetry n))

/-- H_ACTIVATION_START and D_ACTIVATION_START start an activation with the registers that a message or a landing packet
gives it, every other register 0 (R35, R157, R330). ACTIVATION_LIMIT ends one that has run 4,096 or 256 instructions
with 0x0E and drops its stores (R35, R363). Poison, or a parity error, starts an activation once more with the same
trigger, and the second time its sender is told (R362): POISON_SENDER_NOTICE is the sender's trap 0x31. -/
def Obligations.Activations : Prop :=
  ∀ (s : State) (n k : Nat) (x : Ctx) (a : Activation) (addr : Word), (s.core n).paired = false →
    let c := s.core n
    let gated (u : Core) (y : Ctx) : Prop := u.mem.gate = c.mem.gate.filter fun e => !(decide (e.ctx = y) && e.act)
    let fails (t : State) (p : Packet) (cause : Nat) : Prop := ∀ r, ((s.core p.core).chan p.ch).run = some r →
      ((t.core p.core).chan p.ch).run =
        some { r with landing := false, ended := true, cause := if r.cause = 0 then cause else r.cause }
    let starts (u : Core) (y : Ctx) (tr : Trigger) (pc : Nat) (g : Nat → Word) (v : Nat → VWord) : Prop :=
      u.act y = some { trigger := tr, count := 0, out := [], second := false } ∧
      (u.context y).pc = BitVec.ofNat 64 pc ∧ (u.context y).fpstat = 0 ∧ (u.context y).frm = 0 ∧
      (u.context y).inTrap = false ∧ (∀ r : Reg, (u.context y).readG r = g r.val) ∧
      (∀ r, (u.context y).v.get r = v r.val) ∧ u.fc = c.fc ∧ u.f = c.f ∧ u.work = c.work ∧ u.mem = c.mem
    (∀ i rest target priv, c.inbox = i :: rest → i.kind = .high target priv →
      (c.hAct = none → c.fc.ie = true → s.inService n = true →
        Happens s (.hActivationStart n) fun t =>
          let u := t.core n
          starts u .h (.message i) target
            (fun r => if r = 14 then i.w0 else if r = 15 then i.w1
              else if r = 13 then BitVec.ofNat 64 (i.lvlid * 2 ^ 32 + (if i.src = none then 256 else 0) + i.cls % 64) else 0)
            (fun _ => 0) ∧
          u.hc.status = setField c.hc.status 10 2 priv ∧ u.inbox = rest ∧ u.dc = c.dc ∧ ∀ j, j ≠ n → t.core j = s.core j) ∧
      (c.hAct ≠ none ∨ c.fc.ie = false ∨ s.inService n = false → Nothing s (.hActivationStart n))) ∧
    (∀ p rest, c.jobs.packets = p :: rest →
      (c.dAct = none → s.leaving n = false →
        Happens s (.dActivationStart n) fun t =>
          let u := t.core n
          starts u .d (.packet p) p.target
            (fun r => if r = 14 then p.dest else if r = 13 then BitVec.ofNat 64 p.bytes.length
              else if r = 12 then BitVec.ofNat 64 (p.ch * 2 ^ 32 + p.id) else 0)
            (fun r => if r < 4 then vwordOf (slice p.bytes (128 * r) 128) else 0) ∧
          u.dc.priv = 0 ∧ u.jobs.packets = rest ∧ u.hc = c.hc ∧ s.coreOnly t n) ∧
      (c.dAct ≠ none ∨ s.leaving n = true → Nothing s (.dActivationStart n))) ∧
    (c.act x = some a → a.trigger.ctx = x → (c.context x).inTrap = false →
      (x = .h → 4096 ≤ a.count → Happens s (.activationLimit n) fun t =>
        let u := t.core n
        u.hAct = none ∧ u.hc = { c.hc with cause := 0x0E, tval := 0 } ∧ gated u .h ∧ u.fc = c.fc ∧ u.f = c.f) ∧
      (x = .d → 256 ≤ a.count → c.hAct = none → Happens s (.activationLimit n) fun t =>
        let u := t.core n
        u.dAct = none ∧ u.dc = { c.dc with cause := 0x0E, tval := 0 } ∧ gated u .d ∧ u.fc = c.fc ∧
          ∀ p, a.trigger = .packet p → fails t p 0x2D)) ∧
    (c.hAct = none → c.dAct = none → Nothing s (.activationLimit n)) ∧
    (c.act x = some a → a.trigger.ctx = x →
      let meets := (c.context x).inTrap = false ∧
        ∃ p rc unc, s.spot (s.viewer n x) false addr.toNat = .at_ p rc unc ∧ s.bytePoisoned n x p = true
      let again (i : Instr) (addr : Word) : Prop :=
        (a.second = false → Happens s i fun t =>
          let u := t.core n
          u.act x = some { trigger := a.trigger, count := 0, out := [], second := true } ∧ gated u x ∧ u.fc = c.fc ∧
            u.f = c.f ∧ u.mem.scratch = c.mem.scratch ∧ t.mem = s.mem) ∧
        (a.second = true → Happens s i fun t =>
          (t.core n).act x = none ∧ gated (t.core n) x ∧ t.mem = s.mem ∧
          (∀ p, a.trigger = .packet p → fails t p 0x31) ∧
          ∀ i iss gid g, a.trigger = .message i → i.src = some iss → c.ident.grid = some gid → s.grid gid = some g →
            g.coreOf i.lvlid = some k → (s.core k).paired = false →
            (t.core k).notices = (s.core k).notices ++ [{ cause := 0x31, tval := addr }])
      (meets → again (.poisonRedelivery n x addr) addr) ∧ (¬ meets → Nothing s (.poisonRedelivery n x addr)) ∧
        again (.activationParityError n x) 0) ∧
    (∀ nt rest, c.notices = nt :: rest →
      (nt.cause = 0x31 → c.firing ≠ .idle → (∀ p ∈ c.waits.rcRel, p.ctx ≠ .f) →
        Happens s (.poisonSenderNotice n) fun t =>
          let u := t.core n
          u.notices = rest ∧ u.fc = c.fc.enterTrap c.sr.tvec c.fc.pc 0 0x31 nt.tval ∧ u.f = c.f.hold c.fc.pc ∧
            u.firing = c.firing ∧ u.wfi = false ∧ u.mem = c.mem) ∧
      (nt.cause ≠ 0x31 ∨ c.firing = .idle → Nothing s (.poisonSenderNotice n))) ∧
    (c.notices = [] → Nothing s (.poisonSenderNotice n))

/-! ## Team swapping (R161, R162, R275, R296, R307) -/

/-- QUANTUM_BOUNDARY begins the next quantum once the swaps of the last are carried out (R161). GRE_DRAIN_EXPIRY discards
the GRE jobs of a team that has stopped: they end DISCARDED, and a queue that one fed holds one mark (R275). TEAM_SWAP_OUT
moves a stopped and drained team's cores into the swap area, with contexts, deques and queues, and discards its BSE jobs
(R162); the teams of a pair leave and come together (R294). TEAM_RESTORE brings a team back, with accumulators and weights
0; a firing that held the BSE goes on at its label, or takes 0x23 (R296, R307).
How a team is kept, the layout of its swap area, and what a swap does with atomics, labels and a held BSE, are the model's
(logs 50, 74 to 77, 94). -/
def Obligations.Team_swaps : Prop :=
  ∀ (s : State) (gid team cl : Nat) (g : Grid) (cs : List Core) (j : GreJob) (q : QReg), s.grid gid = some g →
    (g.settled = true → Happens s (.quantumBoundary gid) fun t =>
      (∃ u, t.grid gid = some u ∧ u.quantum = g.quantum + 1 ∧ u.place = g.place ∧ u.granted = g.granted ∧ u.info = g.info ∧
        u.barriers = g.barriers ∧ u.saved.map (·.1) = g.saved.map (·.1)) ∧
      (∀ n, { t.core n with waits := (s.core n).waits } = s.core n) ∧
      ∀ n ∈ g.cores, ∀ w m, (s.core n).waits.sealOf = some w → w.phase = .waiting → w.quantum = some m → m ≤ g.quantum →
        ∃ v, (t.core n).waits.sealOf = some v ∧ ∀ p ∈ g.place, p.1 ∈ v.residents) ∧
    (g.settled = false → Nothing s (.quantumBoundary gid)) ∧
    (g.resident team = false → sget g.place team = some cl →
      (s.stopped cl = true → Happens s (.greDrainExpiry gid team) fun t =>
        (t.cluster cl).gre = [] ∧
        ((s.cluster cl).gre = [j] → j.result = none → ∃ st, (t.core j.cap.core).jobs.greDone.getLast? = some st ∧
          st.id = j.id ∧ field st.stat 16 3 = 3) ∧
        ((s.cluster cl).gre = [j] → j.cmd = .expand (.queue q) → j.cap.ofFiring s j.cap.core = true →
          (s.core j.cap.core).paired = false → (t.core j.cap.core).f.q.get q = [.mark])) ∧
      (s.stopped cl = false → Nothing s (.greDrainExpiry gid team)) ∧
      (let unit := s.leavingUnit gid team
       let area := s.leavingPages g.info unit
       let u := unit.foldl (fun s p => s.settleTeam gid p.1 p.2) s
       let stopped := ∀ p ∈ unit, s.stopped p.2 = true
       (¬ stopped → Nothing s (.teamSwapOut gid team)) ∧
       (∀ f, stopped → area = .error f → exec (.teamSwapOut gid team) s = .next (f s)) ∧
       (∀ l, stopped → area = .ok l → (∃ p ∈ unit, u.drained p.2 = false) → exec (.teamSwapOut gid team) s = .next u) ∧
       (∀ l, stopped → area = .ok l → (∀ p ∈ unit, u.drained p.2 = true) → (unit.map (·.2)).Nodup →
        Happens s (.teamSwapOut gid team) fun t =>
          (∃ w, t.grid gid = some w ∧ w.quantum = g.quantum ∧ w.barriers = g.barriers ∧
            (∀ m, m ∉ unit.map (·.1) → sget w.place m = sget g.place m) ∧
            ∀ p ∈ unit, sget w.place p.1 = none ∧ ∃ kept, sget w.saved p.1 = some kept ∧ kept.length = 8 ∧
              ∀ (i : Nat) b, i < 8 → kept[i]? = some b →
                let c := s.core (8 * p.2 + i)
                b.fc = c.fc ∧ b.hc = c.hc ∧ b.dc = c.dc ∧ b.f = c.f.dropWalks ∧ b.firing = c.firing ∧ b.seq = c.seq ∧
                  b.ident = c.ident ∧ b.sr = c.sr ∧ b.stores = c.stores ∧ b.work.deques = c.work.deques ∧ b.pair = c.pair ∧
                  b.fibres = (c.fibres.map fun k => { k with gone := k.gone || k.bse }) ∧ b.mem.buffer = [] ∧
                  b.jobs.bseDone = []) ∧
          ∀ p ∈ unit, (t.cluster p.2).bse = [] ∧ ∀ n ∈ clusterCores p.2, t.core n = Core.reset))) ∧
    (sget g.saved team = some cs →
      let unit := g.comingUnit team cl
      let may := s.mayPlace g (unit.map fun u => (u.1, u.2.1)) = true
      let back := unit.mapM fun u => (s.comingCores g u.1 u.2.1 u.2.2).map fun cs => (u.1, u.2.1, cs)
      (∀ f, may → back = .error f → exec (.teamRestore gid team cl) s = .next (f s)) ∧
      (∀ l, may → back = .ok l → (∀ p ∈ l, p.2.2.length = 8) → Happens s (.teamRestore gid team cl) fun t =>
        (∃ u, t.grid gid = some u ∧ u.granted = g.granted ∧ u.quantum = g.quantum ∧ u.barriers = g.barriers ∧
          ∀ p ∈ l, sget u.place p.1 = some p.2.1 ∧ sget u.saved p.1 = none) ∧
        ∀ p ∈ l, (t.cluster p.2.1).acc = [] ∧ (t.cluster p.2.1).wbuf = [] ∧
          ∀ (i : Nat) b, p.2.2[i]? = some b → b.paired = false →
            let u := t.core (8 * p.2.1 + i)
            let stays := b.firing = .idle ∨ b.f.holdsBse = false ∨ b.spent = true
            (stays → u = b) ∧
            (¬ stays → b.f.rstLabel = none → u = { b with notices := b.notices ++ [{ cause := 0x23, tval := 0 }] }) ∧
            (∀ l, ¬ stays → b.f.rstLabel = some l → b.fc.inTrap = false →
              u = { b with sr := { b.sr with bstat := BitVec.ofNat 64 (3 * 2 ^ 16 + 2 ^ 8) },
                           f := { b.f with cEnded := false }, fc := { b.fc with pc := BitVec.ofNat 64 (2 * l) } })) ∧
      (¬ may → Nothing s (.teamRestore gid team cl))) ∧
    (sget g.saved team = none → Nothing s (.teamRestore gid team cl))

/-! ## Engines and copies at work (R10, R13, R80, R233, R262 to R271, R295 to R313, R322 to R331) -/

/-- BSE_JOB_START runs a job of the queue that no earlier one holds up, all before it having started (R295): a load fills the weight buffer
(R302), a chain and a tile product fill their region, which a failure leaves 0 (R303 to R305, R308), a readout prepares
its lines (R306); the job ends COMPLETE or FAILED with what its run gathered. GRE_JOB_START runs a job of the queue
(R262), and prepares lines, queue entries or a weight stream (R264 to R268). A run that needs a walk, or an answer, waits.
Which of several jobs that may run goes on is free; a GEXP of a killed firing is discarded (logs 34, 67); skipped tile
elements follow log 70. -/
def Obligations.Engine_jobs : Prop :=
  ∀ (s : State) (cl : Nat) (j : BseJob) (k : GreJob),
    let u := s.modCluster cl fun c => c.modBse j.id fun j => { j with begun := true }
    let c := u.cluster cl
    let v := u.bseViewer cl j
    let env : JobEnv := { s := u, v := v, before := [], direct := false }
    let open_ := (s.cluster cl).openBseJobs cl
    let start := JobRun.start j.cap.seed
    let finished {α : Type} (r : Except JStop α) : Prop := ∀ e, r = .error e → ∃ cause page, e = .fail cause page
    let ends {α : Type} (t : State) (r : Except JStop α) (run : JobRun) : Prop :=
      ((t.cluster cl).bse.find? fun b => b.id == j.id).map (fun b => (b.result, b.lines)) =
        some (some (jobEnd r run), groupLines run.out.reverse)
    (open_ = [] → Nothing s (.bseJobStart cl)) ∧
    (2 ≤ open_.length → ∃ b ∈ open_, exec (.bseJobStart cl) s = .next (State.runBse { s with fresh := s.fresh + 1 } cl b)) ∧
    (open_ = [j] →
      (∀ src n off, j.cmd = .load src n off →
        (∀ r run, (runLoad env src n).run start = (r, run) → finished r → Happens s (.bseJobStart cl) fun t =>
          ends t r run ∧ memGetList (t.cluster cl).wbuf off run.stream.length = run.stream.reverse) ∧
        (∀ m, let va := src.toNat
          1 ≤ n → inScratch va = true → va / 2 ^ 19 % 8 = 0 → va % 2 ^ 19 + n ≤ 0x60000 → canonical va = true →
          canonical (va + n - 1) = true → s.slotCore v (slotOf va).1 = .ok m →
          (∀ i, i < n → s.isPoisoned j.cap.core (.scratch m (va % 2 ^ 19 + i)) = false) →
          Happens s (.bseJobStart cl) fun t =>
            ((t.cluster cl).bse.find? fun b => b.id == j.id).map (fun b => (b.result, b.lines)) =
              some (some { state := 1, cause := 0, info := 0, hint := false, count := 0, flags := 0 }, []) ∧
            memGetList (t.cluster cl).wbuf off n = s.readScratch m j.cap.core (va % 2 ^ 19) n)) ∧
      (∀ f mode input r stages, j.cmd = .chain f mode input r stages →
        ∀ x run, (runChain env c f mode input r stages).run start = (x, run) → finished x →
          Happens s (.bseJobStart cl) fun t =>
            ends t x run ∧
            (∀ ws i, x = .ok ws → i < ws.length → accGet (t.cluster cl).acc (r.base + i) = ws.getD i 0 % 2 ^ 32) ∧
            (∀ e i, x = .error e → i < r.rows * r.cols → accGet (t.cluster cl).acc (r.base + i) = 0)) ∧
      (∀ pair fa fb acc a b block, j.cmd = .tile pair fa fb acc a b block →
        let other := pairCluster cl
        let base := (tileRegion pair block).1
        ∀ x run, (runTile env c.acc (u.cluster other).acc pair fa fb acc a b block).run start = (x, run) → finished x →
          Happens s (.bseJobStart cl) fun t =>
            ends t x run ∧
            (∀ own more i, x = .ok (own, more) →
              (i < own.length → accGet (t.cluster cl).acc (base + i) = own.getD i 0 % 2 ^ 32) ∧
              (i < more.length → accGet (t.cluster other).acc (base + i) = more.getD i 0 % 2 ^ 32)) ∧
            (∀ e i, x = .error e → i < (tileRegion pair block).2 →
              accGet (t.cluster cl).acc (base + i) = 0 ∧ (pair = true → accGet (t.cluster other).acc (base + i) = 0))) ∧
      (∀ op f rnd nsat sh dst r, j.cmd = .readout op f rnd nsat sh dst r →
        let acc := (u.cluster (if r.part then pairCluster cl else cl)).acc
        let mode := if rnd = .dyn then j.cap.mode else rndCode rnd
        ∀ x run, (runReadout env acc op f mode nsat sh dst r).run start = (x, run) → finished x →
          Happens s (.bseJobStart cl) fun t => ends t x run ∧ (t.cluster cl).acc = c.acc)) ∧
    (let u := State.modCluster { s with fresh := s.fresh + 1 } cl fun c =>
       c.modGre k.id fun j => { j with begun := true }
     let run (bound : Nat) := (runForm (u.greEnv cl k bound) k.cmd).run (JobRun.start k.cap.seed)
     let r := (run (run 0).2.bound).1
     let done := (run (run 0).2.bound).2
     s.nextGreJob cl = some k → finished r → Happens s (.greJobStart cl) fun t =>
      ((t.cluster cl).gre.find? fun b => b.id == k.id).map (fun b => (b.result, b.lines)) =
        some (some (jobEnd r done), groupLines done.out.reverse) ∧
      ∀ w, w = emitWidth (grammarOf k.gd) (greArgsOf k.args) →
        (∀ q, k.cmd = .expand (.queue q) → ((t.cluster cl).gre.find? fun b => b.id == k.id).map (·.queue) =
          some (packEntries w done.elems.reverse ++ if (jobEnd r done).state = 1 then [.mark] else [])) ∧
        (k.cmd = .expand .weightPort → ((t.cluster cl).gre.find? fun b => b.id == k.id).map (·.stream) =
          some (done.elems.reverse.flatMap (bytesOf (w / 8))))) ∧
    ((∀ b ∈ c.gre, b.result ≠ none) → Nothing s (.greJobStart cl))

/-- A job that has ended and whose writes are answered leaves its queue, and its core keeps its status (R271, R308, R310);
a readout that takes or clears leaves its words 0 (R306); with a completion slot its record lands first, where the store
has room (R10, R274, R313). A queue GEXP first pushes the entries that fit (R268). CLAIMED_LINE_FINISHED writes an
engine's next line, and gives its claim up (R233). STORE_BUFFER_DRAIN performs the oldest store of a core (R80), and
marks the words of one that a parity error has poisoned (R361).
That RC and remote writes are acknowledged first is the model's reading (log 21), as are a record's bytes
and both queues of a pair (logs 63, 65). -/
def Obligations.Engine_ends : Prop :=
  ∀ (s : State) (cl n slot : Nat) (j : BseJob) (k : GreJob) (e : JobEnd) (bp bs : List BseJob) (gp gs : List GreJob)
    (q : QReg) (l : OutLine) (rest : List OutLine) (x : StoreEntry) (xs : List StoreEntry) (p : StorePart),
    let c := s.cluster cl
    let bReady (b : BseJob) : Prop :=
      b.result ≠ none ∧ b.lines = [] ∧ b.pushing = false ∧ s.jobUnanswered (.bse cl b.id) = false
    let gDelivers (b : GreJob) : Prop := ∃ p, b.cmd = .expand (.queue p) ∧ b.result ≠ none ∧ b.queue ≠ [] ∧
      b.cap.ofFiring s b.cap.core = true ∧ ((s.core b.cap.core).f.q.get p).length < 8
    let gReady (b : GreJob) : Prop := ∃ e, b.result = some e ∧ b.lines = [] ∧ b.pushing = false ∧
      s.jobUnanswered (.gre cl b.id) = false ∧ b.delivered = true
    let stat (low : Nat) : Word := BitVec.ofNat 64 (e.info % 2 ^ 45 * 2 ^ 19 + e.state * 2 ^ 16 + e.cause * 2 ^ 10 + low)
    let bStatus (t : State) : Prop := (t.core j.cap.core).jobs.bseDone.getLast? =
      some { id := j.id, stat := stat (e.hint.toNat * 2 ^ 9), flags := e.flags, scope := j.cap.scope }
    let gStatus (t : State) : Prop := (t.core k.cap.core).jobs.greDone.getLast? =
      some { id := k.id, stat := stat e.count, flags := e.flags, scope := k.cap.scope }
    let record (t : State) (m id : Nat) (addr : Word) : Prop :=
      (t.core m).work.deques.get (ix 15 slot) =
        ({ w0 := BitVec.ofNat 64 (id + e.state * 2 ^ 16 + e.cause * 2 ^ 24), w1 := addr, pinned := false } : Rec) ::
          (s.core m).work.deques.get (ix 15 slot)
    let lands (m : Nat) : Prop := (s.stage m slot).isSome = true ∧ (s.core m).paired = false ∧
      ∃ i, s.infoOf m = some i ∧ (s.core m).reserve i < (s.core m).work.free
    (c.bse = bp ++ j :: bs → (∀ b ∈ bp, ¬ bReady b) → bReady j → j.result = some e →
      s.jobWriteFailed (.bse cl j.id) = none →
      (j.cap.push = none → Happens s (.bseJobComplete cl) fun t =>
        (t.cluster cl).bse = (bp ++ j :: bs).filter (fun b => b.id != j.id) ∧ bStatus t ∧ (t.core j.cap.core).wfi = false ∧
        ∀ op f rnd nsat sh dst r i, j.cmd = .readout op f rnd nsat sh dst r → e.state = 1 →
          op = .take ∨ op = .clr ∨ op = .restake → i < r.rows * r.cols →
          accGet (t.cluster (if r.part then pairCluster cl else cl)).acc (r.base + i) = 0) ∧
      (j.cap.push = some slot → e.state ≠ 3 → Happens s (.bseJobComplete cl) fun t =>
        (t.cluster cl).bse = c.bse.map fun b => if b.id = j.id then { b with result := some e, pushing := true } else b)) ∧
    ((∀ b ∈ c.bse, ¬ bReady b) → Nothing s (.bseJobComplete cl)) ∧
    (c.gre = gp ++ k :: gs → (c.gre.map (·.id)).Nodup → (∀ b ∈ gp, ¬ gDelivers b) → k.cmd = .expand (.queue q) → gDelivers k →
      (s.core k.cap.core).paired = false → Happens s (.greJobComplete cl) fun t =>
        let old := (s.core k.cap.core).f.q.get q
        (t.core k.cap.core).f.q.get q = old ++ k.queue.take (8 - old.length) ∧
        ((t.cluster cl).gre.find? fun b => b.id == k.id).map (·.queue) = some (k.queue.drop (8 - old.length))) ∧
    (c.gre = gp ++ k :: gs → (∀ b ∈ c.gre, ¬ gDelivers b) → (∀ b ∈ gp, ¬ gReady b) → gReady k → k.result = some e →
      s.jobWriteFailed (.gre cl k.id) = none →
      (k.cap.push = none → Happens s (.greJobComplete cl) fun t =>
        (t.cluster cl).gre = c.gre.filter (fun b => b.id != k.id) ∧ gStatus t ∧ (t.core k.cap.core).wfi = false) ∧
      (k.cap.push = some slot → Happens s (.greJobComplete cl) fun t =>
        (t.cluster cl).gre = c.gre.map fun b => if b.id = k.id then { b with result := some e, pushing := true } else b)) ∧
    ((∀ b ∈ c.gre, ¬ gDelivers b ∧ ¬ gReady b) →
      exec (.greJobComplete cl) s = .next (s.discardStreams cl fun b => b.orphaned s c)) ∧
    (c.bse = bp ++ j :: bs → (∀ b ∈ bp, b.pushing = false) → j.pushing = true → j.cap.push = some slot →
      j.result = some e → lands j.cap.core → Happens s (.completionPush cl) fun t =>
        record t j.cap.core j.id
          (match j.cmd with | .load src _ _ => src | .readout _ _ _ _ _ dst _ => dst | _ => 0) ∧
        bStatus t ∧ (t.cluster cl).bse = c.bse.filter fun b => b.id != j.id) ∧
    ((∀ b ∈ c.bse, b.pushing = false) → c.gre = gp ++ k :: gs → (∀ b ∈ gp, b.pushing = false) → k.pushing = true →
      k.cap.push = some slot → k.result = some e → lands k.cap.core → Happens s (.completionPush cl) fun t =>
        record t k.cap.core k.id
          (match k.cmd with | .expand (.memory dst) => dst | _ => BitVec.ofNat 64 (greArgsOf k.args).out) ∧
        gStatus t ∧ (t.cluster cl).gre = c.gre.filter fun b => b.id != k.id) ∧
    ((∀ b ∈ c.bse, b.pushing = false) → (∀ b ∈ c.gre, b.pushing = false) → Nothing s (.completionPush cl)) ∧
    (let written (t : State) (who : Requester) : Prop :=
      (∀ o b, o < 128 → l.byteAt o = some b →
        (∀ pa, l.place = .mem pa → memGet t.mem (pa + o) = b) ∧
        (∀ m a, l.place = .scratch m a → (s.core m).paired = false → memGet (t.core m).mem.scratch (a + o) = b)) ∧
      ∀ d ∈ t.claims, d.holder = who → d.place ≠ l.place
     let plain (who : Requester) : Prop :=
      (∀ pa, l.place = .mem pa → isFabric pa = false) ∧ l.place.line = l.place ∧ (∀ y ∈ rest, y.place.line ≠ l.place) ∧
        ∀ d ∈ s.claims, d.place = l.place → d.holder = who
     (c.bse = bp ++ j :: bs → (∀ b ∈ bp, b.lines = []) → j.lines = l :: rest → plain (.bse cl j.id) →
      Happens s (.claimedLineFinished cl) fun t =>
        written t (.bse cl j.id) ∧ ((t.cluster cl).bse.find? fun b => b.id == j.id).map (·.lines) = some rest) ∧
     ((∀ b ∈ c.bse, b.lines = []) → c.gre = gp ++ k :: gs → (∀ b ∈ gp, b.lines = []) → k.lines = l :: rest →
      plain (.gre cl k.id) → Happens s (.claimedLineFinished cl) fun t =>
        written t (.gre cl k.id) ∧ ((t.cluster cl).gre.find? fun b => b.id == k.id).map (·.lines) = some rest)) ∧
    ((s.core n).mem.buffer = x :: xs → x.parts = [p] → (s.core n).outbox = [] →
      let len := p.bytes.length
      let held := s.claimed p.place = true ∨ s.claimed (p.place.add (len - 1)) = true ∨
        (x.wide = true ∧ s.lateWrites { core := n, ctx := x.ctx } = true)
      (held → Nothing s (.storeBufferDrain n)) ∧
      (¬ held → p.mask = 0xFF → x.wide = false →
        (∀ pa, p.place = .mem pa → isFabric pa = false →
          (p.rc = true ∨ p.uncached = true ∨ ∀ i, i < len → homeDie (pa + i) = dieOf n) →
          Happens s (.storeBufferDrain n) fun t =>
            (t.core n).mem.buffer = xs ∧ memGetList t.mem pa len = p.bytes ∧
            (∀ a, a < pa ∨ pa + len ≤ a → memGet t.mem a = memGet s.mem a) ∧
            (x.poisoned = true → ∀ i, i < len → (pa + i) / 8 ∈ t.poison)) ∧
        (∀ m o, p.place = .scratch m o → (s.core m).paired = false → Happens s (.storeBufferDrain n) fun t =>
          (t.core n).mem.buffer = xs ∧ memGetList (t.core m).mem.scratch o len = p.bytes ∧ t.mem = s.mem ∧
          (x.poisoned = true → ∀ i, i < len → (o + i) / 8 ∈ (t.core m).mem.poison)))) ∧
    ((s.core n).mem.buffer = [] → (s.core n).outbox = [] → Nothing s (.storeBufferDrain n))

/-! ## Transfers (R322 to R331) -/

/-- COPY_DISPATCH starts the oldest request of a free channel, reads a parameter block, which 0x2C refuses, and claims
destination lines (R233, R322, R325). The copy unit moves up to 128 bytes of a transfer within a row and a page
(R323). COPY_PAGE_FAULT stalls a transfer whose page fails, and ends it at any other cause; COPY_FAULT_DELIVERY
brings the fault of the lowest stalled channel to F (R329); COPY_TRANSFER_COMPLETE passes DONE to the transfer, once
its record has landed (R326, R331). Corners of transfers are the model's (log 72). -/
def Obligations.Copy_events : Prop :=
  ∀ (s : State) (n ch slot : Nat) (q : CopyReq) (pre post : List CopyReq) (t : Transfer), (s.core n).paired = false →
    let c := s.core n
    let k := c.chan ch
    let waits (k : Chan) : Prop := ∃ t, k.run = some t ∧ t.ready = false ∧ t.ended = false ∧ k.stall = false
    let v := s.copyViewer n ch t.req
    let failed (u : Transfer) (cause : Nat) : Transfer :=
      { u with ended := true, cause := if u.cause = 0 then cause else u.cause }
    ((∀ j, j < 4 → ¬ waits (c.chan j)) →
      (c.jobs.fifo = pre ++ q :: post → (∀ y ∈ pre, (c.chan (copyCh y.w0)).run ≠ none) →
        (c.chan (copyCh q.w0)).run = none → field q.w0 0 4 = 0 →
        let u : Transfer := { req := q, ready := false, sstep := 0, dstep := 0, count := 1, size := q.w3.toNat % 2 ^ 32,
                              lead := 0, moved := 0, cause := 0, landing := false, ended := false }
        let who := Requester.copy n (copyCh q.w0)
        Happens s (.copyDispatch n) fun w =>
          (w.core n).jobs.fifo = pre ++ post ∧
          ∃ ready lead, ((w.core n).chan (copyCh q.w0)).run = some { u with ready := ready, lead := lead } ∧
            (copyLand q.w0 = true ∨ u.size = 0 → ready = true ∧ lead = 0) ∧
            (∀ va p rc unc, copyLand q.w0 = false → u.size ≠ 0 → u.lineStarts 0 = [(0, va)] →
              s.copySpot (s.copyViewer n (copyCh q.w0) q) true va = .at_ p rc unc → (∀ d ∈ s.claims, d.holder ≠ who) →
              ready = true ∧ { place := p.line, holder := who } ∈ w.claims)) ∧
      ((∀ y ∈ c.jobs.fifo, (c.chan (copyCh y.w0)).run ≠ none) → Nothing s (.copyDispatch n))) ∧
    (∀ b, ch < 4 → (∀ j, j < 4 → j ≠ ch → ¬ waits (c.chan j)) → waits k → k.run = some t → field t.req.w0 0 4 ≠ 0 →
      t.count = 0 →
      ((jread { s := s, v := v, before := [], direct := true } t.req.w3.toNat 32).run (JobRun.start 0)).1 = .ok b →
      let count := natAt b 16 4
      let size := natAt b 20 4
      let legal := natAt b 24 8 = 0 ∧ 1 ≤ count ∧ count ≤ 2 ^ 24 ∧
        if field t.req.w0 0 4 = 1 then 1 ≤ size ∧ size ≤ 2 ^ 24 else size ∈ [1, 2, 4, 8, 16, 128]
      (legal → Happens s (.copyDispatch n) fun u => ∃ ready lead, ((u.core n).chan ch).run =
        some { t with ready := ready, lead := lead, sstep := wordAt b 0, dstep := wordAt b 8, count := count, size := size }) ∧
      (¬ legal → Happens s (.copyDispatch n) fun u => ((u.core n).chan ch).run = some (failed t 0x2C))) ∧
    (∀ x y, ch < 4 → s.copyNext (clusterOf n) = some (n, ch, t) → s.bseLine (clusterOf n) = none →
      s.greLine (clusterOf n) = none → copyLand t.req.w0 = false →
      let (a, b) := t.addresses t.moved
      let len := Nat.min (128 - a % 128) (Nat.min (t.size - t.moved % t.size) (4096 - b % 4096))
      let inSlot (va : Nat) (m : Nat) : Prop := inScratch va = true ∧ va / 2 ^ 19 % 8 = 0 ∧ va % 2 ^ 19 + len ≤ 0x60000 ∧
        canonical va = true ∧ canonical (va + len - 1) = true ∧ va + len ≤ 2 ^ 64 ∧ s.slotCore v (slotOf va).1 = .ok m ∧
        (s.core m).paired = false
      inSlot a x → inSlot b y → x ≠ y → (t.req.user = true → 4096 ≤ b % 2 ^ 19) →
      s.writesOut (.copy n ch) = false → s.jobWriteFailed (.copy n ch) = none →
      (∀ i, i < len → s.isPoisoned n (.scratch x (a % 2 ^ 19 + i)) = false) →
      (∀ i h, i < len → s.claimant (Place.scratch y (b % 2 ^ 19 + i)).line = some h → h = .copy n ch) →
      Happens s (.claimedLineFinished (clusterOf n)) fun u =>
        memGetList (u.core y).mem.scratch (b % 2 ^ 19) len = memGetList (s.core x).mem.scratch (a % 2 ^ 19) len ∧
        (∀ o, o < b % 2 ^ 19 ∨ b % 2 ^ 19 + len ≤ o →
          memGet (u.core y).mem.scratch o = memGet (s.core y).mem.scratch o) ∧
        (∃ lead, ((u.core n).chan ch).run = some { t with moved := t.moved + len, lead := lead }) ∧
        (t.lineStarts (Nat.max t.lead (t.moved + len)) = [] → u.mem = s.mem)) ∧
    (∀ cause va, ch < 4 → k.moving = some t → s.copyMove n ch t = .fault cause va →
      (cause = 0x12 → Happens s (.copyPageFault n ch) fun u =>
        (u.core n).chan ch = { k with stall := true, fault := BitVec.ofNat 64 va }) ∧
      (cause ≠ 0x12 → Happens s (.copyPageFault n ch) fun u =>
        (u.core n).chan ch = { k with stall := false, dlv := false, run := some (failed t cause) })) ∧
    (k.moving = none → Nothing s (.copyPageFault n ch)) ∧
    (ch < 4 → (∀ j, j < 4 → (c.chan j).dlv = false) → (∀ j, j < ch → (c.chan j).stall = false) → k.stall = true →
      Happens s (.copyFaultDelivery n) fun u =>
        (u.core n).chan ch = { k with dlv := true } ∧ s.coreOnly u n ∧
        (u.core n).notices = c.notices ++ [{ cause := 0x2B, tval := k.fault }]) ∧
    ((∃ j, j < 4 ∧ (c.chan j).dlv = true) ∨ (∀ j, j < 4 → (c.chan j).stall = false) →
      Nothing s (.copyFaultDelivery n)) ∧
    (let ended := t.ended = true ∨ t.ready = true ∧ t.landing = false ∧ t.count * t.size ≤ t.moved
     (k.run = some t → ended → ch < 4 → s.jobUnanswered (.copy n ch) = false → s.jobWriteFailed (.copy n ch) = none →
      let complete (u : State) : Prop := (u.core n).wfi = false ∧ (u.core n).chan ch =
        { k with done := t.req.id, fail := k.fail || t.cause != 0, run := none, stall := false, dlv := false }
      (copyPush t.req.w0 = none → Happens s (.copyTransferComplete n ch) complete) ∧
      (∀ i, copyPush t.req.w0 = some slot → (s.stage n slot).isSome = true → s.infoOf n = some i →
        c.reserve i < c.work.free → Happens s (.copyTransferComplete n ch) fun u => complete u ∧
          (u.core n).work.deques.get (ix 15 slot) = ({ w0 := BitVec.ofNat 64 (t.req.id + copyCh t.req.w0 * 2 ^ 32 +
            (if t.cause = 0 then 1 else 2) * 2 ^ 40 + t.cause * 2 ^ 48), w1 := t.req.w2, pinned := false } : Rec) ::
            c.work.deques.get (ix 15 slot)) ∧
      (∀ i, copyPush t.req.w0 = some slot → (s.stage n slot).isSome = true → s.infoOf n = some i →
        c.work.free ≤ c.reserve i → Nothing s (.copyTransferComplete n ch))) ∧
     (k.run = some t → ¬ ended → Nothing s (.copyTransferComplete n ch)))

/-! ## Paired checking (R367 to R371) -/

/-- FINGERPRINT_EXCHANGE compares the fingerprints of a closed interval (R368): equal, the interval is agreed, FPRINT
shows it, its stores leave, and the next one opens; unequal, both cores go back to its start and ROLLBK counts; a second
time running, the pair is SUSPECT and F takes 0x34. PARTNER_TIMEOUT dissolves a pair whose partner is lost: the survivor
goes back and takes 0x35 (R369); PAIR_TIMEOUT ends a wait for the partner with 0x35 (R371).
What a rollback does to barriers, and what becomes of the lost core, are the model's choices (logs 38,
39). -/
def Obligations.Pair_events : Prop :=
  ∀ (s : State) (n : Nat) (e : GateEntry) (p : StorePart) (pa : Nat) (w w' : Snapshot),
    let a := evenOf n
    let b := a + 1
    let ca := s.core a
    let cb := s.core b
    let crc (p : Pairing) : Word := crc64 (p.bytes.get 0 ++ p.bytes.get 1 ++ p.bytes.get 2)
    let met := ca.paired = true ∧ cb.paired = true ∧ flag ca.pair.ctl 2 = true ∧ flag cb.pair.ctl 2 = true ∧
      ca.pair.retired = cb.pair.retired
    let opened (u : Core) : Prop := flag u.pair.ctl 2 = false ∧ u.pair.retired = Vector.replicate 3 0 ∧
      u.pair.bytes = Vector.replicate 3 [] ∧ u.pair.passed = Vector.replicate 3 []
    (¬ met → Nothing s (.fingerprintExchange n)) ∧
    (met → crc ca.pair = crc cb.pair → Happens s (.fingerprintExchange n) fun t =>
      let agreed (m : Nat) : Prop :=
        let u := t.core m
        opened u ∧ u.pair.fprint = crc ca.pair ∧ u.pair.again = false ∧ u.fc = (s.core m).fc ∧ u.f = (s.core m).f ∧
          u.pair.start = some { fc := (s.core m).fc, f := (s.core m).f } ∧ ∀ y ∈ u.mem.gate, y.act = true ∧ y.interval = false
      agreed a ∧ agreed b ∧
        (ca.mem.gate = [e] → cb.mem.gate = [] → ca.mem.buffer = [] → cb.mem.buffer = [] → e.act = false → e.parts = [p] →
          e.wide = false → p.place = .mem pa → isFabric pa = false → p.mask = 0xFF → p.claimed s = false →
          (p.rc = true ∨ p.uncached = true ∨ ∀ i, i < p.bytes.length → homeDie (pa + i) = dieOf a) →
          memGetList t.mem pa p.bytes.length = p.bytes)) ∧
    (met → crc ca.pair ≠ crc cb.pair → ca.pair.start = some w → cb.pair.start = some w' →
      let back (t : State) (m : Nat) (fc : Context) (f : FState) : Prop :=
        let u := t.core m
        opened u ∧ u.fc = fc ∧ u.f = f ∧ u.work = (s.core m).work ∧
          (∀ y ∈ u.mem.gate, y.interval = true → y.act = true ∨ y.ctx = .h ∨ y.ctx = .d)
      (ca.pair.again = false → Happens s (.fingerprintExchange n) fun t =>
        let counted (m : Nat) : Prop :=
          field (t.core m).pair.ctl 32 16 = Nat.min 65535 (field (s.core m).pair.ctl 32 16 + 1) ∧ (t.core m).pair.again = true
        back t a w.fc w.f ∧ back t b w'.fc w'.f ∧ counted a ∧ counted b) ∧
      (ca.pair.again = true → Happens s (.fingerprintExchange n) fun t =>
        let trap (m : Nat) (w : Snapshot) : Context := w.fc.enterTrap (s.core m).sr.tvec w.fc.pc 0 0x34 0
        back t a (trap a w) (w.f.hold w.fc.pc) ∧ back t b (trap b w') (w'.f.hold w'.fc.pc) ∧
          flag (t.core a).pair.ctl 4 = true ∧ flag (t.core b).pair.ctl 4 = true)) ∧
    (let c := s.core n
     let p := s.core (partnerOf n)
     let gone := c.paired = true ∧ c.firing ≠ .idle ∧ ¬ met ∧
       (flag c.pair.ctl 2 = true ∨ p.lost = true ∨ p.firing = .idle ∨ p.paired = false)
     (¬ gone → Nothing s (.partnerTimeout n)) ∧
     (gone → c.pair.start = some w → Happens s (.partnerTimeout n) fun t =>
       let u := t.core n
       u.fc = w.fc.enterTrap c.sr.tvec w.fc.pc 0 0x35 0 ∧ u.f = w.f.hold w.fc.pc ∧ u.paired = false ∧
         flag u.pair.ctl 3 = true ∧ u.firing = c.firing ∧
         (p.paired = true → (t.core (partnerOf n)).paired = false ∧ flag (t.core (partnerOf n)).pair.ctl 3 = true)) ∧
     (c.pair.joining = some true → c.paired = false → Happens s (.pairTimeout n) fun t =>
       (t.core n).fc = c.fc.enterTrap c.sr.tvec c.fc.pc 0 0x35 0 ∧ (t.core n).pair.joining = none ∧
         (t.core n).firing = c.firing) ∧
     (c.pair.joining ≠ some true → Nothing s (.pairTimeout n)))

/-! ## Errors, tests, resets (R360 to R366, R372 to R374, R389, R390, R395) -/

/-- SELF_TEST_START takes the die's next cluster in turn for a test, unless it holds a team that must stay (R372);
SELF_TEST_COMPLETE returns a good one to service, and moves a bad one to the next bin, or beyond bin 3 out of use, as
CORRECTED_ERROR_THRESHOLD does with too many corrected errors (R374).

What an error leaves: a lost record (0x33 with its slot), a lost context (0x33, R364), a machine check (0x3F in every
core of the die, R365; the same for a die-wide structure, R360), a poisoned or corrected word of a scratchpad, of HBM or
of an RDC, a poisoned store in a store buffer (R361), a line or code under parity that is fetched again (R203), and for a
bad entry of the gating buffer the activation again, the interval again, or poison (R360). Each is logged.
A cluster that leaves under a running grid, and when F takes a notice, are the model's (logs 46, 62). -/
def Obligations.Errors : Prop :=
  (∀ (s : State) (d cl gid : Nat) (g : Grid),
    let x := s.die (d % 4)
    let next := 40 * (d % 4) + x.testNext % 40
    let c := s.cluster cl
    let team (k : Nat) : Prop := ∃ g ∈ s.grids, ∃ p ∈ g.2.place, p.2 = k
    let leaves (k : Nat) : Prop := ∃ g ∈ s.grids, k ∈ g.2.granted ∧ g.2.info.has .oversub = true ∧
      g.2.granted.length < g.2.info.clusters
    let moves (i : Instr) : Prop := Happens s i fun t =>
      (c.bin < 3 → t.cluster cl = { c with bin := c.bin + 1, test := some (c.bin + 1), errors := 0 } ∧ t.grids = s.grids) ∧
      (3 ≤ c.bin → t.cluster cl = { c with retired := true, test := none, errors := 0 } ∧
        (let gone := if g.info.levels.any fun l => l.1 == 2 then [cl, pairCluster cl] else [cl]
         s.grid gid = some g → (∀ p ∈ g.place, p.2 ∉ gone) →
          ∃ u, t.grid gid = some u ∧ u.granted = g.granted.filter (fun k => !gone.contains k) ∧ u.place = g.place))
    (x.inReset = true → Nothing s (.selfTestStart d)) ∧
    (x.inReset = false → Happens s (.selfTestStart d) fun t =>
      (t.die (d % 4)).testNext = (x.testNext + 1) % 40 ∧ t.cores = s.cores ∧
        let n := s.cluster next
        ((¬ team next ∨ leaves next) → n.test = none → n.retired = false →
          t.cluster next = { n with test := some n.bin }) ∧
        (team next ∧ ¬ leaves next ∨ n.test ≠ none ∨ n.retired = true → t.cluster next = n)) ∧
    (c.test ≠ none → ¬ team cl →
      (Happens s (.selfTestComplete cl true) fun t => t.cluster cl = { c with test := none } ∧ t.cores = s.cores) ∧
      moves (.selfTestComplete cl false)) ∧
    (c.test = none ∨ team cl → ∀ b, Nothing s (.selfTestComplete cl b)) ∧
    (s.control.threshold < c.errors → moves (.correctedErrorThreshold cl)) ∧
    (c.errors ≤ s.control.threshold → Nothing s (.correctedErrorThreshold cl))) ∧
  (∀ (s : State) (n d slot idx w : Nat) (e : GateEntry) (a : Activation) (p p' : Snapshot) (l : RdcLine) (store : EccStore)
    (found : EccResult), (s.core n).paired = false →
    let c := s.core n
    let logs (t : State) (d cause at_ : Nat) : Prop := (t.die d).log = (s.die d).log ++ [(cause, at_)]
    let k := ix 15 slot
    (slot < 16 → idx < (c.work.deques.get k).length → Happens s (.recordStoreParityError n slot idx) fun t =>
      let u := t.core n
      u.work.deques.get k = (c.work.deques.get k).eraseIdx idx ∧ c.otherDeques u k ∧
        u.notices = c.notices ++ [{ cause := 0x33, tval := BitVec.ofNat 64 slot }] ∧ logs t (dieOf n) 0x33 n ∧ u.fc = c.fc ∧
        t.mem = s.mem) ∧
    (16 ≤ slot ∨ (c.work.deques.get k).length ≤ idx → Nothing s (.recordStoreParityError n slot idx)) ∧
    (c.firing ≠ .idle → Happens s (.contextLost n) fun t =>
      t.core n = { c with notices := c.notices ++ [{ cause := 0x33, tval := 0 }], lost := true } ∧
        logs t (dieOf n) 0x33 n ∧ ∀ m, m ≠ n → t.core m = s.core m) ∧
    (c.firing = .idle → Nothing s (.contextLost n)) ∧
    Happens s (.machineCheck d) (fun t => logs t d 0x3F d ∧ t.mem = s.mem ∧
      ∀ m, t.core m = if m / 320 = d % 4 then
        { s.core m with notices := (s.core m).notices ++ [{ cause := 0x3F, tval := 0 }] } else s.core m) ∧
    Nothing s (.scrub store w .good) ∧ (s.hasSite store w = false → Nothing s (.scrub store w found)) ∧
    (w < Config.scratchBytes / 8 →
      Happens s (.scrub (.scratch n) w .corrected) (fun t =>
        (t.cluster (clusterOf n)).errors = (s.cluster (clusterOf n)).errors + 1 ∧ logs t (dieOf n) 0 n ∧ t.cores = s.cores) ∧
      Happens s (.scrub (.scratch n) w .uncorrectable) fun t =>
        (∀ i, i ∈ (t.core n).mem.poison ↔ i = w ∨ i ∈ c.mem.poison) ∧ (t.core n).mem.scratch = c.mem.scratch ∧
          logs t (dieOf n) 0x31 n ∧ (t.core n).fc = c.fc) ∧
    (8 * w < 4 * Config.dieBytes → absent s (8 * w) = false →
      Happens s (.scrub .home w .corrected) (fun t => logs t (homeDie (8 * w)) 0 w ∧ t.mem = s.mem ∧ t.poison = s.poison) ∧
      Happens s (.scrub .home w .uncorrectable) fun t =>
        (∀ i, i ∈ t.poison ↔ i = w ∨ i ∈ s.poison) ∧ t.mem = s.mem ∧ logs t (homeDie (8 * w)) 0x31 w) ∧
    (sget (s.die d).rdc (w / 16) = some l →
      Happens s (.scrub (.rdc d) w .corrected) (fun t => logs t d 0 w ∧ (t.die d).rdc = (s.die d).rdc) ∧
      Happens s (.scrub (.rdc d) w .uncorrectable) fun t =>
        (∃ l', sget (t.die d).rdc (w / 16) = some l' ∧ l'.bytes = l.bytes ∧ l'.dirty = l.dirty ∧
          ∀ i, i ∈ l'.poison ↔ i = w % 16 ∨ i ∈ l.poison) ∧ t.mem = s.mem ∧ logs t d 0x31 w) ∧
    (found ≠ .good →
      ((∃ x ∈ s.caches.l1, x.1 = n ∧ x.2.2.2 = w) → Happens s (.scrub (.l1 n) w found) fun t =>
        (∀ x, x ∈ t.caches.l1 ↔ x ∈ s.caches.l1 ∧ ¬ (x.1 = n ∧ x.2.2.2 = w)) ∧ logs t (dieOf n) 0 n ∧
          t.cores = s.cores ∧ t.mem = s.mem) ∧
      ((d, w) ∈ s.caches.cluster → Happens s (.scrub (.cluster d) w found) fun t =>
        t.caches.cluster = s.caches.cluster.erase (d, w) ∧ logs t (dieOf (8 * d)) 0 (8 * d) ∧ t.cores = s.cores ∧
          t.mem = s.mem) ∧
      (n < Config.coreCount → Happens s (.scrub (.code n) w found) fun t =>
        (t.cluster (clusterOf n)).errors = (s.cluster (clusterOf n)).errors + 1 ∧ logs t (dieOf n) 0 n ∧
          t.cores = s.cores ∧ t.mem = s.mem)) ∧
    (d < 4 → Happens s (.scrub (.array d) w .corrected) (fun t => logs t d 0 d ∧ t.cores = s.cores ∧ t.mem = s.mem) ∧
      exec (.scrub (.array d) w .uncorrectable) s = exec (.machineCheck d) s) ∧
    (∀ q, c.mem.buffer[w]? = some q → Nothing s (.scrub (.buffer n) w .corrected) ∧
      Happens s (.scrub (.buffer n) w .uncorrectable) fun t =>
        (t.core n).mem.buffer[w]? = some { q with poisoned := true } ∧
          (∀ j, j ≠ w → (t.core n).mem.buffer[j]? = c.mem.buffer[j]?) ∧ logs t (dieOf n) 0x31 n ∧ t.mem = s.mem) ∧
    (∀ i, c.mem.gate[idx]? = some e → i = Instr.gatingBufferParityError n idx →
      (e.act = true → c.act e.ctx = some a → a.trigger.ctx = e.ctx → a.second = false → Happens s i fun t =>
        (t.core n).act e.ctx = some { trigger := a.trigger, count := 0, out := [], second := true } ∧
          (∀ y ∈ (t.core n).mem.gate, y.ctx = e.ctx → y.act = false) ∧ logs t (dieOf n) 0x31 n) ∧
      (e.act = false → Happens s i fun t =>
        ((t.core n).mem.gate[idx]?).map (fun y => (y.parts, y.poisoned)) = some (e.parts, true) ∧
          (∀ j, j ≠ idx → (t.core n).mem.gate[j]? = c.mem.gate[j]?) ∧ logs t (dieOf n) 0x31 n)) ∧
    (∀ m, (s.core m).paired = true → (s.core m).mem.gate[idx]? = some e → e.act = false → e.interval = true →
      (s.core m).pair.start = some p → (s.core (partnerOf m)).pair.start = some p' →
      Happens s (.gatingBufferParityError m idx) fun t =>
        (t.core m).fc = p.fc ∧ (t.core m).f = p.f ∧ (t.core (partnerOf m)).fc = p'.fc ∧ (t.core (partnerOf m)).f = p'.f ∧
          logs t (dieOf m) 0x31 m ∧
          field (t.core m).pair.ctl 32 16 = Nat.min 65535 (field (s.core m).pair.ctl 32 16 + 1)) ∧
    (c.mem.gate[idx]? = none → Nothing s (.gatingBufferParityError n idx)))

/-- DIE_RESET, THERMAL_RESET and a RESET_REQUEST of a die kill everything on it: a grid with a team there ends with 0x33,
or, recoverable, keeps those teams to be restored and has RPEND set (R348, R366, R395). DIE_RELOAD returns the die to
service with the image that its ROM accepts, loaded by another die (R390). POWER_ON and a RESET_REQUEST of the device
leave every die in its ROM (R389).
What survives a die reset is the model's choice (log 45). -/
def Obligations.Resets : Prop :=
  ∀ (s : State) (d port gid : Nat) (g : Grid) (image : SignedImage),
    let x := d % 4
    let there (p : Nat × Nat) : Prop := dieOfCluster p.2 = x
    (∀ i, i = Instr.dieReset d ∨ i = .thermalReset d ∨ (i = .resetRequest port (.die d) ∧ s.holdsSem port = true) →
      Happens s i fun t =>
        (t.die x).inReset = true ∧ (t.die x).rdc = [] ∧ (t.die x).threads = [] ∧ (t.die x).launches = [] ∧
        (∀ n, dieOf n = x → (t.core n).ident.grid = none ∧ (t.core n).firing = .idle ∧ (t.core n).hAct = none ∧
          (t.core n).dAct = none) ∧
        (s.grid gid = some g → (∃ p ∈ g.place, there p) → g.info.has .recoverable = false →
          t.grid gid = none ∧ (g.by_, gid, 0x33) ∈ t.results) ∧
        (s.grid gid = some g → (∃ p ∈ g.place, there p) → g.info.has .recoverable = true →
          ∃ u, t.grid gid = some u ∧ u.recov.rpend = true ∧ (∀ p ∈ u.place, ¬ there p) ∧
            ∀ p ∈ g.place, there p → (sget u.saved p.1).isSome = true)) ∧
    (let helper := ∃ k, k < 4 ∧ k ≠ x ∧ (s.die k).inReset = false
     (s.control.image = some image → (s.die x).inReset = true → helper →
       (romAccepts image = true → exec (.dieReload d) s =
         .next (s.setDie x { s.die x with inReset := false, firmware := .running image.version })) ∧
       (romAccepts image = false → exec (.dieReload d) s = .next (s.setDie x { s.die x with firmware := .bad }))) ∧
     (s.control.image = none ∨ (s.die x).inReset = false ∨ ¬ helper → Nothing s (.dieReload d))) ∧
    (∀ i, i = Instr.powerOn ∨ (i = .resetRequest port .device ∧ s.holdsSem port = true) →
      Happens s i fun t =>
        (∀ k, t.die k = Die.reset) ∧ (∀ n, t.core n = Core.reset) ∧ t.mem = [] ∧ t.grids = [] ∧ t.net = [] ∧
        t.control = { State.reset.control with powerOns := s.control.powerOns + 1 } ∧
        ∀ c, t.cluster c = { Cluster.reset with bin := (s.cluster c).bin, retired := (s.cluster c).retired })

/-! ## Power and control ports (R166, R366, R373, R378 to R384, R387 to R395, R401) -/

/-- FORECAST_UPDATE counts the active cores and the jobs of a die, with the teams that come at a boundary due, and predicts
its power (R166, R401). The power manager
gives every die the highest clock under the cap (R394); a throttled one runs at 1.2 GHz until it recovers (R395).

A write to a free CTLSEM with a tag takes it, with a lease of 1,000 ms; the holder's write of its tag renews it, and
of 0 releases it; any other write is ignored; an expired lease frees it (R388). Every other operation of the control
ports needs CTLSEM, or counts NOSEM and does nothing (R387): downloads, which each die's ROM checks (R373, R389), the
tables of the fabric (R378, R380, R383, R384), the power cap (R394), and the control registers. ATTESTATION_REQUEST
answers a nonce with a signed report (R391).
Signatures and keys are uninterpreted; values out of range are not taken; no report without an image; what a team that
comes counts as is the model's (logs 15, 47, 48, 95). -/
def Obligations.Power_and_control : Prop :=
  (∀ (s : State) (d i : Nat) (due : List Nat) (bseEach greEach : Fin 33),
    let x := d % 4
    let active (n : Nat) : Bool :=
      let c := s.core n
      (match c.firing with | .slot _ => true | _ => false) ||
        match s.infoOf n with
        | some i => (List.range 16).any fun k =>
            match i.stage k with
            | some st => decide (st.rate ≤ (c.work.deques.get (ix 15 st.slot)).length ∧
                sumNat (st.ports.map (·.2)) + c.fibreReserve i ≤ c.work.free + st.rate)
            | none => false
        | none => false
    let come := s.swapIns x due
    let cores := ((List.range 320).filter fun k => active (320 * x + k) || come.contains ((320 * x + k) / 8)).length
    let jobs (f : Cluster → Nat) : Nat := sumNat ((s.clusters.filter fun p => dieOfCluster p.1 == x).map fun p => f p.2)
    let bse := Nat.min 2047 (jobs (·.bse.length) + come.length * bseEach.val)
    let gre := Nat.min 2047 (jobs (·.gre.length) + come.length * greEach.val)
    let k := (s.die x).coeff
    let power := k.get 0 + k.get 1 * cores + k.get 2 * Nat.min bse 40 + k.get 3 * Nat.min gre 40
    let total := sumNat (s.dies.toList.map fun d => field d.forecast 32 16)
    let fits (i : Nat) : Prop := total * (2400 - 100 * i) ≤ s.control.cap * 2400
    let highest := i ≤ 12 ∧ fits i ∧ ∀ j, j < i → ¬ fits j
    (∀ cl ∈ come, dieOfCluster cl = x ∧ ∃ g ∈ s.grids, g.1 ∈ due ∧ cl ∈ g.2.granted) ∧
    (Happens s (.forecastUpdate d due bseEach greEach) fun t =>
      let f := (t.die x).forecast
      field f 0 10 = cores ∧ field f 10 11 = bse ∧ field f 21 11 = gre ∧
        field f 32 16 = Nat.min 65535 ((power + 999) / 1000) ∧ { t with dies := s.dies } = s) ∧
    (highest → Happens s .powerManagerTick fun t =>
      (∀ e, t.die e = { s.die e with clock := if (s.die e).throttled then 1200 else 2400 - 100 * i }) ∧
        { t with dies := s.dies } = s) ∧
    (exec (.thermalThrottle d) s = .next (s.setDie x { s.die x with throttled := true, clock := 1200 })) ∧
    (highest → Happens s (.thermalRecover d) fun t =>
      (t.die x).throttled = false ∧ (t.die x).clock = 2400 - 100 * i ∧ { t with dies := s.dies } = s ∧
        ∀ e, e % 4 ≠ x → (s.die e).throttled = true → (t.die e).clock = 1200)) ∧
  (∀ (s : State) (port die endpoint entry frame egress tenant watts : Nat) (tag : BitVec 32) (image : SignedImage)
    (nonce : List Byte) (v w : Word) (owner : BitVec 16) (share : BitVec 8) (reg : ControlReg),
    let c := s.control
    let sem (u : Word) : State := { s with control := { c with sem := u } }
    let taken := BitVec.ofNat 64 (2 ^ 63 + 1000 * 2 ^ 48 + port % 2 * 2 ^ 32 + tag.toNat)
    let holds := c.sem.getLsbD 63 = true ∧ field c.sem 32 1 = port % 2
    let written (t : State) (bs : List Byte) : Prop := t.control = { c with config := c.config ++ bs }
    let onlyDies (t : State) : Prop := { t with dies := s.dies, control := c } = s
    (c.sem.getLsbD 63 = false → tag ≠ 0 → exec (.ctlsemWrite port tag) s = .next (sem taken)) ∧
    (holds → tag = 0 → exec (.ctlsemWrite port tag) s = .next (sem 0)) ∧
    (holds → tag ≠ 0 → field c.sem 0 32 = tag.toNat → exec (.ctlsemWrite port tag) s = .next (sem taken)) ∧
    ((c.sem.getLsbD 63 = false ∧ tag = 0) ∨ (c.sem.getLsbD 63 = true ∧ ¬ holds) ∨
      (holds ∧ tag ≠ 0 ∧ field c.sem 0 32 ≠ tag.toNat) → Nothing s (.ctlsemWrite port tag)) ∧
    exec .ctlsemLeaseExpiry s = .next (sem 0) ∧
    (¬ holds → ∀ i ∈ [Instr.firmwareDownload port image, .vectorPackage port image,
        .routeTableWrite port die endpoint v, .keyTableWrite port die entry v w, .frameOwnerWrite port die frame owner,
        .shareTableWrite port egress tenant share, .powerCapWrite port watts, .controlRegisterWrite port reg,
        .resetRequest port .device, .resetRequest port (.die die)],
      Happens s i fun t =>
        t.control.nosem.get (ix 1 port) = c.nosem.get (ix 1 port) + 1 ∧ { t with control := c } = s ∧ t.control.sem = c.sem) ∧
    (holds →
      (Happens s (.firmwareDownload port image) fun t =>
        (∀ d, t.die d = if (s.die d).inReset then s.die d else { s.die d with
          firmware := if romAccepts image then .running image.version else .bad }) ∧
        t.control = { c with image := if romAccepts image then some image else c.image } ∧ onlyDies t) ∧
      (Happens s (.vectorPackage port image) fun t =>
        (∀ d, t.die d = if romAccepts image ∧ (s.die d).vectors ≤ image.version then
            { s.die d with vectors := image.version }
          else { s.die d with log := (s.die d).log ++ [(0, image.version)] }) ∧ t.control = c ∧ onlyDies t) ∧
      (endpoint < 1024 → Happens s (.routeTableWrite port die endpoint v) fun t =>
        sget (t.die die).routes endpoint = some (v &&& 0xE000FFFF) ∧ written t (bytesOf 8 v.toNat) ∧ onlyDies t ∧
        ∀ e, e ≠ endpoint → sget (t.die die).routes e = sget (s.die die).routes e) ∧
      (entry < 4096 → Happens s (.keyTableWrite port die entry v w) fun t =>
        sget (t.die die).keys entry = some (v &&& 0xFFFFFFFFFFFF, w &&& 0xC3FF00FF) ∧ onlyDies t ∧
        written t (bytesOf 8 v.toNat ++ bytesOf 8 w.toNat)) ∧
      (frame < Config.dieBytes / 0x200000 → Happens s (.frameOwnerWrite port die frame owner) fun t =>
        sget (t.die die).frames frame = some (owner &&& 0x80FF) ∧ written t (bytesOf 2 owner.toNat) ∧ onlyDies t) ∧
      (egress < 16 → tenant < 256 → Happens s (.shareTableWrite port egress tenant share) fun t =>
        sget (t.port egress).shares tenant = some share ∧ written t (bytesOf 1 share.toNat) ∧ onlyDies t) ∧
      (800 ≤ watts → watts ≤ 2200 → Happens s (.powerCapWrite port watts) fun t =>
        t.control = { c with cap := watts, config := c.config ++ bytesOf 2 watts } ∧ onlyDies t) ∧
      (let writes (r : ControlReg) (p : State → Prop) : Prop := Happens s (.controlRegisterWrite port r) fun t =>
          p t ∧ t.control.config = c.config ++ configBytes r ∧ t.mem = s.mem ∧ t.cores = s.cores ∧ t.grids = s.grids
       (∀ n, n ≤ 8 → s.keep.blocks = [] → writes (.keepSize n) fun t => t.keep.gib = n) ∧
       (∀ n, 100 ≤ n → n ≤ 100000 → writes (.remoteTimeout n) fun t => t.fabric.timeout = n) ∧
       (∀ code, writes (.walkerStore die code) fun t => (t.die (die % 4)).store = code.take 16384) ∧
       (∀ a, writes (.spaceTable die a) fun t => (t.die (die % 4)).table = a) ∧
       (∀ a b e f, writes (.powerCoeff die a b e f) fun t =>
        (t.die (die % 4)).coeff = #v[a % 2 ^ 32, b % 2 ^ 32, e % 2 ^ 32, f % 2 ^ 32]) ∧
       (∀ n, n < 1024 → writes (.endpointId n) fun t => t.fabric.endpoint = n) ∧
       (∀ n, 1 ≤ n → n ≤ 86400 → writes (.testInterval n) fun t => t.control.interval = n) ∧
       (∀ n, writes (.errorThreshold n) fun t => t.control.threshold = n) ∧
       (∀ p, p < 16 → writes (.linkKey p) fun t => (t.port p).linkKey = true) ∧
       (∀ io code, io < 12 → writes (.ioStore die io code) fun t =>
        (t.ioCore (die % 4) io).store = code ∧ (t.ioCore (die % 4) io).running = true ∧
          (t.ioCore (die % 4) io).ctx.pc = 0) ∧
       (∀ io qp base n, io < 12 → qp < 768 → (s.ioCore (die % 4) io).queues.length < 16 →
        writes (.ioQueue die io qp base n) fun t =>
          (t.ioCore (die % 4) io).queue qp = some { qp := qp, base := base, entries := n, next := 0, done := [] }))) ∧
    (∀ i, c.image = some i → port < 2 → nonce.length = 32 →
      let report := nonce ++ sm3 (SignedBytes i ++ i.sig) ++ sm3 c.config ++ Config.partNumber
      exec (.attestationRequest port nonce) s = .next { s with control := { c with
        reports := c.reports ++ [report ++ Config.deviceSign c.powerOns report] } }))

/-! ## The fabric (R217, R376 to R386) -/

/-- Each of the twelve events of the fabric completes, from every state, and does what follows. A port trains to 4, 2
or 1 lanes, or stays down (R376); of a port that goes down the requests that wait take another
port, or fail with 0x36 (R378). A port serves the next tenant in turn, which may send its share (R384). A status, or the
timeout (0x37), answers the request that waits, and what left at a FEND tells an error to F (R378, R382). A recalled line
leaves every RDC (R386).

INBOUND_REQUEST checks the key and the tenant's right to the frames, counts what fails, and performs a read, a write
or an atomic at the home of its bytes (R381, R383, R385); INBOUND_MESSAGE sends what arrives to its core, or answers NOTGT
(R382). Migration: the lowest of the endpoints that ask wins, others fail, and the page moves with its bytes (R217).
A port without a key, requests beyond R381's cases, clean lines of other endpoints and pages of 4 KiB are
the model's (logs 42, 43, 44, 83); the port hash is free (log 11). -/
def Obligations.Links : Prop :=
  (∀ (s : State) (p lanes id endpoint line page : Nat) (authentic : Bool) (st : RemoteStatus) (data : List Byte)
    (r : InRequest) (m : InMessage),
    ∀ i ∈ [Instr.linkTraining p lanes authentic, .portDown p, .linkLevelRetry p, .egressArbitration p,
        .remoteResponse id st data, .remoteTimeout id, .directoryRecall endpoint line, .inboundRequest p r,
        .inboundMessage p m, .migrationRequest page endpoint, .migrationComplete page data, .migrationHoldExpiry page],
      ∃ t, exec i s = .next t) ∧
  (∀ (s : State) (p lanes id endpoint line : Nat) (authentic : Bool) (r : RemoteReq) (e : Egress) (st : RemoteStatus)
    (data : List Byte),
    let x := s.port p
    let up (y : Port) : Prop := 0 < y.lanes
    let trains := (lanes = 1 ∨ lanes = 2 ∨ lanes = 4) ∧ (x.linkKey = false ∨ authentic = true)
    let down (t : State) : Prop :=
      let others := (s.portsUp (field ((sget (s.die r.die).routes r.endpoint).getD 0) 0 16)).filter fun k => k != p
      (t.port p).lanes = 0 ∧ (t.port p).egress = [] ∧
      (s.fabric.reqs = [r] → r.port ≠ p → t.fabric.reqs = [r]) ∧
      (s.fabric.reqs = [r] → r.port = p → others ≠ [] → ∃ k ∈ others, t.fabric.reqs = [{ r with port := k }]) ∧
      (s.fabric.reqs = [r] → r.port = p → others = [] → t.fabric.reqs = [] ∧
        (r.late = false → (t.core r.src.core).waits.remote = (s.core r.src.core).waits.remote.map fun w =>
          if w.id = r.id then { w with answer := some (.linkDown, []) } else w))
    (p < 16 →
      ((s.die (p / 4)).inReset = true → Nothing s (.linkTraining p lanes authentic)) ∧
      ((s.die (p / 4)).inReset = false → trains → Happens s (.linkTraining p lanes authentic) fun t =>
        t.port p = { x with lanes := lanes } ∧ { t with dies := s.dies } = s) ∧
      ((s.die (p / 4)).inReset = false → ¬ trains → Happens s (.linkTraining p lanes authentic) down) ∧
      Happens s (.portDown p) down ∧
      (up x → Happens s (.linkLevelRetry p) fun t =>
        t.port p = { x with retries := x.retries + 1 } ∧ { t with dies := s.dies } = s) ∧
      (¬ up x → Nothing s (.linkLevelRetry p) ∧ Nothing s (.egressArbitration p)) ∧
      (up x → e ∈ x.egress → (x.egress.map (·.tenant)).Nodup → e.queue ≠ [] →
        (∀ y ∈ x.egress, y.queue ≠ [] → x.lastSent < y.tenant → x.lastSent < e.tenant ∧ e.tenant ≤ y.tenant) →
        (x.lastSent < e.tenant ∨ ∀ y ∈ x.egress, y.queue ≠ [] → e.tenant ≤ y.tenant) →
        let credit := e.deficit + Nat.max 1 ((sget x.shares e.tenant).getD 0).toNat * 256
        Happens s (.egressArbitration p) fun t =>
          (t.port p).lastSent = e.tenant ∧ { t with dies := s.dies } = s ∧
          ∃ k d, { e with queue := e.queue.drop k, deficit := d } ∈ (t.port p).egress ∧
            sumNat ((e.queue.take k).map (·.2)) ≤ credit ∧
            (e.queue.drop k = [] → d = 0) ∧
            ∀ q rest, e.queue.drop k = q :: rest → d = credit - sumNat ((e.queue.take k).map (·.2)) ∧ d < q.2)) ∧
    (let answers (i : Instr) (st : RemoteStatus) (data : List Byte) : Prop :=
      ((∀ y ∈ s.fabric.reqs, y.id ≠ id) → Nothing s i) ∧
      (s.fabric.reqs.find? (fun y => y.id == id) = some r → Happens s i fun t =>
        t.fabric.reqs = s.fabric.reqs.filter (fun y => y.id != id) ∧ t.mem = s.mem ∧
        (r.late = false →
          (t.core r.src.core).waits.remote = (s.core r.src.core).waits.remote.map (fun w =>
            if w.id = id then { w with answer := some (st, data) } else w) ∧
          t.fabric.engine = s.fabric.engine.map fun a => if a.id = id then { a with answer := some (st, data) } else a) ∧
        (r.late = true → (s.core r.src.core).paired = false → (t.core r.src.core).notices =
          (s.core r.src.core).notices ++ ((remoteCause st).toList.map fun c => { cause := c, tval := r.tval })))
     (s.unsent id = true → Nothing s (.remoteResponse id st data)) ∧
     (s.unsent id = false → answers (.remoteResponse id st data) st data) ∧ answers (.remoteTimeout id) .timeout []) ∧
    Happens s (.directoryRecall endpoint line) fun t =>
      let l := (Config.fabricBase + endpoint * 2 ^ 40) / 128 + line
      ∀ d, sget (t.die d).rdc l = none ∧ (∀ k, k ≠ l → sget (t.die d).rdc k = sget (s.die d).rdc k) ∧ t.mem = s.mem) ∧
  (∀ (s : State) (p tenant gid k page endpoint : Nat) (r : InRequest) (m : InMessage) (g : Grid) (kind : ItemKind)
    (bytes : List Byte),
    let d := s.die (p / 4)
    let off := r.offset
    let n := inSpan r.kind off
    let answer (t : State) (st : RemoteStatus) (data : List Byte) : Prop :=
      t.fabric.answers = s.fabric.answers ++ [(p, st, data)]
    let counts (t : State) (f : Port → Nat) : Prop := f (t.port p) = Nat.min (f (s.port p) + 1) 0xFFFFFFFF
    (p < 16 → 0 < (s.port p).lanes →
      (d.tenantOf r.src r.ext = none → Happens s (.inboundRequest p r) fun t =>
        answer t .key [] ∧ counts t (·.keyErr) ∧ t.mem = s.mem) ∧
      (d.tenantOf r.src r.ext = some tenant →
        (n = 0 ∨ Config.fabricBase < off + n ∨ s.tenantMay tenant off n = false → Happens s (.inboundRequest p r) fun t =>
          answer t .perm [] ∧ counts t (·.permErr) ∧ t.mem = s.mem) ∧
        (n ≠ 0 → off + n ≤ Config.fabricBase → s.tenantMay tenant off n = true →
          let busy := s.pageBusy off = true ∨ s.pageBusy (off + n - 1) = true
          let poisoned := ∃ i, i < n ∧ (off + i) / 8 ∈ s.poison
          let old := memGetList s.mem off n
          let elsewhere (t : State) : Prop := ∀ a, a < off ∨ off + n ≤ a → memGet t.mem a = memGet s.mem a
          (busy → Happens s (.inboundRequest p r) fun t => answer t .busy [] ∧ t.mem = s.mem) ∧
          (¬ busy → s.inboundWaits off n = true → Nothing s (.inboundRequest p r)) ∧
          (¬ busy → s.inboundWaits off n = false →
            (r.kind = .read n → ¬ poisoned → Happens s (.inboundRequest p r) fun t => answer t .ok old ∧ t.mem = s.mem) ∧
            (r.kind = .read n → poisoned → Happens s (.inboundRequest p r) fun t => answer t .poison [] ∧ t.mem = s.mem) ∧
            (r.kind = .write bytes → Happens s (.inboundRequest p r) fun t =>
              answer t .ok [] ∧ memGetList t.mem off n = bytes ∧ elsewhere t) ∧
            (∀ op b c, r.kind = .atomic op n b c → ¬ poisoned → Happens s (.inboundRequest p r) fun t =>
              let new := ((AtomOp.ofCode op).apply n (natOf old) (b.toNat % 2 ^ (8 * n)) (c.toNat % 2 ^ (8 * n))).1
              answer t .ok old ∧ elsewhere t ∧
                memGetList t.mem off n = ((new.map fun v => bytesOf n v).getD old))))) ∧
      (d.tenantOf m.src m.ext = none → Happens s (.inboundMessage p m) fun t =>
        answer t .key [] ∧ counts t (·.keyErr) ∧ t.net = s.net) ∧
      (d.tenantOf m.src m.ext = some tenant →
        (s.messageGrid tenant = none → Happens s (.inboundMessage p m) fun t => answer t (.notgt false) [] ∧ t.net = s.net) ∧
        (s.messageGrid tenant = some (gid, g) →
          let there := m.core < 8 * g.info.clusters ∧ g.coreOf m.core = some k
          (8 * g.info.clusters ≤ m.core ∨ g.coreOf m.core = none → Happens s (.inboundMessage p m) fun t =>
            answer t (.notgt false) [] ∧ t.net = s.net) ∧
          (there → g.info.arrival m = none → Happens s (.inboundMessage p m) fun t =>
            answer t (.notgt true) [] ∧ t.net = s.net) ∧
          (there → g.info.arrival m = some kind → (s.core k).paired = false → Happens s (.inboundMessage p m) fun t =>
            t.net = s.net ++ [{ grid := gid, target := m.core, held := false, item :=
              { src := none, kind := kind, lvlid := m.lvlid, cls := m.cls, w0 := m.w0, w1 := m.w1, scope := .sy,
                port := if m.kind = .sendh then some p else none } }] ∧
            (m.kind ≠ .sendh → answer t .ok []) ∧ (m.kind = .sendh → t.fabric = s.fabric))))) ∧
    ((s.port p).lanes = 0 → Nothing s (.inboundRequest p r) ∧ Nothing s (.inboundMessage p m)) ∧
    (let y := s.fabric.page page
     let self_ := s.fabric.endpoint
     let becomes (z : Migration) (t : State) : Prop := t.fabric.page page = z ∧ t.mem = s.mem
     let refuse (y : Migration) : Migration :=
       { y with refused := y.refused ++ y.waiting.filter (fun r => !y.refused.contains r), waiting := [] }
     let settled (y : Migration) (asking : List Nat) : Migration :=
       match asking with
       | [] => { y with asking := [] }
       | e :: rest => { (if self_ ∈ rest then refuse y else y) with asking := [], moving := some e }
     (endpoint = y.home → Nothing s (.migrationRequest page endpoint)) ∧
     (endpoint ≠ y.home → y.hold = true ∨ y.moving ≠ none →
      Happens s (.migrationRequest page endpoint) (becomes (if endpoint = self_ then refuse y else y))) ∧
     (endpoint ≠ y.home → y.hold = false → y.moving = none →
      Happens s (.migrationRequest page endpoint) (becomes (settled y (insertNat y.asking endpoint)))) ∧
     (y.moving = none → Nothing s (.migrationComplete page bytes)) ∧
     (∀ e, y.moving = some e → Happens s (.migrationComplete page bytes) fun t =>
      t.fabric.page page =
        { (if self_ ∈ y.asking ∧ e ≠ self_ then refuse y else { y with waiting := [] }) with
          home := e, asking := [], moving := none, hold := true } ∧
      (∀ d l, d < 4 → l / 32 = page → sget (t.die d).rdc l = none) ∧
      (e = self_ → bytes.length = 4096 → memGetList t.mem (4096 * page) 4096 = bytes)) ∧
     (y.hold = false → Nothing s (.migrationHoldExpiry page)) ∧
     (y.hold = true → Happens s (.migrationHoldExpiry page) (becomes (settled { y with hold := false } y.asking)))))

/-! ## Words, steps and reset -/

/-- Words that the spec's tables write out decode to the instructions that they stand for (R33, R46 to R63, R83, R88, R126,
R219, R232, R342, R371). -/
def Obligations.Decoded_words : Prop :=
  let plain : Qual := { ord := .plain, scope := .co }
  ∀ w r, (w, r) ∈
    ([(0x4002030A, .ok (.addImm 3 16 512)), (0x8000852E, .ok (.ldW 5 4 0x100 plain)),
      (0x00F81822, .ok (.bqe 0 7)),
      (0x00100002000B1C13, .ok (.vmulXv { fmt := .f32, rnd := .rne, nsat := false, k := 0, q := true } 28 24 2)),
      (0x9FE8, .ok (.c16J 0x3FA)), (0x2094, .ok (.c16Li 5 1)), (0x00A2, .error .major32),
      (0xFFFFFF02, .ok (.hint 0xFFFFFF)), (0x0000006A, .ok .sysc), (0x0080006A, .ok .retk), (0x0100006A, .ok .wfi),
      (0x70148062, .ok (.amoAddD 0 4 5 { ord := .rel, scope := .dv })),
      (0x5E1CC55E, .ok (.casW 5 6 7 { ord := .sc, scope := .di })),
      (0x00000002B014830F, .ok (.amoFmaxXa 3 4 5 plain .far)),
      (0x00100066, .ok (.fence { ord := .plain, scope := .cl })), (0x00808366, .ok (.rpseal 3 4)),
      (0x000C4182, .ok (.vadd .bf16 0 false 1 2 3)), (0x9094827E, .ok (.vcmpLt .f32 1 false 2 4 5)),
      (0x1C021F9E, .ok (.gmvv true 31 16)),
      (0x0020002010002213, .ok (.vcvt { fmt := .bf16, rnd := .rne, nsat := false, k := 0, q := false } .f32 1 2 1)),
      (0x000000E311882613,
        .ok (.vdotMx { fmt := .gf4, rnd := .rne, nsat := false, k := 0, q := false } false 6 1 2 3)),
      (0x0280007A, .ok .pair), (0x0300007A, .ok .unpair)] : List (Nat × Except Reserved Instr)) →
    decode w = r

/-- A step takes the next move of the agenda, or else the first agent's turn, and the agent goes to the back. An event
of the agenda is executed with nobody's turn; the C-stream, L-stream or S-stream of a core, an I/O core and a walker
thread issue the instruction at their offset (`State.issues`), with the turn theirs and nothing else changed, where no
activation starts or ends, no notice is due and nothing holds them. The order of the agents is the model's (DESIGN CHOICE,
log 10). -/
def Obligations.Step_runs_decoded : Prop :=
  ∀ s : State,
    (∀ i rest, s.agenda = .event i :: rest → step s = exec i { s with agenda := rest, turn := .env }) ∧
    (s.agenda = [] → ∀ a as, s.agents = a :: as →
      let r := { s with agents := as ++ [a] }
      (∀ n x, a = .cStream n → s.down n = false → Nothing { r with turn := .env } (.hActivationStart n) →
        Nothing { r with turn := .env } (.activationLimit n) → (s.core n).paired = false →
        let c := s.core n
        let t := { (r.modCore n fun c => { c with dTurn := c.dAct.isSome && !c.dNext }) with turn := .core n x }
        (x = .d ∧ c.dNext = true ∨ x = .h ∧ c.dNext = false ∧ c.hAct.isSome = true ∨
          x = .f ∧ c.dNext = false ∧ c.hAct = none ∧ flag c.pair.ctl 2 = false ∧ c.fIdle = false ∧ c.wfi = false ∧
            t.noticeDue n = false ∧ t.mayIssue n .f = true ∧ (c.f.cEnded = false ∨ c.fc.inTrap = true)) →
        t.issues (step s)) ∧
      (∀ n x, a = .lStream n ∧ x = .l ∧ (s.core n).f.l.ended = false ∨
          a = .sStream n ∧ x = .s ∧ (s.core n).f.s.ended = false →
        s.down n = false → (s.core n).f.held = false → (s.core n).fIdle = false → r.mayIssue n x = true →
        State.issues { r with turn := .core n x } (step s)) ∧
      (∀ d k, a = .ioCore d k → (s.die d).inReset = false → (s.ioCore d k).running = true →
        State.issues { r with turn := .io d k } (step s)) ∧
      (∀ d th ths, a = .walker d → (s.die d).inReset = false → Nothing { r with turn := .env } (.tlbMissWalk d) →
        (s.die d).threads = th :: ths → th.count < 1024 →
        State.issues { r with turn := .walker d th.tid } (step s)))

/-- Whoever executes an instruction, and whatever the instruction, the machine goes on: its effect, the trap of R32 or
its wait is a next state, never a stop. An instruction that ran leaves, besides its own effect, only the offset of
whoever executed, and what the part counts about it: registers, memory and every special register are kept. -/
def Obligations.Execution : Prop :=
  (∀ (i : Instr) (s : State), s.executing = true → ∃ t, exec i s = .next t) ∧
  (∀ (s : State) (next : Word), s.executing = true → s.movedTo (s.retire next) next)

/-- Every step keeps the memory of the part (HBM as a whole) in its canonical form: addresses strictly rising, and no byte
listed that reads as an unlisted one does. Equal memories are then equal data. -/
def Obligations.Memory_stays_canonical : Prop :=
  ∀ s t : State, memoryWf s → step s = .next t → memoryWf t

/-- What power-on reset leaves, as the field maps and rules give it: every context in M with the trap, flag and vector
registers zero and its own CTX (R44, R45, R99, R100), `k0` all ones, the generator at 1 (R101), TSCALE of WCFG4 at 1.0 with
every other window field zero (R195, R196), no firing and no identity (R42), job, copy and recovery registers zero
(R326, R340 to R342, R370), every die in its ROM (R389) with its ports down (R376), the power cap at 2,200 W (R394), the
remote timeout at 1 ms (R378). Where the spec gives no value the model's choice is zero (DESIGN CHOICE, logs 1 to 7), and
memory lists nothing, in canonical form. -/
def Obligations.Reset_values : Prop :=
  let s := State.reset
  memoryWf s ∧ s.mem = [] ∧ s.grids = [] ∧ s.net = [] ∧ s.control.cap = 2200 ∧ s.fabric.timeout = 1000 ∧
  (∀ n x, x = .f ∨ x = .h ∨ x = .d →
    let k := (s.core n).context x
    k.priv = 3 ∧ field k.status 12 2 = (match x with | .h => 1 | .d => 2 | _ => 0) ∧ k.pp = 0 ∧ k.upe = false ∧
    flag k.status 6 = false ∧
    k.ie = false ∧ k.dze = false ∧ k.rnge = false ∧ k.fpstat = 0 ∧ k.frm = 0 ∧ k.epc = 0 ∧ k.cause = 0 ∧ k.tval = 0 ∧
    (∀ r, k.readG r = 0) ∧ (∀ r, k.v.get r = 0) ∧ k.pc = 0) ∧
  (∀ n,
    let c := s.core n
    c.sr.tvec = 0 ∧ c.sr.uvec = 0 ∧ c.sr.asid = 0 ∧ c.f.srseed = 1 ∧ c.f.fire = 0 ∧ c.f.k.get 0 = BitVec.allOnes 128 ∧
    (∀ q, c.f.q.get q = []) ∧ c.sr.wcfg.get 3 = 0x3F80000000000000 ∧ (∀ w, w ≠ 3 → c.sr.wcfg.get w = 0) ∧
    c.sr.bjob = 0 ∧ c.sr.gjob = 0 ∧ c.sr.bstat = 0 ∧ c.sr.gstat = 0 ∧ c.sr.rpstat = 0 ∧ c.pair.ctl = 0 ∧
    c.pair.fprint = 0 ∧ c.ident.grid = none ∧ c.firing = .idle ∧ c.hAct = none ∧ c.dAct = none ∧ c.inbox = [] ∧
    (∀ ch : Fin 4, let h := c.jobs.chans.get ch
      h.issued = 0 ∧ h.done = 0 ∧ h.stall = false ∧ h.dlv = false ∧ h.fail = false ∧ h.run = none) ∧
    (∀ k, c.work.deques.get k = [])) ∧
  (∀ d, (s.die d).firmware = .rom ∧ (s.die d).inReset = false ∧ ∀ p, ((s.die d).ports.get p).lanes = 0)
end

