-- ==== Sys2Proof/Laws/Sparse.lean ====
section
/-! SUPPORT. Sparse data and memories: a read after a write, and the canonical form that every memory operation
keeps. -/

namespace Sys2Proof.Machine

/-! ## Sparse data -/

@[simp] theorem sget_sset_same {α : Type} (l : Sparse α) (k : Nat) (v : α) : sget (sset l k v) k = some v := by
  induction l with
  | nil => simp [sset, sget]
  | cons p rest ih =>
    obtain ⟨a, x⟩ := p
    unfold sset
    split
    · simp [sget, *]
    · split
      · simp [sget]
      · simp [sget, *]

theorem sget_sset_other {α : Type} (l : Sparse α) {j k : Nat} (v : α) (h : j ≠ k) : sget (sset l k v) j = sget l j := by
  induction l with
  | nil => simp [sset, sget, h.symm]
  | cons p rest ih =>
    obtain ⟨a, x⟩ := p
    unfold sset
    split
    · rename_i e; subst e; simp [sget, h.symm]
    · split
      · simp [sget, h.symm]
      · simp [sget, ih]

@[simp] theorem sget_sdel_same {α : Type} (l : Sparse α) (k : Nat) : sget (sdel l k) k = none := by
  induction l with
  | nil => rfl
  | cons p rest ih =>
    obtain ⟨a, x⟩ := p
    by_cases e : a = k
    · simpa [sdel, e] using ih
    · simpa [sdel, e, sget] using ih

theorem sget_sdel_other {α : Type} (l : Sparse α) {j k : Nat} (h : j ≠ k) : sget (sdel l k) j = sget l j := by
  induction l with
  | nil => rfl
  | cons p rest ih =>
    obtain ⟨a, x⟩ := p
    by_cases e : a = k
    · subst e; simpa [sdel, sget, h.symm] using ih
    · by_cases e' : a = j
      · subst e'; simp [sdel, e, sget]
      · simpa [sdel, e, e', sget] using ih

/-! ## Memories -/

@[simp] theorem memGet_memSet_same (m : List Host.Cell) (a : Nat) (b : Byte) : memGet (memSet m a b) a = b := by
  unfold memGet memSet
  split <;> simp [*]

theorem memGet_memSet_other (m : List Host.Cell) {a c : Nat} (b : Byte) (h : c ≠ a) :
    memGet (memSet m a b) c = memGet m c := by
  unfold memGet memSet
  split
  · rw [sget_sdel_other _ h]
  · rw [sget_sset_other _ _ h]

/-- Bytes written from `a` upward leave every other address alone. -/
theorem memGet_memSetList_outside (m : List Host.Cell) (a : Nat) (bs : List Byte) (c : Nat)
    (h : c < a ∨ a + bs.length ≤ c) : memGet (memSetList m a bs) c = memGet m c := by
  induction bs generalizing m a with
  | nil => rfl
  | cons b rest ih =>
    simp only [List.length_cons] at h
    rw [memSetList, ih (memSet m a b) (a + 1) (by omega), memGet_memSet_other _ _ (by omega)]

/-- A byte of a list written from `a` upward reads back. -/
theorem memGet_memSetList_inside (m : List Host.Cell) (a : Nat) (bs : List Byte) (i : Nat) (h : i < bs.length) :
    memGet (memSetList m a bs) (a + i) = bs[i] := by
  induction bs generalizing m a i with
  | nil => simp at h
  | cons b rest ih =>
    cases i with
    | zero => rw [memSetList, memGet_memSetList_outside _ _ _ _ (by omega)]; simp
    | succ k =>
      have h' : k < rest.length := by simpa using h
      simpa [memSetList, Nat.add_assoc, Nat.add_comm 1] using ih (memSet m a b) (a + 1) k h'

/-- Bytes written from an address upward read back. -/
theorem memGetList_memSetList (m : List Host.Cell) (a : Nat) (bs : List Byte) :
    memGetList (memSetList m a bs) a bs.length = bs := by
  apply List.ext_getElem
  · simp [memGetList]
  · intro i h h'
    simpa [memGetList] using memGet_memSetList_inside m a bs i h'

/-! ## The canonical form -/

theorem Memory.wfFrom_mono {lo lo' : Nat} {m : List Host.Cell} (h : lo' ≤ lo) (w : Memory.wfFrom lo m = true) :
    Memory.wfFrom lo' m = true := by
  cases m with
  | nil => rfl
  | cons p rest =>
    obtain ⟨a, b⟩ := p
    simp only [Memory.wfFrom, Bool.and_eq_true, decide_eq_true_eq] at w ⊢
    exact ⟨⟨le_trans h w.1.1, w.1.2⟩, w.2⟩

theorem Memory.wfFrom_sset {lo : Nat} {m : List Host.Cell} {a : Nat} {b : Byte} (w : Memory.wfFrom lo m = true)
    (h : lo ≤ a) (hb : b ≠ Config.unwrittenByte) : Memory.wfFrom lo (sset m a b) = true := by
  induction m generalizing lo with
  | nil => simp [sset, Memory.wfFrom, h, hb]
  | cons p rest ih =>
    obtain ⟨c, x⟩ := p
    simp only [Memory.wfFrom, Bool.and_eq_true, decide_eq_true_eq, bne_iff_ne] at w
    unfold sset
    split
    · rename_i e; subst e; simp [Memory.wfFrom, w.1.1, hb, w.2]
    · split
      · simp only [Memory.wfFrom, Bool.and_eq_true, decide_eq_true_eq, bne_iff_ne]
        exact ⟨⟨h, hb⟩, ⟨⟨by omega, w.1.2⟩, w.2⟩⟩
      · simp only [Memory.wfFrom, Bool.and_eq_true, decide_eq_true_eq, bne_iff_ne]
        exact ⟨w.1, ih w.2 (by omega)⟩

theorem Memory.wfFrom_filter {lo : Nat} {m : List Host.Cell} (f : Host.Cell → Bool) (w : Memory.wfFrom lo m = true) :
    Memory.wfFrom lo (m.filter f) = true := by
  induction m generalizing lo with
  | nil => rfl
  | cons p rest ih =>
    obtain ⟨c, x⟩ := p
    simp only [Memory.wfFrom, Bool.and_eq_true, decide_eq_true_eq, bne_iff_ne] at w
    rw [List.filter_cons]
    split
    · simp only [Memory.wfFrom, Bool.and_eq_true, decide_eq_true_eq, bne_iff_ne]
      exact ⟨w.1, ih w.2⟩
    · exact Memory.wfFrom_mono (by omega) (ih w.2)

/-- Writing a byte keeps the canonical form. -/
theorem Memory.wf_memSet {m : List Host.Cell} (a : Nat) (b : Byte) (w : Memory.wf m = true) :
    Memory.wf (memSet m a b) = true := by
  unfold memSet
  split
  · exact Memory.wfFrom_filter _ w
  · exact Memory.wfFrom_sset w (Nat.zero_le a) ‹_›

/-- Writing bytes keeps the canonical form. -/
theorem Memory.wf_memSetList {m : List Host.Cell} (a : Nat) (bs : List Byte) (w : Memory.wf m = true) :
    Memory.wf (memSetList m a bs) = true := by
  induction bs generalizing m a with
  | nil => exact w
  | cons b rest ih => exact ih (a + 1) (Memory.wf_memSet a b w)

/-- Equal memories are equal data: canonical memories that read alike everywhere are the same list. -/
theorem Memory.eq_of_memGet_eq {m m' : List Host.Cell} (w : Memory.wf m = true) (w' : Memory.wf m' = true)
    (h : ∀ a, memGet m a = memGet m' a) : m = m' := by
  have below : ∀ {lo : Nat} {l : List Host.Cell}, Memory.wfFrom lo l = true → ∀ a < lo, sget l a = none := by
    intro lo l
    induction l generalizing lo with
    | nil => intro _ a _; rfl
    | cons p rest ih =>
      intro hw a ha
      obtain ⟨c, x⟩ := p
      simp only [Memory.wfFrom, Bool.and_eq_true, decide_eq_true_eq, bne_iff_ne] at hw
      have hc : c ≠ a := by omega
      simpa [sget, hc] using ih hw.2 a (by omega)
  have key : ∀ (lo : Nat) (l l' : List Host.Cell), Memory.wfFrom lo l = true → Memory.wfFrom lo l' = true →
      (∀ a, memGet l a = memGet l' a) → l = l' := by
    intro lo l
    induction l generalizing lo with
    | nil =>
      intro l' _ hw' hg
      cases l' with
      | nil => rfl
      | cons p rest =>
        obtain ⟨c, x⟩ := p
        simp only [Memory.wfFrom, Bool.and_eq_true, decide_eq_true_eq, bne_iff_ne] at hw'
        have := hg c
        simp [memGet, sget] at this
        exact absurd this.symm hw'.1.2
    | cons p rest ih =>
      intro l' hw hw' hg
      obtain ⟨c, x⟩ := p
      simp only [Memory.wfFrom, Bool.and_eq_true, decide_eq_true_eq, bne_iff_ne] at hw
      cases l' with
      | nil =>
        have := hg c
        simp [memGet, sget] at this
        exact absurd this hw.1.2
      | cons p' rest' =>
        obtain ⟨c', x'⟩ := p'
        simp only [Memory.wfFrom, Bool.and_eq_true, decide_eq_true_eq, bne_iff_ne] at hw'
        have hcc : c = c' := by
          rcases Nat.lt_trichotomy c c' with hlt | heq | hgt
          · have h1 := hg c
            have h2 : sget ((c', x') :: rest') c = none := by
              have : c' ≠ c := by omega
              simpa [sget, this] using below hw'.2 c (by omega)
            simp only [memGet, h2] at h1
            simp [sget] at h1
            exact absurd h1 hw.1.2
          · exact heq
          · have h1 := hg c'
            have h2 : sget ((c, x) :: rest) c' = none := by
              have : c ≠ c' := by omega
              simpa [sget, this] using below hw.2 c' (by omega)
            simp only [memGet, h2] at h1
            simp [sget] at h1
            exact absurd h1.symm hw'.1.2
        subst hcc
        have hx : x = x' := by simpa [memGet, sget] using hg c
        subst hx
        have : rest = rest' := ih (c + 1) rest' hw.2 hw'.2 (by
          intro a
          by_cases e : c = a
          · subst e
            simp [memGet, below hw.2 c (by omega), below hw'.2 c (by omega)]
          · simpa [memGet, sget, e] using hg a)
        rw [this]
  exact key 0 m m' w w' h

end Sys2Proof.Machine
end

