-- ==== Sys2Proof/Laws/State.lean ====
section
/-! SUPPORT. What each update of the state, of a core and of a context leaves alone, field by field, and what it
writes. -/

namespace Sys2Proof.Machine

/-! ## Vectors -/

@[simp] theorem vget_vset_same {α : Type} {n : Nat} (v : Vector α n) (i : Fin n) (x : α) : (vset v i x).get i = x := by
  simp [vset, Vector.get_eq_getElem]

theorem vget_vset_other {α : Type} {n : Nat} (v : Vector α n) {i j : Fin n} (x : α) (h : j ≠ i) :
    (vset v i x).get j = v.get j := by
  have : i.val ≠ j.val := fun e => h (Fin.ext e.symm)
  simp [vset, Vector.get_eq_getElem, this]

/-! ## Parts of the state -/

@[simp] theorem State.core_setCore_same (s : State) (n : Nat) (c : Core) : (s.setCore n c).core n = c := by
  simp [State.core, State.setCore]

theorem State.core_setCore_other (s : State) {m n : Nat} (c : Core) (h : m ≠ n) : (s.setCore n c).core m = s.core m := by
  simp [State.core, State.setCore, sget_sset_other _ _ h]

@[simp] theorem State.core_modCore_same (s : State) (n : Nat) (f : Core → Core) :
    (s.modCore n f).core n = f (s.core n) := by
  simp [State.modCore]

theorem State.core_modCore_other (s : State) {m n : Nat} (f : Core → Core) (h : m ≠ n) :
    (s.modCore n f).core m = s.core m :=
  State.core_setCore_other s _ h

@[simp] theorem State.cluster_setCluster_same (s : State) (n : Nat) (c : Cluster) : (s.setCluster n c).cluster n = c := by
  simp [State.cluster, State.setCluster]

theorem State.cluster_setCluster_other (s : State) {m n : Nat} (c : Cluster) (h : m ≠ n) :
    (s.setCluster n c).cluster m = s.cluster m := by
  simp [State.cluster, State.setCluster, sget_sset_other _ _ h]

@[simp] theorem State.cluster_modCluster_same (s : State) (n : Nat) (f : Cluster → Cluster) :
    (s.modCluster n f).cluster n = f (s.cluster n) := by
  simp [State.modCluster]

theorem State.cluster_modCluster_other (s : State) {m n : Nat} (f : Cluster → Cluster) (h : m ≠ n) :
    (s.modCluster n f).cluster m = s.cluster m :=
  State.cluster_setCluster_other s _ h

@[simp] theorem State.die_setDie_same (s : State) (d : Nat) (x : Die) : (s.setDie d x).die d = x := by
  simp [State.die, State.setDie]

theorem State.die_setDie_other (s : State) {d e : Nat} (x : Die) (h : ix 3 e ≠ ix 3 d) : (s.setDie d x).die e = s.die e := by
  simp [State.die, State.setDie, vget_vset_other _ _ h]

@[simp] theorem State.die_modDie_same (s : State) (d : Nat) (f : Die → Die) : (s.modDie d f).die d = f (s.die d) := by
  simp [State.modDie]

theorem State.die_modDie_other (s : State) {d e : Nat} (f : Die → Die) (h : ix 3 e ≠ ix 3 d) :
    (s.modDie d f).die e = s.die e :=
  State.die_setDie_other s _ h

@[simp] theorem State.grid_setGrid_same (s : State) (g : Nat) (x : Grid) : (s.setGrid g x).grid g = some x := by
  simp [State.grid, State.setGrid]

theorem State.grid_setGrid_other (s : State) {g h : Nat} (x : Grid) (ne : h ≠ g) : (s.setGrid g x).grid h = s.grid h := by
  simp [State.grid, State.setGrid, sget_sset_other _ _ ne]

theorem State.grid_modGrid_same (s : State) (g : Nat) (f : Grid → Grid) : (s.modGrid g f).grid g = (s.grid g).map f := by
  unfold State.modGrid
  split <;> simp [*]

/-! ## What an update leaves alone -/

@[simp] theorem State.setCore_turn (s : State) (n : Nat) (c : Core) : (s.setCore n c).turn = s.turn := rfl
@[simp] theorem State.setCore_agents (s : State) (n : Nat) (c : Core) : (s.setCore n c).agents = s.agents := rfl
@[simp] theorem State.setCore_agenda (s : State) (n : Nat) (c : Core) : (s.setCore n c).agenda = s.agenda := rfl
@[simp] theorem State.setCore_fresh (s : State) (n : Nat) (c : Core) : (s.setCore n c).fresh = s.fresh := rfl
@[simp] theorem State.setCore_clusters (s : State) (n : Nat) (c : Core) : (s.setCore n c).clusters = s.clusters := rfl
@[simp] theorem State.setCore_dies (s : State) (n : Nat) (c : Core) : (s.setCore n c).dies = s.dies := rfl
@[simp] theorem State.setCore_mem (s : State) (n : Nat) (c : Core) : (s.setCore n c).mem = s.mem := rfl
@[simp] theorem State.setCore_poison (s : State) (n : Nat) (c : Core) : (s.setCore n c).poison = s.poison := rfl
@[simp] theorem State.setCore_caches (s : State) (n : Nat) (c : Core) : (s.setCore n c).caches = s.caches := rfl
@[simp] theorem State.setCore_claims (s : State) (n : Nat) (c : Core) : (s.setCore n c).claims = s.claims := rfl
@[simp] theorem State.setCore_ticket (s : State) (n : Nat) (c : Core) : (s.setCore n c).ticket = s.ticket := rfl
@[simp] theorem State.setCore_keep (s : State) (n : Nat) (c : Core) : (s.setCore n c).keep = s.keep := rfl
@[simp] theorem State.setCore_grids (s : State) (n : Nat) (c : Core) : (s.setCore n c).grids = s.grids := rfl
@[simp] theorem State.setCore_nextGrid (s : State) (n : Nat) (c : Core) : (s.setCore n c).nextGrid = s.nextGrid := rfl
@[simp] theorem State.setCore_net (s : State) (n : Nat) (c : Core) : (s.setCore n c).net = s.net := rfl
@[simp] theorem State.setCore_fabric (s : State) (n : Nat) (c : Core) : (s.setCore n c).fabric = s.fabric := rfl
@[simp] theorem State.setCore_control (s : State) (n : Nat) (c : Core) : (s.setCore n c).control = s.control := rfl
@[simp] theorem State.setCore_results (s : State) (n : Nat) (c : Core) : (s.setCore n c).results = s.results := rfl
@[simp] theorem State.setCore_owed (s : State) (n : Nat) (c : Core) : (s.setCore n c).owed = s.owed := rfl

@[simp] theorem State.modCore_turn (s : State) (n : Nat) (f : Core → Core) : (s.modCore n f).turn = s.turn := rfl
@[simp] theorem State.modCore_agents (s : State) (n : Nat) (f : Core → Core) : (s.modCore n f).agents = s.agents := rfl
@[simp] theorem State.modCore_agenda (s : State) (n : Nat) (f : Core → Core) : (s.modCore n f).agenda = s.agenda := rfl
@[simp] theorem State.modCore_fresh (s : State) (n : Nat) (f : Core → Core) : (s.modCore n f).fresh = s.fresh := rfl
@[simp] theorem State.modCore_clusters (s : State) (n : Nat) (f : Core → Core) : (s.modCore n f).clusters = s.clusters := rfl
@[simp] theorem State.modCore_dies (s : State) (n : Nat) (f : Core → Core) : (s.modCore n f).dies = s.dies := rfl
@[simp] theorem State.modCore_mem (s : State) (n : Nat) (f : Core → Core) : (s.modCore n f).mem = s.mem := rfl
@[simp] theorem State.modCore_poison (s : State) (n : Nat) (f : Core → Core) : (s.modCore n f).poison = s.poison := rfl
@[simp] theorem State.modCore_caches (s : State) (n : Nat) (f : Core → Core) : (s.modCore n f).caches = s.caches := rfl
@[simp] theorem State.modCore_claims (s : State) (n : Nat) (f : Core → Core) : (s.modCore n f).claims = s.claims := rfl
@[simp] theorem State.modCore_ticket (s : State) (n : Nat) (f : Core → Core) : (s.modCore n f).ticket = s.ticket := rfl
@[simp] theorem State.modCore_keep (s : State) (n : Nat) (f : Core → Core) : (s.modCore n f).keep = s.keep := rfl
@[simp] theorem State.modCore_grids (s : State) (n : Nat) (f : Core → Core) : (s.modCore n f).grids = s.grids := rfl
@[simp] theorem State.modCore_nextGrid (s : State) (n : Nat) (f : Core → Core) : (s.modCore n f).nextGrid = s.nextGrid := rfl
@[simp] theorem State.modCore_net (s : State) (n : Nat) (f : Core → Core) : (s.modCore n f).net = s.net := rfl
@[simp] theorem State.modCore_fabric (s : State) (n : Nat) (f : Core → Core) : (s.modCore n f).fabric = s.fabric := rfl
@[simp] theorem State.modCore_control (s : State) (n : Nat) (f : Core → Core) : (s.modCore n f).control = s.control := rfl
@[simp] theorem State.modCore_results (s : State) (n : Nat) (f : Core → Core) : (s.modCore n f).results = s.results := rfl
@[simp] theorem State.modCore_owed (s : State) (n : Nat) (f : Core → Core) : (s.modCore n f).owed = s.owed := rfl

@[simp] theorem State.setCluster_turn (s : State) (n : Nat) (c : Cluster) : (s.setCluster n c).turn = s.turn := rfl
@[simp] theorem State.setCluster_agents (s : State) (n : Nat) (c : Cluster) : (s.setCluster n c).agents = s.agents := rfl
@[simp] theorem State.setCluster_agenda (s : State) (n : Nat) (c : Cluster) : (s.setCluster n c).agenda = s.agenda := rfl
@[simp] theorem State.setCluster_fresh (s : State) (n : Nat) (c : Cluster) : (s.setCluster n c).fresh = s.fresh := rfl
@[simp] theorem State.setCluster_cores (s : State) (n : Nat) (c : Cluster) : (s.setCluster n c).cores = s.cores := rfl
@[simp] theorem State.setCluster_dies (s : State) (n : Nat) (c : Cluster) : (s.setCluster n c).dies = s.dies := rfl
@[simp] theorem State.setCluster_mem (s : State) (n : Nat) (c : Cluster) : (s.setCluster n c).mem = s.mem := rfl
@[simp] theorem State.setCluster_poison (s : State) (n : Nat) (c : Cluster) : (s.setCluster n c).poison = s.poison := rfl
@[simp] theorem State.setCluster_caches (s : State) (n : Nat) (c : Cluster) : (s.setCluster n c).caches = s.caches := rfl
@[simp] theorem State.setCluster_claims (s : State) (n : Nat) (c : Cluster) : (s.setCluster n c).claims = s.claims := rfl
@[simp] theorem State.setCluster_ticket (s : State) (n : Nat) (c : Cluster) : (s.setCluster n c).ticket = s.ticket := rfl
@[simp] theorem State.setCluster_keep (s : State) (n : Nat) (c : Cluster) : (s.setCluster n c).keep = s.keep := rfl
@[simp] theorem State.setCluster_grids (s : State) (n : Nat) (c : Cluster) : (s.setCluster n c).grids = s.grids := rfl
@[simp] theorem State.setCluster_nextGrid (s : State) (n : Nat) (c : Cluster) : (s.setCluster n c).nextGrid = s.nextGrid := rfl
@[simp] theorem State.setCluster_net (s : State) (n : Nat) (c : Cluster) : (s.setCluster n c).net = s.net := rfl
@[simp] theorem State.setCluster_fabric (s : State) (n : Nat) (c : Cluster) : (s.setCluster n c).fabric = s.fabric := rfl
@[simp] theorem State.setCluster_control (s : State) (n : Nat) (c : Cluster) : (s.setCluster n c).control = s.control := rfl
@[simp] theorem State.setCluster_results (s : State) (n : Nat) (c : Cluster) : (s.setCluster n c).results = s.results := rfl
@[simp] theorem State.setCluster_owed (s : State) (n : Nat) (c : Cluster) : (s.setCluster n c).owed = s.owed := rfl

@[simp] theorem State.modCluster_turn (s : State) (n : Nat) (f : Cluster → Cluster) : (s.modCluster n f).turn = s.turn := rfl
@[simp] theorem State.modCluster_agents (s : State) (n : Nat) (f : Cluster → Cluster) : (s.modCluster n f).agents = s.agents := rfl
@[simp] theorem State.modCluster_agenda (s : State) (n : Nat) (f : Cluster → Cluster) : (s.modCluster n f).agenda = s.agenda := rfl
@[simp] theorem State.modCluster_fresh (s : State) (n : Nat) (f : Cluster → Cluster) : (s.modCluster n f).fresh = s.fresh := rfl
@[simp] theorem State.modCluster_cores (s : State) (n : Nat) (f : Cluster → Cluster) : (s.modCluster n f).cores = s.cores := rfl
@[simp] theorem State.modCluster_dies (s : State) (n : Nat) (f : Cluster → Cluster) : (s.modCluster n f).dies = s.dies := rfl
@[simp] theorem State.modCluster_mem (s : State) (n : Nat) (f : Cluster → Cluster) : (s.modCluster n f).mem = s.mem := rfl
@[simp] theorem State.modCluster_poison (s : State) (n : Nat) (f : Cluster → Cluster) : (s.modCluster n f).poison = s.poison := rfl
@[simp] theorem State.modCluster_caches (s : State) (n : Nat) (f : Cluster → Cluster) : (s.modCluster n f).caches = s.caches := rfl
@[simp] theorem State.modCluster_claims (s : State) (n : Nat) (f : Cluster → Cluster) : (s.modCluster n f).claims = s.claims := rfl
@[simp] theorem State.modCluster_ticket (s : State) (n : Nat) (f : Cluster → Cluster) : (s.modCluster n f).ticket = s.ticket := rfl
@[simp] theorem State.modCluster_keep (s : State) (n : Nat) (f : Cluster → Cluster) : (s.modCluster n f).keep = s.keep := rfl
@[simp] theorem State.modCluster_grids (s : State) (n : Nat) (f : Cluster → Cluster) : (s.modCluster n f).grids = s.grids := rfl
@[simp] theorem State.modCluster_nextGrid (s : State) (n : Nat) (f : Cluster → Cluster) : (s.modCluster n f).nextGrid = s.nextGrid := rfl
@[simp] theorem State.modCluster_net (s : State) (n : Nat) (f : Cluster → Cluster) : (s.modCluster n f).net = s.net := rfl
@[simp] theorem State.modCluster_fabric (s : State) (n : Nat) (f : Cluster → Cluster) : (s.modCluster n f).fabric = s.fabric := rfl
@[simp] theorem State.modCluster_control (s : State) (n : Nat) (f : Cluster → Cluster) : (s.modCluster n f).control = s.control := rfl
@[simp] theorem State.modCluster_results (s : State) (n : Nat) (f : Cluster → Cluster) : (s.modCluster n f).results = s.results := rfl
@[simp] theorem State.modCluster_owed (s : State) (n : Nat) (f : Cluster → Cluster) : (s.modCluster n f).owed = s.owed := rfl

@[simp] theorem State.setDie_turn (s : State) (d : Nat) (x : Die) : (s.setDie d x).turn = s.turn := rfl
@[simp] theorem State.setDie_agents (s : State) (d : Nat) (x : Die) : (s.setDie d x).agents = s.agents := rfl
@[simp] theorem State.setDie_agenda (s : State) (d : Nat) (x : Die) : (s.setDie d x).agenda = s.agenda := rfl
@[simp] theorem State.setDie_fresh (s : State) (d : Nat) (x : Die) : (s.setDie d x).fresh = s.fresh := rfl
@[simp] theorem State.setDie_cores (s : State) (d : Nat) (x : Die) : (s.setDie d x).cores = s.cores := rfl
@[simp] theorem State.setDie_clusters (s : State) (d : Nat) (x : Die) : (s.setDie d x).clusters = s.clusters := rfl
@[simp] theorem State.setDie_mem (s : State) (d : Nat) (x : Die) : (s.setDie d x).mem = s.mem := rfl
@[simp] theorem State.setDie_poison (s : State) (d : Nat) (x : Die) : (s.setDie d x).poison = s.poison := rfl
@[simp] theorem State.setDie_caches (s : State) (d : Nat) (x : Die) : (s.setDie d x).caches = s.caches := rfl
@[simp] theorem State.setDie_claims (s : State) (d : Nat) (x : Die) : (s.setDie d x).claims = s.claims := rfl
@[simp] theorem State.setDie_ticket (s : State) (d : Nat) (x : Die) : (s.setDie d x).ticket = s.ticket := rfl
@[simp] theorem State.setDie_keep (s : State) (d : Nat) (x : Die) : (s.setDie d x).keep = s.keep := rfl
@[simp] theorem State.setDie_grids (s : State) (d : Nat) (x : Die) : (s.setDie d x).grids = s.grids := rfl
@[simp] theorem State.setDie_nextGrid (s : State) (d : Nat) (x : Die) : (s.setDie d x).nextGrid = s.nextGrid := rfl
@[simp] theorem State.setDie_net (s : State) (d : Nat) (x : Die) : (s.setDie d x).net = s.net := rfl
@[simp] theorem State.setDie_fabric (s : State) (d : Nat) (x : Die) : (s.setDie d x).fabric = s.fabric := rfl
@[simp] theorem State.setDie_control (s : State) (d : Nat) (x : Die) : (s.setDie d x).control = s.control := rfl
@[simp] theorem State.setDie_results (s : State) (d : Nat) (x : Die) : (s.setDie d x).results = s.results := rfl
@[simp] theorem State.setDie_owed (s : State) (d : Nat) (x : Die) : (s.setDie d x).owed = s.owed := rfl

@[simp] theorem State.modDie_turn (s : State) (d : Nat) (f : Die → Die) : (s.modDie d f).turn = s.turn := rfl
@[simp] theorem State.modDie_agents (s : State) (d : Nat) (f : Die → Die) : (s.modDie d f).agents = s.agents := rfl
@[simp] theorem State.modDie_agenda (s : State) (d : Nat) (f : Die → Die) : (s.modDie d f).agenda = s.agenda := rfl
@[simp] theorem State.modDie_fresh (s : State) (d : Nat) (f : Die → Die) : (s.modDie d f).fresh = s.fresh := rfl
@[simp] theorem State.modDie_cores (s : State) (d : Nat) (f : Die → Die) : (s.modDie d f).cores = s.cores := rfl
@[simp] theorem State.modDie_clusters (s : State) (d : Nat) (f : Die → Die) : (s.modDie d f).clusters = s.clusters := rfl
@[simp] theorem State.modDie_mem (s : State) (d : Nat) (f : Die → Die) : (s.modDie d f).mem = s.mem := rfl
@[simp] theorem State.modDie_poison (s : State) (d : Nat) (f : Die → Die) : (s.modDie d f).poison = s.poison := rfl
@[simp] theorem State.modDie_caches (s : State) (d : Nat) (f : Die → Die) : (s.modDie d f).caches = s.caches := rfl
@[simp] theorem State.modDie_claims (s : State) (d : Nat) (f : Die → Die) : (s.modDie d f).claims = s.claims := rfl
@[simp] theorem State.modDie_ticket (s : State) (d : Nat) (f : Die → Die) : (s.modDie d f).ticket = s.ticket := rfl
@[simp] theorem State.modDie_keep (s : State) (d : Nat) (f : Die → Die) : (s.modDie d f).keep = s.keep := rfl
@[simp] theorem State.modDie_grids (s : State) (d : Nat) (f : Die → Die) : (s.modDie d f).grids = s.grids := rfl
@[simp] theorem State.modDie_nextGrid (s : State) (d : Nat) (f : Die → Die) : (s.modDie d f).nextGrid = s.nextGrid := rfl
@[simp] theorem State.modDie_net (s : State) (d : Nat) (f : Die → Die) : (s.modDie d f).net = s.net := rfl
@[simp] theorem State.modDie_fabric (s : State) (d : Nat) (f : Die → Die) : (s.modDie d f).fabric = s.fabric := rfl
@[simp] theorem State.modDie_control (s : State) (d : Nat) (f : Die → Die) : (s.modDie d f).control = s.control := rfl
@[simp] theorem State.modDie_results (s : State) (d : Nat) (f : Die → Die) : (s.modDie d f).results = s.results := rfl
@[simp] theorem State.modDie_owed (s : State) (d : Nat) (f : Die → Die) : (s.modDie d f).owed = s.owed := rfl

@[simp] theorem State.setGrid_turn (s : State) (g : Nat) (x : Grid) : (s.setGrid g x).turn = s.turn := rfl
@[simp] theorem State.setGrid_agents (s : State) (g : Nat) (x : Grid) : (s.setGrid g x).agents = s.agents := rfl
@[simp] theorem State.setGrid_agenda (s : State) (g : Nat) (x : Grid) : (s.setGrid g x).agenda = s.agenda := rfl
@[simp] theorem State.setGrid_fresh (s : State) (g : Nat) (x : Grid) : (s.setGrid g x).fresh = s.fresh := rfl
@[simp] theorem State.setGrid_cores (s : State) (g : Nat) (x : Grid) : (s.setGrid g x).cores = s.cores := rfl
@[simp] theorem State.setGrid_clusters (s : State) (g : Nat) (x : Grid) : (s.setGrid g x).clusters = s.clusters := rfl
@[simp] theorem State.setGrid_dies (s : State) (g : Nat) (x : Grid) : (s.setGrid g x).dies = s.dies := rfl
@[simp] theorem State.setGrid_mem (s : State) (g : Nat) (x : Grid) : (s.setGrid g x).mem = s.mem := rfl
@[simp] theorem State.setGrid_poison (s : State) (g : Nat) (x : Grid) : (s.setGrid g x).poison = s.poison := rfl
@[simp] theorem State.setGrid_caches (s : State) (g : Nat) (x : Grid) : (s.setGrid g x).caches = s.caches := rfl
@[simp] theorem State.setGrid_claims (s : State) (g : Nat) (x : Grid) : (s.setGrid g x).claims = s.claims := rfl
@[simp] theorem State.setGrid_ticket (s : State) (g : Nat) (x : Grid) : (s.setGrid g x).ticket = s.ticket := rfl
@[simp] theorem State.setGrid_keep (s : State) (g : Nat) (x : Grid) : (s.setGrid g x).keep = s.keep := rfl
@[simp] theorem State.setGrid_nextGrid (s : State) (g : Nat) (x : Grid) : (s.setGrid g x).nextGrid = s.nextGrid := rfl
@[simp] theorem State.setGrid_net (s : State) (g : Nat) (x : Grid) : (s.setGrid g x).net = s.net := rfl
@[simp] theorem State.setGrid_fabric (s : State) (g : Nat) (x : Grid) : (s.setGrid g x).fabric = s.fabric := rfl
@[simp] theorem State.setGrid_control (s : State) (g : Nat) (x : Grid) : (s.setGrid g x).control = s.control := rfl
@[simp] theorem State.setGrid_results (s : State) (g : Nat) (x : Grid) : (s.setGrid g x).results = s.results := rfl
@[simp] theorem State.setGrid_owed (s : State) (g : Nat) (x : Grid) : (s.setGrid g x).owed = s.owed := rfl

@[simp] theorem State.modGrid_turn (s : State) (g : Nat) (f : Grid → Grid) : (s.modGrid g f).turn = s.turn := by
  unfold State.modGrid; split <;> rfl
@[simp] theorem State.modGrid_agents (s : State) (g : Nat) (f : Grid → Grid) : (s.modGrid g f).agents = s.agents := by
  unfold State.modGrid; split <;> rfl
@[simp] theorem State.modGrid_agenda (s : State) (g : Nat) (f : Grid → Grid) : (s.modGrid g f).agenda = s.agenda := by
  unfold State.modGrid; split <;> rfl
@[simp] theorem State.modGrid_fresh (s : State) (g : Nat) (f : Grid → Grid) : (s.modGrid g f).fresh = s.fresh := by
  unfold State.modGrid; split <;> rfl
@[simp] theorem State.modGrid_cores (s : State) (g : Nat) (f : Grid → Grid) : (s.modGrid g f).cores = s.cores := by
  unfold State.modGrid; split <;> rfl
@[simp] theorem State.modGrid_clusters (s : State) (g : Nat) (f : Grid → Grid) : (s.modGrid g f).clusters = s.clusters := by
  unfold State.modGrid; split <;> rfl
@[simp] theorem State.modGrid_dies (s : State) (g : Nat) (f : Grid → Grid) : (s.modGrid g f).dies = s.dies := by
  unfold State.modGrid; split <;> rfl
@[simp] theorem State.modGrid_mem (s : State) (g : Nat) (f : Grid → Grid) : (s.modGrid g f).mem = s.mem := by
  unfold State.modGrid; split <;> rfl
@[simp] theorem State.modGrid_poison (s : State) (g : Nat) (f : Grid → Grid) : (s.modGrid g f).poison = s.poison := by
  unfold State.modGrid; split <;> rfl
@[simp] theorem State.modGrid_caches (s : State) (g : Nat) (f : Grid → Grid) : (s.modGrid g f).caches = s.caches := by
  unfold State.modGrid; split <;> rfl
@[simp] theorem State.modGrid_claims (s : State) (g : Nat) (f : Grid → Grid) : (s.modGrid g f).claims = s.claims := by
  unfold State.modGrid; split <;> rfl
@[simp] theorem State.modGrid_ticket (s : State) (g : Nat) (f : Grid → Grid) : (s.modGrid g f).ticket = s.ticket := by
  unfold State.modGrid; split <;> rfl
@[simp] theorem State.modGrid_keep (s : State) (g : Nat) (f : Grid → Grid) : (s.modGrid g f).keep = s.keep := by
  unfold State.modGrid; split <;> rfl
@[simp] theorem State.modGrid_nextGrid (s : State) (g : Nat) (f : Grid → Grid) : (s.modGrid g f).nextGrid = s.nextGrid := by
  unfold State.modGrid; split <;> rfl
@[simp] theorem State.modGrid_net (s : State) (g : Nat) (f : Grid → Grid) : (s.modGrid g f).net = s.net := by
  unfold State.modGrid; split <;> rfl
@[simp] theorem State.modGrid_fabric (s : State) (g : Nat) (f : Grid → Grid) : (s.modGrid g f).fabric = s.fabric := by
  unfold State.modGrid; split <;> rfl
@[simp] theorem State.modGrid_control (s : State) (g : Nat) (f : Grid → Grid) : (s.modGrid g f).control = s.control := by
  unfold State.modGrid; split <;> rfl
@[simp] theorem State.modGrid_results (s : State) (g : Nat) (f : Grid → Grid) : (s.modGrid g f).results = s.results := by
  unfold State.modGrid; split <;> rfl
@[simp] theorem State.modGrid_owed (s : State) (g : Nat) (f : Grid → Grid) : (s.modGrid g f).owed = s.owed := by
  unfold State.modGrid; split <;> rfl

@[simp] theorem State.cluster_setCore (s : State) (n : Nat) (c : Core) (k : Nat) : (s.setCore n c).cluster k = s.cluster k := rfl
@[simp] theorem State.die_setCore (s : State) (n : Nat) (c : Core) (k : Nat) : (s.setCore n c).die k = s.die k := rfl
@[simp] theorem State.grid_setCore (s : State) (n : Nat) (c : Core) (k : Nat) : (s.setCore n c).grid k = s.grid k := rfl
@[simp] theorem State.cluster_modCore (s : State) (n : Nat) (f : Core → Core) (k : Nat) : (s.modCore n f).cluster k = s.cluster k := rfl
@[simp] theorem State.die_modCore (s : State) (n : Nat) (f : Core → Core) (k : Nat) : (s.modCore n f).die k = s.die k := rfl
@[simp] theorem State.grid_modCore (s : State) (n : Nat) (f : Core → Core) (k : Nat) : (s.modCore n f).grid k = s.grid k := rfl
@[simp] theorem State.core_setCluster (s : State) (n : Nat) (c : Cluster) (k : Nat) : (s.setCluster n c).core k = s.core k := rfl
@[simp] theorem State.die_setCluster (s : State) (n : Nat) (c : Cluster) (k : Nat) : (s.setCluster n c).die k = s.die k := rfl
@[simp] theorem State.grid_setCluster (s : State) (n : Nat) (c : Cluster) (k : Nat) : (s.setCluster n c).grid k = s.grid k := rfl
@[simp] theorem State.core_modCluster (s : State) (n : Nat) (f : Cluster → Cluster) (k : Nat) : (s.modCluster n f).core k = s.core k := rfl
@[simp] theorem State.die_modCluster (s : State) (n : Nat) (f : Cluster → Cluster) (k : Nat) : (s.modCluster n f).die k = s.die k := rfl
@[simp] theorem State.grid_modCluster (s : State) (n : Nat) (f : Cluster → Cluster) (k : Nat) : (s.modCluster n f).grid k = s.grid k := rfl
@[simp] theorem State.core_setDie (s : State) (d : Nat) (x : Die) (k : Nat) : (s.setDie d x).core k = s.core k := rfl
@[simp] theorem State.cluster_setDie (s : State) (d : Nat) (x : Die) (k : Nat) : (s.setDie d x).cluster k = s.cluster k := rfl
@[simp] theorem State.grid_setDie (s : State) (d : Nat) (x : Die) (k : Nat) : (s.setDie d x).grid k = s.grid k := rfl
@[simp] theorem State.core_modDie (s : State) (d : Nat) (f : Die → Die) (k : Nat) : (s.modDie d f).core k = s.core k := rfl
@[simp] theorem State.cluster_modDie (s : State) (d : Nat) (f : Die → Die) (k : Nat) : (s.modDie d f).cluster k = s.cluster k := rfl
@[simp] theorem State.grid_modDie (s : State) (d : Nat) (f : Die → Die) (k : Nat) : (s.modDie d f).grid k = s.grid k := rfl
@[simp] theorem State.core_setGrid (s : State) (g : Nat) (x : Grid) (k : Nat) : (s.setGrid g x).core k = s.core k := rfl
@[simp] theorem State.cluster_setGrid (s : State) (g : Nat) (x : Grid) (k : Nat) : (s.setGrid g x).cluster k = s.cluster k := rfl
@[simp] theorem State.die_setGrid (s : State) (g : Nat) (x : Grid) (k : Nat) : (s.setGrid g x).die k = s.die k := rfl

@[simp] theorem State.core_modGrid (s : State) (g : Nat) (f : Grid → Grid) (k : Nat) : (s.modGrid g f).core k = s.core k := by
  simp [State.core]
@[simp] theorem State.cluster_modGrid (s : State) (g : Nat) (f : Grid → Grid) (k : Nat) : (s.modGrid g f).cluster k = s.cluster k := by
  simp [State.cluster]
@[simp] theorem State.die_modGrid (s : State) (g : Nat) (f : Grid → Grid) (k : Nat) : (s.modGrid g f).die k = s.die k := by
  simp [State.die]

/-! ## Parts of a core -/

@[simp] theorem Core.context_setContext_same (c : Core) (x : Ctx) (k : Context) : (c.setContext x k).context x = k := by
  cases x <;> rfl

@[simp] theorem Core.context_modContext_same (c : Core) (x : Ctx) (f : Context → Context) :
    (c.modContext x f).context x = f (c.context x) := by
  simp [Core.modContext]

@[simp] theorem Core.setContext_f (c : Core) (x : Ctx) (k : Context) : (c.setContext x k).f = c.f := by
  cases x <;> rfl
@[simp] theorem Core.modContext_f (c : Core) (x : Ctx) (f : Context → Context) : (c.modContext x f).f = c.f := by
  cases x <;> rfl
@[simp] theorem Core.setContext_firing (c : Core) (x : Ctx) (k : Context) : (c.setContext x k).firing = c.firing := by
  cases x <;> rfl
@[simp] theorem Core.setContext_seq (c : Core) (x : Ctx) (k : Context) : (c.setContext x k).seq = c.seq := by
  cases x <;> rfl
@[simp] theorem Core.modContext_firing (c : Core) (x : Ctx) (f : Context → Context) : (c.modContext x f).firing = c.firing := by
  cases x <;> rfl
@[simp] theorem Core.modContext_seq (c : Core) (x : Ctx) (f : Context → Context) : (c.modContext x f).seq = c.seq := by
  cases x <;> rfl
@[simp] theorem Core.setContext_hAct (c : Core) (x : Ctx) (k : Context) : (c.setContext x k).hAct = c.hAct := by
  cases x <;> rfl
@[simp] theorem Core.modContext_hAct (c : Core) (x : Ctx) (f : Context → Context) : (c.modContext x f).hAct = c.hAct := by
  cases x <;> rfl
@[simp] theorem Core.setContext_dAct (c : Core) (x : Ctx) (k : Context) : (c.setContext x k).dAct = c.dAct := by
  cases x <;> rfl
@[simp] theorem Core.modContext_dAct (c : Core) (x : Ctx) (f : Context → Context) : (c.modContext x f).dAct = c.dAct := by
  cases x <;> rfl
@[simp] theorem Core.setContext_ident (c : Core) (x : Ctx) (k : Context) : (c.setContext x k).ident = c.ident := by
  cases x <;> rfl
@[simp] theorem Core.modContext_ident (c : Core) (x : Ctx) (f : Context → Context) : (c.modContext x f).ident = c.ident := by
  cases x <;> rfl
@[simp] theorem Core.setContext_sr (c : Core) (x : Ctx) (k : Context) : (c.setContext x k).sr = c.sr := by
  cases x <;> rfl
@[simp] theorem Core.modContext_sr (c : Core) (x : Ctx) (f : Context → Context) : (c.modContext x f).sr = c.sr := by
  cases x <;> rfl
@[simp] theorem Core.setContext_stores (c : Core) (x : Ctx) (k : Context) : (c.setContext x k).stores = c.stores := by
  cases x <;> rfl
@[simp] theorem Core.modContext_stores (c : Core) (x : Ctx) (f : Context → Context) : (c.modContext x f).stores = c.stores := by
  cases x <;> rfl
@[simp] theorem Core.setContext_mem (c : Core) (x : Ctx) (k : Context) : (c.setContext x k).mem = c.mem := by
  cases x <;> rfl
@[simp] theorem Core.modContext_mem (c : Core) (x : Ctx) (f : Context → Context) : (c.modContext x f).mem = c.mem := by
  cases x <;> rfl
@[simp] theorem Core.setContext_work (c : Core) (x : Ctx) (k : Context) : (c.setContext x k).work = c.work := by
  cases x <;> rfl
@[simp] theorem Core.modContext_work (c : Core) (x : Ctx) (f : Context → Context) : (c.modContext x f).work = c.work := by
  cases x <;> rfl
@[simp] theorem Core.setContext_inbox (c : Core) (x : Ctx) (k : Context) : (c.setContext x k).inbox = c.inbox := by
  cases x <;> rfl
@[simp] theorem Core.setContext_outbox (c : Core) (x : Ctx) (k : Context) : (c.setContext x k).outbox = c.outbox := by
  cases x <;> rfl
@[simp] theorem Core.modContext_inbox (c : Core) (x : Ctx) (f : Context → Context) : (c.modContext x f).inbox = c.inbox := by
  cases x <;> rfl
@[simp] theorem Core.modContext_outbox (c : Core) (x : Ctx) (f : Context → Context) : (c.modContext x f).outbox = c.outbox := by
  cases x <;> rfl
@[simp] theorem Core.setContext_jobs (c : Core) (x : Ctx) (k : Context) : (c.setContext x k).jobs = c.jobs := by
  cases x <;> rfl
@[simp] theorem Core.modContext_jobs (c : Core) (x : Ctx) (f : Context → Context) : (c.modContext x f).jobs = c.jobs := by
  cases x <;> rfl
@[simp] theorem Core.setContext_waits (c : Core) (x : Ctx) (k : Context) : (c.setContext x k).waits = c.waits := by
  cases x <;> rfl
@[simp] theorem Core.modContext_waits (c : Core) (x : Ctx) (f : Context → Context) : (c.modContext x f).waits = c.waits := by
  cases x <;> rfl
@[simp] theorem Core.setContext_pair (c : Core) (x : Ctx) (k : Context) : (c.setContext x k).pair = c.pair := by
  cases x <;> rfl
@[simp] theorem Core.modContext_pair (c : Core) (x : Ctx) (f : Context → Context) : (c.modContext x f).pair = c.pair := by
  cases x <;> rfl
@[simp] theorem Core.setContext_notices (c : Core) (x : Ctx) (k : Context) : (c.setContext x k).notices = c.notices := by
  cases x <;> rfl
@[simp] theorem Core.modContext_notices (c : Core) (x : Ctx) (f : Context → Context) : (c.modContext x f).notices = c.notices := by
  cases x <;> rfl
@[simp] theorem Core.setContext_fibres (c : Core) (x : Ctx) (k : Context) : (c.setContext x k).fibres = c.fibres := by
  cases x <;> rfl
@[simp] theorem Core.modContext_fibres (c : Core) (x : Ctx) (f : Context → Context) : (c.modContext x f).fibres = c.fibres := by
  cases x <;> rfl
@[simp] theorem Core.setContext_wfi (c : Core) (x : Ctx) (k : Context) : (c.setContext x k).wfi = c.wfi := by
  cases x <;> rfl
@[simp] theorem Core.modContext_wfi (c : Core) (x : Ctx) (f : Context → Context) : (c.modContext x f).wfi = c.wfi := by
  cases x <;> rfl
@[simp] theorem Core.setContext_dTurn (c : Core) (x : Ctx) (k : Context) : (c.setContext x k).dTurn = c.dTurn := by
  cases x <;> rfl
@[simp] theorem Core.modContext_dTurn (c : Core) (x : Ctx) (f : Context → Context) : (c.modContext x f).dTurn = c.dTurn := by
  cases x <;> rfl
@[simp] theorem Core.setContext_lost (c : Core) (x : Ctx) (k : Context) : (c.setContext x k).lost = c.lost := by
  cases x <;> rfl
@[simp] theorem Core.modContext_lost (c : Core) (x : Ctx) (f : Context → Context) : (c.modContext x f).lost = c.lost := by
  cases x <;> rfl
@[simp] theorem Core.setAct_fc (c : Core) (x : Ctx) (a : Option Activation) : (c.setAct x a).fc = c.fc := by
  cases x <;> rfl
@[simp] theorem Core.setAct_hc (c : Core) (x : Ctx) (a : Option Activation) : (c.setAct x a).hc = c.hc := by
  cases x <;> rfl
@[simp] theorem Core.setAct_dc (c : Core) (x : Ctx) (a : Option Activation) : (c.setAct x a).dc = c.dc := by
  cases x <;> rfl
@[simp] theorem Core.setAct_f (c : Core) (x : Ctx) (a : Option Activation) : (c.setAct x a).f = c.f := by
  cases x <;> rfl
@[simp] theorem Core.setAct_firing (c : Core) (x : Ctx) (a : Option Activation) : (c.setAct x a).firing = c.firing := by
  cases x <;> rfl
@[simp] theorem Core.setAct_seq (c : Core) (x : Ctx) (a : Option Activation) : (c.setAct x a).seq = c.seq := by
  cases x <;> rfl
@[simp] theorem Core.setAct_ident (c : Core) (x : Ctx) (a : Option Activation) : (c.setAct x a).ident = c.ident := by
  cases x <;> rfl
@[simp] theorem Core.setAct_sr (c : Core) (x : Ctx) (a : Option Activation) : (c.setAct x a).sr = c.sr := by
  cases x <;> rfl
@[simp] theorem Core.setAct_stores (c : Core) (x : Ctx) (a : Option Activation) : (c.setAct x a).stores = c.stores := by
  cases x <;> rfl
@[simp] theorem Core.setAct_mem (c : Core) (x : Ctx) (a : Option Activation) : (c.setAct x a).mem = c.mem := by
  cases x <;> rfl
@[simp] theorem Core.setAct_work (c : Core) (x : Ctx) (a : Option Activation) : (c.setAct x a).work = c.work := by
  cases x <;> rfl
@[simp] theorem Core.setAct_inbox (c : Core) (x : Ctx) (a : Option Activation) : (c.setAct x a).inbox = c.inbox := by
  cases x <;> rfl
@[simp] theorem Core.setAct_outbox (c : Core) (x : Ctx) (a : Option Activation) : (c.setAct x a).outbox = c.outbox := by
  cases x <;> rfl
@[simp] theorem Core.setAct_jobs (c : Core) (x : Ctx) (a : Option Activation) : (c.setAct x a).jobs = c.jobs := by
  cases x <;> rfl
@[simp] theorem Core.setAct_waits (c : Core) (x : Ctx) (a : Option Activation) : (c.setAct x a).waits = c.waits := by
  cases x <;> rfl
@[simp] theorem Core.setAct_pair (c : Core) (x : Ctx) (a : Option Activation) : (c.setAct x a).pair = c.pair := by
  cases x <;> rfl
@[simp] theorem Core.setAct_notices (c : Core) (x : Ctx) (a : Option Activation) : (c.setAct x a).notices = c.notices := by
  cases x <;> rfl
@[simp] theorem Core.setAct_fibres (c : Core) (x : Ctx) (a : Option Activation) : (c.setAct x a).fibres = c.fibres := by
  cases x <;> rfl
@[simp] theorem Core.setAct_wfi (c : Core) (x : Ctx) (a : Option Activation) : (c.setAct x a).wfi = c.wfi := by
  cases x <;> rfl
@[simp] theorem Core.setAct_dTurn (c : Core) (x : Ctx) (a : Option Activation) : (c.setAct x a).dTurn = c.dTurn := by
  cases x <;> rfl
@[simp] theorem Core.setAct_lost (c : Core) (x : Ctx) (a : Option Activation) : (c.setAct x a).lost = c.lost := by
  cases x <;> rfl
@[simp] theorem Core.writeScratch_fc (c : Core) (off : Nat) (bs : List Byte) : (c.writeScratch off bs).fc = c.fc := rfl
@[simp] theorem Core.writeScratch_hc (c : Core) (off : Nat) (bs : List Byte) : (c.writeScratch off bs).hc = c.hc := rfl
@[simp] theorem Core.writeScratch_dc (c : Core) (off : Nat) (bs : List Byte) : (c.writeScratch off bs).dc = c.dc := rfl
@[simp] theorem Core.writeScratch_f (c : Core) (off : Nat) (bs : List Byte) : (c.writeScratch off bs).f = c.f := rfl
@[simp] theorem Core.writeScratch_firing (c : Core) (off : Nat) (bs : List Byte) : (c.writeScratch off bs).firing = c.firing := rfl
@[simp] theorem Core.writeScratch_seq (c : Core) (off : Nat) (bs : List Byte) : (c.writeScratch off bs).seq = c.seq := rfl
@[simp] theorem Core.writeScratch_hAct (c : Core) (off : Nat) (bs : List Byte) : (c.writeScratch off bs).hAct = c.hAct := rfl
@[simp] theorem Core.writeScratch_dAct (c : Core) (off : Nat) (bs : List Byte) : (c.writeScratch off bs).dAct = c.dAct := rfl
@[simp] theorem Core.writeScratch_ident (c : Core) (off : Nat) (bs : List Byte) : (c.writeScratch off bs).ident = c.ident := rfl
@[simp] theorem Core.writeScratch_sr (c : Core) (off : Nat) (bs : List Byte) : (c.writeScratch off bs).sr = c.sr := rfl
@[simp] theorem Core.writeScratch_stores (c : Core) (off : Nat) (bs : List Byte) : (c.writeScratch off bs).stores = c.stores := rfl
@[simp] theorem Core.writeScratch_work (c : Core) (off : Nat) (bs : List Byte) : (c.writeScratch off bs).work = c.work := rfl
@[simp] theorem Core.writeScratch_inbox (c : Core) (off : Nat) (bs : List Byte) : (c.writeScratch off bs).inbox = c.inbox := rfl
@[simp] theorem Core.writeScratch_outbox (c : Core) (off : Nat) (bs : List Byte) : (c.writeScratch off bs).outbox = c.outbox := rfl
@[simp] theorem Core.writeScratch_jobs (c : Core) (off : Nat) (bs : List Byte) : (c.writeScratch off bs).jobs = c.jobs := rfl
@[simp] theorem Core.writeScratch_waits (c : Core) (off : Nat) (bs : List Byte) : (c.writeScratch off bs).waits = c.waits := rfl
@[simp] theorem Core.writeScratch_pair (c : Core) (off : Nat) (bs : List Byte) : (c.writeScratch off bs).pair = c.pair := rfl
@[simp] theorem Core.writeScratch_notices (c : Core) (off : Nat) (bs : List Byte) : (c.writeScratch off bs).notices = c.notices := rfl
@[simp] theorem Core.writeScratch_fibres (c : Core) (off : Nat) (bs : List Byte) : (c.writeScratch off bs).fibres = c.fibres := rfl
@[simp] theorem Core.writeScratch_wfi (c : Core) (off : Nat) (bs : List Byte) : (c.writeScratch off bs).wfi = c.wfi := rfl
@[simp] theorem Core.writeScratch_dTurn (c : Core) (off : Nat) (bs : List Byte) : (c.writeScratch off bs).dTurn = c.dTurn := rfl
@[simp] theorem Core.writeScratch_lost (c : Core) (off : Nat) (bs : List Byte) : (c.writeScratch off bs).lost = c.lost := rfl

end Sys2Proof.Machine
end

