-- ==== Sys2Proof/Laws/Meaning.lean ====
section
/-! SUPPORT. Running a meaning: what each building block of `M` does to a state, and what `runMeaning` makes of it;
the registers and the offset of whoever executes. -/

namespace Sys2Proof.Machine

/-! ## The building blocks of a meaning -/

@[simp] theorem M.pure_run {α : Type} (a : α) (s : State) : (pure a : M α) s = .ok (a, s) := rfl

/-- A block that answers is followed by the next one. -/
theorem M.bind_ok {α β : Type} {m : M α} {f : α → M β} {s t : State} {a : α} (h : m s = .ok (a, t)) :
    (m >>= f) s = f a t := by
  simp [Bind.bind, StateT.bind, h, Except.bind]

/-- A block that stops stops the whole. -/
theorem M.bind_error {α β : Type} {m : M α} {f : α → M β} {s : State} {e : Stop} (h : m s = .error e) :
    (m >>= f) s = .error e := by
  simp [Bind.bind, StateT.bind, h, Except.bind]

/-- One block after another. -/
theorem M.bind_run {α β : Type} (m : M α) (f : α → M β) (s : State) :
    (m >>= f) s = match m s with | .ok (a, t) => f a t | .error e => .error e := by
  cases h : m s with
  | error e => exact M.bind_error h
  | ok p => exact M.bind_ok h

theorem M.map_run {α β : Type} (m : M α) (f : α → β) (s : State) :
    (f <$> m) s = match m s with | .ok (a, t) => .ok (f a, t) | .error e => .error e := by
  rw [map_eq_pure_bind, M.bind_run]
  rfl

@[simp] theorem ask_run {α : Type} (f : State → α) (s : State) : (ask f) s = .ok (f s, s) := rfl
@[simp] theorem update_run (f : State → State) (s : State) : (update f) s = .ok ((), f s) := rfl
@[simp] theorem get_run (s : State) : (get : M State) s = .ok (s, s) := rfl
@[simp] theorem set_run (t s : State) : (set t : M Unit) s = .ok ((), t) := rfl
@[simp] theorem stop_run {α : Type} (e : Stop) (s : State) : (stop e : M α) s = .error e := rfl
@[simp] theorem signal_run {α : Type} (c : Nat) (v : Word) (s : State) :
    (signal c v : M α) s = .error (.trap s c v) := rfl
@[simp] theorem signalKept_run {α : Type} (c : Nat) (v : Word) (s : State) :
    (signalKept c v : M α) s = .error (.trapIn s c v) := rfl
@[simp] theorem wait_run {α : Type} (s : State) : (wait : M α) s = .error .wait := rfl
@[simp] theorem leave_run {α : Type} (s : State) : (leave : M α) s = .error (.leave s) := rfl

@[simp] theorem require_true (c : Nat) (v : Word) : require true c v = pure () := rfl
@[simp] theorem require_false (c : Nat) (v : Word) : require false c v = signal c v := rfl

/-- A check passes, or its cause is signalled. -/
theorem require_run (b : Bool) (c : Nat) (v : Word) (s : State) :
    (require b c v) s = if b then .ok ((), s) else .error (.trap s c v) := by
  cases b <;> rfl

theorem waitWhile_run (b : Bool) (s : State) : (waitWhile b) s = if b then .error .wait else .ok ((), s) := by
  cases b <;> rfl

theorem self_run {s : State} {n : Nat} {x : Ctx} (h : s.turn = .core n x) : self s = .ok ((n, x), s) := by
  simp [self, h]

@[simp] theorem getG_run (r : Reg) (s : State) : (getG r) s = .ok (s.readG r, s) := rfl

/-- A general register written, and noted. -/
def State.putG (s : State) (r : Reg) (v : Word) : State :=
  (s.writeG r v).noteHere (if r.val = 0 then [] else bytesOf 8 v.toNat)

@[simp] theorem setG_run (r : Reg) (v : Word) (s : State) : (setG r v) s = .ok ((), s.putG r v) := rfl

theorem after_run (len : Nat) (m : M Unit) (s : State) :
    (after len m) s = match m s with | .ok (_, t) => .ok (t.pc + word len, t) | .error e => .error e := by
  unfold after
  rw [M.bind_run]
  cases m s <;> rfl

/-- The checks that come first, passed: the place takes the group, the ord code is one of the form, the registers
are in the file. -/
theorem startOrd_run {g : Group} {ok : Bool} {rs : List Reg} {s : State} (hp : g.refused s.turn = none)
    (ho : ok = true) (hr : holds s.turn rs = true) : (startOrd g ok rs) s = .ok ((), s) := by
  simp [startOrd, M.bind_run, hp, ho, hr]

theorem start_run {g : Group} {rs : List Reg} {s : State} (hp : g.refused s.turn = none)
    (hr : holds s.turn rs = true) : (start g rs) s = .ok ((), s) :=
  startOrd_run hp rfl hr

/-- A place that refuses the group raises its cause. -/
theorem startOrd_refused {g : Group} {ok : Bool} {rs : List Reg} {s : State} {c : Nat} (hp : g.refused s.turn = some c) :
    (startOrd g ok rs) s = .error (.trap s c 0) := by
  simp [startOrd, M.bind_run, hp]

/-! ## What `runMeaning` makes of a meaning -/

theorem runMeaning_ok {m : M Word} {s t : State} {next : Word} (ht : s.turn ≠ .env) (h : m s = .ok (next, t)) :
    runMeaning m s = .next (t.retire next) := by
  unfold runMeaning
  split
  · exact absurd ‹_› ht
  · simp [h]

theorem runMeaning_trap {m : M Word} {s t : State} {c : Nat} {v : Word} (ht : s.turn ≠ .env)
    (h : m s = .error (.trap t c v)) : runMeaning m s = .next ((s.keepPassed t).trapTurn c v) := by
  unfold runMeaning
  split
  · exact absurd ‹_› ht
  · simp [h]

theorem runMeaning_trapDo {m : M Word} {s t : State} {f : State → State} {c : Nat} {v : Word} (ht : s.turn ≠ .env)
    (h : m s = .error (.trapDo t f c v)) :
    runMeaning m s = .next (if s.trapDelayed then s.trapTurn c v else (f (s.keepPassed t)).trapTurn c v) := by
  unfold runMeaning
  split
  · exact absurd ‹_› ht
  · simp [h]

theorem runMeaning_wait {m : M Word} {s : State} (ht : s.turn ≠ .env) (h : m s = .error .wait) :
    runMeaning m s = .next s := by
  unfold runMeaning
  split
  · exact absurd ‹_› ht
  · simp [h]

theorem runMeaning_leave {m : M Word} {s t : State} (ht : s.turn ≠ .env) (h : m s = .error (.leave t)) :
    runMeaning m s = .next t := by
  unfold runMeaning
  split
  · exact absurd ‹_› ht
  · simp [h]

/-- The ways in which a meaning can come to an end; nothing else happens (R32). -/
theorem runMeaning_cases (m : M Word) {s t : State} (h : runMeaning m s = .next t) :
    (∃ next u, m s = .ok (next, u) ∧ t = u.retire next) ∨
    (∃ u c v, m s = .error (.trap u c v) ∧ t = (s.keepPassed u).trapTurn c v) ∨
    (∃ u f c v, m s = .error (.trapDo u f c v) ∧
      t = if s.trapDelayed then s.trapTurn c v else (f (s.keepPassed u)).trapTurn c v) ∨
    (∃ u c v, m s = .error (.trapIn u c v) ∧ t = u.trapKept c v) ∨
    (m s = .error .wait ∧ t = s) ∨ (∃ u, m s = .error (.waitIn u) ∧ t = u) ∨
    (∃ f, m s = .error (.waitDo f) ∧ t = f s) ∨ (∃ u, m s = .error (.leave u) ∧ t = u) := by
  unfold runMeaning at h
  split at h
  · cases h
  · split at h <;> cases h <;> simp only [*, reduceCtorEq, false_and, exists_false, false_or, or_false] <;> simp

/-! ## Registers and the offset of whoever executes -/

theorem State.readG_core {s : State} {n : Nat} {x : Ctx} (h : s.turn = .core n x) (r : Reg) :
    s.readG r = (s.core n).readG x r := by
  simp [State.readG, h]

theorem State.pc_core {s : State} {n : Nat} {x : Ctx} (h : s.turn = .core n x) : s.pc = (s.core n).pc x := by
  simp [State.pc, h]

@[simp] theorem State.readG_zero (s : State) : s.readG 0 = 0 := by
  unfold State.readG
  cases s.turn with
  | env => rfl
  | core n x => cases x <;> rfl
  | walker d t => dsimp only; cases s.thread d t <;> rfl
  | io d n => rfl

@[simp] theorem Context.readG_writeG_same (k : Context) {r : Reg} (v : Word) (h : r.val ≠ 0) :
    (k.writeG r v).readG r = v := by
  simp [Context.readG, Context.writeG, h]

theorem Context.readG_writeG_other (k : Context) {r d : Reg} (v : Word) (h : r ≠ d) :
    (k.writeG d v).readG r = k.readG r := by
  unfold Context.readG Context.writeG
  split
  · rfl
  · split
    · rfl
    · simp [vget_vset_other _ _ h]

theorem StreamState.readG_writeG_same (t : StreamState) {r : Reg} (v : Word) (h : r.val ≠ 0) (h' : r.val < 16) :
    (t.writeG r v).readG r = v := by
  simp [StreamState.readG, StreamState.writeG, h, h']

theorem StreamState.readG_writeG_other (t : StreamState) {r d : Reg} (v : Word) (h : r ≠ d) :
    (t.writeG d v).readG r = t.readG r := by
  unfold StreamState.readG StreamState.writeG
  split
  · rfl
  · split
    · split
      · rfl
      · split
        · rename_i h1 h2 h3 h4
          have : (⟨r.val, h2⟩ : Fin 16) ≠ ⟨d.val, h4⟩ := fun e => h (Fin.ext (by simpa using e))
          simp [vget_vset_other _ _ this]
        · rfl
    · rfl

end Sys2Proof.Machine
end

