-- ==== Sys2Proof/Laws/Registers.lean ====
section
/-! SUPPORT. What writing a general register and ending an instruction leave alone, for whoever executes. -/

namespace Sys2Proof.Machine

/-! ## A core -/

theorem Core.writeG_rest (c : Core) (x : Ctx) (r : Reg) (v : Word) :
    ({ c.writeG x r v with fc := c.fc, hc := c.hc, dc := c.dc, f := c.f } : Core) = c := by
  cases x <;> rfl

theorem Context.writeG_only (k : Context) (r : Reg) (v : Word) : k.onlyRegisters (k.writeG r v) := by
  unfold Context.writeG Context.onlyRegisters
  split <;> rfl

theorem StreamState.writeG_only (t : StreamState) (r : Reg) (v : Word) : t.onlyRegisters (t.writeG r v) := by
  unfold StreamState.writeG StreamState.onlyRegisters
  split
  · rfl
  · split <;> rfl

theorem Context.onlyRegisters_refl (k : Context) : k.onlyRegisters k := rfl
theorem StreamState.onlyRegisters_refl (t : StreamState) : t.onlyRegisters t := rfl

theorem Context.onlyRegisters_trans {a b c : Context} (h : a.onlyRegisters b) (h' : b.onlyRegisters c) :
    a.onlyRegisters c := by
  unfold Context.onlyRegisters at *
  rw [← h, ← h']

theorem StreamState.onlyRegisters_trans {a b c : StreamState} (h : a.onlyRegisters b) (h' : b.onlyRegisters c) :
    a.onlyRegisters c := by
  unfold StreamState.onlyRegisters at *
  rw [← h, ← h']

theorem Core.onlyRegisters_refl (c : Core) : c.onlyRegisters c := ⟨rfl, rfl, rfl, rfl, rfl, rfl, rfl, rfl⟩

theorem Core.onlyRegisters_trans {a b c : Core} (h : a.onlyRegisters b) (h' : b.onlyRegisters c) :
    a.onlyRegisters c := by
  obtain ⟨h1, h2, h3, h4, h5, h6, h7, h8⟩ := h
  obtain ⟨k1, k2, k3, k4, k5, k6, k7, k8⟩ := h'
  refine ⟨?_, Context.onlyRegisters_trans h2 k2, Context.onlyRegisters_trans h3 k3, Context.onlyRegisters_trans h4 k4, ?_, StreamState.onlyRegisters_trans h6 k6, StreamState.onlyRegisters_trans h7 k7, ?_⟩
  · rw [← h1, ← k1]
  · rw [← h5, ← k5]
  · rw [← h8, ← k8]

theorem Core.writeG_only (c : Core) (x : Ctx) (r : Reg) (v : Word) : c.onlyRegisters (c.writeG x r v) := by
  refine ⟨by cases x <;> rfl, ?_, ?_, ?_, ?_, ?_, ?_, ?_⟩ <;> cases x <;>
    first
    | rfl
    | exact Context.writeG_only _ _ _
    | exact StreamState.writeG_only _ _ _

theorem Core.setPc_only (c : Core) (x : Ctx) (v : Word) : c.onlyRegisters (c.setPc x v) := by
  refine ⟨by cases x <;> rfl, ?_, ?_, ?_, ?_, ?_, ?_, ?_⟩ <;> cases x <;> rfl

theorem Core.setAct_only (c : Core) (x : Ctx) (a : Option Activation) : c.onlyRegisters (c.setAct x a) := by
  refine ⟨by cases x <;> rfl, ?_, ?_, ?_, ?_, ?_, ?_, ?_⟩ <;> cases x <;> rfl

theorem Core.pair_only (c : Core) (p : Pairing) : c.onlyRegisters { c with pair := p } :=
  ⟨rfl, rfl, rfl, rfl, rfl, rfl, rfl, rfl⟩

theorem Core.countActivation_only (c : Core) (x : Ctx) : c.onlyRegisters (c.countActivation x) := by
  unfold Core.countActivation
  split
  · split
    · exact c.onlyRegisters_refl
    · exact c.setAct_only _ _
  · exact c.onlyRegisters_refl

theorem Core.countPaired_only (c : Core) (x : Ctx) : c.onlyRegisters (c.countPaired x) := by
  unfold Core.countPaired
  split
  · exact c.onlyRegisters_refl
  · split
    · exact c.pair_only _
    · dsimp only
      split
      · exact c.pair_only _
      · exact c.pair_only _

theorem Core.dropAnswers_only (c : Core) (x : Ctx) : c.onlyRegisters (c.dropAnswers x) :=
  ⟨rfl, rfl, rfl, rfl, rfl, rfl, rfl, rfl⟩

/-! ## What they leave of registers and offsets -/

@[simp] theorem Core.readG_setPc (c : Core) (x : Ctx) (v : Word) (r : Reg) : (c.setPc x v).readG x r = c.readG x r := by
  cases x <;> rfl

@[simp] theorem Core.pc_setPc (c : Core) (x : Ctx) (v : Word) : (c.setPc x v).pc x = v := by
  cases x <;> rfl

@[simp] theorem Core.pc_writeG (c : Core) (x : Ctx) (r : Reg) (v : Word) : (c.writeG x r v).pc x = c.pc x := by
  cases x
  case l => simp only [Core.writeG, Core.pc, StreamState.writeG]; split <;> [rfl; (split <;> rfl)]
  case s => simp only [Core.writeG, Core.pc, StreamState.writeG]; split <;> [rfl; (split <;> rfl)]
  all_goals simp only [Core.writeG, Core.pc, Context.writeG, Core.setContext, Core.context]; split <;> rfl

/-- Two cores with the same contexts and streams read alike. -/
theorem Core.readG_congr {c c' : Core} (hf : c'.fc = c.fc) (hh : c'.hc = c.hc) (hd : c'.dc = c.dc) (h : c'.f = c.f)
    (x : Ctx) (r : Reg) : c'.readG x r = c.readG x r := by
  cases x <;> simp [Core.readG, Core.context, hf, hh, hd, h]

theorem Core.pc_congr {c c' : Core} (hf : c'.fc = c.fc) (hh : c'.hc = c.hc) (hd : c'.dc = c.dc) (h : c'.f = c.f)
    (x : Ctx) : c'.pc x = c.pc x := by
  cases x <;> simp [Core.pc, Core.context, hf, hh, hd, h]

@[simp] theorem Core.countActivation_fc (c : Core) (x : Ctx) : (c.countActivation x).fc = c.fc := by
  unfold Core.countActivation; split <;> [split <;> simp; rfl]
@[simp] theorem Core.countActivation_hc (c : Core) (x : Ctx) : (c.countActivation x).hc = c.hc := by
  unfold Core.countActivation; split <;> [split <;> simp; rfl]
@[simp] theorem Core.countActivation_dc (c : Core) (x : Ctx) : (c.countActivation x).dc = c.dc := by
  unfold Core.countActivation; split <;> [split <;> simp; rfl]
@[simp] theorem Core.countActivation_f (c : Core) (x : Ctx) : (c.countActivation x).f = c.f := by
  unfold Core.countActivation; split <;> [split <;> simp; rfl]
@[simp] theorem Core.countPaired_fc (c : Core) (x : Ctx) : (c.countPaired x).fc = c.fc := by
  unfold Core.countPaired; split <;> [rfl; (split <;> [rfl; (dsimp only; split <;> rfl)])]
@[simp] theorem Core.countPaired_hc (c : Core) (x : Ctx) : (c.countPaired x).hc = c.hc := by
  unfold Core.countPaired; split <;> [rfl; (split <;> [rfl; (dsimp only; split <;> rfl)])]
@[simp] theorem Core.countPaired_dc (c : Core) (x : Ctx) : (c.countPaired x).dc = c.dc := by
  unfold Core.countPaired; split <;> [rfl; (split <;> [rfl; (dsimp only; split <;> rfl)])]
@[simp] theorem Core.countPaired_f (c : Core) (x : Ctx) : (c.countPaired x).f = c.f := by
  unfold Core.countPaired; split <;> [rfl; (split <;> [rfl; (dsimp only; split <;> rfl)])]

/-- The end of an instruction on a core, as an update of that core (R35, R368). -/
def Core.retireTo (c : Core) (x : Ctx) (next : Word) : Core :=
  (((c.dropAnswers x).setPc x next).countActivation x).countPaired x

theorem Core.retireTo_only (c : Core) (x : Ctx) (next : Word) : c.onlyRegisters (c.retireTo x next) :=
  Core.onlyRegisters_trans (Core.onlyRegisters_trans (Core.onlyRegisters_trans (c.dropAnswers_only x)
    (Core.setPc_only _ x next)) (Core.countActivation_only _ x)) (Core.countPaired_only _ x)

@[simp] theorem Core.readG_retireTo (c : Core) (x : Ctx) (next : Word) (r : Reg) :
    (c.retireTo x next).readG x r = c.readG x r := by
  unfold Core.retireTo
  rw [Core.readG_congr (Core.countPaired_fc _ x) (Core.countPaired_hc _ x) (Core.countPaired_dc _ x)
    (Core.countPaired_f _ x), Core.readG_congr (Core.countActivation_fc _ x) (Core.countActivation_hc _ x)
    (Core.countActivation_dc _ x) (Core.countActivation_f _ x), Core.readG_setPc]
  exact Core.readG_congr rfl rfl rfl rfl x r

@[simp] theorem Core.pc_retireTo (c : Core) (x : Ctx) (next : Word) : (c.retireTo x next).pc x = next := by
  unfold Core.retireTo
  rw [Core.pc_congr (Core.countPaired_fc _ x) (Core.countPaired_hc _ x) (Core.countPaired_dc _ x)
    (Core.countPaired_f _ x), Core.pc_congr (Core.countActivation_fc _ x) (Core.countActivation_hc _ x)
    (Core.countActivation_dc _ x) (Core.countActivation_f _ x), Core.pc_setPc]

/-! ## A core's instruction ends -/

theorem State.rest_trans {s t u : State} (h : ({ t with cores := s.cores } : State) = s)
    (h' : ({ u with cores := t.cores } : State) = t) : ({ u with cores := s.cores } : State) = s := by
  rw [← h, ← h']

theorem State.retire_turn (s : State) (next : Word) : (s.retire next).turn = s.turn := by
  unfold State.retire
  cases h : s.turn with
  | env => simp [State.setPc, h]
  | core n x => simp [State.setPc, h]
  | walker d t => simp [State.setPc, State.setThread, h]
  | io d n => simp [State.setPc, State.modIo, h]

theorem State.setPc_core {s : State} {n : Nat} {x : Ctx} (h : s.turn = .core n x) (v : Word) :
    s.setPc v = s.modCore n fun c => c.setPc x v := by
  simp [State.setPc, h]

theorem State.retire_eq_core {s : State} {n : Nat} {x : Ctx} (h : s.turn = .core n x) (next : Word) :
    s.retire next = ((s.modCore n fun c => c.dropAnswers x).modCore n fun c => c.setPc x next).modCore n fun c =>
      (c.countActivation x).countPaired x := by
  unfold State.retire
  split
  · rename_i m y e
    obtain ⟨rfl, rfl⟩ := Turn.core.inj (h.symm.trans e)
    rw [State.setPc_core (s := s.modCore n fun c => c.dropAnswers x) h]
  · rename_i e; rw [h] at e; cases e
  · rename_i e _; exact absurd h (e n x)

theorem State.retire_core {s : State} {n : Nat} {x : Ctx} (h : s.turn = .core n x) (next : Word) :
    (s.retire next).core n = (s.core n).retireTo x next := by
  simp [State.retire, State.setPc, h, Core.retireTo]

theorem State.retire_core_other {s : State} {m n : Nat} {x : Ctx} (h : s.turn = .core n x) (next : Word) (hm : m ≠ n) :
    (s.retire next).core m = s.core m := by
  simp [State.retire, State.setPc, h, State.core_modCore_other _ _ hm]

theorem State.retire_rest {s : State} {n : Nat} {x : Ctx} (h : s.turn = .core n x) (next : Word) :
    ({ s.retire next with cores := s.cores } : State) = s := by
  rw [State.retire_eq_core h]
  rfl

theorem State.note_core (s : State) (n : Nat) (x : Ctx) (bs : List Byte) :
    ∃ p, (s.note n x bs).core n = { s.core n with pair := p } := by
  unfold State.note
  dsimp only
  split
  · exact ⟨_, State.core_setCore_same _ _ _⟩
  · exact ⟨_, rfl⟩

theorem State.note_core_other (s : State) {m n : Nat} (x : Ctx) (bs : List Byte) (h : m ≠ n) :
    (s.note n x bs).core m = s.core m := by
  unfold State.note
  dsimp only
  split
  · exact State.core_setCore_other _ _ h
  · rfl

theorem State.note_rest (s : State) (n : Nat) (x : Ctx) (bs : List Byte) :
    ({ s.note n x bs with cores := s.cores } : State) = s := by
  unfold State.note
  dsimp only
  split <;> rfl

theorem State.putG_turn (s : State) (d : Reg) (v : Word) : (s.putG d v).turn = s.turn := by
  unfold State.putG State.noteHere State.writeG
  cases h : s.turn with
  | env => simp [h]
  | core n x =>
    have := congrArg State.turn (State.note_rest (s.modCore n fun c => c.writeG x d v) n x
      (if d.val = 0 then [] else bytesOf 8 v.toNat))
    simpa [h] using this
  | walker k t => simp [State.setThread, h]
  | io k n => simp [State.modIo, h]

theorem State.putG_core {s : State} {n : Nat} {x : Ctx} (h : s.turn = .core n x) (d : Reg) (v : Word) :
    ∃ p, (s.putG d v).core n = { (s.core n).writeG x d v with pair := p } := by
  obtain ⟨p, hp⟩ := State.note_core (s.modCore n fun c => c.writeG x d v) n x
    (if d.val = 0 then [] else bytesOf 8 v.toNat)
  exact ⟨p, by simpa [State.putG, State.noteHere, State.writeG, h] using hp⟩

theorem State.putG_core_other {s : State} {m n : Nat} {x : Ctx} (h : s.turn = .core n x) (d : Reg) (v : Word)
    (hm : m ≠ n) : (s.putG d v).core m = s.core m := by
  simp [State.putG, State.noteHere, State.writeG, h, State.note_core_other _ _ _ hm, State.core_modCore_other _ _ hm]

theorem State.putG_rest {s : State} {n : Nat} {x : Ctx} (h : s.turn = .core n x) (d : Reg) (v : Word) :
    ({ s.putG d v with cores := s.cores } : State) = s := by
  have e : s.putG d v = (s.modCore n fun c => c.writeG x d v).note n x (if d.val = 0 then [] else bytesOf 8 v.toNat) := by
    simp [State.putG, State.noteHere, State.writeG, h]
  rw [e]
  exact State.rest_trans (t := s.modCore n fun c => c.writeG x d v) rfl (State.note_rest _ n x _)

theorem Core.readG_writeG_same (c : Core) (x : Ctx) {r : Reg} (v : Word) (h : r.val ≠ 0)
    (hf : r.val < fileSize (.core 0 x)) : (c.writeG x r v).readG x r = v := by
  cases x
  case l => exact StreamState.readG_writeG_same _ _ h hf
  case s => exact StreamState.readG_writeG_same _ _ h hf
  all_goals exact Context.readG_writeG_same _ _ h

theorem Core.readG_writeG_other (c : Core) (x : Ctx) {r d : Reg} (v : Word) (h : r ≠ d) :
    (c.writeG x d v).readG x r = c.readG x r := by
  cases x
  case l => exact StreamState.readG_writeG_other _ _ h
  case s => exact StreamState.readG_writeG_other _ _ h
  all_goals exact Context.readG_writeG_other _ _ h

/-- A state reached on a core by updates that keep everything but registers. -/
theorem State.registersOnly_core {s t : State} {n : Nat} {x : Ctx} (h : s.turn = .core n x)
    (hr : ({ t with cores := s.cores } : State) = s) (ho : ∀ m, m ≠ n → t.core m = s.core m)
    (hc : (s.core n).onlyRegisters (t.core n)) : s.registersOnly t := by
  unfold State.registersOnly
  rw [h]
  exact ⟨hr, ho, hc⟩

/-- The end of an instruction of a core that wrote one general register. -/
theorem State.putG_retire_core {s : State} {n : Nat} {x : Ctx} (h : s.turn = .core n x) (len : Nat) {d : Reg} (v : Word)
    (hd : d.val < fileSize s.turn) : s.wrote ((s.putG d v).retire (s.pc + word len)) len d v := by
  have ht : (s.putG d v).turn = .core n x := (State.putG_turn s d v).trans h
  obtain ⟨p, hp⟩ := State.putG_core h d v
  have hcore : ((s.putG d v).retire (s.pc + word len)).core n =
      ({ (s.core n).writeG x d v with pair := p } : Core).retireTo x (s.pc + word len) := by
    rw [State.retire_core ht, hp]
  have hturn : ((s.putG d v).retire (s.pc + word len)).turn = .core n x := (State.retire_turn _ _).trans ht
  have hread : ∀ r, ((s.putG d v).retire (s.pc + word len)).readG r = ((s.core n).writeG x d v).readG x r := by
    intro r
    rw [State.readG_core hturn, hcore, Core.readG_retireTo]
    exact Core.readG_congr rfl rfl rfl rfl x r
  refine ⟨?_, ?_, ?_, ?_⟩
  · by_cases hz : d = 0
    · subst hz; simp
    · have hz' : d.val ≠ 0 := fun e => hz (Fin.ext e)
      rw [hread, if_neg hz]
      refine Core.readG_writeG_same _ _ _ hz' ?_
      rw [h] at hd
      cases x <;> exact hd
  · rw [State.pc_core hturn, hcore, Core.pc_retireTo]
  · intro r hr
    rw [hread, Core.readG_writeG_other _ _ _ hr, State.readG_core h]
  · refine State.registersOnly_core h (State.rest_trans (State.putG_rest h d v) (State.retire_rest ht _)) ?_ ?_
    · intro m hm
      rw [State.retire_core_other ht _ hm, State.putG_core_other h _ _ hm]
    · rw [hcore]
      exact Core.onlyRegisters_trans (Core.onlyRegisters_trans (Core.writeG_only _ x d v) (Core.pair_only _ p))
        (Core.retireTo_only _ x _)

/-- The end of an instruction of a core that wrote no register. -/
theorem State.retire_movedTo_core {s : State} {n : Nat} {x : Ctx} (h : s.turn = .core n x) (next : Word) :
    s.movedTo (s.retire next) next := by
  have hturn : (s.retire next).turn = .core n x := (State.retire_turn _ _).trans h
  refine ⟨?_, ?_, State.registersOnly_core h (State.retire_rest h _) ?_ ?_⟩
  · rw [State.pc_core hturn, State.retire_core h, Core.pc_retireTo]
  · intro r
    rw [State.readG_core hturn, State.retire_core h, Core.readG_retireTo, State.readG_core h]
  · intro m hm
    exact State.retire_core_other h _ hm
  · rw [State.retire_core h]
    exact Core.retireTo_only _ _ _

/-! ## I/O cores and walker threads -/

@[simp] theorem State.ioCore_modIo_same (s : State) (d k : Nat) (f : IoCore → IoCore) :
    (s.modIo d k f).ioCore d k = f (s.ioCore d k) := by
  simp [State.ioCore, State.modIo]

theorem State.ioCore_modIo_other (s : State) (d : Nat) {j k : Nat} (f : IoCore → IoCore) (h : j ≠ k) :
    (s.modIo d k f).ioCore d j = s.ioCore d j := by
  simp [State.ioCore, State.modIo, sget_sset_other _ _ h]

@[simp] theorem State.modIo_turn (s : State) (d k : Nat) (f : IoCore → IoCore) : (s.modIo d k f).turn = s.turn := rfl

/-- What a change of an I/O core's context leaves alone. -/
theorem State.modIo_registersOnly {s : State} {d k : Nat} (h : s.turn = .io d k) (f : IoCore → IoCore)
    (hc : ({ f (s.ioCore d k) with ctx := (s.ioCore d k).ctx } : IoCore) = s.ioCore d k)
    (hx : (s.ioCore d k).ctx.onlyRegisters (f (s.ioCore d k)).ctx) : s.registersOnly (s.modIo d k f) := by
  unfold State.registersOnly
  rw [h]
  refine ⟨rfl, fun e he => State.die_modDie_other _ _ he, ?_, fun j hj => State.ioCore_modIo_other _ _ _ hj, ?_, ?_⟩
  · simp [State.modIo]
  · simpa using hc
  · simpa using hx

/-- The threads of a die after a change of one. -/
theorem State.thread_setThread_same {s : State} {d t : Nat} {th : Thread} (f : Thread → Thread)
    (hf : ∀ x, (f x).tid = x.tid) (h : s.thread d t = some th) : (s.setThread d t f).thread d t = some (f th) := by
  unfold State.thread State.setThread at *
  rw [State.die_modDie_same]
  generalize (s.die d).threads = l at h
  induction l with
  | nil => simp at h
  | cons a rest ih =>
    by_cases e : a.tid = t
    · have : a = th := by simpa [e] using h
      subst this
      simp [e, hf]
    · have h' : List.find? (fun x => x.tid == t) rest = some th := by simpa [e] using h
      simpa [e] using ih h'

theorem State.setThread_turn (s : State) (d t : Nat) (f : Thread → Thread) : (s.setThread d t f).turn = s.turn := rfl

/-- What a change of a walker thread's registers, offset and count leaves alone. -/
theorem State.setThread_registersOnly {s : State} {d t : Nat} (h : s.turn = .walker d t) (f : Thread → Thread)
    (hf : ∀ x, ((f x).tid, (f x).req, (f x).scratch) = (x.tid, x.req, x.scratch)) :
    s.registersOnly (s.setThread d t f) := by
  unfold State.registersOnly
  rw [h]
  refine ⟨rfl, fun e he => State.die_modDie_other _ _ he, ?_, ?_⟩
  · simp [State.setThread]
  · simp only [State.setThread, State.die_modDie_same, List.map_map]
    apply List.map_congr_left
    intro x _
    simp only [Function.comp]
    split
    · exact hf x
    · rfl

theorem State.registersOnly_trans {s t u : State} (h : s.registersOnly t) (h' : t.registersOnly u)
    (ht : t.turn = s.turn) : s.registersOnly u := by
  unfold State.registersOnly at *
  rw [ht] at h'
  revert h h'
  cases s.turn with
  | env => rintro rfl rfl; rfl
  | core n x =>
    rintro ⟨h1, h2, h3⟩ ⟨k1, k2, k3⟩
    exact ⟨State.rest_trans h1 k1, fun m hm => (k2 m hm).trans (h2 m hm), Core.onlyRegisters_trans h3 k3⟩
  | io d k =>
    rintro ⟨h1, h2, h3, h4, h5, h6⟩ ⟨k1, k2, k3, k4, k5, k6⟩
    refine ⟨by rw [← h1, ← k1], fun e he => (k2 e he).trans (h2 e he), by rw [← h3, ← k3],
      fun j hj => (k4 j hj).trans (h4 j hj), by rw [← h5, ← k5], Context.onlyRegisters_trans h6 k6⟩
  | walker d t' =>
    rintro ⟨h1, h2, h3, h4⟩ ⟨k1, k2, k3, k4⟩
    exact ⟨by rw [← h1, ← k1], fun e he => (k2 e he).trans (h2 e he), by rw [← h3, ← k3], k4.trans h4⟩

/-- The registers of a thread (R36): `g0` reads zero, `g16` and above are not in the file. -/
def Thread.readG (th : Thread) (r : Reg) : Word :=
  if r.val = 0 then 0 else if h : r.val < 16 then th.g.get ⟨r.val, h⟩ else 0

/-- A register of a thread written. -/
def Thread.writeG (d : Reg) (v : Word) (th : Thread) : Thread :=
  if d.val = 0 then th else if h : d.val < 16 then { th with g := vset th.g ⟨d.val, h⟩ v } else th

theorem Thread.readG_writeG_same (th : Thread) {r : Reg} (v : Word) (h : r.val ≠ 0) (h' : r.val < 16) :
    (Thread.writeG r v th).readG r = v := by
  simp [Thread.readG, Thread.writeG, h, h']

theorem Thread.readG_writeG_other (th : Thread) {r d : Reg} (v : Word) (h : r ≠ d) :
    (Thread.writeG d v th).readG r = th.readG r := by
  unfold Thread.readG Thread.writeG
  split
  · rfl
  · split
    · split
      · rfl
      · split
        · rename_i h1 h2 h3 h4
          have : (⟨r.val, h2⟩ : Fin 16) ≠ ⟨d.val, h4⟩ := fun e => h (Fin.ext (by simpa using e))
          simp [vget_vset_other _ _ this]
        · rfl
    · rfl

theorem Thread.writeG_tid (d : Reg) (v : Word) (th : Thread) : (Thread.writeG d v th).tid = th.tid := by
  unfold Thread.writeG
  split
  · rfl
  · split <;> rfl

theorem Thread.writeG_rest (d : Reg) (v : Word) (th : Thread) :
    ((Thread.writeG d v th).tid, (Thread.writeG d v th).req, (Thread.writeG d v th).scratch) =
      (th.tid, th.req, th.scratch) := by
  unfold Thread.writeG
  split
  · rfl
  · split <;> rfl

theorem State.readG_walker {s : State} {d t : Nat} {th : Thread} (h : s.turn = .walker d t)
    (hth : s.thread d t = some th) (r : Reg) : s.readG r = th.readG r := by
  simp [State.readG, h, hth, Thread.readG]

theorem State.pc_walker {s : State} {d t : Nat} {th : Thread} (h : s.turn = .walker d t)
    (hth : s.thread d t = some th) : s.pc = th.pc := by
  simp [State.pc, h, hth]

theorem State.putG_walker {s : State} {d t : Nat} (h : s.turn = .walker d t) (r : Reg) (v : Word) :
    s.putG r v = s.setThread d t (Thread.writeG r v) := by
  unfold State.putG State.noteHere State.writeG
  simp only [h, State.setThread_turn]
  rfl

theorem State.retire_walker {s : State} {d t : Nat} (h : s.turn = .walker d t) (next : Word) :
    s.retire next = (s.setThread d t fun th => { th with pc := next }).setThread d t fun th =>
      { th with count := th.count + 1 } := by
  simp [State.retire, State.setPc, h]

theorem State.readG_io {s : State} {d k : Nat} (h : s.turn = .io d k) (r : Reg) :
    s.readG r = (s.ioCore d k).ctx.readG r := by
  simp [State.readG, h]

theorem State.putG_io {s : State} {d k : Nat} (h : s.turn = .io d k) (r : Reg) (v : Word) :
    s.putG r v = s.modIo d k fun c => { c with ctx := c.ctx.writeG r v } := by
  simp [State.putG, State.noteHere, State.writeG, h]

theorem State.retire_io {s : State} {d k : Nat} (h : s.turn = .io d k) (next : Word) :
    s.retire next = s.modIo d k fun c => { c with ctx := { c.ctx with pc := next } } := by
  simp [State.retire, State.setPc, h]

theorem State.pc_io {s : State} {d k : Nat} (h : s.turn = .io d k) : s.pc = (s.ioCore d k).ctx.pc := by
  simp [State.pc, h]

/-! ## Whoever executes -/

/-- The end of an instruction that writes no register. -/
theorem State.retire_movedTo {s : State} (h : s.executing = true) (next : Word) : s.movedTo (s.retire next) next := by
  cases ht : s.turn with
  | env => simp [State.executing, ht] at h
  | core n x => exact State.retire_movedTo_core ht next
  | io d k =>
    have ht' : (s.retire next).turn = .io d k := (State.retire_turn _ _).trans ht
    refine ⟨?_, ?_, ?_⟩
    · rw [State.pc_io ht', State.retire_io ht, State.ioCore_modIo_same]
    · intro r
      rw [State.readG_io ht', State.retire_io ht, State.ioCore_modIo_same, State.readG_io ht]
      rfl
    · rw [State.retire_io ht]
      exact State.modIo_registersOnly ht _ rfl rfl
  | walker d t =>
    have hsome : (s.thread d t).isSome = true := by simpa [State.executing, ht] using h
    obtain ⟨th, hth⟩ := Option.isSome_iff_exists.1 hsome
    have ht' : (s.retire next).turn = .walker d t := (State.retire_turn _ _).trans ht
    have h1 := State.thread_setThread_same (fun x : Thread => { x with pc := next }) (fun _ => rfl) hth
    have h2 := State.thread_setThread_same (fun x : Thread => { x with count := x.count + 1 }) (fun _ => rfl) h1
    rw [← State.retire_walker ht] at h2
    refine ⟨?_, ?_, ?_⟩
    · rw [State.pc_walker ht' h2]
    · intro r
      rw [State.readG_walker ht' h2, State.readG_walker ht hth]
      rfl
    · rw [State.retire_walker ht]
      exact State.registersOnly_trans
        (State.setThread_registersOnly ht (fun th => { th with pc := next }) fun _ => rfl)
        (State.setThread_registersOnly (s := s.setThread d t fun th => { th with pc := next }) ht
          (fun th => { th with count := th.count + 1 }) fun _ => rfl) rfl

/-- Writing a register and then ending the instruction. -/
theorem State.putG_retire {s : State} (h : s.executing = true) (len : Nat) {d : Reg} (v : Word)
    (hd : d.val < fileSize s.turn) : s.wrote ((s.putG d v).retire (s.pc + word len)) len d v := by
  cases ht : s.turn with
  | env => simp [State.executing, ht] at h
  | core n x => exact State.putG_retire_core ht len v hd
  | io k n =>
    have htp : (s.putG d v).turn = .io k n := (State.putG_turn s d v).trans ht
    have hx : (s.putG d v).executing = true := by simp [State.executing, htp]
    obtain ⟨hpc, hg, ho⟩ := State.retire_movedTo hx (s.pc + word len)
    refine ⟨?_, hpc, ?_, ?_⟩
    · rw [hg]
      by_cases hz : d = 0
      · subst hz; simp
      · rw [if_neg hz, State.readG_io htp, State.putG_io ht, State.ioCore_modIo_same]
        exact Context.readG_writeG_same _ _ fun e => hz (Fin.ext e)
    · intro r hr
      rw [hg, State.readG_io htp, State.putG_io ht, State.ioCore_modIo_same, State.readG_io ht]
      exact Context.readG_writeG_other _ _ hr
    · refine State.registersOnly_trans ?_ ho (State.putG_turn s d v)
      rw [State.putG_io ht]
      exact State.modIo_registersOnly ht _ rfl (Context.writeG_only _ _ _)
  | walker k t =>
    have hsome : (s.thread k t).isSome = true := by simpa [State.executing, ht] using h
    obtain ⟨th, hth⟩ := Option.isSome_iff_exists.1 hsome
    have htp : (s.putG d v).turn = .walker k t := (State.putG_turn s d v).trans ht
    have h1 := State.thread_setThread_same (Thread.writeG d v) (Thread.writeG_tid d v) hth
    rw [← State.putG_walker ht] at h1
    have hx : (s.putG d v).executing = true := by simp [State.executing, htp, h1]
    obtain ⟨hpc, hg, ho⟩ := State.retire_movedTo hx (s.pc + word len)
    refine ⟨?_, hpc, ?_, ?_⟩
    · rw [hg]
      by_cases hz : d = 0
      · subst hz; simp
      · rw [if_neg hz, State.readG_walker htp h1]
        rw [ht] at hd
        exact Thread.readG_writeG_same _ _ (fun e => hz (Fin.ext e)) hd
    · intro r hr
      rw [hg, State.readG_walker htp h1, State.readG_walker ht hth]
      exact Thread.readG_writeG_other _ _ hr
    · refine State.registersOnly_trans ?_ ho (State.putG_turn s d v)
      rw [State.putG_walker ht]
      exact State.setThread_registersOnly ht _ (Thread.writeG_rest d v)

/-- Writing a register leaves the offset where it is. -/
theorem State.pc_putG {s : State} (h : s.executing = true) (d : Reg) (v : Word) : (s.putG d v).pc = s.pc := by
  cases ht : s.turn with
  | env => simp [State.executing, ht] at h
  | core n x =>
    obtain ⟨p, hp⟩ := State.putG_core ht d v
    rw [State.pc_core ((State.putG_turn s d v).trans ht), hp, State.pc_core ht]
    exact (Core.pc_congr (c := (s.core n).writeG x d v) rfl rfl rfl rfl x).trans (Core.pc_writeG _ _ _ _)
  | io k n =>
    rw [State.pc_io ((State.putG_turn s d v).trans ht), State.putG_io ht, State.ioCore_modIo_same, State.pc_io ht]
    simp only [Context.writeG]
    split <;> rfl
  | walker k t =>
    have hsome : (s.thread k t).isSome = true := by simpa [State.executing, ht] using h
    obtain ⟨th, hth⟩ := Option.isSome_iff_exists.1 hsome
    have h1 := State.thread_setThread_same (Thread.writeG d v) (Thread.writeG_tid d v) hth
    rw [← State.putG_walker ht] at h1
    rw [State.pc_walker ((State.putG_turn s d v).trans ht) h1, State.pc_walker ht hth]
    unfold Thread.writeG
    split
    · rfl
    · split <;> rfl

end Sys2Proof.Machine
end

