-- ==== Sys2Proof/Laws/Scalar.lean ====
section
/-! SUPPORT. The shared forms of the integer instructions, of branches and of jumps: each runs to its end, or raises
the one cause that its rule names. -/

namespace Sys2Proof.Machine

theorem State.turn_ne_env {s : State} (h : s.executing = true) : s.turn ≠ .env := by
  intro e
  simp [State.executing, e] at h

/-- Every place that executes takes the scalar instructions (R64). -/
theorem Group.scalar_taken (t : Turn) : Group.scalar.refused t = none := by
  cases t <;> simp [Group.refused]

theorem holds_head {t : Turn} {r : Reg} {rs : List Reg} (h : holds t (r :: rs) = true) : r.val < fileSize t := by
  simp [holds] at h
  exact h.1

/-- An instruction that passes the first checks, and whose rest writes one register, runs to its end. -/
theorem writes_wrote {s : State} {len : Nat} {d : Reg} {rs : List Reg} {m : M Unit} {v : Word}
    (hx : s.executing = true) (hr : holds s.turn (d :: rs) = true) (hm : m s = .ok ((), s.putG d v)) :
    ∃ t, runMeaning (after len (start .scalar (d :: rs) >>= fun _ => m)) s = .next t ∧ s.wrote t len d v := by
  refine ⟨_, runMeaning_ok (State.turn_ne_env hx) (t := s.putG d v) (next := s.pc + word len) ?_,
    State.putG_retire hx len v (holds_head hr)⟩
  rw [after_run, M.bind_ok (start_run (Group.scalar_taken _) hr), hm]
  simp [State.pc_putG hx d v]

theorem twoRegs_wrote {s : State} {len : Nat} {d a b : Reg} (f : Word → Word → Word) (hx : s.executing = true)
    (hr : holds s.turn [d, a, b] = true) :
    ∃ t, runMeaning (twoRegs len d a b f) s = .next t ∧ s.wrote t len d (f (s.readG a) (s.readG b)) :=
  writes_wrote hx hr (by simp [M.bind_run])

theorem oneReg_wrote {s : State} {len : Nat} {d a : Reg} (f : Word → Word) (hx : s.executing = true)
    (hr : holds s.turn [d, a] = true) :
    ∃ t, runMeaning (oneReg len d a f) s = .next t ∧ s.wrote t len d (f (s.readG a)) :=
  writes_wrote hx hr (by simp [M.bind_run])

/-- A division that does not trap: a nonzero divisor, or STATUS.DZE = 0 (R67). -/
theorem dividing_wrote {s : State} {d a b : Reg} (f : Word → Word → Word) (hx : s.executing = true)
    (hr : holds s.turn [d, a, b] = true) (hz : s.readG b ≠ 0 ∨ s.context.dze = false) :
    ∃ t, runMeaning (dividing d a b f) s = .next t ∧ s.wrote t 4 d (f (s.readG a) (s.readG b)) := by
  refine writes_wrote hx hr ?_
  have : (!(s.readG b == 0 && s.context.dze)) = true := by
    rcases hz with h | h
    · simp only [beq_eq_false_iff_ne.2 h, Bool.false_and, Bool.not_false]
    · simp only [h, Bool.and_false, Bool.not_false]
  simp only [M.bind_run, getG_run, ask_run, this, require_true, M.pure_run, setG_run]

/-- A division by zero under STATUS.DZE raises 0x3B and does nothing else (R67). -/
theorem dividing_traps {s : State} {d a b : Reg} (f : Word → Word → Word) (hx : s.executing = true)
    (hr : holds s.turn [d, a, b] = true) (hz : s.readG b = 0) (hd : s.context.dze = true) :
    runMeaning (dividing d a b f) s = .next ((s.keepPassed s).trapTurn 0x3B 0) := by
  refine runMeaning_trap (State.turn_ne_env hx) ?_
  unfold dividing
  rw [after_run, M.bind_ok (start_run (Group.scalar_taken _) hr)]
  simp [M.bind_run, hz, hd]

/-- A branch goes to its target when its condition holds, and past itself otherwise (R71). -/
theorem branchIf_moved {s : State} {a b : Reg} {o : BitVec 11} (f : Word → Word → Bool) (hx : s.executing = true)
    (hr : holds s.turn [a, b] = true) :
    ∃ t, runMeaning (branchIf a b o f) s = .next t ∧
      s.movedTo t (if f (s.readG a) (s.readG b) then codeTarget s.pc o else s.pc + 4) := by
  refine ⟨_, runMeaning_ok (State.turn_ne_env hx) (t := s) ?_, State.retire_movedTo hx _⟩
  unfold branchIf
  rw [M.bind_ok (start_run (Group.scalar_taken _) hr)]
  simp [M.bind_run]

end Sys2Proof.Machine
end

