-- ==== Sys2Proof/Laws/Alone.lean ====
section
/-! SUPPORT. Cores that are not paired: what paired checking adds does nothing there (R367, R368). Where a place
refuses an instruction (R64), its cause is all that happens. -/

namespace Sys2Proof.Machine

/-! ## One core written twice -/

@[simp] theorem sset_sset {α : Type} (l : Sparse α) (k : Nat) (v w : α) : sset (sset l k v) k w = sset l k w := by
  induction l with
  | nil => simp [sset]
  | cons p rest ih =>
    obtain ⟨a, x⟩ := p
    by_cases h : a = k
    · simp [sset, h]
    · by_cases h' : k < a
      · simp [sset, h, h']
      · simp [sset, h, h', ih]

@[simp] theorem State.setCore_setCore (s : State) (n : Nat) (c c' : Core) : (s.setCore n c).setCore n c' = s.setCore n c' := by
  simp [State.setCore]

@[simp] theorem State.modCore_setCore (s : State) (n : Nat) (c : Core) (f : Core → Core) :
    (s.setCore n c).modCore n f = s.setCore n (f c) := by
  simp [State.modCore]

@[simp] theorem State.setCore_modCore (s : State) (n : Nat) (c : Core) (f : Core → Core) :
    (s.modCore n f).setCore n c = s.setCore n c := by
  simp [State.modCore]

theorem State.modCore_eq (s : State) (n : Nat) (f : Core → Core) : s.modCore n f = s.setCore n (f (s.core n)) := rfl

/-! ## Cores that are not paired -/

theorem State.alone.turn {s : State} {n : Nat} {x : Ctx} (h : s.alone n x) : s.turn = .core n x := h.1

theorem State.alone.not_env {s : State} {n : Nat} {x : Ctx} (h : s.alone n x) : s.turn ≠ .env := by simp [h.1]

theorem State.alone.executing {s : State} {n : Nat} {x : Ctx} (h : s.alone n x) : s.executing = true := by
  simp [State.executing, h.1]

theorem State.alone.setCore {s : State} {n : Nat} {x : Ctx} (h : s.alone n x) {c : Core} (hc : c.pair = (s.core n).pair) :
    (s.setCore n c).alone n x :=
  ⟨h.1, by simpa [Core.paired, hc] using h.2⟩

theorem State.alone.self_run {s : State} {n : Nat} {x : Ctx} (h : s.alone n x) : self s = .ok ((n, x), s) :=
  Machine.self_run h.1

@[simp] theorem Core.countPaired_alone {c : Core} (x : Ctx) (h : c.paired = false) : c.countPaired x = c := by
  simp [Core.countPaired, h]

theorem State.alone.note {s : State} {n : Nat} {x : Ctx} (h : s.alone n x) (bs : List Byte) : s.noteHere bs = s := by
  simp [State.noteHere, h.1, State.note, h.2]

theorem State.alone.keepPassed {s : State} {n : Nat} {x : Ctx} (h : s.alone n x) (t : State) : s.keepPassed t = s := by
  simp [State.keepPassed, h.1, h.2]

theorem State.alone.external_run {s : State} {n : Nat} {x : Ctx} (h : s.alone n x) (m : M (List Byte)) :
    external m s = m s := by
  simp [external, M.bind_run, h.self_run, h.2]

theorem State.alone.closing_run {s : State} {n : Nat} {x : Ctx} (h : s.alone n x) (m : M (List Byte)) :
    closing m s = m s := by
  simp [closing, M.bind_run, h.self_run, h.2]

theorem State.alone.pc_eq {s : State} {n : Nat} {x : Ctx} (h : s.alone n x) : s.pc = (s.core n).pc x := State.pc_core h.1

theorem State.alone.context_eq {s : State} {n : Nat} {x : Ctx} (h : s.alone n x) : s.context = (s.core n).context x := by
  simp [State.context, h.1]

theorem State.alone.priv_eq {s : State} {n : Nat} {x : Ctx} (h : s.alone n x) : s.priv = ((s.core n).context x).priv := by
  simp [State.priv, h.context_eq]

/-- An instruction of `len` bytes whose meaning leaves `t` with the offset still where it was runs to its end. -/
theorem retires_of {s t : State} {i : Instr} {len : Nat} {m : M Unit} (he : exec i s = runMeaning (after len m) s)
    (hx : s.turn ≠ .env) (hm : m s = .ok ((), t)) (hp : t.pc = s.pc) : Retires s i len t := by
  unfold Retires
  rw [he, runMeaning_ok hx (by rw [after_run, hm]), hp]

/-- A meaning that signals before it does anything only raises its cause. -/
theorem raises_of {s t : State} {i : Instr} {m : M Word} {c : Nat} {v : Word} (he : exec i s = runMeaning m s)
    (hx : s.turn ≠ .env) (hm : m s = .error (.trap t c v)) (ht : s.keepPassed t = s.keepPassed s) : Raises s i c v := by
  unfold Raises
  rw [he, runMeaning_trap hx hm, ht]

/-! ## Places that refuse an instruction (R64) -/

theorem refused_after {s : State} {g : Group} {ok : Bool} {rs : List Reg} {c : Nat} (len : Nat) (m : M Unit)
    (hx : s.turn ≠ .env) (h : g.refused s.turn = some c) :
    runMeaning (after len (startOrd g ok rs >>= fun _ => m)) s = .next ((s.keepPassed s).trapTurn c 0) :=
  runMeaning_trap hx (by rw [after_run, M.bind_error (startOrd_refused h)])

theorem refused_start {s : State} {g : Group} {ok : Bool} {rs : List Reg} {c : Nat} (m : M Word)
    (hx : s.turn ≠ .env) (h : g.refused s.turn = some c) :
    runMeaning (startOrd g ok rs >>= fun _ => m) s = .next ((s.keepPassed s).trapTurn c 0) :=
  runMeaning_trap hx (by rw [M.bind_error (startOrd_refused h)])

theorem VecForm.begin_refused {s : State} {v : VecForm} {gs : List Reg} {c : Nat}
    (h : Group.vector.refused s.turn = some c) : v.begin_ gs s = .error (.trap s c 0) := by
  unfold VecForm.begin_ start
  rw [M.bind_error (startOrd_refused h)]

theorem refused_vector {s : State} {v : VecForm} {gs : List Reg} {c : Nat} (len : Nat) (m : KWord × Nat → M Unit)
    (hx : s.turn ≠ .env) (h : Group.vector.refused s.turn = some c) :
    runMeaning (after len (v.begin_ gs >>= m)) s = .next ((s.keepPassed s).trapTurn c 0) :=
  runMeaning_trap hx (by rw [after_run, M.bind_error (VecForm.begin_refused h)])

end Sys2Proof.Machine
end

