-- ==== Sys2Proof/Laws/Encoding.lean ====
section
/-! SUPPORT. Every encoded form (R49, R60, R63) gives back the fields from which it was built, whatever fields
it has. The lemmas are named after the form, the reader, and the bits that it reads. -/

namespace Sys2Proof

theorem OrdCode.code_lt (o : OrdCode) : o.code < 4 := by cases o <;> decide
theorem Scope.code_lt (s : Scope) : s.code < 6 := by cases s <;> decide
theorem Fmt.code_lt (f : Fmt) : f.code < 15 := by cases f <;> decide
theorem Rnd.code_lt (r : Rnd) : r.code < 8 := by cases r <;> decide
theorem AtomPlace.code_lt (p : AtomPlace) : p.code < 3 := by cases p <;> decide
theorem GOp.code_lt (o : GOp) : o.code < 6 := by cases o <;> decide
theorem ChainMode.code_lt (m : ChainMode) : m.code < 3 := by cases m <;> decide
theorem Fmt.major_lt (f : Fmt) : f.major < 64 := by cases f <;> decide

/-! ## Field codes read back -/

theorem ordOf_code (o : OrdCode) : ordOf o.code = o := by cases o <;> rfl
theorem scopeOf_code (s : Scope) : scopeOf s.code = some s := by cases s <;> rfl
theorem placeOf_code (p : AtomPlace) : placeOf p.code = some p := by cases p <;> rfl
theorem chainOf_code (m : ChainMode) : chainOf m.code = some m := by cases m <;> rfl

theorem withFmt_code (f : Fmt) (g : Fmt → Except Reserved Instr) : withFmt f.code g = g f := by cases f <;> rfl
theorem withRnd_code (r : Rnd) (g : Rnd → Except Reserved Instr) : withRnd r.code g = g r := by cases r <;> rfl
theorem withOp_code (o : GOp) (g : GOp → Except Reserved Instr) : withOp o.code g = g o := by cases o <;> rfl

/-- The ord and scope fields of a legal access. -/
theorem withQual_code {ql : Qual} (h : ql.wf = true) (g : Qual → Except Reserved Instr) :
    withQual ql.ord.code ql.scope.code g = g ql := by
  obtain ⟨o, s⟩ := ql
  cases o <;> cases s <;> first | rfl | cases h

theorem withFenceQual_code (ql : Qual) (g : Qual → Except Reserved Instr) :
    withFenceQual ql.ord.code ql.scope.code g = g ql := by
  obtain ⟨o, s⟩ := ql
  cases o <;> cases s <;> rfl

theorem withQueue_code (q : QReg) (g : QReg → Except Reserved Instr) : withQueue (24 + q.val) g = g q := by
  have : (⟨q.val % 8, Nat.mod_lt _ (by decide)⟩ : QReg) = q := Fin.ext (by simp)
  simp [withQueue, need, this]

theorem withHalfFile_code (r : Fin 16) (g : Fin 16 → Except Reserved Instr) : withHalfFile r.val g = g r := by
  have : (⟨r.val % 16, Nat.mod_lt _ (by decide)⟩ : Fin 16) = r := Fin.ext (by simp)
  simp [withHalfFile, need, this]

theorem withMask_code (k : KReg) (g : KReg → Except Reserved Instr) : withMask k.val g = g k := by
  have : (⟨k.val % 8, Nat.mod_lt _ (by decide)⟩ : KReg) = k := Fin.ext (by simp)
  simp [withMask, need, this]

theorem zero_zero {x : Nat} (h : x = 0) (i : Except Reserved Instr) : zero x i = i := by
  subst h; rfl

theorem need_ok {b : Bool} (h : b = true) (why : Reserved) (i : Except Reserved Instr) : need b why i = i := by
  subst h; rfl

theorem ofNat_toNat_add {n : Nat} (x : BitVec n) {k c : Nat} (h : k = 2 ^ n * c) : BitVec.ofNat n (x.toNat + k) = x
  := by
  apply BitVec.eq_of_toNat_eq
  rw [BitVec.toNat_ofNat, h, Nat.add_mul_mod_self_left, Nat.mod_eq_of_lt x.isLt]

theorem decode_16 {w : Nat} (h : w % 4 < 2) (h' : w < 2 ^ 16) : decode w = decode16 w := by
  unfold decode
  rw [if_pos h, Nat.mod_eq_of_lt h']

theorem decode_32 {w : Nat} (h : w % 4 = 2) (h' : w < 2 ^ 32) : decode w = decode32 w := by
  unfold decode
  rw [if_neg (by omega), if_pos h, Nat.mod_eq_of_lt h']

theorem decode_64 {w : Nat} (h : w % 4 = 3) (h' : w < 2 ^ 64) : decode w = decode64 w := by
  unfold decode
  rw [if_neg (by omega), if_neg (by omega), Nat.mod_eq_of_lt h']

theorem Qual.imm_lt (ql : Qual) : ql.imm < 32 := by
  have h1 := ql.ord.code_lt
  have h2 := ql.scope.code_lt
  unfold Qual.imm
  omega

theorem Qual.imm_ord (ql : Qual) : ql.imm % 4 = ql.ord.code := by
  have h1 := ql.ord.code_lt
  unfold Qual.imm
  omega

theorem Qual.imm_scope (ql : Qual) : ql.imm / 4 % 8 = ql.scope.code := by
  have h1 := ql.ord.code_lt
  have h2 := ql.scope.code_lt
  unfold Qual.imm
  omega

theorem Qual.imm_rest (ql : Qual) : ql.imm / 32 = 0 := by
  have h1 := ql.imm_lt
  omega

theorem prefHint_lt (t : Fin 3) (wr : Bool) : prefHint t wr < 6 := by
  have h := wr.toNat_lt
  unfold prefHint
  omega

theorem decodePref_code (t : Fin 3) (wr : Bool) (i : Fin 3 → Bool → Instr) :
    decodePref (prefHint t wr) i = .ok (i t wr) := by
  cases wr <;> fin_cases t <;> rfl

theorem baccI_lt (r : Rnd) (n : Bool) : baccI r n < 16 := by
  cases r <;> cases n <;> decide

theorem baccI_rnd (r : Rnd) (n : Bool) : baccI r n % 8 = r.code := by
  cases r <;> cases n <;> rfl

theorem baccI_sat (r : Rnd) (n : Bool) : (baccI r n / 8 % 2 == 1) = n := by
  cases r <;> cases n <;> rfl

theorem baccI_rest (r : Rnd) (n : Bool) : baccI r n / 16 = 0 := by
  cases r <;> cases n <;> rfl

theorem withFmt_zero (g : Fmt → Except Reserved Instr) : withFmt 0 g = g .f32 := rfl
theorem withRnd_zero (g : Rnd → Except Reserved Instr) : withRnd 0 g = g .rne := rfl

theorem nib_self (n : Fin 16) (h : n.val % 16 < 16) : (⟨n.val % 16, h⟩ : Fin 16) = n := Fin.ext (by simp)
theorem toNat_mod_two (b : Bool) : b.toNat % 2 = b.toNat := by cases b <;> rfl
theorem toNat_div_two (b : Bool) : b.toNat / 2 = 0 := by cases b <;> rfl
theorem toNat_beq_one (b : Bool) : (b.toNat == 1) = b := by cases b <;> rfl

/-- A word of a vector major (R51). -/
theorem decode32_vector {w : Nat} {f : Fmt} (hf : f.isVector = true) (h : fld w 2 6 = f.major) :
    decode32 w = decodeV f w := by
  cases f <;> simp [Fmt.isVector] at hf <;> simp [decode32, h, Fmt.major, majorFmt]

/-! ## enc16 -/

section enc16
variable {code d s : Nat}

theorem enc16_mod : enc16 code d s % 4 < 2 := by
  unfold enc16
  omega

theorem enc16_lt (hcode : code < 32) (hd : d < 32) (hs : s < 32) : enc16 code d s < 2 ^ 16 := by
  unfold enc16
  omega

theorem enc16_code (hcode : code < 32) (hd : d < 32) (hs : s < 32) : code16 (enc16 code d s) = code := by
  have h1 : fld (enc16 code d s) 12 4 = code / 2 := by
    have hq : code / 2 < 16 := by omega
    have hr : code % 2 < 2 := by omega
    unfold fld enc16
    generalize code / 2 = q at hq ⊢
    generalize code % 2 = r at hr ⊢
    omega
  have h2 : fld (enc16 code d s) 0 1 = code % 2 := by unfold fld enc16; omega
  unfold code16
  omega

theorem decode_enc16 (hcode : code < 32) (hd : d < 32) (hs : s < 32) : decode (enc16 code d s) = decode16 (enc16 code
  d s) :=
  decode_16 enc16_mod (enc16_lt hcode hd hs)

theorem enc16_reg_2 (hd : d < 32) : regAt (enc16 code d s) 2 = ⟨d, hd⟩ := by
  apply Fin.ext
  simp only [regAt]
  unfold enc16
  omega

theorem enc16_reg_7 (hd : d < 32) (hs : s < 32) : regAt (enc16 code d s) 7 = ⟨s, hs⟩ := by
  apply Fin.ext
  simp only [regAt]
  unfold enc16
  omega

theorem enc16_bits_5_7 (hd : d < 32) (hs : s < 32) : bitsAt 5 (enc16 code d s) 7 = BitVec.ofNat 5 (s) := by
  unfold bitsAt
  apply BitVec.eq_of_toNat_eq
  simp only [BitVec.toNat_ofNat]
  unfold enc16
  omega

end enc16

/-! ## enc16J -/

section enc16J
variable {code o : Nat}

theorem enc16J_mod : enc16J code o % 4 < 2 := by
  unfold enc16J
  omega

theorem enc16J_lt (hcode : code < 32) (ho : o < 1024) : enc16J code o < 2 ^ 16 := by
  unfold enc16J
  omega

theorem enc16J_code (hcode : code < 32) (ho : o < 1024) : code16 (enc16J code o) = code := by
  have h1 : fld (enc16J code o) 12 4 = code / 2 := by
    have hq : code / 2 < 16 := by omega
    have hr : code % 2 < 2 := by omega
    unfold fld enc16J
    generalize code / 2 = q at hq ⊢
    generalize code % 2 = r at hr ⊢
    omega
  have h2 : fld (enc16J code o) 0 1 = code % 2 := by unfold fld enc16J; omega
  unfold code16
  omega

theorem decode_enc16J (hcode : code < 32) (ho : o < 1024) : decode (enc16J code o) = decode16 (enc16J code o) :=
  decode_16 enc16J_mod (enc16J_lt hcode ho)

theorem enc16J_bits_10_2 (ho : o < 1024) : bitsAt 10 (enc16J code o) 2 = BitVec.ofNat 10 (o) := by
  unfold bitsAt
  apply BitVec.eq_of_toNat_eq
  simp only [BitVec.toNat_ofNat]
  unfold enc16J
  omega

theorem enc16J_fld_2_10 (ho : o < 1024) : fld (enc16J code o) 2 10 = o := by
  unfold fld enc16J
  omega

end enc16J

/-! ## encRR -/

section encRR
variable {m d a b fn : Nat}

theorem encRR_mod : encRR m d a b fn % 4 = 2 := by
  unfold encRR maj32
  omega

theorem encRR_lt (hm : m < 64) (hd : d < 32) (ha : a < 32) (hb : b < 32) (hfn : fn < 512) : encRR m d a b fn < 2 ^ 32
  := by
  unfold encRR maj32
  omega

theorem decode_encRR (hm : m < 64) (hd : d < 32) (ha : a < 32) (hb : b < 32) (hfn : fn < 512) : decode (encRR m d a b
  fn) = decode32 (encRR m d a b fn) :=
  decode_32 encRR_mod (encRR_lt hm hd ha hb hfn)

theorem encRR_fld_2_6 (hm : m < 64) : fld (encRR m d a b fn) 2 6 = m := by
  unfold fld encRR maj32
  omega

theorem encRR_reg_8 (hm : m < 64) (hd : d < 32) : regAt (encRR m d a b fn) 8 = ⟨d, hd⟩ := by
  apply Fin.ext
  simp only [regAt]
  unfold encRR maj32
  omega

theorem encRR_reg_13 (hm : m < 64) (hd : d < 32) (ha : a < 32) : regAt (encRR m d a b fn) 13 = ⟨a, ha⟩ := by
  apply Fin.ext
  simp only [regAt]
  unfold encRR maj32
  omega

theorem encRR_reg_18 (hm : m < 64) (hd : d < 32) (ha : a < 32) (hb : b < 32) : regAt (encRR m d a b fn) 18 = ⟨b, hb⟩
  := by
  apply Fin.ext
  simp only [regAt]
  unfold encRR maj32
  omega

theorem encRR_fld_18_5 (hm : m < 64) (hd : d < 32) (ha : a < 32) (hb : b < 32) : fld (encRR m d a b fn) 18 5 = b := by
  unfold fld encRR maj32
  omega

theorem encRR_fld_18_2 (hm : m < 64) (hd : d < 32) (ha : a < 32) (hb : b < 32) : fld (encRR m d a b fn) 18 2 = b % 4
  := by
  unfold fld encRR maj32
  omega

theorem encRR_fld_20_3 (hm : m < 64) (hd : d < 32) (ha : a < 32) (hb : b < 32) : fld (encRR m d a b fn) 20 3 = b / 4
  := by
  unfold fld encRR maj32
  omega

theorem encRR_fld_23_9 (hm : m < 64) (hd : d < 32) (ha : a < 32) (hb : b < 32) (hfn : fn < 512) : fld (encRR m d a b
  fn) 23 9 = fn := by
  unfold fld encRR maj32
  omega

end encRR

/-! ## encRI -/

section encRI
variable {m d a f i : Nat}

theorem encRI_mod : encRI m d a f i % 4 = 2 := by
  unfold encRI maj32
  omega

theorem encRI_lt (hm : m < 64) (hd : d < 32) (ha : a < 32) (hf : f < 8) (hi : i < 2048) : encRI m d a f i < 2 ^ 32 :=
  by
  unfold encRI maj32
  omega

theorem decode_encRI (hm : m < 64) (hd : d < 32) (ha : a < 32) (hf : f < 8) (hi : i < 2048) : decode (encRI m d a f
  i) = decode32 (encRI m d a f i) :=
  decode_32 encRI_mod (encRI_lt hm hd ha hf hi)

theorem encRI_fld_2_6 (hm : m < 64) : fld (encRI m d a f i) 2 6 = m := by
  unfold fld encRI maj32
  omega

theorem encRI_reg_8 (hm : m < 64) (hd : d < 32) : regAt (encRI m d a f i) 8 = ⟨d, hd⟩ := by
  apply Fin.ext
  simp only [regAt]
  unfold encRI maj32
  omega

theorem encRI_reg_13 (hm : m < 64) (hd : d < 32) (ha : a < 32) : regAt (encRI m d a f i) 13 = ⟨a, ha⟩ := by
  apply Fin.ext
  simp only [regAt]
  unfold encRI maj32
  omega

theorem encRI_fld_18_3 (hm : m < 64) (hd : d < 32) (ha : a < 32) (hf : f < 8) : fld (encRI m d a f i) 18 3 = f := by
  unfold fld encRI maj32
  omega

theorem encRI_bits_11_21 (hm : m < 64) (hd : d < 32) (ha : a < 32) (hf : f < 8) (hi : i < 2048) : bitsAt 11 (encRI m
  d a f i) 21 = BitVec.ofNat 11 (i) := by
  unfold bitsAt
  apply BitVec.eq_of_toNat_eq
  simp only [BitVec.toNat_ofNat]
  unfold encRI maj32
  omega

theorem encRI_bits_6_21 (hm : m < 64) (hd : d < 32) (ha : a < 32) (hf : f < 8) (hi : i < 2048) : bitsAt 6 (encRI m d
  a f i) 21 = BitVec.ofNat 6 (i) := by
  unfold bitsAt
  apply BitVec.eq_of_toNat_eq
  simp only [BitVec.toNat_ofNat]
  unfold encRI maj32
  omega

theorem encRI_bits_8_21 (hm : m < 64) (hd : d < 32) (ha : a < 32) (hf : f < 8) (hi : i < 2048) : bitsAt 8 (encRI m d
  a f i) 21 = BitVec.ofNat 8 (i) := by
  unfold bitsAt
  apply BitVec.eq_of_toNat_eq
  simp only [BitVec.toNat_ofNat]
  unfold encRI maj32
  omega

theorem encRI_fld_27_2 (hm : m < 64) (hd : d < 32) (ha : a < 32) (hf : f < 8) (hi : i < 2048) : fld (encRI m d a f i)
  27 2 = i / 64 % 4 := by
  unfold fld encRI maj32
  omega

theorem encRI_fld_29_3 (hm : m < 64) (hd : d < 32) (ha : a < 32) (hf : f < 8) (hi : i < 2048) : fld (encRI m d a f i)
  29 3 = i / 256 := by
  unfold fld encRI maj32
  omega

end encRI

/-! ## encRB -/

section encRB
variable {d a p l o : Nat}

theorem encRB_mod : encRB d a p l o % 4 = 2 := by
  unfold encRB maj32
  omega

theorem encRB_lt (hd : d < 32) (ha : a < 32) (hp : p < 64) (hl : l < 64) (ho : o < 4) : encRB d a p l o < 2 ^ 32 := by
  unfold encRB maj32
  omega

theorem decode_encRB (hd : d < 32) (ha : a < 32) (hp : p < 64) (hl : l < 64) (ho : o < 4) : decode (encRB d a p l o)
  = decode32 (encRB d a p l o) :=
  decode_32 encRB_mod (encRB_lt hd ha hp hl ho)

theorem encRB_fld_2_6 : fld (encRB d a p l o) 2 6 = 3 := by
  unfold fld encRB maj32
  omega

theorem encRB_reg_8 (hd : d < 32) : regAt (encRB d a p l o) 8 = ⟨d, hd⟩ := by
  apply Fin.ext
  simp only [regAt]
  unfold encRB maj32
  omega

theorem encRB_reg_13 (hd : d < 32) (ha : a < 32) : regAt (encRB d a p l o) 13 = ⟨a, ha⟩ := by
  apply Fin.ext
  simp only [regAt]
  unfold encRB maj32
  omega

theorem encRB_bits_6_18 (hd : d < 32) (ha : a < 32) (hp : p < 64) : bitsAt 6 (encRB d a p l o) 18 = BitVec.ofNat 6
  (p) := by
  unfold bitsAt
  apply BitVec.eq_of_toNat_eq
  simp only [BitVec.toNat_ofNat]
  unfold encRB maj32
  omega

theorem encRB_bits_6_24 (hd : d < 32) (ha : a < 32) (hp : p < 64) (hl : l < 64) : bitsAt 6 (encRB d a p l o) 24 =
  BitVec.ofNat 6 (l) := by
  unfold bitsAt
  apply BitVec.eq_of_toNat_eq
  simp only [BitVec.toNat_ofNat]
  unfold encRB maj32
  omega

theorem encRB_fld_30_2 (hd : d < 32) (ha : a < 32) (hp : p < 64) (hl : l < 64) (ho : o < 4) : fld (encRB d a p l o)
  30 2 = o := by
  unfold fld encRB maj32
  omega

end encRB

/-! ## encU -/

section encU
variable {m d i : Nat}

theorem encU_mod : encU m d i % 4 = 2 := by
  unfold encU maj32
  omega

theorem encU_lt (hm : m < 64) (hd : d < 32) (hi : i < 524288) : encU m d i < 2 ^ 32 := by
  unfold encU maj32
  omega

theorem decode_encU (hm : m < 64) (hd : d < 32) (hi : i < 524288) : decode (encU m d i) = decode32 (encU m d i) :=
  decode_32 encU_mod (encU_lt hm hd hi)

theorem encU_fld_2_6 (hm : m < 64) : fld (encU m d i) 2 6 = m := by
  unfold fld encU maj32
  omega

theorem encU_reg_8 (hm : m < 64) (hd : d < 32) : regAt (encU m d i) 8 = ⟨d, hd⟩ := by
  apply Fin.ext
  simp only [regAt]
  unfold encU maj32
  omega

theorem encU_bits_19_13 (hm : m < 64) (hd : d < 32) (hi : i < 524288) : bitsAt 19 (encU m d i) 13 = BitVec.ofNat 19
  (i) := by
  unfold bitsAt
  apply BitVec.eq_of_toNat_eq
  simp only [BitVec.toNat_ofNat]
  unfold encU maj32
  omega

end encU

/-! ## encRL -/

section encRL
variable {m d a i : Nat} {ql : Qual}

theorem encRL_mod : encRL m d a ql i % 4 = 2 := by
  unfold encRL maj32
  omega

theorem encRL_lt (hm : m < 64) (hd : d < 32) (ha : a < 32) (hi : i < 512) : encRL m d a ql i < 2 ^ 32 := by
  have h1 := ql.ord.code_lt
  have h2 := ql.scope.code_lt
  unfold encRL maj32
  omega

theorem decode_encRL (hm : m < 64) (hd : d < 32) (ha : a < 32) (hi : i < 512) : decode (encRL m d a ql i) = decode32
  (encRL m d a ql i) :=
  decode_32 encRL_mod (encRL_lt hm hd ha hi)

theorem encRL_fld_2_6 (hm : m < 64) : fld (encRL m d a ql i) 2 6 = m := by
  have h1 := ql.ord.code_lt
  have h2 := ql.scope.code_lt
  unfold fld encRL maj32
  omega

theorem encRL_reg_8 (hm : m < 64) (hd : d < 32) : regAt (encRL m d a ql i) 8 = ⟨d, hd⟩ := by
  have h1 := ql.ord.code_lt
  have h2 := ql.scope.code_lt
  apply Fin.ext
  simp only [regAt]
  unfold encRL maj32
  omega

theorem encRL_reg_13 (hm : m < 64) (hd : d < 32) (ha : a < 32) : regAt (encRL m d a ql i) 13 = ⟨a, ha⟩ := by
  have h1 := ql.ord.code_lt
  have h2 := ql.scope.code_lt
  apply Fin.ext
  simp only [regAt]
  unfold encRL maj32
  omega

theorem encRL_fld_18_2 (hm : m < 64) (hd : d < 32) (ha : a < 32) : fld (encRL m d a ql i) 18 2 = ql.ord.code := by
  have h1 := ql.ord.code_lt
  have h2 := ql.scope.code_lt
  unfold fld encRL maj32
  omega

theorem encRL_fld_20_3 (hm : m < 64) (hd : d < 32) (ha : a < 32) : fld (encRL m d a ql i) 20 3 = ql.scope.code := by
  have h1 := ql.ord.code_lt
  have h2 := ql.scope.code_lt
  unfold fld encRL maj32
  omega

theorem encRL_bits_9_23 (hm : m < 64) (hd : d < 32) (ha : a < 32) (hi : i < 512) : bitsAt 9 (encRL m d a ql i) 23 =
  BitVec.ofNat 9 (i) := by
  have h1 := ql.ord.code_lt
  have h2 := ql.scope.code_lt
  unfold bitsAt
  apply BitVec.eq_of_toNat_eq
  simp only [BitVec.toNat_ofNat]
  unfold encRL maj32
  omega

theorem encRL_fld_23_9 (hm : m < 64) (hd : d < 32) (ha : a < 32) (hi : i < 512) : fld (encRL m d a ql i) 23 9 = i :=
  by
  have h1 := ql.ord.code_lt
  have h2 := ql.scope.code_lt
  unfold fld encRL maj32
  omega

end encRL

/-! ## encRA -/

section encRA
variable {m d a b o : Nat} {ql : Qual}

theorem encRA_mod : encRA m d a b o ql % 4 = 2 := by
  unfold encRA maj32
  omega

theorem encRA_lt (hm : m < 64) (hd : d < 32) (ha : a < 32) (hb : b < 32) (ho : o < 16) : encRA m d a b o ql < 2 ^ 32
  := by
  have h1 := ql.ord.code_lt
  have h2 := ql.scope.code_lt
  unfold encRA maj32
  omega

theorem decode_encRA (hm : m < 64) (hd : d < 32) (ha : a < 32) (hb : b < 32) (ho : o < 16) : decode (encRA m d a b o
  ql) = decode32 (encRA m d a b o ql) :=
  decode_32 encRA_mod (encRA_lt hm hd ha hb ho)

theorem encRA_fld_2_6 (hm : m < 64) : fld (encRA m d a b o ql) 2 6 = m := by
  have h1 := ql.ord.code_lt
  have h2 := ql.scope.code_lt
  unfold fld encRA maj32
  omega

theorem encRA_reg_8 (hm : m < 64) (hd : d < 32) : regAt (encRA m d a b o ql) 8 = ⟨d, hd⟩ := by
  have h1 := ql.ord.code_lt
  have h2 := ql.scope.code_lt
  apply Fin.ext
  simp only [regAt]
  unfold encRA maj32
  omega

theorem encRA_reg_13 (hm : m < 64) (hd : d < 32) (ha : a < 32) : regAt (encRA m d a b o ql) 13 = ⟨a, ha⟩ := by
  have h1 := ql.ord.code_lt
  have h2 := ql.scope.code_lt
  apply Fin.ext
  simp only [regAt]
  unfold encRA maj32
  omega

theorem encRA_reg_18 (hm : m < 64) (hd : d < 32) (ha : a < 32) (hb : b < 32) : regAt (encRA m d a b o ql) 18 = ⟨b,
  hb⟩ := by
  have h1 := ql.ord.code_lt
  have h2 := ql.scope.code_lt
  apply Fin.ext
  simp only [regAt]
  unfold encRA maj32
  omega

theorem encRA_fld_23_4 (hm : m < 64) (hd : d < 32) (ha : a < 32) (hb : b < 32) (ho : o < 16) : fld (encRA m d a b o
  ql) 23 4 = o := by
  have h1 := ql.ord.code_lt
  have h2 := ql.scope.code_lt
  unfold fld encRA maj32
  omega

theorem encRA_fld_27_2 (hm : m < 64) (hd : d < 32) (ha : a < 32) (hb : b < 32) (ho : o < 16) : fld (encRA m d a b o
  ql) 27 2 = ql.ord.code := by
  have h1 := ql.ord.code_lt
  have h2 := ql.scope.code_lt
  unfold fld encRA maj32
  omega

theorem encRA_fld_29_3 (hm : m < 64) (hd : d < 32) (ha : a < 32) (hb : b < 32) (ho : o < 16) : fld (encRA m d a b o
  ql) 29 3 = ql.scope.code := by
  have h1 := ql.ord.code_lt
  have h2 := ql.scope.code_lt
  unfold fld encRA maj32
  omega

end encRA

/-! ## encQ -/

section encQ
variable {q a b i fn : Nat}

theorem encQ_mod : encQ q a b i fn % 4 = 2 := by
  unfold encQ maj32
  omega

theorem encQ_lt (hq : q < 8) (ha : a < 32) (hb : b < 32) (hi : i < 32) (hfn : fn < 16) : encQ q a b i fn < 2 ^ 32 :=
  by
  unfold encQ maj32
  omega

theorem decode_encQ (hq : q < 8) (ha : a < 32) (hb : b < 32) (hi : i < 32) (hfn : fn < 16) : decode (encQ q a b i fn)
  = decode32 (encQ q a b i fn) :=
  decode_32 encQ_mod (encQ_lt hq ha hb hi hfn)

theorem encQ_fld_2_6 : fld (encQ q a b i fn) 2 6 = 28 := by
  unfold fld encQ maj32
  omega

theorem encQ_fld_8_5 (hq : q < 8) : fld (encQ q a b i fn) 8 5 = (24 + q) := by
  unfold fld encQ maj32
  omega

theorem encQ_reg_13 (hq : q < 8) (ha : a < 32) : regAt (encQ q a b i fn) 13 = ⟨a, ha⟩ := by
  apply Fin.ext
  simp only [regAt]
  unfold encQ maj32
  omega

theorem encQ_reg_18 (hq : q < 8) (ha : a < 32) (hb : b < 32) : regAt (encQ q a b i fn) 18 = ⟨b, hb⟩ := by
  apply Fin.ext
  simp only [regAt]
  unfold encQ maj32
  omega

theorem encQ_fld_23_5 (hq : q < 8) (ha : a < 32) (hb : b < 32) (hi : i < 32) : fld (encQ q a b i fn) 23 5 = i := by
  unfold fld encQ maj32
  omega

theorem encQ_fld_28_4 (hq : q < 8) (ha : a < 32) (hb : b < 32) (hi : i < 32) (hfn : fn < 16) : fld (encQ q a b i fn)
  28 4 = fn := by
  unfold fld encQ maj32
  omega

theorem encQ_bit_27 (hq : q < 8) (ha : a < 32) (hb : b < 32) (hi : i < 32) : bitAt (encQ q a b i fn) 27 = (i / 16 ==
  1) := by
  unfold bitAt
  congr 1
  unfold encQ maj32
  omega

theorem encQ_bits_4_23 (hq : q < 8) (ha : a < 32) (hb : b < 32) (hi : i < 32) : bitsAt 4 (encQ q a b i fn) 23 =
  BitVec.ofNat 4 (i) := by
  unfold bitsAt
  apply BitVec.eq_of_toNat_eq
  simp only [BitVec.toNat_ofNat]
  unfold encQ maj32
  omega

end encQ

/-! ## encT -/

section encT
variable {m d a b o i : Nat}

theorem encT_mod : encT m d a b o i % 4 = 2 := by
  unfold encT maj32
  omega

theorem encT_lt (hm : m < 64) (hd : d < 32) (ha : a < 32) (hb : b < 32) (ho : o < 8) (hi : i < 64) : encT m d a b o i
  < 2 ^ 32 := by
  unfold encT maj32
  omega

theorem decode_encT (hm : m < 64) (hd : d < 32) (ha : a < 32) (hb : b < 32) (ho : o < 8) (hi : i < 64) : decode (encT
  m d a b o i) = decode32 (encT m d a b o i) :=
  decode_32 encT_mod (encT_lt hm hd ha hb ho hi)

theorem encT_fld_2_6 (hm : m < 64) : fld (encT m d a b o i) 2 6 = m := by
  unfold fld encT maj32
  omega

theorem encT_reg_8 (hm : m < 64) (hd : d < 32) : regAt (encT m d a b o i) 8 = ⟨d, hd⟩ := by
  apply Fin.ext
  simp only [regAt]
  unfold encT maj32
  omega

theorem encT_reg_13 (hm : m < 64) (hd : d < 32) (ha : a < 32) : regAt (encT m d a b o i) 13 = ⟨a, ha⟩ := by
  apply Fin.ext
  simp only [regAt]
  unfold encT maj32
  omega

theorem encT_reg_18 (hm : m < 64) (hd : d < 32) (ha : a < 32) (hb : b < 32) : regAt (encT m d a b o i) 18 = ⟨b, hb⟩
  := by
  apply Fin.ext
  simp only [regAt]
  unfold encT maj32
  omega

theorem encT_fld_23_3 (hm : m < 64) (hd : d < 32) (ha : a < 32) (hb : b < 32) (ho : o < 8) : fld (encT m d a b o i)
  23 3 = o := by
  unfold fld encT maj32
  omega

theorem encT_fld_26_6 (hm : m < 64) (hd : d < 32) (ha : a < 32) (hb : b < 32) (ho : o < 8) (hi : i < 64) : fld (encT
  m d a b o i) 26 6 = i := by
  unfold fld encT maj32
  omega

theorem encT_bits_4_26 (hm : m < 64) (hd : d < 32) (ha : a < 32) (hb : b < 32) (ho : o < 8) (hi : i < 64) : bitsAt 4
  (encT m d a b o i) 26 = BitVec.ofNat 4 (i) := by
  unfold bitsAt
  apply BitVec.eq_of_toNat_eq
  simp only [BitVec.toNat_ofNat]
  unfold encT maj32
  omega

theorem encT_bits_6_26 (hm : m < 64) (hd : d < 32) (ha : a < 32) (hb : b < 32) (ho : o < 8) (hi : i < 64) : bitsAt 6
  (encT m d a b o i) 26 = BitVec.ofNat 6 (i) := by
  unfold bitsAt
  apply BitVec.eq_of_toNat_eq
  simp only [BitVec.toNat_ofNat]
  unfold encT maj32
  omega

theorem encT_bits_3_26 (hm : m < 64) (hd : d < 32) (ha : a < 32) (hb : b < 32) (ho : o < 8) (hi : i < 64) : bitsAt 3
  (encT m d a b o i) 26 = BitVec.ofNat 3 (i) := by
  unfold bitsAt
  apply BitVec.eq_of_toNat_eq
  simp only [BitVec.toNat_ofNat]
  unfold encT maj32
  omega

theorem encT_bits_3_18 (hm : m < 64) (hd : d < 32) (ha : a < 32) (hb : b < 32) : bitsAt 3 (encT m d a b o i) 18 =
  BitVec.ofNat 3 (b) := by
  unfold bitsAt
  apply BitVec.eq_of_toNat_eq
  simp only [BitVec.toNat_ofNat]
  unfold encT maj32
  omega

theorem encT_bit_29 (hm : m < 64) (hd : d < 32) (ha : a < 32) (hb : b < 32) (ho : o < 8) (hi : i < 64) : bitAt (encT
  m d a b o i) 29 = (i / 8 % 2 == 1) := by
  unfold bitAt
  congr 1
  unfold encT maj32
  omega

end encT

/-! ## encV -/

section encV
variable {m d a b fn : Nat} {k : KReg} {q : Bool}

theorem encV_mod : encV m d a b k q fn % 4 = 2 := by
  unfold encV maj32
  omega

theorem encV_lt (hm : m < 64) (hd : d < 32) (ha : a < 32) (hb : b < 32) (hfn : fn < 32) : encV m d a b k q fn < 2 ^
  32 := by
  have h5 := k.isLt
  have h6 := q.toNat_lt
  unfold encV maj32
  omega

theorem decode_encV (hm : m < 64) (hd : d < 32) (ha : a < 32) (hb : b < 32) (hfn : fn < 32) : decode (encV m d a b k
  q fn) = decode32 (encV m d a b k q fn) :=
  decode_32 encV_mod (encV_lt hm hd ha hb hfn)

theorem encV_fld_2_6 (hm : m < 64) : fld (encV m d a b k q fn) 2 6 = m := by
  have h5 := k.isLt
  have h6 := q.toNat_lt
  unfold fld encV maj32
  omega

theorem encV_reg_8 (hm : m < 64) (hd : d < 32) : regAt (encV m d a b k q fn) 8 = ⟨d, hd⟩ := by
  have h5 := k.isLt
  have h6 := q.toNat_lt
  apply Fin.ext
  simp only [regAt]
  unfold encV maj32
  omega

theorem encV_reg_13 (hm : m < 64) (hd : d < 32) (ha : a < 32) : regAt (encV m d a b k q fn) 13 = ⟨a, ha⟩ := by
  have h5 := k.isLt
  have h6 := q.toNat_lt
  apply Fin.ext
  simp only [regAt]
  unfold encV maj32
  omega

theorem encV_reg_18 (hm : m < 64) (hd : d < 32) (ha : a < 32) (hb : b < 32) : regAt (encV m d a b k q fn) 18 = ⟨b,
  hb⟩ := by
  have h5 := k.isLt
  have h6 := q.toNat_lt
  apply Fin.ext
  simp only [regAt]
  unfold encV maj32
  omega

theorem encV_k_23 (hm : m < 64) (hd : d < 32) (ha : a < 32) (hb : b < 32) : kAt (encV m d a b k q fn) 23 = k := by
  have h5 := k.isLt
  have h6 := q.toNat_lt
  apply Fin.ext
  simp only [kAt]
  unfold encV maj32
  omega

theorem encV_bit_26 (hm : m < 64) (hd : d < 32) (ha : a < 32) (hb : b < 32) : bitAt (encV m d a b k q fn) 26 =
  (q.toNat == 1) := by
  have h5 := k.isLt
  have h6 := q.toNat_lt
  unfold bitAt
  congr 1
  unfold encV maj32
  omega

theorem encV_fld_27_5 (hm : m < 64) (hd : d < 32) (ha : a < 32) (hb : b < 32) (hfn : fn < 32) : fld (encV m d a b k q
  fn) 27 5 = fn := by
  have h5 := k.isLt
  have h6 := q.toNat_lt
  unfold fld encV maj32
  omega

theorem encV_fld_23_4 (hm : m < 64) (hd : d < 32) (ha : a < 32) (hb : b < 32) : fld (encV m d a b k q fn) 23 4 =
  k.val + q.toNat * 8 := by
  have h5 := k.isLt
  have h6 := q.toNat_lt
  unfold fld encV maj32
  omega

end encV

/-! ## encX -/

section encX
variable {m d a b c fn : Nat}

theorem encX_mod : encX m d a b c fn % 4 = 3 := by
  unfold encX maj64
  omega

theorem encX_lt (hm : m < 64) (hd : d < 32) (ha : a < 32) (hb : b < 32) (hc : c < 32) (hfn : fn < 16) : encX m d a b
  c fn < 2 ^ 64 := by
  unfold encX maj64
  omega

theorem decode_encX (hm : m < 64) (hd : d < 32) (ha : a < 32) (hb : b < 32) (hc : c < 32) (hfn : fn < 16) : decode
  (encX m d a b c fn) = decode64 (encX m d a b c fn) :=
  decode_64 encX_mod (encX_lt hm hd ha hb hc hfn)

theorem encX_fld_2_6 (hm : m < 64) : fld (encX m d a b c fn) 2 6 = m := by
  unfold fld encX maj64
  omega

theorem encX_reg_8 (hm : m < 64) (hd : d < 32) : regAt (encX m d a b c fn) 8 = ⟨d, hd⟩ := by
  apply Fin.ext
  simp only [regAt]
  unfold encX maj64
  omega

theorem encX_reg_13 (hm : m < 64) (hd : d < 32) (ha : a < 32) : regAt (encX m d a b c fn) 13 = ⟨a, ha⟩ := by
  apply Fin.ext
  simp only [regAt]
  unfold encX maj64
  omega

theorem encX_reg_18 (hm : m < 64) (hd : d < 32) (ha : a < 32) (hb : b < 32) : regAt (encX m d a b c fn) 18 = ⟨b, hb⟩
  := by
  apply Fin.ext
  simp only [regAt]
  unfold encX maj64
  omega

theorem encX_reg_23 (hm : m < 64) (hd : d < 32) (ha : a < 32) (hb : b < 32) (hc : c < 32) : regAt (encX m d a b c fn)
  23 = ⟨c, hc⟩ := by
  apply Fin.ext
  simp only [regAt]
  unfold encX maj64
  omega

theorem encX_fld_8_5 (hm : m < 64) (hd : d < 32) : fld (encX m d a b c fn) 8 5 = d := by
  unfold fld encX maj64
  omega

theorem encX_fld_18_5 (hm : m < 64) (hd : d < 32) (ha : a < 32) (hb : b < 32) : fld (encX m d a b c fn) 18 5 = b := by
  unfold fld encX maj64
  omega

theorem encX_fld_23_5 (hm : m < 64) (hd : d < 32) (ha : a < 32) (hb : b < 32) (hc : c < 32) : fld (encX m d a b c fn)
  23 5 = c := by
  unfold fld encX maj64
  omega

theorem encX_fld_18_10 (hm : m < 64) (hd : d < 32) (ha : a < 32) (hb : b < 32) (hc : c < 32) : fld (encX m d a b c
  fn) 18 10 = b + c * 32 := by
  unfold fld encX maj64
  omega

theorem encX_fld_28_4 (hm : m < 64) (hd : d < 32) (ha : a < 32) (hb : b < 32) (hc : c < 32) (hfn : fn < 16) : fld
  (encX m d a b c fn) 28 4 = fn := by
  unfold fld encX maj64
  omega

theorem encX_fld_32_32 (hm : m < 64) (hd : d < 32) (ha : a < 32) (hb : b < 32) (hc : c < 32) (hfn : fn < 16) : fld
  (encX m d a b c fn) 32 32 = 0 := by
  unfold fld encX maj64
  omega

theorem encX_bits_32_32 (hm : m < 64) (hd : d < 32) (ha : a < 32) (hb : b < 32) (hc : c < 32) (hfn : fn < 16) :
  bitsAt 32 (encX m d a b c fn) 32 = BitVec.ofNat 32 (0) := by
  unfold bitsAt
  apply BitVec.eq_of_toNat_eq
  simp only [BitVec.toNat_ofNat]
  unfold encX maj64
  omega

end encX

/-! ## encXL -/

section encXL
variable {d a fn i : Nat} {ql : Qual}

theorem encXL_mod : encXL d a fn ql i % 4 = 3 := by
  unfold encXL maj64
  omega

theorem encXL_lt (hd : d < 32) (ha : a < 32) (hfn : fn < 16) (hi : i < 4294967296) : encXL d a fn ql i < 2 ^ 64 := by
  have h1 := ql.ord.code_lt
  have h2 := ql.scope.code_lt
  unfold encXL maj64
  omega

theorem decode_encXL (hd : d < 32) (ha : a < 32) (hfn : fn < 16) (hi : i < 4294967296) : decode (encXL d a fn ql i) =
  decode64 (encXL d a fn ql i) :=
  decode_64 encXL_mod (encXL_lt hd ha hfn hi)

theorem encXL_fld_2_6 : fld (encXL d a fn ql i) 2 6 = 2 := by
  have h1 := ql.ord.code_lt
  have h2 := ql.scope.code_lt
  unfold fld encXL maj64
  omega

theorem encXL_reg_8 (hd : d < 32) : regAt (encXL d a fn ql i) 8 = ⟨d, hd⟩ := by
  have h1 := ql.ord.code_lt
  have h2 := ql.scope.code_lt
  apply Fin.ext
  simp only [regAt]
  unfold encXL maj64
  omega

theorem encXL_reg_13 (hd : d < 32) (ha : a < 32) : regAt (encXL d a fn ql i) 13 = ⟨a, ha⟩ := by
  have h1 := ql.ord.code_lt
  have h2 := ql.scope.code_lt
  apply Fin.ext
  simp only [regAt]
  unfold encXL maj64
  omega

theorem encXL_fld_18_5 (hd : d < 32) (ha : a < 32) : fld (encXL d a fn ql i) 18 5 = 0 := by
  have h1 := ql.ord.code_lt
  have h2 := ql.scope.code_lt
  unfold fld encXL maj64
  omega

theorem encXL_fld_23_2 (hd : d < 32) (ha : a < 32) : fld (encXL d a fn ql i) 23 2 = ql.ord.code := by
  have h1 := ql.ord.code_lt
  have h2 := ql.scope.code_lt
  unfold fld encXL maj64
  omega

theorem encXL_fld_25_3 (hd : d < 32) (ha : a < 32) : fld (encXL d a fn ql i) 25 3 = ql.scope.code := by
  have h1 := ql.ord.code_lt
  have h2 := ql.scope.code_lt
  unfold fld encXL maj64
  omega

theorem encXL_fld_28_4 (hd : d < 32) (ha : a < 32) (hfn : fn < 16) : fld (encXL d a fn ql i) 28 4 = fn := by
  have h1 := ql.ord.code_lt
  have h2 := ql.scope.code_lt
  unfold fld encXL maj64
  omega

theorem encXL_bits_32_32 (hd : d < 32) (ha : a < 32) (hfn : fn < 16) (hi : i < 4294967296) : bitsAt 32 (encXL d a fn
  ql i) 32 = BitVec.ofNat 32 (i) := by
  have h1 := ql.ord.code_lt
  have h2 := ql.scope.code_lt
  unfold bitsAt
  apply BitVec.eq_of_toNat_eq
  simp only [BitVec.toNat_ofNat]
  unfold encXL maj64
  omega

end encXL

/-! ## encXA -/

section encXA
variable {d a b o : Nat} {ql : Qual} {pl : AtomPlace} {wd : Bool}

theorem encXA_mod : encXA d a b o ql pl wd % 4 = 3 := by
  unfold encXA encX maj64
  omega

theorem encXA_lt (hd : d < 32) (ha : a < 32) (hb : b < 32) (ho : o < 16) : encXA d a b o ql pl wd < 2 ^ 64 := by
  have h1 := ql.ord.code_lt
  have h2 := ql.scope.code_lt
  have h3 := pl.code_lt
  have h4 := wd.toNat_lt
  unfold encXA encX maj64
  omega

theorem decode_encXA (hd : d < 32) (ha : a < 32) (hb : b < 32) (ho : o < 16) : decode (encXA d a b o ql pl wd) =
  decode64 (encXA d a b o ql pl wd) :=
  decode_64 encXA_mod (encXA_lt hd ha hb ho)

theorem encXA_fld_2_6 : fld (encXA d a b o ql pl wd) 2 6 = 3 := by
  have h1 := ql.ord.code_lt
  have h2 := ql.scope.code_lt
  have h3 := pl.code_lt
  have h4 := wd.toNat_lt
  unfold fld encXA encX maj64
  omega

theorem encXA_reg_8 (hd : d < 32) : regAt (encXA d a b o ql pl wd) 8 = ⟨d, hd⟩ := by
  have h1 := ql.ord.code_lt
  have h2 := ql.scope.code_lt
  have h3 := pl.code_lt
  have h4 := wd.toNat_lt
  apply Fin.ext
  simp only [regAt]
  unfold encXA encX maj64
  omega

theorem encXA_reg_13 (hd : d < 32) (ha : a < 32) : regAt (encXA d a b o ql pl wd) 13 = ⟨a, ha⟩ := by
  have h1 := ql.ord.code_lt
  have h2 := ql.scope.code_lt
  have h3 := pl.code_lt
  have h4 := wd.toNat_lt
  apply Fin.ext
  simp only [regAt]
  unfold encXA encX maj64
  omega

theorem encXA_reg_18 (hd : d < 32) (ha : a < 32) (hb : b < 32) : regAt (encXA d a b o ql pl wd) 18 = ⟨b, hb⟩ := by
  have h1 := ql.ord.code_lt
  have h2 := ql.scope.code_lt
  have h3 := pl.code_lt
  have h4 := wd.toNat_lt
  apply Fin.ext
  simp only [regAt]
  unfold encXA encX maj64
  omega

theorem encXA_fld_23_5 (hd : d < 32) (ha : a < 32) (hb : b < 32) : fld (encXA d a b o ql pl wd) 23 5 = 0 := by
  have h1 := ql.ord.code_lt
  have h2 := ql.scope.code_lt
  have h3 := pl.code_lt
  have h4 := wd.toNat_lt
  unfold fld encXA encX maj64
  omega

theorem encXA_fld_28_4 (hd : d < 32) (ha : a < 32) (hb : b < 32) (ho : o < 16) : fld (encXA d a b o ql pl wd) 28 4 =
  o := by
  have h1 := ql.ord.code_lt
  have h2 := ql.scope.code_lt
  have h3 := pl.code_lt
  have h4 := wd.toNat_lt
  unfold fld encXA encX maj64
  omega

theorem encXA_fld_32_2 (hd : d < 32) (ha : a < 32) (hb : b < 32) (ho : o < 16) : fld (encXA d a b o ql pl wd) 32 2 =
  pl.code := by
  have h1 := ql.ord.code_lt
  have h2 := ql.scope.code_lt
  have h3 := pl.code_lt
  have h4 := wd.toNat_lt
  unfold fld encXA encX maj64
  omega

theorem encXA_fld_34_2 (hd : d < 32) (ha : a < 32) (hb : b < 32) (ho : o < 16) : fld (encXA d a b o ql pl wd) 34 2 =
  ql.ord.code := by
  have h1 := ql.ord.code_lt
  have h2 := ql.scope.code_lt
  have h3 := pl.code_lt
  have h4 := wd.toNat_lt
  unfold fld encXA encX maj64
  omega

theorem encXA_fld_36_3 (hd : d < 32) (ha : a < 32) (hb : b < 32) (ho : o < 16) : fld (encXA d a b o ql pl wd) 36 3 =
  ql.scope.code := by
  have h1 := ql.ord.code_lt
  have h2 := ql.scope.code_lt
  have h3 := pl.code_lt
  have h4 := wd.toNat_lt
  unfold fld encXA encX maj64
  omega

theorem encXA_bit_39 (hd : d < 32) (ha : a < 32) (hb : b < 32) (ho : o < 16) : bitAt (encXA d a b o ql pl wd) 39 =
  (wd.toNat == 1) := by
  have h1 := ql.ord.code_lt
  have h2 := ql.scope.code_lt
  have h3 := pl.code_lt
  have h4 := wd.toNat_lt
  unfold bitAt
  congr 1
  unfold encXA encX maj64
  omega

theorem encXA_fld_40_24 (hd : d < 32) (ha : a < 32) (hb : b < 32) (ho : o < 16) : fld (encXA d a b o ql pl wd) 40 24
  = 0 := by
  have h1 := ql.ord.code_lt
  have h2 := ql.scope.code_lt
  have h3 := pl.code_lt
  have h4 := wd.toNat_lt
  unfold fld encXA encX maj64
  omega

end encXA

/-! ## encXV -/

section encXV
variable {d a b c f4 f5 g i : Nat} {x : XvFields}

theorem encXV_mod : encXV x d a b c f4 f5 g i % 4 = 3 := by
  unfold encXV encX maj64
  omega

theorem encXV_lt (hd : d < 32) (ha : a < 32) (hb : b < 32) (hc : c < 32) (hf4 : f4 < 16) (hf5 : f5 < 32) (hg : g <
  16) (hi : i < 2048) : encXV x d a b c f4 f5 g i < 2 ^ 64 := by
  have h1 := x.fmt.code_lt
  have h2 := x.rnd.code_lt
  have h3 := x.nsat.toNat_lt
  have h4 := x.k.isLt
  have h5 := x.q.toNat_lt
  unfold encXV encX maj64
  omega

theorem decode_encXV (hd : d < 32) (ha : a < 32) (hb : b < 32) (hc : c < 32) (hf4 : f4 < 16) (hf5 : f5 < 32) (hg : g
  < 16) (hi : i < 2048) : decode (encXV x d a b c f4 f5 g i) = decode64 (encXV x d a b c f4 f5 g i) :=
  decode_64 encXV_mod (encXV_lt hd ha hb hc hf4 hf5 hg hi)

theorem encXV_fld_2_6 : fld (encXV x d a b c f4 f5 g i) 2 6 = 4 := by
  have h1 := x.fmt.code_lt
  have h2 := x.rnd.code_lt
  have h3 := x.nsat.toNat_lt
  have h4 := x.k.isLt
  have h5 := x.q.toNat_lt
  unfold fld encXV encX maj64
  omega

theorem encXV_reg_8 (hd : d < 32) : regAt (encXV x d a b c f4 f5 g i) 8 = ⟨d, hd⟩ := by
  have h1 := x.fmt.code_lt
  have h2 := x.rnd.code_lt
  have h3 := x.nsat.toNat_lt
  have h4 := x.k.isLt
  have h5 := x.q.toNat_lt
  apply Fin.ext
  simp only [regAt]
  unfold encXV encX maj64
  omega

theorem encXV_reg_13 (hd : d < 32) (ha : a < 32) : regAt (encXV x d a b c f4 f5 g i) 13 = ⟨a, ha⟩ := by
  have h1 := x.fmt.code_lt
  have h2 := x.rnd.code_lt
  have h3 := x.nsat.toNat_lt
  have h4 := x.k.isLt
  have h5 := x.q.toNat_lt
  apply Fin.ext
  simp only [regAt]
  unfold encXV encX maj64
  omega

theorem encXV_reg_18 (hd : d < 32) (ha : a < 32) (hb : b < 32) : regAt (encXV x d a b c f4 f5 g i) 18 = ⟨b, hb⟩ := by
  have h1 := x.fmt.code_lt
  have h2 := x.rnd.code_lt
  have h3 := x.nsat.toNat_lt
  have h4 := x.k.isLt
  have h5 := x.q.toNat_lt
  apply Fin.ext
  simp only [regAt]
  unfold encXV encX maj64
  omega

theorem encXV_reg_23 (hd : d < 32) (ha : a < 32) (hb : b < 32) (hc : c < 32) : regAt (encXV x d a b c f4 f5 g i) 23 =
  ⟨c, hc⟩ := by
  have h1 := x.fmt.code_lt
  have h2 := x.rnd.code_lt
  have h3 := x.nsat.toNat_lt
  have h4 := x.k.isLt
  have h5 := x.q.toNat_lt
  apply Fin.ext
  simp only [regAt]
  unfold encXV encX maj64
  omega

theorem encXV_fld_23_5 (hd : d < 32) (ha : a < 32) (hb : b < 32) (hc : c < 32) : fld (encXV x d a b c f4 f5 g i) 23 5
  = c := by
  have h1 := x.fmt.code_lt
  have h2 := x.rnd.code_lt
  have h3 := x.nsat.toNat_lt
  have h4 := x.k.isLt
  have h5 := x.q.toNat_lt
  unfold fld encXV encX maj64
  omega

theorem encXV_fld_28_4 (hd : d < 32) (ha : a < 32) (hb : b < 32) (hc : c < 32) (hf4 : f4 < 16) : fld (encXV x d a b c
  f4 f5 g i) 28 4 = f4 := by
  have h1 := x.fmt.code_lt
  have h2 := x.rnd.code_lt
  have h3 := x.nsat.toNat_lt
  have h4 := x.k.isLt
  have h5 := x.q.toNat_lt
  unfold fld encXV encX maj64
  omega

theorem encXV_fld_32_5 (hd : d < 32) (ha : a < 32) (hb : b < 32) (hc : c < 32) (hf4 : f4 < 16) (hf5 : f5 < 32) : fld
  (encXV x d a b c f4 f5 g i) 32 5 = f5 := by
  have h1 := x.fmt.code_lt
  have h2 := x.rnd.code_lt
  have h3 := x.nsat.toNat_lt
  have h4 := x.k.isLt
  have h5 := x.q.toNat_lt
  unfold fld encXV encX maj64
  omega

theorem encXV_fld_37_4 (hd : d < 32) (ha : a < 32) (hb : b < 32) (hc : c < 32) (hf4 : f4 < 16) (hf5 : f5 < 32) : fld
  (encXV x d a b c f4 f5 g i) 37 4 = x.fmt.code := by
  have h1 := x.fmt.code_lt
  have h2 := x.rnd.code_lt
  have h3 := x.nsat.toNat_lt
  have h4 := x.k.isLt
  have h5 := x.q.toNat_lt
  unfold fld encXV encX maj64
  omega

theorem encXV_fld_41_4 (hd : d < 32) (ha : a < 32) (hb : b < 32) (hc : c < 32) (hf4 : f4 < 16) (hf5 : f5 < 32) (hg :
  g < 16) : fld (encXV x d a b c f4 f5 g i) 41 4 = g := by
  have h1 := x.fmt.code_lt
  have h2 := x.rnd.code_lt
  have h3 := x.nsat.toNat_lt
  have h4 := x.k.isLt
  have h5 := x.q.toNat_lt
  unfold fld encXV encX maj64
  omega

theorem encXV_fld_45_3 (hd : d < 32) (ha : a < 32) (hb : b < 32) (hc : c < 32) (hf4 : f4 < 16) (hf5 : f5 < 32) (hg :
  g < 16) : fld (encXV x d a b c f4 f5 g i) 45 3 = x.rnd.code := by
  have h1 := x.fmt.code_lt
  have h2 := x.rnd.code_lt
  have h3 := x.nsat.toNat_lt
  have h4 := x.k.isLt
  have h5 := x.q.toNat_lt
  unfold fld encXV encX maj64
  omega

theorem encXV_bit_48 (hd : d < 32) (ha : a < 32) (hb : b < 32) (hc : c < 32) (hf4 : f4 < 16) (hf5 : f5 < 32) (hg : g
  < 16) : bitAt (encXV x d a b c f4 f5 g i) 48 = (x.nsat.toNat == 1) := by
  have h1 := x.fmt.code_lt
  have h2 := x.rnd.code_lt
  have h3 := x.nsat.toNat_lt
  have h4 := x.k.isLt
  have h5 := x.q.toNat_lt
  unfold bitAt
  congr 1
  unfold encXV encX maj64
  omega

theorem encXV_k_49 (hd : d < 32) (ha : a < 32) (hb : b < 32) (hc : c < 32) (hf4 : f4 < 16) (hf5 : f5 < 32) (hg : g <
  16) : kAt (encXV x d a b c f4 f5 g i) 49 = x.k := by
  have h1 := x.fmt.code_lt
  have h2 := x.rnd.code_lt
  have h3 := x.nsat.toNat_lt
  have h4 := x.k.isLt
  have h5 := x.q.toNat_lt
  apply Fin.ext
  simp only [kAt]
  unfold encXV encX maj64
  omega

theorem encXV_bit_52 (hd : d < 32) (ha : a < 32) (hb : b < 32) (hc : c < 32) (hf4 : f4 < 16) (hf5 : f5 < 32) (hg : g
  < 16) : bitAt (encXV x d a b c f4 f5 g i) 52 = (x.q.toNat == 1) := by
  have h1 := x.fmt.code_lt
  have h2 := x.rnd.code_lt
  have h3 := x.nsat.toNat_lt
  have h4 := x.k.isLt
  have h5 := x.q.toNat_lt
  unfold bitAt
  congr 1
  unfold encXV encX maj64
  omega

theorem encXV_fld_53_11 (hd : d < 32) (ha : a < 32) (hb : b < 32) (hc : c < 32) (hf4 : f4 < 16) (hf5 : f5 < 32) (hg :
  g < 16) (hi : i < 2048) : fld (encXV x d a b c f4 f5 g i) 53 11 = i := by
  have h1 := x.fmt.code_lt
  have h2 := x.rnd.code_lt
  have h3 := x.nsat.toNat_lt
  have h4 := x.k.isLt
  have h5 := x.q.toNat_lt
  unfold fld encXV encX maj64
  omega

theorem encXV_bit_53 (hd : d < 32) (ha : a < 32) (hb : b < 32) (hc : c < 32) (hf4 : f4 < 16) (hf5 : f5 < 32) (hg : g
  < 16) (hi : i < 2048) : bitAt (encXV x d a b c f4 f5 g i) 53 = (i % 2 == 1) := by
  have h1 := x.fmt.code_lt
  have h2 := x.rnd.code_lt
  have h3 := x.nsat.toNat_lt
  have h4 := x.k.isLt
  have h5 := x.q.toNat_lt
  unfold bitAt
  congr 1
  unfold encXV encX maj64
  omega

theorem encXV_fld_53_2 (hd : d < 32) (ha : a < 32) (hb : b < 32) (hc : c < 32) (hf4 : f4 < 16) (hf5 : f5 < 32) (hg :
  g < 16) (hi : i < 2048) : fld (encXV x d a b c f4 f5 g i) 53 2 = i % 4 := by
  have h1 := x.fmt.code_lt
  have h2 := x.rnd.code_lt
  have h3 := x.nsat.toNat_lt
  have h4 := x.k.isLt
  have h5 := x.q.toNat_lt
  unfold fld encXV encX maj64
  omega

theorem encXV_fld_53_3 (hd : d < 32) (ha : a < 32) (hb : b < 32) (hc : c < 32) (hf4 : f4 < 16) (hf5 : f5 < 32) (hg :
  g < 16) (hi : i < 2048) : fld (encXV x d a b c f4 f5 g i) 53 3 = i % 8 := by
  have h1 := x.fmt.code_lt
  have h2 := x.rnd.code_lt
  have h3 := x.nsat.toNat_lt
  have h4 := x.k.isLt
  have h5 := x.q.toNat_lt
  unfold fld encXV encX maj64
  omega

theorem encXV_fld_54_3 (hd : d < 32) (ha : a < 32) (hb : b < 32) (hc : c < 32) (hf4 : f4 < 16) (hf5 : f5 < 32) (hg :
  g < 16) (hi : i < 2048) : fld (encXV x d a b c f4 f5 g i) 54 3 = i / 2 % 8 := by
  have h1 := x.fmt.code_lt
  have h2 := x.rnd.code_lt
  have h3 := x.nsat.toNat_lt
  have h4 := x.k.isLt
  have h5 := x.q.toNat_lt
  unfold fld encXV encX maj64
  omega

theorem encXV_fld_54_10 (hd : d < 32) (ha : a < 32) (hb : b < 32) (hc : c < 32) (hf4 : f4 < 16) (hf5 : f5 < 32) (hg :
  g < 16) (hi : i < 2048) : fld (encXV x d a b c f4 f5 g i) 54 10 = i / 2 := by
  have h1 := x.fmt.code_lt
  have h2 := x.rnd.code_lt
  have h3 := x.nsat.toNat_lt
  have h4 := x.k.isLt
  have h5 := x.q.toNat_lt
  unfold fld encXV encX maj64
  omega

theorem encXV_fld_55_3 (hd : d < 32) (ha : a < 32) (hb : b < 32) (hc : c < 32) (hf4 : f4 < 16) (hf5 : f5 < 32) (hg :
  g < 16) (hi : i < 2048) : fld (encXV x d a b c f4 f5 g i) 55 3 = i / 4 % 8 := by
  have h1 := x.fmt.code_lt
  have h2 := x.rnd.code_lt
  have h3 := x.nsat.toNat_lt
  have h4 := x.k.isLt
  have h5 := x.q.toNat_lt
  unfold fld encXV encX maj64
  omega

theorem encXV_fld_56_8 (hd : d < 32) (ha : a < 32) (hb : b < 32) (hc : c < 32) (hf4 : f4 < 16) (hf5 : f5 < 32) (hg :
  g < 16) (hi : i < 2048) : fld (encXV x d a b c f4 f5 g i) 56 8 = i / 8 := by
  have h1 := x.fmt.code_lt
  have h2 := x.rnd.code_lt
  have h3 := x.nsat.toNat_lt
  have h4 := x.k.isLt
  have h5 := x.q.toNat_lt
  unfold fld encXV encX maj64
  omega

theorem encXV_fld_57_7 (hd : d < 32) (ha : a < 32) (hb : b < 32) (hc : c < 32) (hf4 : f4 < 16) (hf5 : f5 < 32) (hg :
  g < 16) (hi : i < 2048) : fld (encXV x d a b c f4 f5 g i) 57 7 = i / 16 := by
  have h1 := x.fmt.code_lt
  have h2 := x.rnd.code_lt
  have h3 := x.nsat.toNat_lt
  have h4 := x.k.isLt
  have h5 := x.q.toNat_lt
  unfold fld encXV encX maj64
  omega

theorem encXV_fld_58_6 (hd : d < 32) (ha : a < 32) (hb : b < 32) (hc : c < 32) (hf4 : f4 < 16) (hf5 : f5 < 32) (hg :
  g < 16) (hi : i < 2048) : fld (encXV x d a b c f4 f5 g i) 58 6 = i / 32 := by
  have h1 := x.fmt.code_lt
  have h2 := x.rnd.code_lt
  have h3 := x.nsat.toNat_lt
  have h4 := x.k.isLt
  have h5 := x.q.toNat_lt
  unfold fld encXV encX maj64
  omega

theorem encXV_bits_3_53 (hd : d < 32) (ha : a < 32) (hb : b < 32) (hc : c < 32) (hf4 : f4 < 16) (hf5 : f5 < 32) (hg :
  g < 16) (hi : i < 2048) : bitsAt 3 (encXV x d a b c f4 f5 g i) 53 = BitVec.ofNat 3 (i) := by
  have h1 := x.fmt.code_lt
  have h2 := x.rnd.code_lt
  have h3 := x.nsat.toNat_lt
  have h4 := x.k.isLt
  have h5 := x.q.toNat_lt
  unfold bitsAt
  apply BitVec.eq_of_toNat_eq
  simp only [BitVec.toNat_ofNat]
  unfold encXV encX maj64
  omega

theorem encXV_bits_3_54 (hd : d < 32) (ha : a < 32) (hb : b < 32) (hc : c < 32) (hf4 : f4 < 16) (hf5 : f5 < 32) (hg :
  g < 16) (hi : i < 2048) : bitsAt 3 (encXV x d a b c f4 f5 g i) 54 = BitVec.ofNat 3 (i / 2) := by
  have h1 := x.fmt.code_lt
  have h2 := x.rnd.code_lt
  have h3 := x.nsat.toNat_lt
  have h4 := x.k.isLt
  have h5 := x.q.toNat_lt
  unfold bitsAt
  apply BitVec.eq_of_toNat_eq
  simp only [BitVec.toNat_ofNat]
  unfold encXV encX maj64
  omega

theorem encXV_bits_7_57 (hd : d < 32) (ha : a < 32) (hb : b < 32) (hc : c < 32) (hf4 : f4 < 16) (hf5 : f5 < 32) (hg :
  g < 16) (hi : i < 2048) : bitsAt 7 (encXV x d a b c f4 f5 g i) 57 = BitVec.ofNat 7 (i / 16) := by
  have h1 := x.fmt.code_lt
  have h2 := x.rnd.code_lt
  have h3 := x.nsat.toNat_lt
  have h4 := x.k.isLt
  have h5 := x.q.toNat_lt
  unfold bitsAt
  apply BitVec.eq_of_toNat_eq
  simp only [BitVec.toNat_ofNat]
  unfold encXV encX maj64
  omega

end encXV

/-! ## encXE -/

section encXE
variable {m d a b c fn f g mm n i : Nat}

theorem encXE_mod : encXE m d a b c fn f g mm n i % 4 = 3 := by
  unfold encXE encX maj64
  omega

theorem encXE_lt (hm : m < 64) (hd : d < 32) (ha : a < 32) (hb : b < 32) (hc : c < 32) (hfn : fn < 16) (hf : f < 16)
  (hg : g < 16) (hmm : mm < 8) (hn : n < 32) (hi : i < 65536) : encXE m d a b c fn f g mm n i < 2 ^ 64 := by
  unfold encXE encX maj64
  omega

theorem decode_encXE (hm : m < 64) (hd : d < 32) (ha : a < 32) (hb : b < 32) (hc : c < 32) (hfn : fn < 16) (hf : f <
  16) (hg : g < 16) (hmm : mm < 8) (hn : n < 32) (hi : i < 65536) : decode (encXE m d a b c fn f g mm n i) = decode64
  (encXE m d a b c fn f g mm n i) :=
  decode_64 encXE_mod (encXE_lt hm hd ha hb hc hfn hf hg hmm hn hi)

theorem encXE_fld_2_6 (hm : m < 64) : fld (encXE m d a b c fn f g mm n i) 2 6 = m := by
  unfold fld encXE encX maj64
  omega

theorem encXE_reg_8 (hm : m < 64) (hd : d < 32) : regAt (encXE m d a b c fn f g mm n i) 8 = ⟨d, hd⟩ := by
  apply Fin.ext
  simp only [regAt]
  unfold encXE encX maj64
  omega

theorem encXE_reg_13 (hm : m < 64) (hd : d < 32) (ha : a < 32) : regAt (encXE m d a b c fn f g mm n i) 13 = ⟨a, ha⟩
  := by
  apply Fin.ext
  simp only [regAt]
  unfold encXE encX maj64
  omega

theorem encXE_reg_18 (hm : m < 64) (hd : d < 32) (ha : a < 32) (hb : b < 32) : regAt (encXE m d a b c fn f g mm n i)
  18 = ⟨b, hb⟩ := by
  apply Fin.ext
  simp only [regAt]
  unfold encXE encX maj64
  omega

theorem encXE_reg_23 (hm : m < 64) (hd : d < 32) (ha : a < 32) (hb : b < 32) (hc : c < 32) : regAt (encXE m d a b c
  fn f g mm n i) 23 = ⟨c, hc⟩ := by
  apply Fin.ext
  simp only [regAt]
  unfold encXE encX maj64
  omega

theorem encXE_fld_28_4 (hm : m < 64) (hd : d < 32) (ha : a < 32) (hb : b < 32) (hc : c < 32) (hfn : fn < 16) : fld
  (encXE m d a b c fn f g mm n i) 28 4 = fn := by
  unfold fld encXE encX maj64
  omega

theorem encXE_fld_32_4 (hm : m < 64) (hd : d < 32) (ha : a < 32) (hb : b < 32) (hc : c < 32) (hfn : fn < 16) (hf : f
  < 16) : fld (encXE m d a b c fn f g mm n i) 32 4 = f := by
  unfold fld encXE encX maj64
  omega

theorem encXE_fld_36_4 (hm : m < 64) (hd : d < 32) (ha : a < 32) (hb : b < 32) (hc : c < 32) (hfn : fn < 16) (hf : f
  < 16) (hg : g < 16) : fld (encXE m d a b c fn f g mm n i) 36 4 = g := by
  unfold fld encXE encX maj64
  omega

theorem encXE_fld_40_3 (hm : m < 64) (hd : d < 32) (ha : a < 32) (hb : b < 32) (hc : c < 32) (hfn : fn < 16) (hf : f
  < 16) (hg : g < 16) (hmm : mm < 8) : fld (encXE m d a b c fn f g mm n i) 40 3 = mm := by
  unfold fld encXE encX maj64
  omega

theorem encXE_fld_43_5 (hm : m < 64) (hd : d < 32) (ha : a < 32) (hb : b < 32) (hc : c < 32) (hfn : fn < 16) (hf : f
  < 16) (hg : g < 16) (hmm : mm < 8) (hn : n < 32) : fld (encXE m d a b c fn f g mm n i) 43 5 = n := by
  unfold fld encXE encX maj64
  omega

theorem encXE_fld_32_8 (hm : m < 64) (hd : d < 32) (ha : a < 32) (hb : b < 32) (hc : c < 32) (hfn : fn < 16) (hf : f
  < 16) (hg : g < 16) : fld (encXE m d a b c fn f g mm n i) 32 8 = f + g * 16 := by
  unfold fld encXE encX maj64
  omega

theorem encXE_fld_41_7 (hm : m < 64) (hd : d < 32) (ha : a < 32) (hb : b < 32) (hc : c < 32) (hfn : fn < 16) (hf : f
  < 16) (hg : g < 16) (hmm : mm < 8) (hn : n < 32) : fld (encXE m d a b c fn f g mm n i) 41 7 = mm / 2 + n * 4 := by
  unfold fld encXE encX maj64
  omega

theorem encXE_bit_40 (hm : m < 64) (hd : d < 32) (ha : a < 32) (hb : b < 32) (hc : c < 32) (hfn : fn < 16) (hf : f <
  16) (hg : g < 16) (hmm : mm < 8) : bitAt (encXE m d a b c fn f g mm n i) 40 = (mm % 2 == 1) := by
  unfold bitAt
  congr 1
  unfold encXE encX maj64
  omega

theorem encXE_fld_32_32 (hm : m < 64) (hd : d < 32) (ha : a < 32) (hb : b < 32) (hc : c < 32) (hfn : fn < 16) (hf : f
  < 16) (hg : g < 16) (hmm : mm < 8) (hn : n < 32) (hi : i < 65536) : fld (encXE m d a b c fn f g mm n i) 32 32 = f +
  g * 16 + mm * 256 + n * 2048 + i * 65536 := by
  unfold fld encXE encX maj64
  omega

theorem encXE_fld_36_7 (hm : m < 64) (hd : d < 32) (ha : a < 32) (hb : b < 32) (hc : c < 32) (hfn : fn < 16) (hf : f
  < 16) (hg : g < 16) (hmm : mm < 8) : fld (encXE m d a b c fn f g mm n i) 36 7 = g + mm * 16 := by
  unfold fld encXE encX maj64
  omega

theorem encXE_fld_47_17 (hm : m < 64) (hd : d < 32) (ha : a < 32) (hb : b < 32) (hc : c < 32) (hfn : fn < 16) (hf : f
  < 16) (hg : g < 16) (hmm : mm < 8) (hn : n < 32) (hi : i < 65536) : fld (encXE m d a b c fn f g mm n i) 47 17 = n /
  16 + i * 2 := by
  unfold fld encXE encX maj64
  omega

theorem encXE_nib_43 (hm : m < 64) (hd : d < 32) (ha : a < 32) (hb : b < 32) (hc : c < 32) (hfn : fn < 16) (hf : f <
  16) (hg : g < 16) (hmm : mm < 8) (hn : n < 32) : nibAt (encXE m d a b c fn f g mm n i) 43 = ⟨n % 16, Nat.mod_lt _
  (by decide)⟩ := by
  apply Fin.ext
  simp only [nibAt]
  unfold encXE encX maj64
  omega

theorem encXE_fld_48_16 (hm : m < 64) (hd : d < 32) (ha : a < 32) (hb : b < 32) (hc : c < 32) (hfn : fn < 16) (hf : f
  < 16) (hg : g < 16) (hmm : mm < 8) (hn : n < 32) (hi : i < 65536) : fld (encXE m d a b c fn f g mm n i) 48 16 = i
  := by
  unfold fld encXE encX maj64
  omega

theorem encXE_fld_40_8 (hm : m < 64) (hd : d < 32) (ha : a < 32) (hb : b < 32) (hc : c < 32) (hfn : fn < 16) (hf : f
  < 16) (hg : g < 16) (hmm : mm < 8) (hn : n < 32) : fld (encXE m d a b c fn f g mm n i) 40 8 = mm + n * 8 := by
  unfold fld encXE encX maj64
  omega

theorem encXE_fld_49_15 (hm : m < 64) (hd : d < 32) (ha : a < 32) (hb : b < 32) (hc : c < 32) (hfn : fn < 16) (hf : f
  < 16) (hg : g < 16) (hmm : mm < 8) (hn : n < 32) (hi : i < 65536) : fld (encXE m d a b c fn f g mm n i) 49 15 = i /
  2 := by
  unfold fld encXE encX maj64
  omega

theorem encXE_bit_48 (hm : m < 64) (hd : d < 32) (ha : a < 32) (hb : b < 32) (hc : c < 32) (hfn : fn < 16) (hf : f <
  16) (hg : g < 16) (hmm : mm < 8) (hn : n < 32) (hi : i < 65536) : bitAt (encXE m d a b c fn f g mm n i) 48 = (i % 2
  == 1) := by
  unfold bitAt
  congr 1
  unfold encXE encX maj64
  omega

theorem encXE_bits_5_43 (hm : m < 64) (hd : d < 32) (ha : a < 32) (hb : b < 32) (hc : c < 32) (hfn : fn < 16) (hf : f
  < 16) (hg : g < 16) (hmm : mm < 8) (hn : n < 32) : bitsAt 5 (encXE m d a b c fn f g mm n i) 43 = BitVec.ofNat 5 (n)
  := by
  unfold bitsAt
  apply BitVec.eq_of_toNat_eq
  simp only [BitVec.toNat_ofNat]
  unfold encXE encX maj64
  omega

theorem encXE_bit_51 (hm : m < 64) (hd : d < 32) (ha : a < 32) (hb : b < 32) (hc : c < 32) (hfn : fn < 16) (hf : f <
  16) (hg : g < 16) (hmm : mm < 8) (hn : n < 32) (hi : i < 65536) : bitAt (encXE m d a b c fn f g mm n i) 51 = (i / 8
  % 2 == 1) := by
  unfold bitAt
  congr 1
  unfold encXE encX maj64
  omega

theorem encXE_fld_52_12 (hm : m < 64) (hd : d < 32) (ha : a < 32) (hb : b < 32) (hc : c < 32) (hfn : fn < 16) (hf : f
  < 16) (hg : g < 16) (hmm : mm < 8) (hn : n < 32) (hi : i < 65536) : fld (encXE m d a b c fn f g mm n i) 52 12 = i /
  16 := by
  unfold fld encXE encX maj64
  omega

theorem encXE_fld_48_3 (hm : m < 64) (hd : d < 32) (ha : a < 32) (hb : b < 32) (hc : c < 32) (hfn : fn < 16) (hf : f
  < 16) (hg : g < 16) (hmm : mm < 8) (hn : n < 32) (hi : i < 65536) : fld (encXE m d a b c fn f g mm n i) 48 3 = i %
  8 := by
  unfold fld encXE encX maj64
  omega

theorem encXE_fld_48_4 (hm : m < 64) (hd : d < 32) (ha : a < 32) (hb : b < 32) (hc : c < 32) (hfn : fn < 16) (hf : f
  < 16) (hg : g < 16) (hmm : mm < 8) (hn : n < 32) (hi : i < 65536) : fld (encXE m d a b c fn f g mm n i) 48 4 = i %
  16 := by
  unfold fld encXE encX maj64
  omega

theorem encXE_fld_8_20 (hm : m < 64) (hd : d < 32) (ha : a < 32) (hb : b < 32) (hc : c < 32) : fld (encXE m d a b c
  fn f g mm n i) 8 20 = d + a * 32 + b * 1024 + c * 32768 := by
  unfold fld encXE encX maj64
  omega

theorem encXE_fld_32_16 (hm : m < 64) (hd : d < 32) (ha : a < 32) (hb : b < 32) (hc : c < 32) (hfn : fn < 16) (hf : f
  < 16) (hg : g < 16) (hmm : mm < 8) (hn : n < 32) : fld (encXE m d a b c fn f g mm n i) 32 16 = f + g * 16 + mm *
  256 + n * 2048 := by
  unfold fld encXE encX maj64
  omega

theorem encXE_fld_63_1 (hm : m < 64) (hd : d < 32) (ha : a < 32) (hb : b < 32) (hc : c < 32) (hfn : fn < 16) (hf : f
  < 16) (hg : g < 16) (hmm : mm < 8) (hn : n < 32) (hi : i < 65536) : fld (encXE m d a b c fn f g mm n i) 63 1 = i /
  32768 := by
  unfold fld encXE encX maj64
  omega

theorem encXE_bits_15_48 (hm : m < 64) (hd : d < 32) (ha : a < 32) (hb : b < 32) (hc : c < 32) (hfn : fn < 16) (hf :
  f < 16) (hg : g < 16) (hmm : mm < 8) (hn : n < 32) (hi : i < 65536) : bitsAt 15 (encXE m d a b c fn f g mm n i) 48
  = BitVec.ofNat 15 (i) := by
  unfold bitsAt
  apply BitVec.eq_of_toNat_eq
  simp only [BitVec.toNat_ofNat]
  unfold encXE encX maj64
  omega

theorem encXE_bits_16_48 (hm : m < 64) (hd : d < 32) (ha : a < 32) (hb : b < 32) (hc : c < 32) (hfn : fn < 16) (hf :
  f < 16) (hg : g < 16) (hmm : mm < 8) (hn : n < 32) (hi : i < 65536) : bitsAt 16 (encXE m d a b c fn f g mm n i) 48
  = BitVec.ofNat 16 (i) := by
  unfold bitsAt
  apply BitVec.eq_of_toNat_eq
  simp only [BitVec.toNat_ofNat]
  unfold encXE encX maj64
  omega

theorem encXE_fld_48_2 (hm : m < 64) (hd : d < 32) (ha : a < 32) (hb : b < 32) (hc : c < 32) (hfn : fn < 16) (hf : f
  < 16) (hg : g < 16) (hmm : mm < 8) (hn : n < 32) (hi : i < 65536) : fld (encXE m d a b c fn f g mm n i) 48 2 = i %
  4 := by
  unfold fld encXE encX maj64
  omega

theorem encXE_fld_50_14 (hm : m < 64) (hd : d < 32) (ha : a < 32) (hb : b < 32) (hc : c < 32) (hfn : fn < 16) (hf : f
  < 16) (hg : g < 16) (hmm : mm < 8) (hn : n < 32) (hi : i < 65536) : fld (encXE m d a b c fn f g mm n i) 50 14 = i /
  4 := by
  unfold fld encXE encX maj64
  omega

theorem encXE_bits_2_43 (hm : m < 64) (hd : d < 32) (ha : a < 32) (hb : b < 32) (hc : c < 32) (hfn : fn < 16) (hf : f
  < 16) (hg : g < 16) (hmm : mm < 8) (hn : n < 32) : bitsAt 2 (encXE m d a b c fn f g mm n i) 43 = BitVec.ofNat 2 (n)
  := by
  unfold bitsAt
  apply BitVec.eq_of_toNat_eq
  simp only [BitVec.toNat_ofNat]
  unfold encXE encX maj64
  omega

theorem encXE_fld_32_11 (hm : m < 64) (hd : d < 32) (ha : a < 32) (hb : b < 32) (hc : c < 32) (hfn : fn < 16) (hf : f
  < 16) (hg : g < 16) (hmm : mm < 8) : fld (encXE m d a b c fn f g mm n i) 32 11 = f + g * 16 + mm * 256 := by
  unfold fld encXE encX maj64
  omega

theorem encXE_fld_45_19 (hm : m < 64) (hd : d < 32) (ha : a < 32) (hb : b < 32) (hc : c < 32) (hfn : fn < 16) (hf : f
  < 16) (hg : g < 16) (hmm : mm < 8) (hn : n < 32) (hi : i < 65536) : fld (encXE m d a b c fn f g mm n i) 45 19 = n /
  4 + i * 8 := by
  unfold fld encXE encX maj64
  omega

theorem encXE_fld_36_28 (hm : m < 64) (hd : d < 32) (ha : a < 32) (hb : b < 32) (hc : c < 32) (hfn : fn < 16) (hf : f
  < 16) (hg : g < 16) (hmm : mm < 8) (hn : n < 32) (hi : i < 65536) : fld (encXE m d a b c fn f g mm n i) 36 28 = g +
  mm * 16 + n * 128 + i * 4096 := by
  unfold fld encXE encX maj64
  omega

end encXE

/-! ## XI -/

/-- The word of an XI form. -/
def encXI (d a fn i : Nat) : Nat := encX 1 d a 0 0 fn + i * 2 ^ 32

theorem encXI_eq (d a fn i : Nat) : encX 1 d a 0 0 fn + i * 2 ^ 32 = encXI d a fn i := rfl

section encXI
variable {d a fn i : Nat}
theorem encXI_mod : encXI d a fn i % 4 = 3 := by unfold encXI encX maj64; omega
theorem encXI_lt (hi : i < 2 ^ 32) (hd : d < 32) (ha : a < 32) (hf : fn < 16) : encXI d a fn i < 2 ^ 64 := by
  unfold encXI encX maj64; omega
theorem decode_encXI (hi : i < 2 ^ 32) (hd : d < 32) (ha : a < 32) (hf : fn < 16) :
    decode (encXI d a fn i) = decode64 (encXI d a fn i) := decode_64 encXI_mod (encXI_lt hi hd ha hf)
theorem encXI_major : fld (encXI d a fn i) 2 6 = 1 := by unfold fld encXI encX maj64; omega
theorem encXI_reg_8 (hd : d < 32) : regAt (encXI d a fn i) 8 = ⟨d, hd⟩ := by
  apply Fin.ext; simp only [regAt]; unfold encXI encX maj64; omega
theorem encXI_reg_13 (hd : d < 32) (ha : a < 32) : regAt (encXI d a fn i) 13 = ⟨a, ha⟩ := by
  apply Fin.ext; simp only [regAt]; unfold encXI encX maj64; omega
theorem encXI_zero (hd : d < 32) (ha : a < 32) : fld (encXI d a fn i) 18 10 = 0 := by
  unfold fld encXI encX maj64; omega
theorem encXI_fn (hd : d < 32) (ha : a < 32) (hf : fn < 16) : fld (encXI d a fn i) 28 4 = fn := by
  unfold fld encXI encX maj64; omega
theorem encXI_imm {x : BitVec 32} (hd : d < 32) (ha : a < 32) (hf : fn < 16) :
    bitsAt 32 (encXI d a fn x.toNat) 32 = x := by
  unfold bitsAt; apply BitVec.eq_of_toNat_eq; simp only [BitVec.toNat_ofNat]; unfold encXI encX maj64; omega
end encXI

end Sys2Proof
end

