-- ==== Sys2Proof/Laws/Memory.lean ====
section
/-! SUPPORT. Every operation that writes memory keeps the canonical form: `State.mem` through its writers, the
scratchpads of cores and walker threads, the slots of the Keep. -/

namespace Sys2Proof.Machine

theorem State.reset_mem_wf : Memory.wf State.reset.mem = true := rfl

/-- A fold of steps that keep a property keeps it. -/
theorem foldl_keeps {α β : Type} (p : β → Prop) (f : β → α → β) (h : ∀ b a, p b → p (f b a)) (l : List α) (b : β)
    (hb : p b) : p (l.foldl f b) := by
  induction l generalizing b with
  | nil => exact hb
  | cons a rest ih => exact ih (f b a) (h b a hb)

theorem flushLine_wf {m : List Host.Cell} (line : Nat) (l : RdcLine) (w : Memory.wf m = true) :
    Memory.wf (flushLine m line l) = true :=
  foldl_keeps (fun m => Memory.wf m = true) _ (fun _ _ h => Memory.wf_memSet _ _ h) _ _ w

theorem State.writeHome_wf {s : State} (pa : Nat) (bs : List Byte) (w : Memory.wf s.mem = true) :
    Memory.wf (s.writeHome pa bs).mem = true := by
  have := Memory.wf_memSetList pa bs w
  unfold State.writeHome
  split <;> exact this

/-! ## The writers through an RDC -/

theorem State.snoop_mem (s : State) (line : Nat) : (s.snoop line).mem = s.mem := rfl

theorem State.flush_wf {s : State} (line : Nat) (l : RdcLine) (w : Memory.wf s.mem = true) :
    Memory.wf (s.flush line l).mem = true := by
  unfold State.flush
  split
  · exact w
  · exact flushLine_wf _ _ w

theorem State.evictRdc_wf {s : State} (d line : Nat) (w : Memory.wf s.mem = true) :
    Memory.wf (s.evictRdc d line).mem = true := by
  unfold State.evictRdc
  split
  · exact w
  · exact State.flush_wf _ _ w

theorem State.roomRdc_wf {s : State} (d line : Nat) (w : Memory.wf s.mem = true) :
    Memory.wf (s.roomRdc d line).mem = true := by
  unfold State.roomRdc
  dsimp only
  split
  · exact w
  · split
    · exact State.evictRdc_wf _ _ w
    · exact w

theorem State.putRdc_wf {s : State} (d line : Nat) (l : RdcLine) (w : Memory.wf s.mem = true) :
    Memory.wf (s.putRdc d line l).mem = true :=
  State.roomRdc_wf d line w

theorem State.modRdcPoison_mem (s : State) (d line : Nat) (f : List Nat → List Nat) :
    (s.modRdcPoison d line f).mem = s.mem := by
  unfold State.modRdcPoison
  split <;> rfl

theorem State.clearPaPoison_mem (s : State) (d pa n : Nat) : (s.clearPaPoison d pa n).mem = s.mem := by
  unfold State.clearPaPoison
  dsimp only
  split
  · rfl
  · split
    · rfl
    · split <;> simp only [State.modRdcPoison_mem]

theorem State.markPa_mem (s : State) (d pa n : Nat) : (s.markPa d pa n).mem = s.mem := by
  unfold State.markPa
  split
  · rfl
  · exact foldl_keeps (fun t : State => t.mem = s.mem) _ (fun _ _ h => (State.modRdcPoison_mem _ _ _ _).trans h) _ _ rfl

theorem State.writePaByte_wf {s : State} (d : Nat) (iss : Issuer) (pa : Nat) (b : Byte) (w : Memory.wf s.mem = true) :
    Memory.wf (s.writePaByte d iss pa b).mem = true := by
  unfold State.writePaByte
  split
  · exact Memory.wf_memSet _ _ w
  · exact State.putRdc_wf _ _ _ w

theorem State.writePa_wf {s : State} (d : Nat) (iss : Issuer) (pa : Nat) (bs : List Byte) (w : Memory.wf s.mem = true) :
    Memory.wf (s.writePa d iss pa bs).mem = true := by
  have h := foldl_keeps (fun s : State => Memory.wf s.mem = true)
    (fun s i => s.writePaByte d iss (pa + i) (bs.getD i 0)) (fun _ _ h => State.writePaByte_wf _ _ _ _ h)
    (List.range bs.length) s w
  unfold State.writePa
  dsimp only
  split <;> simpa only [State.snoop_mem, State.clearPaPoison_mem] using h

theorem State.writeBackRdc_wf {s : State} (d : Nat) (w : Memory.wf s.mem = true) :
    Memory.wf (s.writeBackRdc d).mem = true :=
  foldl_keeps (fun s : State => Memory.wf s.mem = true) _ (fun _ _ h => State.flush_wf _ _ h) _ _ w

theorem State.sendKeep_mem (s : State) (src : Option Issuer) (job : Option Requester) (pa : Nat) (bs : List Byte) :
    (s.sendKeep src job pa bs).mem = s.mem := by
  unfold State.sendKeep
  split <;> rfl

theorem State.writeRc_wf {s : State} (src : Option Issuer) (job : Option Requester) (pa : Nat) (bs : List Byte)
    (w : Memory.wf s.mem = true) : Memory.wf (s.writeRc src job pa bs).mem = true := by
  have h := State.writeHome_wf pa bs w
  unfold State.writeRc
  dsimp only
  split <;> simpa only [State.sendKeep_mem] using h

/-- A range of memory replaced by cells keeps the canonical form. -/
theorem memReplace_wf {m : List Host.Cell} (pa len : Nat) (cells : List Host.Cell) (w : Memory.wf m = true) :
    Memory.wf (memReplace m pa len cells) = true :=
  foldl_keeps (fun m => Memory.wf m = true) _ (fun _ _ h => Memory.wf_memSet _ _ h) _ _ (Memory.wfFrom_filter _ w)

/-- A part of a team's image written to the swap area keeps the canonical form. -/
theorem State.writeImage_wf {s : State} (image : List Host.Cell) (poison : List Nat) (p : PagePart)
    (w : Memory.wf s.mem = true) : Memory.wf (s.writeImage image poison p).mem = true := by
  unfold State.writeImage
  dsimp only
  split
  · exact memReplace_wf _ _ _ (State.writeRc_wf _ _ _ _ w)
  · exact memReplace_wf _ _ _ w

theorem Core.writeScratch_wf {c : Core} (off : Nat) (bs : List Byte) (w : Memory.wf c.mem.scratch = true) :
    Memory.wf (c.writeScratch off bs).mem.scratch = true :=
  Memory.wf_memSetList off bs w

theorem slotWrite_wf {slot : List Host.Cell} (off : Nat) (bs : List Byte) (w : Memory.wf slot = true) :
    Memory.wf (slotWrite slot off bs) = true :=
  Memory.wf_memSetList off bs w

/-- A block rolled back home keeps the canonical form. -/
theorem rollHome_wf {m : List Host.Cell} (b : KeepBlock) (w : Memory.wf m = true) : Memory.wf (rollHome m b) = true := by
  unfold rollHome
  induction (if b.cur then b.slot1 else b.slot0) with
  | nil => exact Memory.wfFrom_filter _ w
  | cons c _ ih => exact Memory.wf_memSet (b.pa + c.1) c.2 ih

end Sys2Proof.Machine
end

