-- ==== Sys2Proof/Laws/PerInstr.lean ====
section
/-! SUPPORT. The family `Roundtrip`: decoding the word of a well-formed instruction gives it back, one lemma per
constructor of `Instr`. An event has no word. -/

namespace Sys2Proof.Laws.Roundtrip

/-- A well-formed instruction has a word, and its word decodes to it. -/
def Statement (i : Instr) : Prop :=
  i.wf = true → ∃ w, encode i = some w ∧ decode w = .ok i

theorem add (d a b : Reg) : Statement (.add d a b) :=
  fun hw => ⟨_, rfl, by
    simp (disch := omega) [decode_encRR, decode32, decodeOp, encRR_fld_2_6, encRR_reg_8, encRR_reg_13, encRR_reg_18,
      encRR_fld_23_9, Fin.eta]⟩

theorem sub (d a b : Reg) : Statement (.sub d a b) :=
  fun hw => ⟨_, rfl, by
    simp (disch := omega) [decode_encRR, decode32, decodeOp, encRR_fld_2_6, encRR_reg_8, encRR_reg_13, encRR_reg_18,
      encRR_fld_23_9, Fin.eta]⟩

theorem and (d a b : Reg) : Statement (.and d a b) :=
  fun hw => ⟨_, rfl, by
    simp (disch := omega) [decode_encRR, decode32, decodeOp, encRR_fld_2_6, encRR_reg_8, encRR_reg_13, encRR_reg_18,
      encRR_fld_23_9, Fin.eta]⟩

theorem or (d a b : Reg) : Statement (.or d a b) :=
  fun hw => ⟨_, rfl, by
    simp (disch := omega) [decode_encRR, decode32, decodeOp, encRR_fld_2_6, encRR_reg_8, encRR_reg_13, encRR_reg_18,
      encRR_fld_23_9, Fin.eta]⟩

theorem xor (d a b : Reg) : Statement (.xor d a b) :=
  fun hw => ⟨_, rfl, by
    simp (disch := omega) [decode_encRR, decode32, decodeOp, encRR_fld_2_6, encRR_reg_8, encRR_reg_13, encRR_reg_18,
      encRR_fld_23_9, Fin.eta]⟩

theorem sll (d a b : Reg) : Statement (.sll d a b) :=
  fun hw => ⟨_, rfl, by
    simp (disch := omega) [decode_encRR, decode32, decodeOp, encRR_fld_2_6, encRR_reg_8, encRR_reg_13, encRR_reg_18,
      encRR_fld_23_9, Fin.eta]⟩

theorem srl (d a b : Reg) : Statement (.srl d a b) :=
  fun hw => ⟨_, rfl, by
    simp (disch := omega) [decode_encRR, decode32, decodeOp, encRR_fld_2_6, encRR_reg_8, encRR_reg_13, encRR_reg_18,
      encRR_fld_23_9, Fin.eta]⟩

theorem sra (d a b : Reg) : Statement (.sra d a b) :=
  fun hw => ⟨_, rfl, by
    simp (disch := omega) [decode_encRR, decode32, decodeOp, encRR_fld_2_6, encRR_reg_8, encRR_reg_13, encRR_reg_18,
      encRR_fld_23_9, Fin.eta]⟩

theorem slt (d a b : Reg) : Statement (.slt d a b) :=
  fun hw => ⟨_, rfl, by
    simp (disch := omega) [decode_encRR, decode32, decodeOp, encRR_fld_2_6, encRR_reg_8, encRR_reg_13, encRR_reg_18,
      encRR_fld_23_9, Fin.eta]⟩

theorem sltu (d a b : Reg) : Statement (.sltu d a b) :=
  fun hw => ⟨_, rfl, by
    simp (disch := omega) [decode_encRR, decode32, decodeOp, encRR_fld_2_6, encRR_reg_8, encRR_reg_13, encRR_reg_18,
      encRR_fld_23_9, Fin.eta]⟩

theorem min (d a b : Reg) : Statement (.min d a b) :=
  fun hw => ⟨_, rfl, by
    simp (disch := omega) [decode_encRR, decode32, decodeOp, encRR_fld_2_6, encRR_reg_8, encRR_reg_13, encRR_reg_18,
      encRR_fld_23_9, Fin.eta]⟩

theorem max (d a b : Reg) : Statement (.max d a b) :=
  fun hw => ⟨_, rfl, by
    simp (disch := omega) [decode_encRR, decode32, decodeOp, encRR_fld_2_6, encRR_reg_8, encRR_reg_13, encRR_reg_18,
      encRR_fld_23_9, Fin.eta]⟩

theorem minu (d a b : Reg) : Statement (.minu d a b) :=
  fun hw => ⟨_, rfl, by
    simp (disch := omega) [decode_encRR, decode32, decodeOp, encRR_fld_2_6, encRR_reg_8, encRR_reg_13, encRR_reg_18,
      encRR_fld_23_9, Fin.eta]⟩

theorem maxu (d a b : Reg) : Statement (.maxu d a b) :=
  fun hw => ⟨_, rfl, by
    simp (disch := omega) [decode_encRR, decode32, decodeOp, encRR_fld_2_6, encRR_reg_8, encRR_reg_13, encRR_reg_18,
      encRR_fld_23_9, Fin.eta]⟩

theorem mul (d a b : Reg) : Statement (.mul d a b) :=
  fun hw => ⟨_, rfl, by
    simp (disch := omega) [decode_encRR, decode32, decodeOp, encRR_fld_2_6, encRR_reg_8, encRR_reg_13, encRR_reg_18,
      encRR_fld_23_9, Fin.eta]⟩

theorem mulh (d a b : Reg) : Statement (.mulh d a b) :=
  fun hw => ⟨_, rfl, by
    simp (disch := omega) [decode_encRR, decode32, decodeOp, encRR_fld_2_6, encRR_reg_8, encRR_reg_13, encRR_reg_18,
      encRR_fld_23_9, Fin.eta]⟩

theorem mulhu (d a b : Reg) : Statement (.mulhu d a b) :=
  fun hw => ⟨_, rfl, by
    simp (disch := omega) [decode_encRR, decode32, decodeOp, encRR_fld_2_6, encRR_reg_8, encRR_reg_13, encRR_reg_18,
      encRR_fld_23_9, Fin.eta]⟩

theorem div (d a b : Reg) : Statement (.div d a b) :=
  fun hw => ⟨_, rfl, by
    simp (disch := omega) [decode_encRR, decode32, decodeOp, encRR_fld_2_6, encRR_reg_8, encRR_reg_13, encRR_reg_18,
      encRR_fld_23_9, Fin.eta]⟩

theorem divu (d a b : Reg) : Statement (.divu d a b) :=
  fun hw => ⟨_, rfl, by
    simp (disch := omega) [decode_encRR, decode32, decodeOp, encRR_fld_2_6, encRR_reg_8, encRR_reg_13, encRR_reg_18,
      encRR_fld_23_9, Fin.eta]⟩

theorem rem (d a b : Reg) : Statement (.rem d a b) :=
  fun hw => ⟨_, rfl, by
    simp (disch := omega) [decode_encRR, decode32, decodeOp, encRR_fld_2_6, encRR_reg_8, encRR_reg_13, encRR_reg_18,
      encRR_fld_23_9, Fin.eta]⟩

theorem remu (d a b : Reg) : Statement (.remu d a b) :=
  fun hw => ⟨_, rfl, by
    simp (disch := omega) [decode_encRR, decode32, decodeOp, encRR_fld_2_6, encRR_reg_8, encRR_reg_13, encRR_reg_18,
      encRR_fld_23_9, Fin.eta]⟩

theorem clz (d a : Reg) : Statement (.clz d a) :=
  fun hw => ⟨_, rfl, by
    simp (disch := omega) [decode_encRR, decode32, decodeOp, encRR_fld_2_6, encRR_reg_8, encRR_reg_13, encRR_reg_18,
      encRR_fld_23_9, zero, need, Fin.eta]⟩

theorem ctz (d a : Reg) : Statement (.ctz d a) :=
  fun hw => ⟨_, rfl, by
    simp (disch := omega) [decode_encRR, decode32, decodeOp, encRR_fld_2_6, encRR_reg_8, encRR_reg_13, encRR_reg_18,
      encRR_fld_23_9, zero, need, Fin.eta]⟩

theorem popc (d a : Reg) : Statement (.popc d a) :=
  fun hw => ⟨_, rfl, by
    simp (disch := omega) [decode_encRR, decode32, decodeOp, encRR_fld_2_6, encRR_reg_8, encRR_reg_13, encRR_reg_18,
      encRR_fld_23_9, zero, need, Fin.eta]⟩

theorem extB (d a : Reg) : Statement (.extB d a) :=
  fun hw => ⟨_, rfl, by
    simp (disch := omega) [decode_encRR, decode32, decodeOp, encRR_fld_2_6, encRR_reg_8, encRR_reg_13, encRR_reg_18,
      encRR_fld_23_9, zero, need, Fin.eta]⟩

theorem extH (d a : Reg) : Statement (.extH d a) :=
  fun hw => ⟨_, rfl, by
    simp (disch := omega) [decode_encRR, decode32, decodeOp, encRR_fld_2_6, encRR_reg_8, encRR_reg_13, encRR_reg_18,
      encRR_fld_23_9, zero, need, Fin.eta]⟩

theorem extW (d a : Reg) : Statement (.extW d a) :=
  fun hw => ⟨_, rfl, by
    simp (disch := omega) [decode_encRR, decode32, decodeOp, encRR_fld_2_6, encRR_reg_8, encRR_reg_13, encRR_reg_18,
      encRR_fld_23_9, zero, need, Fin.eta]⟩

theorem addImm (d a : Reg) (i : BitVec 11) : Statement (.addImm d a i) :=
  fun hw => ⟨_, rfl, by
    simp (disch := omega) [decode_encRI, decode32, decodeOpi, encRI_fld_2_6, encRI_reg_8, encRI_reg_13,
      encRI_fld_18_3, encRI_bits_11_21, Fin.eta, BitVec.ofNat_toNat, BitVec.setWidth_eq]⟩

theorem andImm (d a : Reg) (i : BitVec 11) : Statement (.andImm d a i) :=
  fun hw => ⟨_, rfl, by
    simp (disch := omega) [decode_encRI, decode32, decodeOpi, encRI_fld_2_6, encRI_reg_8, encRI_reg_13,
      encRI_fld_18_3, encRI_bits_11_21, Fin.eta, BitVec.ofNat_toNat, BitVec.setWidth_eq]⟩

theorem orImm (d a : Reg) (i : BitVec 11) : Statement (.orImm d a i) :=
  fun hw => ⟨_, rfl, by
    simp (disch := omega) [decode_encRI, decode32, decodeOpi, encRI_fld_2_6, encRI_reg_8, encRI_reg_13,
      encRI_fld_18_3, encRI_bits_11_21, Fin.eta, BitVec.ofNat_toNat, BitVec.setWidth_eq]⟩

theorem xorImm (d a : Reg) (i : BitVec 11) : Statement (.xorImm d a i) :=
  fun hw => ⟨_, rfl, by
    simp (disch := omega) [decode_encRI, decode32, decodeOpi, encRI_fld_2_6, encRI_reg_8, encRI_reg_13,
      encRI_fld_18_3, encRI_bits_11_21, Fin.eta, BitVec.ofNat_toNat, BitVec.setWidth_eq]⟩

theorem sltImm (d a : Reg) (i : BitVec 11) : Statement (.sltImm d a i) :=
  fun hw => ⟨_, rfl, by
    simp (disch := omega) [decode_encRI, decode32, decodeOpi, encRI_fld_2_6, encRI_reg_8, encRI_reg_13,
      encRI_fld_18_3, encRI_bits_11_21, Fin.eta, BitVec.ofNat_toNat, BitVec.setWidth_eq]⟩

theorem sltuImm (d a : Reg) (i : BitVec 11) : Statement (.sltuImm d a i) :=
  fun hw => ⟨_, rfl, by
    simp (disch := omega) [decode_encRI, decode32, decodeOpi, encRI_fld_2_6, encRI_reg_8, encRI_reg_13,
      encRI_fld_18_3, encRI_bits_11_21, Fin.eta, BitVec.ofNat_toNat, BitVec.setWidth_eq]⟩

theorem sllImm (d a : Reg) (sh : BitVec 6) : Statement (.sllImm d a sh) :=
  fun _ => ⟨_, rfl, by
    have h1 : fld (encRI 2 d a 6 (sh.toNat)) 29 3 = 0 := by rw [encRI_fld_29_3] <;> omega
    have h2 : fld (encRI 2 d a 6 (sh.toNat)) 27 2 = 0 := by rw [encRI_fld_27_2] <;> omega
    have h3 : bitsAt 6 (encRI 2 d a 6 (sh.toNat)) 21 = sh := by
      rw [encRI_bits_6_21] <;> first | omega | (apply BitVec.eq_of_toNat_eq; simp only [BitVec.toNat_ofNat]; omega)
    simp (disch := omega) only [decode_encRI, decode32, decodeOpi, encRI_fld_2_6, encRI_fld_18_3, encRI_reg_8,
      encRI_reg_13, h1, h2, h3, zero, need, Fin.eta, beq_self_eq_true, if_true]⟩

theorem srlImm (d a : Reg) (sh : BitVec 6) : Statement (.srlImm d a sh) :=
  fun _ => ⟨_, rfl, by
    have h1 : fld (encRI 2 d a 6 (sh.toNat + 64)) 29 3 = 0 := by rw [encRI_fld_29_3] <;> omega
    have h2 : fld (encRI 2 d a 6 (sh.toNat + 64)) 27 2 = 1 := by rw [encRI_fld_27_2] <;> omega
    have h3 : bitsAt 6 (encRI 2 d a 6 (sh.toNat + 64)) 21 = sh := by
      rw [encRI_bits_6_21] <;> first | omega | (apply BitVec.eq_of_toNat_eq; simp only [BitVec.toNat_ofNat]; omega)
    simp (disch := omega) only [decode_encRI, decode32, decodeOpi, encRI_fld_2_6, encRI_fld_18_3, encRI_reg_8,
      encRI_reg_13, h1, h2, h3, zero, need, Fin.eta, beq_self_eq_true, if_true]⟩

theorem sraImm (d a : Reg) (sh : BitVec 6) : Statement (.sraImm d a sh) :=
  fun _ => ⟨_, rfl, by
    have h1 : fld (encRI 2 d a 6 (sh.toNat + 128)) 29 3 = 0 := by rw [encRI_fld_29_3] <;> omega
    have h2 : fld (encRI 2 d a 6 (sh.toNat + 128)) 27 2 = 2 := by rw [encRI_fld_27_2] <;> omega
    have h3 : bitsAt 6 (encRI 2 d a 6 (sh.toNat + 128)) 21 = sh := by
      rw [encRI_bits_6_21] <;> first | omega | (apply BitVec.eq_of_toNat_eq; simp only [BitVec.toNat_ofNat]; omega)
    simp (disch := omega) only [decode_encRI, decode32, decodeOpi, encRI_fld_2_6, encRI_fld_18_3, encRI_reg_8,
      encRI_reg_13, h1, h2, h3, zero, need, Fin.eta, beq_self_eq_true, if_true]⟩

theorem addXi (d a : Reg) (i : BitVec 32) : Statement (.addXi d a i) :=
  fun _ => ⟨_, rfl, by
    rw [encXI_eq]
    simp (disch := omega) only [decode_encXI, decode64, decodeXi, encXI_major, encXI_reg_8, encXI_reg_13, encXI_zero,
      encXI_fn, encXI_imm, zero, need, Fin.eta, beq_self_eq_true, if_true]⟩

theorem andXi (d a : Reg) (i : BitVec 32) : Statement (.andXi d a i) :=
  fun _ => ⟨_, rfl, by
    rw [encXI_eq]
    simp (disch := omega) only [decode_encXI, decode64, decodeXi, encXI_major, encXI_reg_8, encXI_reg_13, encXI_zero,
      encXI_fn, encXI_imm, zero, need, Fin.eta, beq_self_eq_true, if_true]⟩

theorem orXi (d a : Reg) (i : BitVec 32) : Statement (.orXi d a i) :=
  fun _ => ⟨_, rfl, by
    rw [encXI_eq]
    simp (disch := omega) only [decode_encXI, decode64, decodeXi, encXI_major, encXI_reg_8, encXI_reg_13, encXI_zero,
      encXI_fn, encXI_imm, zero, need, Fin.eta, beq_self_eq_true, if_true]⟩

theorem xorXi (d a : Reg) (i : BitVec 32) : Statement (.xorXi d a i) :=
  fun _ => ⟨_, rfl, by
    rw [encXI_eq]
    simp (disch := omega) only [decode_encXI, decode64, decodeXi, encXI_major, encXI_reg_8, encXI_reg_13, encXI_zero,
      encXI_fn, encXI_imm, zero, need, Fin.eta, beq_self_eq_true, if_true]⟩

theorem sltXi (d a : Reg) (i : BitVec 32) : Statement (.sltXi d a i) :=
  fun _ => ⟨_, rfl, by
    rw [encXI_eq]
    simp (disch := omega) only [decode_encXI, decode64, decodeXi, encXI_major, encXI_reg_8, encXI_reg_13, encXI_zero,
      encXI_fn, encXI_imm, zero, need, Fin.eta, beq_self_eq_true, if_true]⟩

theorem sltuXi (d a : Reg) (i : BitVec 32) : Statement (.sltuXi d a i) :=
  fun _ => ⟨_, rfl, by
    rw [encXI_eq]
    simp (disch := omega) only [decode_encXI, decode64, decodeXi, encXI_major, encXI_reg_8, encXI_reg_13, encXI_zero,
      encXI_fn, encXI_imm, zero, need, Fin.eta, beq_self_eq_true, if_true]⟩

theorem bfx (d a : Reg) (pos lenm1 : BitVec 6) : Statement (.bfx d a pos lenm1) :=
  fun hw => ⟨_, rfl, by
    simp (disch := omega) [decode_encRB, decode32, decodeBitf, encRB_fld_2_6, encRB_reg_8, encRB_reg_13,
      encRB_bits_6_18, encRB_bits_6_24, encRB_fld_30_2, Fin.eta, BitVec.ofNat_toNat, BitVec.setWidth_eq]⟩

theorem bfi (d a : Reg) (pos lenm1 : BitVec 6) : Statement (.bfi d a pos lenm1) :=
  fun hw => ⟨_, rfl, by
    simp (disch := omega) [decode_encRB, decode32, decodeBitf, encRB_fld_2_6, encRB_reg_8, encRB_reg_13,
      encRB_bits_6_18, encRB_bits_6_24, encRB_fld_30_2, Fin.eta, BitVec.ofNat_toNat, BitVec.setWidth_eq]⟩

theorem lui (d : Reg) (i : BitVec 19) : Statement (.lui d i) :=
  fun hw => ⟨_, rfl, by
    simp (disch := omega) [decode_encU, decode32, encU_fld_2_6, encU_reg_8, encU_bits_19_13, Fin.eta,
      BitVec.ofNat_toNat, BitVec.setWidth_eq]⟩

theorem addpc (d : Reg) (i : BitVec 19) : Statement (.addpc d i) :=
  fun hw => ⟨_, rfl, by
    simp (disch := omega) [decode_encU, decode32, encU_fld_2_6, encU_reg_8, encU_bits_19_13, Fin.eta,
      BitVec.ofNat_toNat, BitVec.setWidth_eq]⟩

theorem jal (d : Reg) (o : BitVec 19) : Statement (.jal d o) :=
  fun hw => ⟨_, rfl, by
    simp (disch := omega) [decode_encU, decode32, encU_fld_2_6, encU_reg_8, encU_bits_19_13, Fin.eta,
      BitVec.ofNat_toNat, BitVec.setWidth_eq]⟩

theorem jalr (d a : Reg) (i : BitVec 11) : Statement (.jalr d a i) :=
  fun hw => ⟨_, rfl, by
    simp (disch := omega) [decode_encRI, decode32, encRI_fld_2_6, encRI_reg_8, encRI_reg_13, encRI_fld_18_3,
      encRI_bits_11_21, need, Fin.eta, BitVec.ofNat_toNat, BitVec.setWidth_eq]⟩

theorem beq (a b : Reg) (o : BitVec 11) : Statement (.beq a b o) :=
  fun hw => ⟨_, rfl, by
    simp (disch := omega) [decode_encRI, decode32, decodeB, encRI_fld_2_6, encRI_reg_8, encRI_reg_13, encRI_fld_18_3,
      encRI_bits_11_21, Fin.eta, BitVec.ofNat_toNat, BitVec.setWidth_eq]⟩

theorem bne (a b : Reg) (o : BitVec 11) : Statement (.bne a b o) :=
  fun hw => ⟨_, rfl, by
    simp (disch := omega) [decode_encRI, decode32, decodeB, encRI_fld_2_6, encRI_reg_8, encRI_reg_13, encRI_fld_18_3,
      encRI_bits_11_21, Fin.eta, BitVec.ofNat_toNat, BitVec.setWidth_eq]⟩

theorem blt (a b : Reg) (o : BitVec 11) : Statement (.blt a b o) :=
  fun hw => ⟨_, rfl, by
    simp (disch := omega) [decode_encRI, decode32, decodeB, encRI_fld_2_6, encRI_reg_8, encRI_reg_13, encRI_fld_18_3,
      encRI_bits_11_21, Fin.eta, BitVec.ofNat_toNat, BitVec.setWidth_eq]⟩

theorem bge (a b : Reg) (o : BitVec 11) : Statement (.bge a b o) :=
  fun hw => ⟨_, rfl, by
    simp (disch := omega) [decode_encRI, decode32, decodeB, encRI_fld_2_6, encRI_reg_8, encRI_reg_13, encRI_fld_18_3,
      encRI_bits_11_21, Fin.eta, BitVec.ofNat_toNat, BitVec.setWidth_eq]⟩

theorem bltu (a b : Reg) (o : BitVec 11) : Statement (.bltu a b o) :=
  fun hw => ⟨_, rfl, by
    simp (disch := omega) [decode_encRI, decode32, decodeB, encRI_fld_2_6, encRI_reg_8, encRI_reg_13, encRI_fld_18_3,
      encRI_bits_11_21, Fin.eta, BitVec.ofNat_toNat, BitVec.setWidth_eq]⟩

theorem bgeu (a b : Reg) (o : BitVec 11) : Statement (.bgeu a b o) :=
  fun hw => ⟨_, rfl, by
    simp (disch := omega) [decode_encRI, decode32, decodeB, encRI_fld_2_6, encRI_reg_8, encRI_reg_13, encRI_fld_18_3,
      encRI_bits_11_21, Fin.eta, BitVec.ofNat_toNat, BitVec.setWidth_eq]⟩

theorem bqe (q : QReg) (o : BitVec 11) : Statement (.bqe q o) :=
  fun hw => ⟨_, rfl, by
    simp (disch := omega) [decode_encRI, decode32, decodeB, encRI_fld_2_6, encRI_reg_8, encRI_reg_13, encRI_fld_18_3,
      encRI_bits_11_21, zero, need, BitVec.ofNat_toNat, BitVec.setWidth_eq, withQueue_code]⟩

theorem ldB (d base : Reg) (i : BitVec 9) (ql : Qual) : Statement (.ldB d base i ql) :=
  fun hw => ⟨_, rfl, by
    simp (disch := omega) [decode_encRL, decode32, majorFmt, decodeRl, encRL_fld_2_6, encRL_reg_8, encRL_reg_13,
      encRL_fld_18_2, encRL_fld_20_3, encRL_bits_9_23, Fin.eta, BitVec.ofNat_toNat, BitVec.setWidth_eq, withQual_code
      hw]⟩

theorem ldH (d base : Reg) (i : BitVec 9) (ql : Qual) : Statement (.ldH d base i ql) :=
  fun hw => ⟨_, rfl, by
    simp (disch := omega) [decode_encRL, decode32, majorFmt, decodeRl, encRL_fld_2_6, encRL_reg_8, encRL_reg_13,
      encRL_fld_18_2, encRL_fld_20_3, encRL_bits_9_23, Fin.eta, BitVec.ofNat_toNat, BitVec.setWidth_eq, withQual_code
      hw]⟩

theorem ldW (d base : Reg) (i : BitVec 9) (ql : Qual) : Statement (.ldW d base i ql) :=
  fun hw => ⟨_, rfl, by
    simp (disch := omega) [decode_encRL, decode32, majorFmt, decodeRl, encRL_fld_2_6, encRL_reg_8, encRL_reg_13,
      encRL_fld_18_2, encRL_fld_20_3, encRL_bits_9_23, Fin.eta, BitVec.ofNat_toNat, BitVec.setWidth_eq, withQual_code
      hw]⟩

theorem ldD (d base : Reg) (i : BitVec 9) (ql : Qual) : Statement (.ldD d base i ql) :=
  fun hw => ⟨_, rfl, by
    simp (disch := omega) [decode_encRL, decode32, majorFmt, decodeRl, encRL_fld_2_6, encRL_reg_8, encRL_reg_13,
      encRL_fld_18_2, encRL_fld_20_3, encRL_bits_9_23, Fin.eta, BitVec.ofNat_toNat, BitVec.setWidth_eq, withQual_code
      hw]⟩

theorem lduB (d base : Reg) (i : BitVec 9) (ql : Qual) : Statement (.lduB d base i ql) :=
  fun hw => ⟨_, rfl, by
    simp (disch := omega) [decode_encRL, decode32, majorFmt, decodeRl, encRL_fld_2_6, encRL_reg_8, encRL_reg_13,
      encRL_fld_18_2, encRL_fld_20_3, encRL_bits_9_23, Fin.eta, BitVec.ofNat_toNat, BitVec.setWidth_eq, withQual_code
      hw]⟩

theorem lduH (d base : Reg) (i : BitVec 9) (ql : Qual) : Statement (.lduH d base i ql) :=
  fun hw => ⟨_, rfl, by
    simp (disch := omega) [decode_encRL, decode32, majorFmt, decodeRl, encRL_fld_2_6, encRL_reg_8, encRL_reg_13,
      encRL_fld_18_2, encRL_fld_20_3, encRL_bits_9_23, Fin.eta, BitVec.ofNat_toNat, BitVec.setWidth_eq, withQual_code
      hw]⟩

theorem lduW (d base : Reg) (i : BitVec 9) (ql : Qual) : Statement (.lduW d base i ql) :=
  fun hw => ⟨_, rfl, by
    simp (disch := omega) [decode_encRL, decode32, majorFmt, decodeRl, encRL_fld_2_6, encRL_reg_8, encRL_reg_13,
      encRL_fld_18_2, encRL_fld_20_3, encRL_bits_9_23, Fin.eta, BitVec.ofNat_toNat, BitVec.setWidth_eq, withQual_code
      hw]⟩

theorem stB (r base : Reg) (i : BitVec 9) (ql : Qual) : Statement (.stB r base i ql) :=
  fun hw => ⟨_, rfl, by
    simp (disch := omega) [decode_encRL, decode32, majorFmt, decodeRl, encRL_fld_2_6, encRL_reg_8, encRL_reg_13,
      encRL_fld_18_2, encRL_fld_20_3, encRL_bits_9_23, Fin.eta, BitVec.ofNat_toNat, BitVec.setWidth_eq, withQual_code
      hw]⟩

theorem stH (r base : Reg) (i : BitVec 9) (ql : Qual) : Statement (.stH r base i ql) :=
  fun hw => ⟨_, rfl, by
    simp (disch := omega) [decode_encRL, decode32, majorFmt, decodeRl, encRL_fld_2_6, encRL_reg_8, encRL_reg_13,
      encRL_fld_18_2, encRL_fld_20_3, encRL_bits_9_23, Fin.eta, BitVec.ofNat_toNat, BitVec.setWidth_eq, withQual_code
      hw]⟩

theorem stW (r base : Reg) (i : BitVec 9) (ql : Qual) : Statement (.stW r base i ql) :=
  fun hw => ⟨_, rfl, by
    simp (disch := omega) [decode_encRL, decode32, majorFmt, decodeRl, encRL_fld_2_6, encRL_reg_8, encRL_reg_13,
      encRL_fld_18_2, encRL_fld_20_3, encRL_bits_9_23, Fin.eta, BitVec.ofNat_toNat, BitVec.setWidth_eq, withQual_code
      hw]⟩

theorem stD (r base : Reg) (i : BitVec 9) (ql : Qual) : Statement (.stD r base i ql) :=
  fun hw => ⟨_, rfl, by
    simp (disch := omega) [decode_encRL, decode32, majorFmt, decodeRl, encRL_fld_2_6, encRL_reg_8, encRL_reg_13,
      encRL_fld_18_2, encRL_fld_20_3, encRL_bits_9_23, Fin.eta, BitVec.ofNat_toNat, BitVec.setWidth_eq, withQual_code
      hw]⟩

theorem pref (target : Fin 3) (write : Bool) (base : Reg) (i : BitVec 9) (ql : Qual) : Statement (.pref target write
  base i ql) :=
  fun hw => ⟨_, rfl, by
    have h8 := prefHint_lt target write
    simp (disch := omega) [decode_encRL, decode32, majorFmt, decodeRl, encRL_fld_2_6, encRL_reg_8, encRL_reg_13,
      encRL_fld_18_2, encRL_fld_20_3, encRL_bits_9_23, Fin.eta, BitVec.ofNat_toNat, BitVec.setWidth_eq, withQual_code
      hw, decodePref_code]⟩

theorem vld (d base : Reg) (i : BitVec 9) (ql : Qual) : Statement (.vld d base i ql) :=
  fun hw => ⟨_, rfl, by
    simp (disch := omega) [decode_encRL, decode32, majorFmt, decodeRl, encRL_fld_2_6, encRL_reg_8, encRL_reg_13,
      encRL_fld_18_2, encRL_fld_20_3, encRL_bits_9_23, Fin.eta, BitVec.ofNat_toNat, BitVec.setWidth_eq, withQual_code
      hw]⟩

theorem vst (r base : Reg) (i : BitVec 9) (ql : Qual) : Statement (.vst r base i ql) :=
  fun hw => ⟨_, rfl, by
    simp (disch := omega) [decode_encRL, decode32, majorFmt, decodeRl, encRL_fld_2_6, encRL_reg_8, encRL_reg_13,
      encRL_fld_18_2, encRL_fld_20_3, encRL_bits_9_23, Fin.eta, BitVec.ofNat_toNat, BitVec.setWidth_eq, withQual_code
      hw]⟩

theorem ldBXl (d base : Reg) (off : BitVec 32) (ql : Qual) : Statement (.ldBXl d base off ql) :=
  fun hw => ⟨_, rfl, by
    simp (disch := omega) [decode_encXL, decode64, decodeXl, encXL_fld_2_6, encXL_reg_8, encXL_reg_13,
      encXL_fld_18_5, encXL_fld_23_2, encXL_fld_25_3, encXL_fld_28_4, encXL_bits_32_32, zero, need, Fin.eta,
      BitVec.ofNat_toNat, BitVec.setWidth_eq, withQual_code hw]⟩

theorem ldHXl (d base : Reg) (off : BitVec 32) (ql : Qual) : Statement (.ldHXl d base off ql) :=
  fun hw => ⟨_, rfl, by
    simp (disch := omega) [decode_encXL, decode64, decodeXl, encXL_fld_2_6, encXL_reg_8, encXL_reg_13,
      encXL_fld_18_5, encXL_fld_23_2, encXL_fld_25_3, encXL_fld_28_4, encXL_bits_32_32, zero, need, Fin.eta,
      BitVec.ofNat_toNat, BitVec.setWidth_eq, withQual_code hw]⟩

theorem ldWXl (d base : Reg) (off : BitVec 32) (ql : Qual) : Statement (.ldWXl d base off ql) :=
  fun hw => ⟨_, rfl, by
    simp (disch := omega) [decode_encXL, decode64, decodeXl, encXL_fld_2_6, encXL_reg_8, encXL_reg_13,
      encXL_fld_18_5, encXL_fld_23_2, encXL_fld_25_3, encXL_fld_28_4, encXL_bits_32_32, zero, need, Fin.eta,
      BitVec.ofNat_toNat, BitVec.setWidth_eq, withQual_code hw]⟩

theorem ldDXl (d base : Reg) (off : BitVec 32) (ql : Qual) : Statement (.ldDXl d base off ql) :=
  fun hw => ⟨_, rfl, by
    simp (disch := omega) [decode_encXL, decode64, decodeXl, encXL_fld_2_6, encXL_reg_8, encXL_reg_13,
      encXL_fld_18_5, encXL_fld_23_2, encXL_fld_25_3, encXL_fld_28_4, encXL_bits_32_32, zero, need, Fin.eta,
      BitVec.ofNat_toNat, BitVec.setWidth_eq, withQual_code hw]⟩

theorem lduBXl (d base : Reg) (off : BitVec 32) (ql : Qual) : Statement (.lduBXl d base off ql) :=
  fun hw => ⟨_, rfl, by
    simp (disch := omega) [decode_encXL, decode64, decodeXl, encXL_fld_2_6, encXL_reg_8, encXL_reg_13,
      encXL_fld_18_5, encXL_fld_23_2, encXL_fld_25_3, encXL_fld_28_4, encXL_bits_32_32, zero, need, Fin.eta,
      BitVec.ofNat_toNat, BitVec.setWidth_eq, withQual_code hw]⟩

theorem lduHXl (d base : Reg) (off : BitVec 32) (ql : Qual) : Statement (.lduHXl d base off ql) :=
  fun hw => ⟨_, rfl, by
    simp (disch := omega) [decode_encXL, decode64, decodeXl, encXL_fld_2_6, encXL_reg_8, encXL_reg_13,
      encXL_fld_18_5, encXL_fld_23_2, encXL_fld_25_3, encXL_fld_28_4, encXL_bits_32_32, zero, need, Fin.eta,
      BitVec.ofNat_toNat, BitVec.setWidth_eq, withQual_code hw]⟩

theorem lduWXl (d base : Reg) (off : BitVec 32) (ql : Qual) : Statement (.lduWXl d base off ql) :=
  fun hw => ⟨_, rfl, by
    simp (disch := omega) [decode_encXL, decode64, decodeXl, encXL_fld_2_6, encXL_reg_8, encXL_reg_13,
      encXL_fld_18_5, encXL_fld_23_2, encXL_fld_25_3, encXL_fld_28_4, encXL_bits_32_32, zero, need, Fin.eta,
      BitVec.ofNat_toNat, BitVec.setWidth_eq, withQual_code hw]⟩

theorem stBXl (r base : Reg) (off : BitVec 32) (ql : Qual) : Statement (.stBXl r base off ql) :=
  fun hw => ⟨_, rfl, by
    simp (disch := omega) [decode_encXL, decode64, decodeXl, encXL_fld_2_6, encXL_reg_8, encXL_reg_13,
      encXL_fld_18_5, encXL_fld_23_2, encXL_fld_25_3, encXL_fld_28_4, encXL_bits_32_32, zero, need, Fin.eta,
      BitVec.ofNat_toNat, BitVec.setWidth_eq, withQual_code hw]⟩

theorem stHXl (r base : Reg) (off : BitVec 32) (ql : Qual) : Statement (.stHXl r base off ql) :=
  fun hw => ⟨_, rfl, by
    simp (disch := omega) [decode_encXL, decode64, decodeXl, encXL_fld_2_6, encXL_reg_8, encXL_reg_13,
      encXL_fld_18_5, encXL_fld_23_2, encXL_fld_25_3, encXL_fld_28_4, encXL_bits_32_32, zero, need, Fin.eta,
      BitVec.ofNat_toNat, BitVec.setWidth_eq, withQual_code hw]⟩

theorem stWXl (r base : Reg) (off : BitVec 32) (ql : Qual) : Statement (.stWXl r base off ql) :=
  fun hw => ⟨_, rfl, by
    simp (disch := omega) [decode_encXL, decode64, decodeXl, encXL_fld_2_6, encXL_reg_8, encXL_reg_13,
      encXL_fld_18_5, encXL_fld_23_2, encXL_fld_25_3, encXL_fld_28_4, encXL_bits_32_32, zero, need, Fin.eta,
      BitVec.ofNat_toNat, BitVec.setWidth_eq, withQual_code hw]⟩

theorem stDXl (r base : Reg) (off : BitVec 32) (ql : Qual) : Statement (.stDXl r base off ql) :=
  fun hw => ⟨_, rfl, by
    simp (disch := omega) [decode_encXL, decode64, decodeXl, encXL_fld_2_6, encXL_reg_8, encXL_reg_13,
      encXL_fld_18_5, encXL_fld_23_2, encXL_fld_25_3, encXL_fld_28_4, encXL_bits_32_32, zero, need, Fin.eta,
      BitVec.ofNat_toNat, BitVec.setWidth_eq, withQual_code hw]⟩

theorem prefXl (target : Fin 3) (write : Bool) (base : Reg) (off : BitVec 32) (ql : Qual) : Statement (.prefXl target
  write base off ql) :=
  fun hw => ⟨_, rfl, by
    have h8 := prefHint_lt target write
    simp (disch := omega) [decode_encXL, decode64, decodeXl, encXL_fld_2_6, encXL_reg_8, encXL_reg_13,
      encXL_fld_18_5, encXL_fld_23_2, encXL_fld_25_3, encXL_fld_28_4, encXL_bits_32_32, zero, need, Fin.eta,
      BitVec.ofNat_toNat, BitVec.setWidth_eq, withQual_code hw, decodePref_code]⟩

theorem vldXl (d base : Reg) (off : BitVec 32) (ql : Qual) : Statement (.vldXl d base off ql) :=
  fun hw => ⟨_, rfl, by
    simp (disch := omega) [decode_encXL, decode64, decodeXl, encXL_fld_2_6, encXL_reg_8, encXL_reg_13,
      encXL_fld_18_5, encXL_fld_23_2, encXL_fld_25_3, encXL_fld_28_4, encXL_bits_32_32, zero, need, Fin.eta,
      BitVec.ofNat_toNat, BitVec.setWidth_eq, withQual_code hw]⟩

theorem vstXl (r base : Reg) (off : BitVec 32) (ql : Qual) : Statement (.vstXl r base off ql) :=
  fun hw => ⟨_, rfl, by
    simp (disch := omega) [decode_encXL, decode64, decodeXl, encXL_fld_2_6, encXL_reg_8, encXL_reg_13,
      encXL_fld_18_5, encXL_fld_23_2, encXL_fld_25_3, encXL_fld_28_4, encXL_bits_32_32, zero, need, Fin.eta,
      BitVec.ofNat_toNat, BitVec.setWidth_eq, withQual_code hw]⟩

theorem amoAddW (d base b : Reg) (ql : Qual) : Statement (.amoAddW d base b ql) :=
  fun hw => ⟨_, rfl, by
    simp (disch := omega) [decode_encRA, decode32, decodeAmoW, encRA_fld_2_6, encRA_reg_8, encRA_reg_13,
      encRA_reg_18, encRA_fld_23_4, encRA_fld_27_2, encRA_fld_29_3, Fin.eta, withQual_code hw]⟩

theorem amoAndW (d base b : Reg) (ql : Qual) : Statement (.amoAndW d base b ql) :=
  fun hw => ⟨_, rfl, by
    simp (disch := omega) [decode_encRA, decode32, decodeAmoW, encRA_fld_2_6, encRA_reg_8, encRA_reg_13,
      encRA_reg_18, encRA_fld_23_4, encRA_fld_27_2, encRA_fld_29_3, Fin.eta, withQual_code hw]⟩

theorem amoOrW (d base b : Reg) (ql : Qual) : Statement (.amoOrW d base b ql) :=
  fun hw => ⟨_, rfl, by
    simp (disch := omega) [decode_encRA, decode32, decodeAmoW, encRA_fld_2_6, encRA_reg_8, encRA_reg_13,
      encRA_reg_18, encRA_fld_23_4, encRA_fld_27_2, encRA_fld_29_3, Fin.eta, withQual_code hw]⟩

theorem amoXorW (d base b : Reg) (ql : Qual) : Statement (.amoXorW d base b ql) :=
  fun hw => ⟨_, rfl, by
    simp (disch := omega) [decode_encRA, decode32, decodeAmoW, encRA_fld_2_6, encRA_reg_8, encRA_reg_13,
      encRA_reg_18, encRA_fld_23_4, encRA_fld_27_2, encRA_fld_29_3, Fin.eta, withQual_code hw]⟩

theorem amoMinW (d base b : Reg) (ql : Qual) : Statement (.amoMinW d base b ql) :=
  fun hw => ⟨_, rfl, by
    simp (disch := omega) [decode_encRA, decode32, decodeAmoW, encRA_fld_2_6, encRA_reg_8, encRA_reg_13,
      encRA_reg_18, encRA_fld_23_4, encRA_fld_27_2, encRA_fld_29_3, Fin.eta, withQual_code hw]⟩

theorem amoMaxW (d base b : Reg) (ql : Qual) : Statement (.amoMaxW d base b ql) :=
  fun hw => ⟨_, rfl, by
    simp (disch := omega) [decode_encRA, decode32, decodeAmoW, encRA_fld_2_6, encRA_reg_8, encRA_reg_13,
      encRA_reg_18, encRA_fld_23_4, encRA_fld_27_2, encRA_fld_29_3, Fin.eta, withQual_code hw]⟩

theorem amoMinuW (d base b : Reg) (ql : Qual) : Statement (.amoMinuW d base b ql) :=
  fun hw => ⟨_, rfl, by
    simp (disch := omega) [decode_encRA, decode32, decodeAmoW, encRA_fld_2_6, encRA_reg_8, encRA_reg_13,
      encRA_reg_18, encRA_fld_23_4, encRA_fld_27_2, encRA_fld_29_3, Fin.eta, withQual_code hw]⟩

theorem amoMaxuW (d base b : Reg) (ql : Qual) : Statement (.amoMaxuW d base b ql) :=
  fun hw => ⟨_, rfl, by
    simp (disch := omega) [decode_encRA, decode32, decodeAmoW, encRA_fld_2_6, encRA_reg_8, encRA_reg_13,
      encRA_reg_18, encRA_fld_23_4, encRA_fld_27_2, encRA_fld_29_3, Fin.eta, withQual_code hw]⟩

theorem amoSwapW (d base b : Reg) (ql : Qual) : Statement (.amoSwapW d base b ql) :=
  fun hw => ⟨_, rfl, by
    simp (disch := omega) [decode_encRA, decode32, decodeAmoW, encRA_fld_2_6, encRA_reg_8, encRA_reg_13,
      encRA_reg_18, encRA_fld_23_4, encRA_fld_27_2, encRA_fld_29_3, Fin.eta, withQual_code hw]⟩

theorem amoFaddW (d base b : Reg) (ql : Qual) : Statement (.amoFaddW d base b ql) :=
  fun hw => ⟨_, rfl, by
    simp (disch := omega) [decode_encRA, decode32, decodeAmoW, encRA_fld_2_6, encRA_reg_8, encRA_reg_13,
      encRA_reg_18, encRA_fld_23_4, encRA_fld_27_2, encRA_fld_29_3, Fin.eta, withQual_code hw]⟩

theorem amoFminW (d base b : Reg) (ql : Qual) : Statement (.amoFminW d base b ql) :=
  fun hw => ⟨_, rfl, by
    simp (disch := omega) [decode_encRA, decode32, decodeAmoW, encRA_fld_2_6, encRA_reg_8, encRA_reg_13,
      encRA_reg_18, encRA_fld_23_4, encRA_fld_27_2, encRA_fld_29_3, Fin.eta, withQual_code hw]⟩

theorem amoFmaxW (d base b : Reg) (ql : Qual) : Statement (.amoFmaxW d base b ql) :=
  fun hw => ⟨_, rfl, by
    simp (disch := omega) [decode_encRA, decode32, decodeAmoW, encRA_fld_2_6, encRA_reg_8, encRA_reg_13,
      encRA_reg_18, encRA_fld_23_4, encRA_fld_27_2, encRA_fld_29_3, Fin.eta, withQual_code hw]⟩

theorem casW (d base b : Reg) (ql : Qual) : Statement (.casW d base b ql) :=
  fun hw => ⟨_, rfl, by
    simp (disch := omega) [decode_encRA, decode32, decodeAmoW, encRA_fld_2_6, encRA_reg_8, encRA_reg_13,
      encRA_reg_18, encRA_fld_23_4, encRA_fld_27_2, encRA_fld_29_3, Fin.eta, withQual_code hw]⟩

theorem amoAddD (d base b : Reg) (ql : Qual) : Statement (.amoAddD d base b ql) :=
  fun hw => ⟨_, rfl, by
    simp (disch := omega) [decode_encRA, decode32, decodeAmoD, encRA_fld_2_6, encRA_reg_8, encRA_reg_13,
      encRA_reg_18, encRA_fld_23_4, encRA_fld_27_2, encRA_fld_29_3, Fin.eta, withQual_code hw]⟩

theorem amoAndD (d base b : Reg) (ql : Qual) : Statement (.amoAndD d base b ql) :=
  fun hw => ⟨_, rfl, by
    simp (disch := omega) [decode_encRA, decode32, decodeAmoD, encRA_fld_2_6, encRA_reg_8, encRA_reg_13,
      encRA_reg_18, encRA_fld_23_4, encRA_fld_27_2, encRA_fld_29_3, Fin.eta, withQual_code hw]⟩

theorem amoOrD (d base b : Reg) (ql : Qual) : Statement (.amoOrD d base b ql) :=
  fun hw => ⟨_, rfl, by
    simp (disch := omega) [decode_encRA, decode32, decodeAmoD, encRA_fld_2_6, encRA_reg_8, encRA_reg_13,
      encRA_reg_18, encRA_fld_23_4, encRA_fld_27_2, encRA_fld_29_3, Fin.eta, withQual_code hw]⟩

theorem amoXorD (d base b : Reg) (ql : Qual) : Statement (.amoXorD d base b ql) :=
  fun hw => ⟨_, rfl, by
    simp (disch := omega) [decode_encRA, decode32, decodeAmoD, encRA_fld_2_6, encRA_reg_8, encRA_reg_13,
      encRA_reg_18, encRA_fld_23_4, encRA_fld_27_2, encRA_fld_29_3, Fin.eta, withQual_code hw]⟩

theorem amoMinD (d base b : Reg) (ql : Qual) : Statement (.amoMinD d base b ql) :=
  fun hw => ⟨_, rfl, by
    simp (disch := omega) [decode_encRA, decode32, decodeAmoD, encRA_fld_2_6, encRA_reg_8, encRA_reg_13,
      encRA_reg_18, encRA_fld_23_4, encRA_fld_27_2, encRA_fld_29_3, Fin.eta, withQual_code hw]⟩

theorem amoMaxD (d base b : Reg) (ql : Qual) : Statement (.amoMaxD d base b ql) :=
  fun hw => ⟨_, rfl, by
    simp (disch := omega) [decode_encRA, decode32, decodeAmoD, encRA_fld_2_6, encRA_reg_8, encRA_reg_13,
      encRA_reg_18, encRA_fld_23_4, encRA_fld_27_2, encRA_fld_29_3, Fin.eta, withQual_code hw]⟩

theorem amoMinuD (d base b : Reg) (ql : Qual) : Statement (.amoMinuD d base b ql) :=
  fun hw => ⟨_, rfl, by
    simp (disch := omega) [decode_encRA, decode32, decodeAmoD, encRA_fld_2_6, encRA_reg_8, encRA_reg_13,
      encRA_reg_18, encRA_fld_23_4, encRA_fld_27_2, encRA_fld_29_3, Fin.eta, withQual_code hw]⟩

theorem amoMaxuD (d base b : Reg) (ql : Qual) : Statement (.amoMaxuD d base b ql) :=
  fun hw => ⟨_, rfl, by
    simp (disch := omega) [decode_encRA, decode32, decodeAmoD, encRA_fld_2_6, encRA_reg_8, encRA_reg_13,
      encRA_reg_18, encRA_fld_23_4, encRA_fld_27_2, encRA_fld_29_3, Fin.eta, withQual_code hw]⟩

theorem amoSwapD (d base b : Reg) (ql : Qual) : Statement (.amoSwapD d base b ql) :=
  fun hw => ⟨_, rfl, by
    simp (disch := omega) [decode_encRA, decode32, decodeAmoD, encRA_fld_2_6, encRA_reg_8, encRA_reg_13,
      encRA_reg_18, encRA_fld_23_4, encRA_fld_27_2, encRA_fld_29_3, Fin.eta, withQual_code hw]⟩

theorem casD (d base b : Reg) (ql : Qual) : Statement (.casD d base b ql) :=
  fun hw => ⟨_, rfl, by
    simp (disch := omega) [decode_encRA, decode32, decodeAmoD, encRA_fld_2_6, encRA_reg_8, encRA_reg_13,
      encRA_reg_18, encRA_fld_23_4, encRA_fld_27_2, encRA_fld_29_3, Fin.eta, withQual_code hw]⟩

theorem amoAddXa (d base b : Reg) (ql : Qual) (pl : AtomPlace) (wide : Bool) : Statement (.amoAddXa d base b ql pl
  wide) :=
  fun hw => ⟨_, rfl, by
    simp (disch := omega) [decode_encXA, decode64, decodeXa, encXA_fld_2_6, encXA_reg_8, encXA_reg_13, encXA_reg_18,
      encXA_fld_23_5, encXA_fld_28_4, encXA_fld_32_2, encXA_fld_34_2, encXA_fld_36_3, encXA_bit_39, encXA_fld_40_24,
      zero, need, Fin.eta, withQual_code hw, placeOf_code]⟩

theorem amoAndXa (d base b : Reg) (ql : Qual) (pl : AtomPlace) (wide : Bool) : Statement (.amoAndXa d base b ql pl
  wide) :=
  fun hw => ⟨_, rfl, by
    simp (disch := omega) [decode_encXA, decode64, decodeXa, encXA_fld_2_6, encXA_reg_8, encXA_reg_13, encXA_reg_18,
      encXA_fld_23_5, encXA_fld_28_4, encXA_fld_32_2, encXA_fld_34_2, encXA_fld_36_3, encXA_bit_39, encXA_fld_40_24,
      zero, need, Fin.eta, withQual_code hw, placeOf_code]⟩

theorem amoOrXa (d base b : Reg) (ql : Qual) (pl : AtomPlace) (wide : Bool) : Statement (.amoOrXa d base b ql pl
  wide) :=
  fun hw => ⟨_, rfl, by
    simp (disch := omega) [decode_encXA, decode64, decodeXa, encXA_fld_2_6, encXA_reg_8, encXA_reg_13, encXA_reg_18,
      encXA_fld_23_5, encXA_fld_28_4, encXA_fld_32_2, encXA_fld_34_2, encXA_fld_36_3, encXA_bit_39, encXA_fld_40_24,
      zero, need, Fin.eta, withQual_code hw, placeOf_code]⟩

theorem amoXorXa (d base b : Reg) (ql : Qual) (pl : AtomPlace) (wide : Bool) : Statement (.amoXorXa d base b ql pl
  wide) :=
  fun hw => ⟨_, rfl, by
    simp (disch := omega) [decode_encXA, decode64, decodeXa, encXA_fld_2_6, encXA_reg_8, encXA_reg_13, encXA_reg_18,
      encXA_fld_23_5, encXA_fld_28_4, encXA_fld_32_2, encXA_fld_34_2, encXA_fld_36_3, encXA_bit_39, encXA_fld_40_24,
      zero, need, Fin.eta, withQual_code hw, placeOf_code]⟩

theorem amoMinXa (d base b : Reg) (ql : Qual) (pl : AtomPlace) (wide : Bool) : Statement (.amoMinXa d base b ql pl
  wide) :=
  fun hw => ⟨_, rfl, by
    simp (disch := omega) [decode_encXA, decode64, decodeXa, encXA_fld_2_6, encXA_reg_8, encXA_reg_13, encXA_reg_18,
      encXA_fld_23_5, encXA_fld_28_4, encXA_fld_32_2, encXA_fld_34_2, encXA_fld_36_3, encXA_bit_39, encXA_fld_40_24,
      zero, need, Fin.eta, withQual_code hw, placeOf_code]⟩

theorem amoMaxXa (d base b : Reg) (ql : Qual) (pl : AtomPlace) (wide : Bool) : Statement (.amoMaxXa d base b ql pl
  wide) :=
  fun hw => ⟨_, rfl, by
    simp (disch := omega) [decode_encXA, decode64, decodeXa, encXA_fld_2_6, encXA_reg_8, encXA_reg_13, encXA_reg_18,
      encXA_fld_23_5, encXA_fld_28_4, encXA_fld_32_2, encXA_fld_34_2, encXA_fld_36_3, encXA_bit_39, encXA_fld_40_24,
      zero, need, Fin.eta, withQual_code hw, placeOf_code]⟩

theorem amoMinuXa (d base b : Reg) (ql : Qual) (pl : AtomPlace) (wide : Bool) : Statement (.amoMinuXa d base b ql pl
  wide) :=
  fun hw => ⟨_, rfl, by
    simp (disch := omega) [decode_encXA, decode64, decodeXa, encXA_fld_2_6, encXA_reg_8, encXA_reg_13, encXA_reg_18,
      encXA_fld_23_5, encXA_fld_28_4, encXA_fld_32_2, encXA_fld_34_2, encXA_fld_36_3, encXA_bit_39, encXA_fld_40_24,
      zero, need, Fin.eta, withQual_code hw, placeOf_code]⟩

theorem amoMaxuXa (d base b : Reg) (ql : Qual) (pl : AtomPlace) (wide : Bool) : Statement (.amoMaxuXa d base b ql pl
  wide) :=
  fun hw => ⟨_, rfl, by
    simp (disch := omega) [decode_encXA, decode64, decodeXa, encXA_fld_2_6, encXA_reg_8, encXA_reg_13, encXA_reg_18,
      encXA_fld_23_5, encXA_fld_28_4, encXA_fld_32_2, encXA_fld_34_2, encXA_fld_36_3, encXA_bit_39, encXA_fld_40_24,
      zero, need, Fin.eta, withQual_code hw, placeOf_code]⟩

theorem amoSwapXa (d base b : Reg) (ql : Qual) (pl : AtomPlace) (wide : Bool) : Statement (.amoSwapXa d base b ql pl
  wide) :=
  fun hw => ⟨_, rfl, by
    simp (disch := omega) [decode_encXA, decode64, decodeXa, encXA_fld_2_6, encXA_reg_8, encXA_reg_13, encXA_reg_18,
      encXA_fld_23_5, encXA_fld_28_4, encXA_fld_32_2, encXA_fld_34_2, encXA_fld_36_3, encXA_bit_39, encXA_fld_40_24,
      zero, need, Fin.eta, withQual_code hw, placeOf_code]⟩

theorem amoFaddXa (d base b : Reg) (ql : Qual) (pl : AtomPlace) : Statement (.amoFaddXa d base b ql pl) :=
  fun hw => ⟨_, rfl, by
    simp (disch := omega) [decode_encXA, decode64, decodeXa, encXA_fld_2_6, encXA_reg_8, encXA_reg_13, encXA_reg_18,
      encXA_fld_23_5, encXA_fld_28_4, encXA_fld_32_2, encXA_fld_34_2, encXA_fld_36_3, encXA_bit_39, encXA_fld_40_24,
      zero, need, Fin.eta, withQual_code hw, placeOf_code]⟩

theorem amoFminXa (d base b : Reg) (ql : Qual) (pl : AtomPlace) : Statement (.amoFminXa d base b ql pl) :=
  fun hw => ⟨_, rfl, by
    simp (disch := omega) [decode_encXA, decode64, decodeXa, encXA_fld_2_6, encXA_reg_8, encXA_reg_13, encXA_reg_18,
      encXA_fld_23_5, encXA_fld_28_4, encXA_fld_32_2, encXA_fld_34_2, encXA_fld_36_3, encXA_bit_39, encXA_fld_40_24,
      zero, need, Fin.eta, withQual_code hw, placeOf_code]⟩

theorem amoFmaxXa (d base b : Reg) (ql : Qual) (pl : AtomPlace) : Statement (.amoFmaxXa d base b ql pl) :=
  fun hw => ⟨_, rfl, by
    simp (disch := omega) [decode_encXA, decode64, decodeXa, encXA_fld_2_6, encXA_reg_8, encXA_reg_13, encXA_reg_18,
      encXA_fld_23_5, encXA_fld_28_4, encXA_fld_32_2, encXA_fld_34_2, encXA_fld_36_3, encXA_bit_39, encXA_fld_40_24,
      zero, need, Fin.eta, withQual_code hw, placeOf_code]⟩

theorem casXa (d base b : Reg) (ql : Qual) (pl : AtomPlace) (wide : Bool) : Statement (.casXa d base b ql pl wide) :=
  fun hw => ⟨_, rfl, by
    simp (disch := omega) [decode_encXA, decode64, decodeXa, encXA_fld_2_6, encXA_reg_8, encXA_reg_13, encXA_reg_18,
      encXA_fld_23_5, encXA_fld_28_4, encXA_fld_32_2, encXA_fld_34_2, encXA_fld_36_3, encXA_bit_39, encXA_fld_40_24,
      zero, need, Fin.eta, withQual_code hw, placeOf_code]⟩

theorem atomicActivation (core : Nat) : Statement (.atomicActivation core) :=
  fun h => by cases h

theorem fence (ql : Qual) : Statement (.fence ql) :=
  fun hw => ⟨_, rfl, by
    simp (disch := omega) [decode_encRL, decode32, decodeRf, encRL_fld_2_6, encRL_reg_8, encRL_reg_13,
      encRL_fld_18_2, encRL_fld_20_3, encRL_fld_23_9, zero, need, withFenceQual_code]⟩

theorem rpseal (d a : Reg) : Statement (.rpseal d a) :=
  fun hw => ⟨_, rfl, by
    simp (disch := omega) [decode_encRR, decode32, decodeRf, encRR_fld_2_6, encRR_reg_8, encRR_reg_13,
      encRR_fld_18_5, encRR_fld_23_9, zero, need, Fin.eta]⟩

theorem rpsealT (d a : Reg) : Statement (.rpsealT d a) :=
  fun hw => ⟨_, rfl, by
    simp (disch := omega) [decode_encRR, decode32, decodeRf, encRR_fld_2_6, encRR_reg_8, encRR_reg_13,
      encRR_fld_18_5, encRR_fld_23_9, zero, need, Fin.eta]⟩

theorem rprestore (d a : Reg) : Statement (.rprestore d a) :=
  fun hw => ⟨_, rfl, by
    simp (disch := omega) [decode_encRR, decode32, decodeRf, encRR_fld_2_6, encRR_reg_8, encRR_reg_13,
      encRR_fld_18_5, encRR_fld_23_9, zero, need, Fin.eta]⟩

theorem sysc : Statement (.sysc) :=
  fun hw => ⟨_, rfl, by
    simp (disch := omega) [decode_encRR, decode32, decodeSys, encRR_fld_2_6, encRR_reg_8, encRR_reg_13, encRR_reg_18,
      encRR_fld_23_9, zero, need]⟩

theorem retk : Statement (.retk) :=
  fun hw => ⟨_, rfl, by
    simp (disch := omega) [decode_encRR, decode32, decodeSys, encRR_fld_2_6, encRR_reg_8, encRR_reg_13, encRR_reg_18,
      encRR_fld_23_9, zero, need]⟩

theorem wfi : Statement (.wfi) :=
  fun hw => ⟨_, rfl, by
    simp (disch := omega) [decode_encRR, decode32, decodeSys, encRR_fld_2_6, encRR_reg_8, encRR_reg_13, encRR_reg_18,
      encRR_fld_23_9, zero, need]⟩

theorem fend : Statement (.fend) :=
  fun hw => ⟨_, rfl, by
    simp (disch := omega) [decode_encRR, decode32, decodeSys, encRR_fld_2_6, encRR_reg_8, encRR_reg_13, encRR_reg_18,
      encRR_fld_23_9, zero, need]⟩

theorem brk : Statement (.brk) :=
  fun hw => ⟨_, rfl, by
    simp (disch := omega) [decode_encRR, decode32, decodeSys, encRR_fld_2_6, encRR_reg_8, encRR_reg_13, encRR_reg_18,
      encRR_fld_23_9, zero, need]⟩

theorem tlbinv (a b : Reg) : Statement (.tlbinv a b) :=
  fun hw => ⟨_, rfl, by
    simp (disch := omega) [decode_encRR, decode32, decodeSys, encRR_fld_2_6, encRR_reg_8, encRR_reg_13, encRR_reg_18,
      encRR_fld_23_9, zero, need, Fin.eta]⟩

theorem l1inv (a : Reg) : Statement (.l1inv a) :=
  fun hw => ⟨_, rfl, by
    simp (disch := omega) [decode_encRR, decode32, decodeSys, encRR_fld_2_6, encRR_reg_8, encRR_reg_13, encRR_reg_18,
      encRR_fld_23_9, zero, need, Fin.eta]⟩

theorem srr (d : Reg) (sel : BitVec 8) : Statement (.srr d sel) :=
  fun hw => ⟨_, rfl, by
    have hb0 : sel.toNat < 256 := sel.isLt
    simp (disch := omega) [decode_encRI, decode32, decodeSr, encRI_fld_2_6, encRI_reg_8, encRI_reg_13,
      encRI_fld_18_3, encRI_bits_8_21, encRI_fld_29_3, zero, need, Fin.eta, BitVec.ofNat_toNat, BitVec.setWidth_eq,
      hb0]⟩

theorem srw (sel : BitVec 8) (a : Reg) : Statement (.srw sel a) :=
  fun hw => ⟨_, rfl, by
    have hb0 : sel.toNat < 256 := sel.isLt
    simp (disch := omega) [decode_encRI, decode32, decodeSr, encRI_fld_2_6, encRI_reg_8, encRI_reg_13,
      encRI_fld_18_3, encRI_bits_8_21, encRI_fld_29_3, zero, need, Fin.eta, BitVec.ofNat_toNat, BitVec.setWidth_eq,
      hb0]⟩

theorem srs (sel : BitVec 8) (a : Reg) : Statement (.srs sel a) :=
  fun hw => ⟨_, rfl, by
    have hb0 : sel.toNat < 256 := sel.isLt
    simp (disch := omega) [decode_encRI, decode32, decodeSr, encRI_fld_2_6, encRI_reg_8, encRI_reg_13,
      encRI_fld_18_3, encRI_bits_8_21, encRI_fld_29_3, zero, need, Fin.eta, BitVec.ofNat_toNat, BitVec.setWidth_eq,
      hb0]⟩

theorem src (sel : BitVec 8) (a : Reg) : Statement (.src sel a) :=
  fun hw => ⟨_, rfl, by
    have hb0 : sel.toNat < 256 := sel.isLt
    simp (disch := omega) [decode_encRI, decode32, decodeSr, encRI_fld_2_6, encRI_reg_8, encRI_reg_13,
      encRI_fld_18_3, encRI_bits_8_21, encRI_fld_29_3, zero, need, Fin.eta, BitVec.ofNat_toNat, BitVec.setWidth_eq,
      hb0]⟩

theorem hint (h : BitVec 24) : Statement (.hint h) :=
  fun _ => ⟨_, rfl, by
    have hm : (maj32 0 + h.toNat * 2 ^ 8) % 4 = 2 := by unfold maj32; omega
    have hl : maj32 0 + h.toNat * 2 ^ 8 < 2 ^ 32 := by unfold maj32; omega
    have h0 : fld (maj32 0 + h.toNat * 2 ^ 8) 2 6 = 0 := by unfold fld maj32; omega
    have h1 : bitsAt 24 (maj32 0 + h.toNat * 2 ^ 8) 8 = h := by
      apply BitVec.eq_of_toNat_eq; unfold bitsAt maj32; simp only [BitVec.toNat_ofNat]; omega
    rw [decode_32 hm hl]
    simp only [decode32, h0, h1]⟩

theorem hint64 (h : BitVec 56) : Statement (.hint64 h) :=
  fun _ => ⟨_, rfl, by
    have hm : (maj64 0 + h.toNat * 2 ^ 8) % 4 = 3 := by unfold maj64; omega
    have hl : maj64 0 + h.toNat * 2 ^ 8 < 2 ^ 64 := by unfold maj64; omega
    have h0 : fld (maj64 0 + h.toNat * 2 ^ 8) 2 6 = 0 := by unfold fld maj64; omega
    have h1 : bitsAt 56 (maj64 0 + h.toNat * 2 ^ 8) 8 = h := by
      apply BitVec.eq_of_toNat_eq; unfold bitsAt maj64; simp only [BitVec.toNat_ofNat]; omega
    rw [decode_64 hm hl]
    simp only [decode64, h0, h1]⟩

theorem reservedEncoding (why : Reserved) : Statement (.reservedEncoding why) :=
  fun h => by cases h

theorem lstr (q : QReg) (a b : Reg) : Statement (.lstr q a b) :=
  fun hw => ⟨_, rfl, by
    simp (disch := omega) [decode_encQ, decode32, decodeQop, encQ_fld_2_6, encQ_fld_8_5, encQ_reg_13, encQ_reg_18,
      encQ_fld_23_5, encQ_fld_28_4, zero, need, Fin.eta, withQueue_code]⟩

theorem sstr (q : QReg) (a b : Reg) : Statement (.sstr q a b) :=
  fun hw => ⟨_, rfl, by
    simp (disch := omega) [decode_encQ, decode32, decodeQop, encQ_fld_2_6, encQ_fld_8_5, encQ_reg_13, encQ_reg_18,
      encQ_fld_23_5, encQ_fld_28_4, zero, need, Fin.eta, withQueue_code]⟩

theorem qend (q : QReg) : Statement (.qend q) :=
  fun hw => ⟨_, rfl, by
    simp (disch := omega) [decode_encQ, decode32, decodeQop, encQ_fld_2_6, encQ_fld_8_5, encQ_reg_13, encQ_reg_18,
      encQ_fld_23_5, encQ_fld_28_4, zero, need, withQueue_code]⟩

theorem qpeek (g : Reg) (q : QReg) (i : BitVec 4) : Statement (.qpeek g q i) :=
  fun _ => ⟨_, rfl, by
    have h1 : bitAt (encQ q g 0 (i.toNat) 3) 27 = false := by
      rw [encQ_bit_27 (by omega) (by omega) (by omega) (by omega)]
      have : (i.toNat) / 16 = 0 := by omega
      rw [this]
      rfl
    have h2 : bitsAt 4 (encQ q g 0 (i.toNat) 3) 23 = i := by
      rw [encQ_bits_4_23] <;> first | omega | (apply BitVec.eq_of_toNat_eq; simp only [BitVec.toNat_ofNat]; omega)
    simp (disch := omega) [decode_encQ, decode32, decodeQop, encQ_fld_2_6, encQ_fld_8_5, encQ_fld_28_4, encQ_reg_13,
      encQ_reg_18, h1, h2, zero, need, withQueue_code]⟩

theorem qpeekD (g : Reg) (q : QReg) (i : BitVec 4) : Statement (.qpeekD g q i) :=
  fun _ => ⟨_, rfl, by
    have h1 : bitAt (encQ q g 0 (i.toNat + 16) 3) 27 = true := by
      rw [encQ_bit_27 (by omega) (by omega) (by omega) (by omega)]
      have : (i.toNat + 16) / 16 = 1 := by omega
      rw [this]
      rfl
    have h2 : bitsAt 4 (encQ q g 0 (i.toNat + 16) 3) 23 = i := by
      rw [encQ_bits_4_23] <;> first | omega | (apply BitVec.eq_of_toNat_eq; simp only [BitVec.toNat_ofNat]; omega)
    simp (disch := omega) [decode_encQ, decode32, decodeQop, encQ_fld_2_6, encQ_fld_8_5, encQ_fld_28_4, encQ_reg_13,
      encQ_reg_18, h1, h2, zero, need, withQueue_code]⟩

theorem qcnt (g : Reg) (q : QReg) : Statement (.qcnt g q) :=
  fun hw => ⟨_, rfl, by
    simp (disch := omega) [decode_encQ, decode32, decodeQop, encQ_fld_2_6, encQ_fld_8_5, encQ_reg_13, encQ_reg_18,
      encQ_fld_23_5, encQ_fld_28_4, zero, need, Fin.eta, withQueue_code]⟩

theorem push (slot : BitVec 4) (gs : Reg) : Statement (.push slot gs) :=
  fun hw => ⟨_, rfl, by
    have hb0 : slot.toNat < 16 := slot.isLt
    simp (disch := omega) [decode_encT, decode32, decodeTaska, encT_fld_2_6, encT_reg_8, encT_reg_13, encT_reg_18,
      encT_fld_23_3, encT_fld_26_6, encT_bits_4_26, zero, need, Fin.eta, BitVec.ofNat_toNat, BitVec.setWidth_eq, hb0]⟩

theorem pushr (gc : Reg) (slot : BitVec 4) (gs : Reg) : Statement (.pushr gc slot gs) :=
  fun hw => ⟨_, rfl, by
    have hb0 : slot.toNat < 16 := slot.isLt
    simp (disch := omega) [decode_encT, decode32, decodeTaska, encT_fld_2_6, encT_reg_8, encT_reg_13, encT_reg_18,
      encT_fld_23_3, encT_fld_26_6, encT_bits_4_26, zero, need, Fin.eta, BitVec.ofNat_toNat, BitVec.setWidth_eq, hb0]⟩

theorem send (gc : Reg) (cls : BitVec 6) (gs : Reg) : Statement (.send gc cls gs) :=
  fun hw => ⟨_, rfl, by
    simp (disch := omega) [decode_encT, decode32, decodeTaska, encT_fld_2_6, encT_reg_8, encT_reg_13, encT_reg_18,
      encT_fld_23_3, encT_bits_6_26, zero, need, Fin.eta, BitVec.ofNat_toNat, BitVec.setWidth_eq]⟩

theorem sendh (gc : Reg) (cls : BitVec 6) (gs : Reg) : Statement (.sendh gc cls gs) :=
  fun hw => ⟨_, rfl, by
    simp (disch := omega) [decode_encT, decode32, decodeTaska, encT_fld_2_6, encT_reg_8, encT_reg_13, encT_reg_18,
      encT_fld_23_3, encT_bits_6_26, zero, need, Fin.eta, BitVec.ofNat_toNat, BitVec.setWidth_eq]⟩

theorem barj (lvl : BitVec 3) (n : BitVec 6) : Statement (.barj lvl n) :=
  fun hw => ⟨_, rfl, by
    have hb0 : lvl.toNat < 8 := lvl.isLt
    have hb1 : n.toNat < 64 := n.isLt
    simp (disch := omega) [decode_encT, decode32, decodeTaska, encT_fld_2_6, encT_reg_8, encT_reg_13, encT_reg_18,
      encT_fld_23_3, encT_bits_6_26, encT_bits_3_18, zero, need, BitVec.ofNat_toNat, BitVec.setWidth_eq, hb0]⟩

theorem bar (d : Reg) (lvl : BitVec 3) (n : BitVec 6) : Statement (.bar d lvl n) :=
  fun hw => ⟨_, rfl, by
    have hb0 : lvl.toNat < 8 := lvl.isLt
    have hb1 : n.toNat < 64 := n.isLt
    simp (disch := omega) [decode_encT, decode32, decodeTaska, encT_fld_2_6, encT_reg_8, encT_reg_13, encT_reg_18,
      encT_fld_23_3, encT_bits_6_26, encT_bits_3_18, zero, need, Fin.eta, BitVec.ofNat_toNat, BitVec.setWidth_eq,
      hb0]⟩

theorem barl (lvl : BitVec 3) (n : BitVec 6) : Statement (.barl lvl n) :=
  fun hw => ⟨_, rfl, by
    have hb0 : lvl.toNat < 8 := lvl.isLt
    have hb1 : n.toNat < 64 := n.isLt
    simp (disch := omega) [decode_encT, decode32, decodeTaska, encT_fld_2_6, encT_reg_8, encT_reg_13, encT_reg_18,
      encT_fld_23_3, encT_bits_6_26, encT_bits_3_18, zero, need, BitVec.ofNat_toNat, BitVec.setWidth_eq, hb0]⟩

theorem barst (d : Reg) (lvl : BitVec 3) (n : BitVec 6) : Statement (.barst d lvl n) :=
  fun hw => ⟨_, rfl, by
    have hb0 : lvl.toNat < 8 := lvl.isLt
    have hb1 : n.toNat < 64 := n.isLt
    simp (disch := omega) [decode_encT, decode32, decodeTaska, encT_fld_2_6, encT_reg_8, encT_reg_13, encT_reg_18,
      encT_fld_23_3, encT_bits_6_26, encT_bits_3_18, zero, need, Fin.eta, BitVec.ofNat_toNat, BitVec.setWidth_eq,
      hb0]⟩

theorem launch (d a : Reg) : Statement (.launch d a) :=
  fun hw => ⟨_, rfl, by
    simp (disch := omega) [decode_encT, decode32, decodeTaskb, encT_fld_2_6, encT_reg_8, encT_reg_13, encT_reg_18,
      encT_fld_23_3, encT_fld_26_6, zero, need, Fin.eta]⟩

theorem abump (d a : Reg) (arena : BitVec 3) : Statement (.abump d a arena) :=
  fun _ => ⟨_, rfl, by
    have h0 : fld (encT 0x1E d a 0 1 (arena.toNat)) 26 6 / 16 = 0 := by rw [encT_fld_26_6] <;> omega
    have h1 : bitAt (encT 0x1E d a 0 1 (arena.toNat)) 29 = false := by
      rw [encT_bit_29 (by omega) (by omega) (by omega) (by omega) (by omega) (by omega)]
      have : (arena.toNat) / 8 % 2 = 0 := by omega
      rw [this]
      rfl
    have h2 : bitsAt 3 (encT 0x1E d a 0 1 (arena.toNat)) 26 = arena := by
      rw [encT_bits_3_26] <;> first | omega | (apply BitVec.eq_of_toNat_eq; simp only [BitVec.toNat_ofNat]; omega)
    simp (disch := omega) only [decode_encT, decode32, decodeTaskb, encT_fld_2_6, encT_fld_23_3, encT_reg_8,
      encT_reg_13, encT_reg_18, h0, h1, h2, zero, need, Nat.add_zero, beq_self_eq_true, if_true, Fin.eta,
      Bool.false_eq_true, if_false]⟩

theorem abumpT (d a : Reg) (arena : BitVec 3) : Statement (.abumpT d a arena) :=
  fun _ => ⟨_, rfl, by
    have h0 : fld (encT 0x1E d a 0 1 (arena.toNat + 8)) 26 6 / 16 = 0 := by rw [encT_fld_26_6] <;> omega
    have h1 : bitAt (encT 0x1E d a 0 1 (arena.toNat + 8)) 29 = true := by
      rw [encT_bit_29 (by omega) (by omega) (by omega) (by omega) (by omega) (by omega)]
      have : (arena.toNat + 8) / 8 % 2 = 1 := by omega
      rw [this]
      rfl
    have h2 : bitsAt 3 (encT 0x1E d a 0 1 (arena.toNat + 8)) 26 = arena := by
      rw [encT_bits_3_26] <;> first | omega | (apply BitVec.eq_of_toNat_eq; simp only [BitVec.toNat_ofNat]; omega)
    simp (disch := omega) only [decode_encT, decode32, decodeTaskb, encT_fld_2_6, encT_fld_23_3, encT_reg_8,
      encT_reg_13, encT_reg_18, h0, h1, h2, zero, need, Nat.add_zero, beq_self_eq_true, if_true, Fin.eta]⟩

theorem mld (md : Fin 16) (idx : BitVec 3) : Statement (.mld md idx) :=
  fun hw => ⟨_, rfl, by
    have hb0 : idx.toNat < 8 := idx.isLt
    simp (disch := omega) [decode_encT, decode32, decodeTaskb, encT_fld_2_6, encT_reg_8, encT_reg_13, encT_reg_18,
      encT_fld_23_3, encT_fld_26_6, encT_bits_3_26, zero, need, BitVec.ofNat_toNat, BitVec.setWidth_eq,
      withHalfFile_code, hb0]⟩

theorem mslice (d : Reg) (ms : Fin 16) (lvl : BitVec 3) : Statement (.mslice d ms lvl) :=
  fun hw => ⟨_, rfl, by
    have hb0 : lvl.toNat < 8 := lvl.isLt
    simp (disch := omega) [decode_encT, decode32, decodeTaskb, encT_fld_2_6, encT_reg_8, encT_reg_13, encT_reg_18,
      encT_fld_23_3, encT_fld_26_6, encT_bits_3_26, zero, need, Fin.eta, BitVec.ofNat_toNat, BitVec.setWidth_eq,
      withHalfFile_code, hb0]⟩

theorem fresume (a : Reg) : Statement (.fresume a) :=
  fun hw => ⟨_, rfl, by
    simp (disch := omega) [decode_encT, decode32, decodeTaskb, encT_fld_2_6, encT_reg_8, encT_reg_13, encT_reg_18,
      encT_fld_23_3, encT_fld_26_6, zero, need, Fin.eta]⟩

theorem pair : Statement (.pair) :=
  fun hw => ⟨_, rfl, by
    simp (disch := omega) [decode_encT, decode32, decodeTaskb, encT_fld_2_6, encT_reg_8, encT_reg_13, encT_reg_18,
      encT_fld_23_3, encT_fld_26_6, zero, need]⟩

theorem unpair : Statement (.unpair) :=
  fun hw => ⟨_, rfl, by
    simp (disch := omega) [decode_encT, decode32, decodeTaskb, encT_fld_2_6, encT_reg_8, encT_reg_13, encT_reg_18,
      encT_fld_23_3, encT_fld_26_6, zero, need]⟩

theorem vadd (f : Fmt) (k : KReg) (q : Bool) (d a b : Reg) : Statement (.vadd f k q d a b) :=
  fun hw => ⟨_, rfl, by
    have h0 := f.major_lt
    rw [decode_32 encV_mod (encV_lt (by omega) (by omega) (by omega) (by omega) (by omega))]
    replace hw : (f.isVector) = true := hw
    have hv : f.isVector = true := by revert hw; cases f <;> simp [Fmt.isVector]
    rw [decode32_vector hv (encV_fld_2_6 h0)]
    simp (disch := omega) [decodeV, encV_reg_8, encV_reg_13, encV_reg_18, encV_k_23, encV_bit_26, encV_fld_27_5,
      Fin.eta]⟩

theorem vsub (f : Fmt) (k : KReg) (q : Bool) (d a b : Reg) : Statement (.vsub f k q d a b) :=
  fun hw => ⟨_, rfl, by
    have h0 := f.major_lt
    rw [decode_32 encV_mod (encV_lt (by omega) (by omega) (by omega) (by omega) (by omega))]
    replace hw : (f.isVector) = true := hw
    have hv : f.isVector = true := by revert hw; cases f <;> simp [Fmt.isVector]
    rw [decode32_vector hv (encV_fld_2_6 h0)]
    simp (disch := omega) [decodeV, encV_reg_8, encV_reg_13, encV_reg_18, encV_k_23, encV_bit_26, encV_fld_27_5,
      Fin.eta]⟩

theorem vmul (f : Fmt) (k : KReg) (q : Bool) (d a b : Reg) : Statement (.vmul f k q d a b) :=
  fun hw => ⟨_, rfl, by
    have h0 := f.major_lt
    rw [decode_32 encV_mod (encV_lt (by omega) (by omega) (by omega) (by omega) (by omega))]
    replace hw : (f.isVector) = true := hw
    have hv : f.isVector = true := by revert hw; cases f <;> simp [Fmt.isVector]
    rw [decode32_vector hv (encV_fld_2_6 h0)]
    simp (disch := omega) [decodeV, encV_reg_8, encV_reg_13, encV_reg_18, encV_k_23, encV_bit_26, encV_fld_27_5,
      Fin.eta]⟩

theorem vfma (f : Fmt) (k : KReg) (q : Bool) (d a b : Reg) : Statement (.vfma f k q d a b) :=
  fun hw => ⟨_, rfl, by
    have h0 := f.major_lt
    rw [decode_32 encV_mod (encV_lt (by omega) (by omega) (by omega) (by omega) (by omega))]
    replace hw : (f.isFloat && !(q && decide (24 ≤ d.val))) = true := hw
    have hv : f.isVector = true := by revert hw; cases f <;> simp [Fmt.isVector, Fmt.isFloat]
    rw [decode32_vector hv (encV_fld_2_6 h0)]
    simp at hw
    simp (disch := omega) [decodeV, encV_reg_8, encV_reg_13, encV_reg_18, encV_k_23, encV_bit_26, encV_fld_27_5,
      need, Fin.eta, hw]⟩

theorem vfms (f : Fmt) (k : KReg) (q : Bool) (d a b : Reg) : Statement (.vfms f k q d a b) :=
  fun hw => ⟨_, rfl, by
    have h0 := f.major_lt
    rw [decode_32 encV_mod (encV_lt (by omega) (by omega) (by omega) (by omega) (by omega))]
    replace hw : (f.isFloat && !(q && decide (24 ≤ d.val))) = true := hw
    have hv : f.isVector = true := by revert hw; cases f <;> simp [Fmt.isVector, Fmt.isFloat]
    rw [decode32_vector hv (encV_fld_2_6 h0)]
    simp at hw
    simp (disch := omega) [decodeV, encV_reg_8, encV_reg_13, encV_reg_18, encV_k_23, encV_bit_26, encV_fld_27_5,
      need, Fin.eta, hw]⟩

theorem vmin (f : Fmt) (k : KReg) (q : Bool) (d a b : Reg) : Statement (.vmin f k q d a b) :=
  fun hw => ⟨_, rfl, by
    have h0 := f.major_lt
    rw [decode_32 encV_mod (encV_lt (by omega) (by omega) (by omega) (by omega) (by omega))]
    replace hw : (f.isVector) = true := hw
    have hv : f.isVector = true := by revert hw; cases f <;> simp [Fmt.isVector]
    rw [decode32_vector hv (encV_fld_2_6 h0)]
    simp (disch := omega) [decodeV, encV_reg_8, encV_reg_13, encV_reg_18, encV_k_23, encV_bit_26, encV_fld_27_5,
      Fin.eta]⟩

theorem vmax (f : Fmt) (k : KReg) (q : Bool) (d a b : Reg) : Statement (.vmax f k q d a b) :=
  fun hw => ⟨_, rfl, by
    have h0 := f.major_lt
    rw [decode_32 encV_mod (encV_lt (by omega) (by omega) (by omega) (by omega) (by omega))]
    replace hw : (f.isVector) = true := hw
    have hv : f.isVector = true := by revert hw; cases f <;> simp [Fmt.isVector]
    rw [decode32_vector hv (encV_fld_2_6 h0)]
    simp (disch := omega) [decodeV, encV_reg_8, encV_reg_13, encV_reg_18, encV_k_23, encV_bit_26, encV_fld_27_5,
      Fin.eta]⟩

theorem vabs (f : Fmt) (k : KReg) (q : Bool) (d a : Reg) : Statement (.vabs f k q d a) :=
  fun hw => ⟨_, rfl, by
    have h0 := f.major_lt
    rw [decode_32 encV_mod (encV_lt (by omega) (by omega) (by omega) (by omega) (by omega))]
    replace hw : (f.isVector) = true := hw
    have hv : f.isVector = true := by revert hw; cases f <;> simp [Fmt.isVector]
    rw [decode32_vector hv (encV_fld_2_6 h0)]
    simp (disch := omega) [decodeV, encV_reg_8, encV_reg_13, encV_reg_18, encV_k_23, encV_bit_26, encV_fld_27_5,
      zero, need, Fin.eta]⟩

theorem vneg (f : Fmt) (k : KReg) (q : Bool) (d a : Reg) : Statement (.vneg f k q d a) :=
  fun hw => ⟨_, rfl, by
    have h0 := f.major_lt
    rw [decode_32 encV_mod (encV_lt (by omega) (by omega) (by omega) (by omega) (by omega))]
    replace hw : (f.isVector) = true := hw
    have hv : f.isVector = true := by revert hw; cases f <;> simp [Fmt.isVector]
    rw [decode32_vector hv (encV_fld_2_6 h0)]
    simp (disch := omega) [decodeV, encV_reg_8, encV_reg_13, encV_reg_18, encV_k_23, encV_bit_26, encV_fld_27_5,
      zero, need, Fin.eta]⟩

theorem vrcp (f : Fmt) (k : KReg) (q : Bool) (d a : Reg) : Statement (.vrcp f k q d a) :=
  fun hw => ⟨_, rfl, by
    have h0 := f.major_lt
    rw [decode_32 encV_mod (encV_lt (by omega) (by omega) (by omega) (by omega) (by omega))]
    replace hw : (f.isFloat) = true := hw
    have hv : f.isVector = true := by revert hw; cases f <;> simp [Fmt.isVector, Fmt.isFloat]
    rw [decode32_vector hv (encV_fld_2_6 h0)]
    simp (disch := omega) [decodeV, encV_reg_8, encV_reg_13, encV_reg_18, encV_k_23, encV_bit_26, encV_fld_27_5,
      zero, need, Fin.eta, hw]⟩

theorem vrsq (f : Fmt) (k : KReg) (q : Bool) (d a : Reg) : Statement (.vrsq f k q d a) :=
  fun hw => ⟨_, rfl, by
    have h0 := f.major_lt
    rw [decode_32 encV_mod (encV_lt (by omega) (by omega) (by omega) (by omega) (by omega))]
    replace hw : (f.isFloat) = true := hw
    have hv : f.isVector = true := by revert hw; cases f <;> simp [Fmt.isVector, Fmt.isFloat]
    rw [decode32_vector hv (encV_fld_2_6 h0)]
    simp (disch := omega) [decodeV, encV_reg_8, encV_reg_13, encV_reg_18, encV_k_23, encV_bit_26, encV_fld_27_5,
      zero, need, Fin.eta, hw]⟩

theorem vexp2 (f : Fmt) (k : KReg) (q : Bool) (d a : Reg) : Statement (.vexp2 f k q d a) :=
  fun hw => ⟨_, rfl, by
    have h0 := f.major_lt
    rw [decode_32 encV_mod (encV_lt (by omega) (by omega) (by omega) (by omega) (by omega))]
    replace hw : (f.isFloat) = true := hw
    have hv : f.isVector = true := by revert hw; cases f <;> simp [Fmt.isVector, Fmt.isFloat]
    rw [decode32_vector hv (encV_fld_2_6 h0)]
    simp (disch := omega) [decodeV, encV_reg_8, encV_reg_13, encV_reg_18, encV_k_23, encV_bit_26, encV_fld_27_5,
      zero, need, Fin.eta, hw]⟩

theorem vlog2 (f : Fmt) (k : KReg) (q : Bool) (d a : Reg) : Statement (.vlog2 f k q d a) :=
  fun hw => ⟨_, rfl, by
    have h0 := f.major_lt
    rw [decode_32 encV_mod (encV_lt (by omega) (by omega) (by omega) (by omega) (by omega))]
    replace hw : (f.isFloat) = true := hw
    have hv : f.isVector = true := by revert hw; cases f <;> simp [Fmt.isVector, Fmt.isFloat]
    rw [decode32_vector hv (encV_fld_2_6 h0)]
    simp (disch := omega) [decodeV, encV_reg_8, encV_reg_13, encV_reg_18, encV_k_23, encV_bit_26, encV_fld_27_5,
      zero, need, Fin.eta, hw]⟩

theorem vshl (f : Fmt) (k : KReg) (q : Bool) (d a b : Reg) : Statement (.vshl f k q d a b) :=
  fun hw => ⟨_, rfl, by
    have h0 := f.major_lt
    rw [decode_32 encV_mod (encV_lt (by omega) (by omega) (by omega) (by omega) (by omega))]
    replace hw : (f.isVector && !f.isFloat) = true := hw
    have hv : f.isVector = true := by revert hw; cases f <;> simp [Fmt.isVector, Fmt.isFloat]
    rw [decode32_vector hv (encV_fld_2_6 h0)]
    simp at hw
    simp (disch := omega) [decodeV, encV_reg_8, encV_reg_13, encV_reg_18, encV_k_23, encV_bit_26, encV_fld_27_5,
      need, Fin.eta, hw]⟩

theorem vshr (f : Fmt) (k : KReg) (q : Bool) (d a b : Reg) : Statement (.vshr f k q d a b) :=
  fun hw => ⟨_, rfl, by
    have h0 := f.major_lt
    rw [decode_32 encV_mod (encV_lt (by omega) (by omega) (by omega) (by omega) (by omega))]
    replace hw : (f.isVector && !f.isFloat) = true := hw
    have hv : f.isVector = true := by revert hw; cases f <;> simp [Fmt.isVector, Fmt.isFloat]
    rw [decode32_vector hv (encV_fld_2_6 h0)]
    simp at hw
    simp (disch := omega) [decodeV, encV_reg_8, encV_reg_13, encV_reg_18, encV_k_23, encV_bit_26, encV_fld_27_5,
      need, Fin.eta, hw]⟩

theorem vshrA (f : Fmt) (k : KReg) (q : Bool) (d a b : Reg) : Statement (.vshrA f k q d a b) :=
  fun hw => ⟨_, rfl, by
    have h0 := f.major_lt
    rw [decode_32 encV_mod (encV_lt (by omega) (by omega) (by omega) (by omega) (by omega))]
    replace hw : (f.isVector && !f.isFloat) = true := hw
    have hv : f.isVector = true := by revert hw; cases f <;> simp [Fmt.isVector, Fmt.isFloat]
    rw [decode32_vector hv (encV_fld_2_6 h0)]
    simp at hw
    simp (disch := omega) [decodeV, encV_reg_8, encV_reg_13, encV_reg_18, encV_k_23, encV_bit_26, encV_fld_27_5,
      need, Fin.eta, hw]⟩

theorem vcmpEq (f : Fmt) (k : KReg) (q : Bool) (d : KReg) (a b : Reg) : Statement (.vcmpEq f k q d a b) :=
  fun hw => ⟨_, rfl, by
    have h0 := f.major_lt
    rw [decode_32 encV_mod (encV_lt (by omega) (by omega) (by omega) (by omega) (by omega))]
    replace hw : (f.isVector) = true := hw
    have hv : f.isVector = true := by revert hw; cases f <;> simp [Fmt.isVector]
    rw [decode32_vector hv (encV_fld_2_6 h0)]
    simp (disch := omega) [decodeV, encV_reg_8, encV_reg_13, encV_reg_18, encV_k_23, encV_bit_26, encV_fld_27_5,
      Fin.eta, withMask_code]⟩

theorem vcmpNe (f : Fmt) (k : KReg) (q : Bool) (d : KReg) (a b : Reg) : Statement (.vcmpNe f k q d a b) :=
  fun hw => ⟨_, rfl, by
    have h0 := f.major_lt
    rw [decode_32 encV_mod (encV_lt (by omega) (by omega) (by omega) (by omega) (by omega))]
    replace hw : (f.isVector) = true := hw
    have hv : f.isVector = true := by revert hw; cases f <;> simp [Fmt.isVector]
    rw [decode32_vector hv (encV_fld_2_6 h0)]
    simp (disch := omega) [decodeV, encV_reg_8, encV_reg_13, encV_reg_18, encV_k_23, encV_bit_26, encV_fld_27_5,
      Fin.eta, withMask_code]⟩

theorem vcmpLt (f : Fmt) (k : KReg) (q : Bool) (d : KReg) (a b : Reg) : Statement (.vcmpLt f k q d a b) :=
  fun hw => ⟨_, rfl, by
    have h0 := f.major_lt
    rw [decode_32 encV_mod (encV_lt (by omega) (by omega) (by omega) (by omega) (by omega))]
    replace hw : (f.isVector) = true := hw
    have hv : f.isVector = true := by revert hw; cases f <;> simp [Fmt.isVector]
    rw [decode32_vector hv (encV_fld_2_6 h0)]
    simp (disch := omega) [decodeV, encV_reg_8, encV_reg_13, encV_reg_18, encV_k_23, encV_bit_26, encV_fld_27_5,
      Fin.eta, withMask_code]⟩

theorem vcmpLe (f : Fmt) (k : KReg) (q : Bool) (d : KReg) (a b : Reg) : Statement (.vcmpLe f k q d a b) :=
  fun hw => ⟨_, rfl, by
    have h0 := f.major_lt
    rw [decode_32 encV_mod (encV_lt (by omega) (by omega) (by omega) (by omega) (by omega))]
    replace hw : (f.isVector) = true := hw
    have hv : f.isVector = true := by revert hw; cases f <;> simp [Fmt.isVector]
    rw [decode32_vector hv (encV_fld_2_6 h0)]
    simp (disch := omega) [decodeV, encV_reg_8, encV_reg_13, encV_reg_18, encV_k_23, encV_bit_26, encV_fld_27_5,
      Fin.eta, withMask_code]⟩

theorem vsel (f : Fmt) (k : KReg) (q : Bool) (d a b : Reg) : Statement (.vsel f k q d a b) :=
  fun hw => ⟨_, rfl, by
    have h0 := f.major_lt
    rw [decode_32 encV_mod (encV_lt (by omega) (by omega) (by omega) (by omega) (by omega))]
    replace hw : (f.isVector) = true := hw
    have hv : f.isVector = true := by revert hw; cases f <;> simp [Fmt.isVector]
    rw [decode32_vector hv (encV_fld_2_6 h0)]
    simp (disch := omega) [decodeV, encV_reg_8, encV_reg_13, encV_reg_18, encV_k_23, encV_bit_26, encV_fld_27_5,
      Fin.eta]⟩

theorem vperm (f : Fmt) (k : KReg) (q : Bool) (d a b : Reg) : Statement (.vperm f k q d a b) :=
  fun hw => ⟨_, rfl, by
    have h0 := f.major_lt
    rw [decode_32 encV_mod (encV_lt (by omega) (by omega) (by omega) (by omega) (by omega))]
    replace hw : (f.isVector) = true := hw
    have hv : f.isVector = true := by revert hw; cases f <;> simp [Fmt.isVector]
    rw [decode32_vector hv (encV_fld_2_6 h0)]
    simp (disch := omega) [decodeV, encV_reg_8, encV_reg_13, encV_reg_18, encV_k_23, encV_bit_26, encV_fld_27_5,
      Fin.eta]⟩

theorem vslideUp (f : Fmt) (k : KReg) (q : Bool) (d a b : Reg) : Statement (.vslideUp f k q d a b) :=
  fun hw => ⟨_, rfl, by
    have h0 := f.major_lt
    rw [decode_32 encV_mod (encV_lt (by omega) (by omega) (by omega) (by omega) (by omega))]
    replace hw : (f.isVector) = true := hw
    have hv : f.isVector = true := by revert hw; cases f <;> simp [Fmt.isVector]
    rw [decode32_vector hv (encV_fld_2_6 h0)]
    simp (disch := omega) [decodeV, encV_reg_8, encV_reg_13, encV_reg_18, encV_k_23, encV_bit_26, encV_fld_27_5,
      Fin.eta]⟩

theorem vslideDn (f : Fmt) (k : KReg) (q : Bool) (d a b : Reg) : Statement (.vslideDn f k q d a b) :=
  fun hw => ⟨_, rfl, by
    have h0 := f.major_lt
    rw [decode_32 encV_mod (encV_lt (by omega) (by omega) (by omega) (by omega) (by omega))]
    replace hw : (f.isVector) = true := hw
    have hv : f.isVector = true := by revert hw; cases f <;> simp [Fmt.isVector]
    rw [decode32_vector hv (encV_fld_2_6 h0)]
    simp (disch := omega) [decodeV, encV_reg_8, encV_reg_13, encV_reg_18, encV_k_23, encV_bit_26, encV_fld_27_5,
      Fin.eta]⟩

theorem vbcast (f : Fmt) (k : KReg) (q : Bool) (d a : Reg) : Statement (.vbcast f k q d a) :=
  fun hw => ⟨_, rfl, by
    have h0 := f.major_lt
    rw [decode_32 encV_mod (encV_lt (by omega) (by omega) (by omega) (by omega) (by omega))]
    replace hw : (f.isVector) = true := hw
    have hv : f.isVector = true := by revert hw; cases f <;> simp [Fmt.isVector]
    rw [decode32_vector hv (encV_fld_2_6 h0)]
    simp (disch := omega) [decodeV, encV_reg_8, encV_reg_13, encV_reg_18, encV_k_23, encV_bit_26, encV_fld_27_5,
      zero, need, Fin.eta]⟩

theorem vredAdd (f : Fmt) (k : KReg) (q : Bool) (d a b : Reg) : Statement (.vredAdd f k q d a b) :=
  fun hw => ⟨_, rfl, by
    have h0 := f.major_lt
    rw [decode_32 encV_mod (encV_lt (by omega) (by omega) (by omega) (by omega) (by omega))]
    replace hw : (f.isVector) = true := hw
    have hv : f.isVector = true := by revert hw; cases f <;> simp [Fmt.isVector]
    rw [decode32_vector hv (encV_fld_2_6 h0)]
    simp (disch := omega) [decodeV, encV_reg_8, encV_reg_13, encV_reg_18, encV_k_23, encV_bit_26, encV_fld_27_5,
      Fin.eta]⟩

theorem vredMin (f : Fmt) (k : KReg) (q : Bool) (d a b : Reg) : Statement (.vredMin f k q d a b) :=
  fun hw => ⟨_, rfl, by
    have h0 := f.major_lt
    rw [decode_32 encV_mod (encV_lt (by omega) (by omega) (by omega) (by omega) (by omega))]
    replace hw : (f.isVector) = true := hw
    have hv : f.isVector = true := by revert hw; cases f <;> simp [Fmt.isVector]
    rw [decode32_vector hv (encV_fld_2_6 h0)]
    simp (disch := omega) [decodeV, encV_reg_8, encV_reg_13, encV_reg_18, encV_k_23, encV_bit_26, encV_fld_27_5,
      Fin.eta]⟩

theorem vredMax (f : Fmt) (k : KReg) (q : Bool) (d a b : Reg) : Statement (.vredMax f k q d a b) :=
  fun hw => ⟨_, rfl, by
    have h0 := f.major_lt
    rw [decode_32 encV_mod (encV_lt (by omega) (by omega) (by omega) (by omega) (by omega))]
    replace hw : (f.isVector) = true := hw
    have hv : f.isVector = true := by revert hw; cases f <;> simp [Fmt.isVector]
    rw [decode32_vector hv (encV_fld_2_6 h0)]
    simp (disch := omega) [decodeV, encV_reg_8, encV_reg_13, encV_reg_18, encV_k_23, encV_bit_26, encV_fld_27_5,
      Fin.eta]⟩

theorem vscanAdd (f : Fmt) (k : KReg) (q : Bool) (d a b : Reg) : Statement (.vscanAdd f k q d a b) :=
  fun hw => ⟨_, rfl, by
    have h0 := f.major_lt
    rw [decode_32 encV_mod (encV_lt (by omega) (by omega) (by omega) (by omega) (by omega))]
    replace hw : (f.isVector) = true := hw
    have hv : f.isVector = true := by revert hw; cases f <;> simp [Fmt.isVector]
    rw [decode32_vector hv (encV_fld_2_6 h0)]
    simp (disch := omega) [decodeV, encV_reg_8, encV_reg_13, encV_reg_18, encV_k_23, encV_bit_26, encV_fld_27_5,
      Fin.eta]⟩

theorem vmvg (f : Fmt) (q : Bool) (d a b : Reg) : Statement (.vmvg f q d a b) :=
  fun hw => ⟨_, rfl, by
    have h0 := f.major_lt
    rw [decode_32 encV_mod (encV_lt (by omega) (by omega) (by omega) (by omega) (by omega))]
    replace hw : (f.isVector) = true := hw
    have hv : f.isVector = true := by revert hw; cases f <;> simp [Fmt.isVector]
    rw [decode32_vector hv (encV_fld_2_6 h0)]
    simp (disch := omega) [decodeV, encV_reg_8, encV_reg_13, encV_reg_18, encV_k_23, encV_bit_26, encV_fld_27_5,
      zero, need, Fin.eta]⟩

theorem vand (k : KReg) (q : Bool) (d a b : Reg) : Statement (.vand k q d a b) :=
  fun hw => ⟨_, rfl, by
    simp (disch := omega) [decode_encV, decode32, decodeVx, encV_fld_2_6, encV_reg_8, encV_reg_13, encV_reg_18,
      encV_k_23, encV_bit_26, encV_fld_27_5, Fin.eta]⟩

theorem vor (k : KReg) (q : Bool) (d a b : Reg) : Statement (.vor k q d a b) :=
  fun hw => ⟨_, rfl, by
    simp (disch := omega) [decode_encV, decode32, decodeVx, encV_fld_2_6, encV_reg_8, encV_reg_13, encV_reg_18,
      encV_k_23, encV_bit_26, encV_fld_27_5, Fin.eta]⟩

theorem vxor (k : KReg) (q : Bool) (d a b : Reg) : Statement (.vxor k q d a b) :=
  fun hw => ⟨_, rfl, by
    simp (disch := omega) [decode_encV, decode32, decodeVx, encV_fld_2_6, encV_reg_8, encV_reg_13, encV_reg_18,
      encV_k_23, encV_bit_26, encV_fld_27_5, Fin.eta]⟩

theorem gmvv (q : Bool) (d a : Reg) : Statement (.gmvv q d a) :=
  fun hw => ⟨_, rfl, by
    simp (disch := omega) [decode_encV, decode32, decodeVx, encV_fld_2_6, encV_reg_8, encV_reg_13, encV_reg_18,
      encV_k_23, encV_bit_26, encV_fld_27_5, zero, need, Fin.eta]⟩

theorem kand (d a b : KReg) : Statement (.kand d a b) :=
  fun hw => ⟨_, rfl, by
    simp (disch := omega) [decode_encV, decode32, decodeVx, encV_fld_2_6, encV_reg_8, encV_reg_13, encV_reg_18,
      encV_fld_27_5, encV_fld_23_4, zero, need, withMask_code]⟩

theorem kor (d a b : KReg) : Statement (.kor d a b) :=
  fun hw => ⟨_, rfl, by
    simp (disch := omega) [decode_encV, decode32, decodeVx, encV_fld_2_6, encV_reg_8, encV_reg_13, encV_reg_18,
      encV_fld_27_5, encV_fld_23_4, zero, need, withMask_code]⟩

theorem knot (d a : KReg) : Statement (.knot d a) :=
  fun hw => ⟨_, rfl, by
    simp (disch := omega) [decode_encV, decode32, decodeVx, encV_fld_2_6, encV_reg_8, encV_reg_13, encV_reg_18,
      encV_fld_27_5, encV_fld_23_4, zero, need, withMask_code]⟩

theorem kpop (d : Reg) (a : KReg) : Statement (.kpop d a) :=
  fun hw => ⟨_, rfl, by
    simp (disch := omega) [decode_encV, decode32, decodeVx, encV_fld_2_6, encV_reg_8, encV_reg_13, encV_reg_18,
      encV_fld_27_5, encV_fld_23_4, zero, need, Fin.eta, withMask_code]⟩

theorem rnadd (k : KReg) (q : Bool) (d a b : Reg) : Statement (.rnadd k q d a b) :=
  fun hw => ⟨_, rfl, by
    simp (disch := omega) [decode_encV, decode32, decodeVx, encV_fld_2_6, encV_reg_8, encV_reg_13, encV_reg_18,
      encV_k_23, encV_bit_26, encV_fld_27_5, Fin.eta]⟩

theorem rnmul (k : KReg) (q : Bool) (d a b : Reg) : Statement (.rnmul k q d a b) :=
  fun hw => ⟨_, rfl, by
    simp (disch := omega) [decode_encV, decode32, decodeVx, encV_fld_2_6, encV_reg_8, encV_reg_13, encV_reg_18,
      encV_k_23, encV_bit_26, encV_fld_27_5, Fin.eta]⟩

theorem rnfrom (k : KReg) (q : Bool) (d a : Reg) : Statement (.rnfrom k q d a) :=
  fun hw => ⟨_, rfl, by
    simp (disch := omega) [decode_encV, decode32, decodeVx, encV_fld_2_6, encV_reg_8, encV_reg_13, encV_reg_18,
      encV_k_23, encV_bit_26, encV_fld_27_5, zero, need, Fin.eta]⟩

theorem rnto (k : KReg) (q : Bool) (d a : Reg) : Statement (.rnto k q d a) :=
  fun hw => ⟨_, rfl, by
    simp (disch := omega) [decode_encV, decode32, decodeVx, encV_fld_2_6, encV_reg_8, encV_reg_13, encV_reg_18,
      encV_k_23, encV_bit_26, encV_fld_27_5, zero, need, Fin.eta]⟩

theorem vaddXv (x : XvFields) (d a b : Reg) : Statement (.vaddXv x d a b) :=
  fun hw => ⟨_, rfl, by
    replace hw : (x.wfOp) = true := hw
    simp [XvFields.wfOp] at hw
    obtain ⟨fmt, rnd, nsat, k, q⟩ := x
    dsimp only at hw
    simp (disch := omega) [decode_encXV, decode64, decodeXv, decodeXv0, encXV_fld_2_6, encXV_reg_8, encXV_reg_13,
      encXV_reg_18, encXV_reg_23, encXV_fld_28_4, encXV_fld_32_5, encXV_fld_37_4, encXV_fld_41_4, encXV_fld_45_3,
      encXV_bit_48, encXV_k_49, encXV_bit_52, encXV_fld_53_11, zero, need, Fin.eta, withFmt_code, withRnd_code, hw]⟩

theorem vsubXv (x : XvFields) (d a b : Reg) : Statement (.vsubXv x d a b) :=
  fun hw => ⟨_, rfl, by
    replace hw : (x.wfOp) = true := hw
    simp [XvFields.wfOp] at hw
    obtain ⟨fmt, rnd, nsat, k, q⟩ := x
    dsimp only at hw
    simp (disch := omega) [decode_encXV, decode64, decodeXv, decodeXv0, encXV_fld_2_6, encXV_reg_8, encXV_reg_13,
      encXV_reg_18, encXV_reg_23, encXV_fld_28_4, encXV_fld_32_5, encXV_fld_37_4, encXV_fld_41_4, encXV_fld_45_3,
      encXV_bit_48, encXV_k_49, encXV_bit_52, encXV_fld_53_11, zero, need, Fin.eta, withFmt_code, withRnd_code, hw]⟩

theorem vmulXv (x : XvFields) (d a b : Reg) : Statement (.vmulXv x d a b) :=
  fun hw => ⟨_, rfl, by
    replace hw : (x.wfOp) = true := hw
    simp [XvFields.wfOp] at hw
    obtain ⟨fmt, rnd, nsat, k, q⟩ := x
    dsimp only at hw
    simp (disch := omega) [decode_encXV, decode64, decodeXv, decodeXv0, encXV_fld_2_6, encXV_reg_8, encXV_reg_13,
      encXV_reg_18, encXV_reg_23, encXV_fld_28_4, encXV_fld_32_5, encXV_fld_37_4, encXV_fld_41_4, encXV_fld_45_3,
      encXV_bit_48, encXV_k_49, encXV_bit_52, encXV_fld_53_11, zero, need, Fin.eta, withFmt_code, withRnd_code, hw]⟩

theorem vfmaXv (x : XvFields) (d a b c : Reg) : Statement (.vfmaXv x d a b c) :=
  fun hw => ⟨_, rfl, by
    replace hw : (x.fmt.isFloat) = true := hw
    obtain ⟨fmt, rnd, nsat, k, q⟩ := x
    dsimp only at hw
    have hv : fmt.isVector = true := by revert hw; cases fmt <;> simp [Fmt.isVector, Fmt.isFloat]
    simp (disch := omega) [decode_encXV, decode64, decodeXv, decodeXv0, encXV_fld_2_6, encXV_reg_8, encXV_reg_13,
      encXV_reg_18, encXV_reg_23, encXV_fld_28_4, encXV_fld_32_5, encXV_fld_37_4, encXV_fld_41_4, encXV_fld_45_3,
      encXV_bit_48, encXV_k_49, encXV_bit_52, encXV_fld_53_11, zero, need, Fin.eta, withFmt_code, withRnd_code, hv,
      hw]⟩

theorem vfmsXv (x : XvFields) (d a b c : Reg) : Statement (.vfmsXv x d a b c) :=
  fun hw => ⟨_, rfl, by
    replace hw : (x.fmt.isFloat) = true := hw
    obtain ⟨fmt, rnd, nsat, k, q⟩ := x
    dsimp only at hw
    have hv : fmt.isVector = true := by revert hw; cases fmt <;> simp [Fmt.isVector, Fmt.isFloat]
    simp (disch := omega) [decode_encXV, decode64, decodeXv, decodeXv0, encXV_fld_2_6, encXV_reg_8, encXV_reg_13,
      encXV_reg_18, encXV_reg_23, encXV_fld_28_4, encXV_fld_32_5, encXV_fld_37_4, encXV_fld_41_4, encXV_fld_45_3,
      encXV_bit_48, encXV_k_49, encXV_bit_52, encXV_fld_53_11, zero, need, Fin.eta, withFmt_code, withRnd_code, hv,
      hw]⟩

theorem vminXv (x : XvFields) (d a b : Reg) : Statement (.vminXv x d a b) :=
  fun hw => ⟨_, rfl, by
    replace hw : (x.wfOp) = true := hw
    simp [XvFields.wfOp] at hw
    obtain ⟨fmt, rnd, nsat, k, q⟩ := x
    dsimp only at hw
    simp (disch := omega) [decode_encXV, decode64, decodeXv, decodeXv0, encXV_fld_2_6, encXV_reg_8, encXV_reg_13,
      encXV_reg_18, encXV_reg_23, encXV_fld_28_4, encXV_fld_32_5, encXV_fld_37_4, encXV_fld_41_4, encXV_fld_45_3,
      encXV_bit_48, encXV_k_49, encXV_bit_52, encXV_fld_53_11, zero, need, Fin.eta, withFmt_code, withRnd_code, hw]⟩

theorem vmaxXv (x : XvFields) (d a b : Reg) : Statement (.vmaxXv x d a b) :=
  fun hw => ⟨_, rfl, by
    replace hw : (x.wfOp) = true := hw
    simp [XvFields.wfOp] at hw
    obtain ⟨fmt, rnd, nsat, k, q⟩ := x
    dsimp only at hw
    simp (disch := omega) [decode_encXV, decode64, decodeXv, decodeXv0, encXV_fld_2_6, encXV_reg_8, encXV_reg_13,
      encXV_reg_18, encXV_reg_23, encXV_fld_28_4, encXV_fld_32_5, encXV_fld_37_4, encXV_fld_41_4, encXV_fld_45_3,
      encXV_bit_48, encXV_k_49, encXV_bit_52, encXV_fld_53_11, zero, need, Fin.eta, withFmt_code, withRnd_code, hw]⟩

theorem vabsXv (x : XvFields) (d a : Reg) : Statement (.vabsXv x d a) :=
  fun hw => ⟨_, rfl, by
    replace hw : (x.wfOp) = true := hw
    simp [XvFields.wfOp] at hw
    obtain ⟨fmt, rnd, nsat, k, q⟩ := x
    dsimp only at hw
    simp (disch := omega) [decode_encXV, decode64, decodeXv, decodeXv0, encXV_fld_2_6, encXV_reg_8, encXV_reg_13,
      encXV_reg_18, encXV_reg_23, encXV_fld_28_4, encXV_fld_32_5, encXV_fld_37_4, encXV_fld_41_4, encXV_fld_45_3,
      encXV_bit_48, encXV_k_49, encXV_bit_52, encXV_fld_53_11, zero, need, Fin.eta, withFmt_code, withRnd_code, hw]⟩

theorem vnegXv (x : XvFields) (d a : Reg) : Statement (.vnegXv x d a) :=
  fun hw => ⟨_, rfl, by
    replace hw : (x.wfOp) = true := hw
    simp [XvFields.wfOp] at hw
    obtain ⟨fmt, rnd, nsat, k, q⟩ := x
    dsimp only at hw
    simp (disch := omega) [decode_encXV, decode64, decodeXv, decodeXv0, encXV_fld_2_6, encXV_reg_8, encXV_reg_13,
      encXV_reg_18, encXV_reg_23, encXV_fld_28_4, encXV_fld_32_5, encXV_fld_37_4, encXV_fld_41_4, encXV_fld_45_3,
      encXV_bit_48, encXV_k_49, encXV_bit_52, encXV_fld_53_11, zero, need, Fin.eta, withFmt_code, withRnd_code, hw]⟩

theorem vrcpXv (x : XvFields) (d a : Reg) : Statement (.vrcpXv x d a) :=
  fun hw => ⟨_, rfl, by
    replace hw : (x.fmt.isFloat) = true := hw
    obtain ⟨fmt, rnd, nsat, k, q⟩ := x
    dsimp only at hw
    have hv : fmt.isVector = true := by revert hw; cases fmt <;> simp [Fmt.isVector, Fmt.isFloat]
    simp (disch := omega) [decode_encXV, decode64, decodeXv, decodeXv0, encXV_fld_2_6, encXV_reg_8, encXV_reg_13,
      encXV_reg_18, encXV_reg_23, encXV_fld_28_4, encXV_fld_32_5, encXV_fld_37_4, encXV_fld_41_4, encXV_fld_45_3,
      encXV_bit_48, encXV_k_49, encXV_bit_52, encXV_fld_53_11, zero, need, Fin.eta, withFmt_code, withRnd_code, hv,
      hw]⟩

theorem vrsqXv (x : XvFields) (d a : Reg) : Statement (.vrsqXv x d a) :=
  fun hw => ⟨_, rfl, by
    replace hw : (x.fmt.isFloat) = true := hw
    obtain ⟨fmt, rnd, nsat, k, q⟩ := x
    dsimp only at hw
    have hv : fmt.isVector = true := by revert hw; cases fmt <;> simp [Fmt.isVector, Fmt.isFloat]
    simp (disch := omega) [decode_encXV, decode64, decodeXv, decodeXv0, encXV_fld_2_6, encXV_reg_8, encXV_reg_13,
      encXV_reg_18, encXV_reg_23, encXV_fld_28_4, encXV_fld_32_5, encXV_fld_37_4, encXV_fld_41_4, encXV_fld_45_3,
      encXV_bit_48, encXV_k_49, encXV_bit_52, encXV_fld_53_11, zero, need, Fin.eta, withFmt_code, withRnd_code, hv,
      hw]⟩

theorem vexp2Xv (x : XvFields) (d a : Reg) : Statement (.vexp2Xv x d a) :=
  fun hw => ⟨_, rfl, by
    replace hw : (x.fmt.isFloat) = true := hw
    obtain ⟨fmt, rnd, nsat, k, q⟩ := x
    dsimp only at hw
    have hv : fmt.isVector = true := by revert hw; cases fmt <;> simp [Fmt.isVector, Fmt.isFloat]
    simp (disch := omega) [decode_encXV, decode64, decodeXv, decodeXv0, encXV_fld_2_6, encXV_reg_8, encXV_reg_13,
      encXV_reg_18, encXV_reg_23, encXV_fld_28_4, encXV_fld_32_5, encXV_fld_37_4, encXV_fld_41_4, encXV_fld_45_3,
      encXV_bit_48, encXV_k_49, encXV_bit_52, encXV_fld_53_11, zero, need, Fin.eta, withFmt_code, withRnd_code, hv,
      hw]⟩

theorem vlog2Xv (x : XvFields) (d a : Reg) : Statement (.vlog2Xv x d a) :=
  fun hw => ⟨_, rfl, by
    replace hw : (x.fmt.isFloat) = true := hw
    obtain ⟨fmt, rnd, nsat, k, q⟩ := x
    dsimp only at hw
    have hv : fmt.isVector = true := by revert hw; cases fmt <;> simp [Fmt.isVector, Fmt.isFloat]
    simp (disch := omega) [decode_encXV, decode64, decodeXv, decodeXv0, encXV_fld_2_6, encXV_reg_8, encXV_reg_13,
      encXV_reg_18, encXV_reg_23, encXV_fld_28_4, encXV_fld_32_5, encXV_fld_37_4, encXV_fld_41_4, encXV_fld_45_3,
      encXV_bit_48, encXV_k_49, encXV_bit_52, encXV_fld_53_11, zero, need, Fin.eta, withFmt_code, withRnd_code, hv,
      hw]⟩

theorem vshlXv (x : XvFields) (d a b : Reg) : Statement (.vshlXv x d a b) :=
  fun hw => ⟨_, rfl, by
    replace hw : (x.wfMove && !x.fmt.isFloat) = true := hw
    simp [XvFields.wfMove, XvFields.noRounding] at hw
    obtain ⟨fmt, rnd, nsat, k, q⟩ := x
    dsimp only at hw
    simp (disch := omega) [decode_encXV, decode64, decodeXv, decodeXv0, encXV_fld_2_6, encXV_reg_8, encXV_reg_13,
      encXV_reg_18, encXV_reg_23, encXV_fld_28_4, encXV_fld_32_5, encXV_fld_37_4, encXV_fld_41_4, encXV_fld_45_3,
      encXV_bit_48, encXV_k_49, encXV_bit_52, encXV_fld_53_11, zero, need, XvFields.noRounding, Fin.eta, withFmt_code, withRnd_code, hw]⟩

theorem vshrXv (x : XvFields) (d a b : Reg) : Statement (.vshrXv x d a b) :=
  fun hw => ⟨_, rfl, by
    replace hw : (x.wfMove && !x.fmt.isFloat) = true := hw
    simp [XvFields.wfMove, XvFields.noRounding] at hw
    obtain ⟨fmt, rnd, nsat, k, q⟩ := x
    dsimp only at hw
    simp (disch := omega) [decode_encXV, decode64, decodeXv, decodeXv0, encXV_fld_2_6, encXV_reg_8, encXV_reg_13,
      encXV_reg_18, encXV_reg_23, encXV_fld_28_4, encXV_fld_32_5, encXV_fld_37_4, encXV_fld_41_4, encXV_fld_45_3,
      encXV_bit_48, encXV_k_49, encXV_bit_52, encXV_fld_53_11, zero, need, XvFields.noRounding, Fin.eta, withFmt_code, withRnd_code, hw]⟩

theorem vshrAXv (x : XvFields) (d a b : Reg) : Statement (.vshrAXv x d a b) :=
  fun hw => ⟨_, rfl, by
    replace hw : (x.wfMove && !x.fmt.isFloat) = true := hw
    simp [XvFields.wfMove, XvFields.noRounding] at hw
    obtain ⟨fmt, rnd, nsat, k, q⟩ := x
    dsimp only at hw
    simp (disch := omega) [decode_encXV, decode64, decodeXv, decodeXv0, encXV_fld_2_6, encXV_reg_8, encXV_reg_13,
      encXV_reg_18, encXV_reg_23, encXV_fld_28_4, encXV_fld_32_5, encXV_fld_37_4, encXV_fld_41_4, encXV_fld_45_3,
      encXV_bit_48, encXV_k_49, encXV_bit_52, encXV_fld_53_11, zero, need, XvFields.noRounding, Fin.eta, withFmt_code, withRnd_code, hw]⟩

theorem vcmpEqXv (x : XvFields) (d : KReg) (a b : Reg) : Statement (.vcmpEqXv x d a b) :=
  fun hw => ⟨_, rfl, by
    replace hw : (x.wfMove) = true := hw
    simp [XvFields.wfMove, XvFields.noRounding] at hw
    obtain ⟨fmt, rnd, nsat, k, q⟩ := x
    dsimp only at hw
    simp (disch := omega) [decode_encXV, decode64, decodeXv, decodeXv0, encXV_fld_2_6, encXV_reg_8, encXV_reg_13,
      encXV_reg_18, encXV_reg_23, encXV_fld_28_4, encXV_fld_32_5, encXV_fld_37_4, encXV_fld_41_4, encXV_fld_45_3,
      encXV_bit_48, encXV_k_49, encXV_bit_52, encXV_fld_53_11, zero, need, XvFields.noRounding, Fin.eta, withFmt_code, withRnd_code,
      withMask_code, hw]⟩

theorem vcmpNeXv (x : XvFields) (d : KReg) (a b : Reg) : Statement (.vcmpNeXv x d a b) :=
  fun hw => ⟨_, rfl, by
    replace hw : (x.wfMove) = true := hw
    simp [XvFields.wfMove, XvFields.noRounding] at hw
    obtain ⟨fmt, rnd, nsat, k, q⟩ := x
    dsimp only at hw
    simp (disch := omega) [decode_encXV, decode64, decodeXv, decodeXv0, encXV_fld_2_6, encXV_reg_8, encXV_reg_13,
      encXV_reg_18, encXV_reg_23, encXV_fld_28_4, encXV_fld_32_5, encXV_fld_37_4, encXV_fld_41_4, encXV_fld_45_3,
      encXV_bit_48, encXV_k_49, encXV_bit_52, encXV_fld_53_11, zero, need, XvFields.noRounding, Fin.eta, withFmt_code, withRnd_code,
      withMask_code, hw]⟩

theorem vcmpLtXv (x : XvFields) (d : KReg) (a b : Reg) : Statement (.vcmpLtXv x d a b) :=
  fun hw => ⟨_, rfl, by
    replace hw : (x.wfMove) = true := hw
    simp [XvFields.wfMove, XvFields.noRounding] at hw
    obtain ⟨fmt, rnd, nsat, k, q⟩ := x
    dsimp only at hw
    simp (disch := omega) [decode_encXV, decode64, decodeXv, decodeXv0, encXV_fld_2_6, encXV_reg_8, encXV_reg_13,
      encXV_reg_18, encXV_reg_23, encXV_fld_28_4, encXV_fld_32_5, encXV_fld_37_4, encXV_fld_41_4, encXV_fld_45_3,
      encXV_bit_48, encXV_k_49, encXV_bit_52, encXV_fld_53_11, zero, need, XvFields.noRounding, Fin.eta, withFmt_code, withRnd_code,
      withMask_code, hw]⟩

theorem vcmpLeXv (x : XvFields) (d : KReg) (a b : Reg) : Statement (.vcmpLeXv x d a b) :=
  fun hw => ⟨_, rfl, by
    replace hw : (x.wfMove) = true := hw
    simp [XvFields.wfMove, XvFields.noRounding] at hw
    obtain ⟨fmt, rnd, nsat, k, q⟩ := x
    dsimp only at hw
    simp (disch := omega) [decode_encXV, decode64, decodeXv, decodeXv0, encXV_fld_2_6, encXV_reg_8, encXV_reg_13,
      encXV_reg_18, encXV_reg_23, encXV_fld_28_4, encXV_fld_32_5, encXV_fld_37_4, encXV_fld_41_4, encXV_fld_45_3,
      encXV_bit_48, encXV_k_49, encXV_bit_52, encXV_fld_53_11, zero, need, XvFields.noRounding, Fin.eta, withFmt_code, withRnd_code,
      withMask_code, hw]⟩

theorem vselXv (x : XvFields) (d a b : Reg) : Statement (.vselXv x d a b) :=
  fun hw => ⟨_, rfl, by
    replace hw : (x.wfMove) = true := hw
    simp [XvFields.wfMove, XvFields.noRounding] at hw
    obtain ⟨fmt, rnd, nsat, k, q⟩ := x
    dsimp only at hw
    simp (disch := omega) [decode_encXV, decode64, decodeXv, decodeXv0, encXV_fld_2_6, encXV_reg_8, encXV_reg_13,
      encXV_reg_18, encXV_reg_23, encXV_fld_28_4, encXV_fld_32_5, encXV_fld_37_4, encXV_fld_41_4, encXV_fld_45_3,
      encXV_bit_48, encXV_k_49, encXV_bit_52, encXV_fld_53_11, zero, need, XvFields.noRounding, Fin.eta, withFmt_code, withRnd_code, hw]⟩

theorem vpermXv (x : XvFields) (d a b : Reg) : Statement (.vpermXv x d a b) :=
  fun hw => ⟨_, rfl, by
    replace hw : (x.wfMove) = true := hw
    simp [XvFields.wfMove, XvFields.noRounding] at hw
    obtain ⟨fmt, rnd, nsat, k, q⟩ := x
    dsimp only at hw
    simp (disch := omega) [decode_encXV, decode64, decodeXv, decodeXv0, encXV_fld_2_6, encXV_reg_8, encXV_reg_13,
      encXV_reg_18, encXV_reg_23, encXV_fld_28_4, encXV_fld_32_5, encXV_fld_37_4, encXV_fld_41_4, encXV_fld_45_3,
      encXV_bit_48, encXV_k_49, encXV_bit_52, encXV_fld_53_11, zero, need, XvFields.noRounding, Fin.eta, withFmt_code, withRnd_code, hw]⟩

theorem vslideUpXv (x : XvFields) (d a b : Reg) : Statement (.vslideUpXv x d a b) :=
  fun hw => ⟨_, rfl, by
    replace hw : (x.wfMove) = true := hw
    simp [XvFields.wfMove, XvFields.noRounding] at hw
    obtain ⟨fmt, rnd, nsat, k, q⟩ := x
    dsimp only at hw
    simp (disch := omega) [decode_encXV, decode64, decodeXv, decodeXv0, encXV_fld_2_6, encXV_reg_8, encXV_reg_13,
      encXV_reg_18, encXV_reg_23, encXV_fld_28_4, encXV_fld_32_5, encXV_fld_37_4, encXV_fld_41_4, encXV_fld_45_3,
      encXV_bit_48, encXV_k_49, encXV_bit_52, encXV_fld_53_11, zero, need, XvFields.noRounding, Fin.eta, withFmt_code, withRnd_code, hw]⟩

theorem vslideDnXv (x : XvFields) (d a b : Reg) : Statement (.vslideDnXv x d a b) :=
  fun hw => ⟨_, rfl, by
    replace hw : (x.wfMove) = true := hw
    simp [XvFields.wfMove, XvFields.noRounding] at hw
    obtain ⟨fmt, rnd, nsat, k, q⟩ := x
    dsimp only at hw
    simp (disch := omega) [decode_encXV, decode64, decodeXv, decodeXv0, encXV_fld_2_6, encXV_reg_8, encXV_reg_13,
      encXV_reg_18, encXV_reg_23, encXV_fld_28_4, encXV_fld_32_5, encXV_fld_37_4, encXV_fld_41_4, encXV_fld_45_3,
      encXV_bit_48, encXV_k_49, encXV_bit_52, encXV_fld_53_11, zero, need, XvFields.noRounding, Fin.eta, withFmt_code, withRnd_code, hw]⟩

theorem vbcastXv (x : XvFields) (d a : Reg) : Statement (.vbcastXv x d a) :=
  fun hw => ⟨_, rfl, by
    replace hw : (x.wfMove) = true := hw
    simp [XvFields.wfMove, XvFields.noRounding] at hw
    obtain ⟨fmt, rnd, nsat, k, q⟩ := x
    dsimp only at hw
    simp (disch := omega) [decode_encXV, decode64, decodeXv, decodeXv0, encXV_fld_2_6, encXV_reg_8, encXV_reg_13,
      encXV_reg_18, encXV_reg_23, encXV_fld_28_4, encXV_fld_32_5, encXV_fld_37_4, encXV_fld_41_4, encXV_fld_45_3,
      encXV_bit_48, encXV_k_49, encXV_bit_52, encXV_fld_53_11, zero, need, XvFields.noRounding, Fin.eta, withFmt_code, withRnd_code, hw]⟩

theorem vredAddXv (x : XvFields) (d a b : Reg) : Statement (.vredAddXv x d a b) :=
  fun hw => ⟨_, rfl, by
    replace hw : (x.wfOp) = true := hw
    simp [XvFields.wfOp] at hw
    obtain ⟨fmt, rnd, nsat, k, q⟩ := x
    dsimp only at hw
    simp (disch := omega) [decode_encXV, decode64, decodeXv, decodeXv0, encXV_fld_2_6, encXV_reg_8, encXV_reg_13,
      encXV_reg_18, encXV_reg_23, encXV_fld_28_4, encXV_fld_32_5, encXV_fld_37_4, encXV_fld_41_4, encXV_fld_45_3,
      encXV_bit_48, encXV_k_49, encXV_bit_52, encXV_fld_53_11, zero, need, Fin.eta, withFmt_code, withRnd_code, hw]⟩

theorem vredMinXv (x : XvFields) (d a b : Reg) : Statement (.vredMinXv x d a b) :=
  fun hw => ⟨_, rfl, by
    replace hw : (x.wfOp) = true := hw
    simp [XvFields.wfOp] at hw
    obtain ⟨fmt, rnd, nsat, k, q⟩ := x
    dsimp only at hw
    simp (disch := omega) [decode_encXV, decode64, decodeXv, decodeXv0, encXV_fld_2_6, encXV_reg_8, encXV_reg_13,
      encXV_reg_18, encXV_reg_23, encXV_fld_28_4, encXV_fld_32_5, encXV_fld_37_4, encXV_fld_41_4, encXV_fld_45_3,
      encXV_bit_48, encXV_k_49, encXV_bit_52, encXV_fld_53_11, zero, need, Fin.eta, withFmt_code, withRnd_code, hw]⟩

theorem vredMaxXv (x : XvFields) (d a b : Reg) : Statement (.vredMaxXv x d a b) :=
  fun hw => ⟨_, rfl, by
    replace hw : (x.wfOp) = true := hw
    simp [XvFields.wfOp] at hw
    obtain ⟨fmt, rnd, nsat, k, q⟩ := x
    dsimp only at hw
    simp (disch := omega) [decode_encXV, decode64, decodeXv, decodeXv0, encXV_fld_2_6, encXV_reg_8, encXV_reg_13,
      encXV_reg_18, encXV_reg_23, encXV_fld_28_4, encXV_fld_32_5, encXV_fld_37_4, encXV_fld_41_4, encXV_fld_45_3,
      encXV_bit_48, encXV_k_49, encXV_bit_52, encXV_fld_53_11, zero, need, Fin.eta, withFmt_code, withRnd_code, hw]⟩

theorem vscanAddXv (x : XvFields) (d a b : Reg) : Statement (.vscanAddXv x d a b) :=
  fun hw => ⟨_, rfl, by
    replace hw : (x.wfOp) = true := hw
    simp [XvFields.wfOp] at hw
    obtain ⟨fmt, rnd, nsat, k, q⟩ := x
    dsimp only at hw
    simp (disch := omega) [decode_encXV, decode64, decodeXv, decodeXv0, encXV_fld_2_6, encXV_reg_8, encXV_reg_13,
      encXV_reg_18, encXV_reg_23, encXV_fld_28_4, encXV_fld_32_5, encXV_fld_37_4, encXV_fld_41_4, encXV_fld_45_3,
      encXV_bit_48, encXV_k_49, encXV_bit_52, encXV_fld_53_11, zero, need, Fin.eta, withFmt_code, withRnd_code, hw]⟩

theorem vmvgXv (x : XvFields) (d a b : Reg) : Statement (.vmvgXv x d a b) :=
  fun hw => ⟨_, rfl, by
    replace hw : (x.wfMove && x.k == 0) = true := hw
    simp [XvFields.wfMove, XvFields.noRounding] at hw
    obtain ⟨fmt, rnd, nsat, k, q⟩ := x
    dsimp only at hw
    simp (disch := omega) [decode_encXV, decode64, decodeXv, decodeXv0, encXV_fld_2_6, encXV_reg_8, encXV_reg_13,
      encXV_reg_18, encXV_reg_23, encXV_fld_28_4, encXV_fld_32_5, encXV_fld_37_4, encXV_fld_41_4, encXV_fld_45_3,
      encXV_bit_48, encXV_k_49, encXV_bit_52, encXV_fld_53_11, zero, need, XvFields.noRounding, Fin.eta, withFmt_code, withRnd_code, hw]⟩

theorem vcvt (x : XvFields) (sfmt : Fmt) (p : BitVec 3) (d a : Reg) : Statement (.vcvt x sfmt p d a) :=
  fun hw => ⟨_, rfl, by
    have h4 := sfmt.code_lt
    replace hw : (!x.fmt.isBlock && !sfmt.isBlock && decide (p.toNat < partCount x.fmt sfmt)) = true := hw
    simp at hw
    obtain ⟨fmt, rnd, nsat, k, q⟩ := x
    dsimp only at hw
    have hp := p.isLt
    simp (disch := omega) [decode_encXV, decode64, decodeXv, decodeXv1, encXV_fld_2_6, encXV_reg_8, encXV_reg_13,
      encXV_reg_18, encXV_reg_23, encXV_fld_28_4, encXV_fld_32_5, encXV_fld_37_4, encXV_fld_41_4, encXV_fld_45_3,
      encXV_bit_48, encXV_k_49, encXV_bit_52, encXV_fld_53_3, encXV_fld_56_8, encXV_bits_3_53, zero, need, Fin.eta,
      BitVec.ofNat_toNat, BitVec.setWidth_eq, withFmt_code, withRnd_code, withFmt_code, withRnd_code, hp,
      Nat.mod_eq_of_lt, hw]⟩

theorem vmxscale (x : XvFields) (b16 : Bool) (p : BitVec 7) (d a : Reg) :
    Statement (.vmxscale x b16 p d a) :=
  fun hw => ⟨_, rfl, by
    have h10 := b16.toNat_lt
    have e1 : (b16.toNat + p.toNat * 16) / 2 % 8 = 0 := by omega
    have e2 : (b16.toNat + p.toNat * 16) % 2 = b16.toNat := by omega
    have e3 : (b16.toNat + p.toNat * 16) / 16 = p.toNat := by omega
    have e4 : (b16.toNat == 1) = b16 := by cases b16 <;> rfl
    replace hw : (x.noRounding && wfScales x.fmt b16 p) = true := hw
    simp [XvFields.noRounding, wfScales] at hw
    obtain ⟨fmt, rnd, nsat, k, q⟩ := x
    obtain ⟨⟨hr, hn⟩, ⟨hb, hg⟩, hs⟩ := hw
    dsimp only at hr hn hb hg hs
    subst hr hn
    simp (disch := omega) [decode_encXV, decode64, decodeXv, decodeXv1, encXV_fld_2_6, encXV_reg_8, encXV_reg_13,
      encXV_reg_18, encXV_reg_23, encXV_fld_28_4, encXV_fld_32_5, encXV_fld_37_4, encXV_fld_41_4, encXV_fld_45_3,
      encXV_bit_48, encXV_k_49, encXV_bit_52, encXV_bit_53, encXV_fld_54_3, encXV_fld_57_7, encXV_bits_7_57, zero,
      need, Fin.eta, withFmt_code, withRnd_code, e1, e2, e3, e4, hb, hg, hs, BitVec.ofNat_toNat, BitVec.setWidth_eq]⟩

theorem vmxq (x : XvFields) (b16 : Bool) (qp : BitVec 3) (p : BitVec 7) (d a b : Reg) :
    Statement (.vmxq x b16 qp p d a b) :=
  fun hw => ⟨_, rfl, by
    have h10 := b16.toNat_lt
    have e1 : (b16.toNat + qp.toNat * 2 + p.toNat * 16) / 2 = qp.toNat + p.toNat * 8 := by omega
    have e2 : (b16.toNat + qp.toNat * 2 + p.toNat * 16) % 2 = b16.toNat := by omega
    have e3 : (b16.toNat + qp.toNat * 2 + p.toNat * 16) / 16 = p.toNat := by omega
    have e4 : (b16.toNat == 1) = b16 := by cases b16 <;> rfl
    have e5 : (qp.toNat + p.toNat * 8) % 8 = qp.toNat := by omega
    have e6 : BitVec.ofNat 3 (qp.toNat + p.toNat * 8) = qp := by
      apply BitVec.eq_of_toNat_eq
      simp only [BitVec.toNat_ofNat]
      omega
    replace hw : (wfScales x.fmt b16 p && (x.fmt != .mxf8 || decide (qp.toNat < 4))) = true := hw
    simp [wfScales] at hw
    obtain ⟨fmt, rnd, nsat, k, q⟩ := x
    obtain ⟨⟨⟨hb, hg⟩, hs⟩, h4⟩ := hw
    dsimp only at hb hg hs h4
    simp (disch := omega) [decode_encXV, decode64, decodeXv, decodeXv1, encXV_fld_2_6, encXV_reg_8, encXV_reg_13,
      encXV_reg_18, encXV_reg_23, encXV_fld_28_4, encXV_fld_32_5, encXV_fld_37_4, encXV_fld_41_4, encXV_fld_45_3,
      encXV_bit_48, encXV_k_49, encXV_bit_52, encXV_bit_53, encXV_fld_54_3, encXV_fld_57_7, encXV_bits_3_54,
      encXV_bits_7_57, zero, need, Fin.eta, withFmt_code, withRnd_code, e1, e2, e3, e4, e5, e6, hb, hg, hs, h4,
      BitVec.ofNat_toNat, BitVec.setWidth_eq]⟩

theorem vdotMx (x : XvFields) (b16 : Bool) (d a b c : Reg) :
    Statement (.vdotMx x b16 d a b c) :=
  fun hw => ⟨_, rfl, by
    have h10 := b16.toNat_lt
    have e1 : b16.toNat / 2 = 0 := by omega
    have e2 : b16.toNat % 2 = b16.toNat := by omega
    have e4 : (b16.toNat == 1) = b16 := by cases b16 <;> rfl
    replace hw : (x.noRounding && x.fmt.isBlock && (!b16 || x.fmt == .gf4)) = true := hw
    simp [XvFields.noRounding] at hw
    obtain ⟨fmt, rnd, nsat, k, q⟩ := x
    obtain ⟨⟨⟨hr, hn⟩, hb⟩, hg⟩ := hw
    dsimp only at hr hn hb hg
    subst hr hn
    simp (disch := omega) [decode_encXV, decode64, decodeXv, decodeXv1, encXV_fld_2_6, encXV_reg_8, encXV_reg_13,
      encXV_reg_18, encXV_reg_23, encXV_fld_28_4, encXV_fld_32_5, encXV_fld_37_4, encXV_fld_41_4, encXV_fld_45_3,
      encXV_bit_48, encXV_k_49, encXV_bit_52, encXV_bit_53, encXV_fld_54_10, zero, need, Fin.eta, withFmt_code,
      withRnd_code, e1, e2, e4, hb, hg]⟩

theorem vlds (x : XvFields) (ql : Qual) (d a b : Reg) : Statement (.vlds x ql d a b) :=
  fun hw => ⟨_, rfl, by
    have h7 := ql.imm_lt
    replace hw : (x.wfMem ql) = true := hw
    simp [XvFields.wfMem, XvFields.noRounding] at hw
    obtain ⟨fmt, rnd, nsat, k, q⟩ := x
    dsimp only at hw
    obtain ⟨⟨⟨hr, hn⟩, hf⟩, hq⟩ := hw
    subst hr hn
    simp (disch := omega) [decode_encXV, decode64, decodeXv, decodeXv2, encXV_fld_2_6, encXV_reg_8, encXV_reg_13,
      encXV_reg_18, encXV_fld_23_5, encXV_fld_28_4, encXV_fld_32_5, encXV_fld_37_4, encXV_fld_41_4, encXV_fld_45_3,
      encXV_bit_48, encXV_k_49, encXV_bit_52, encXV_fld_53_2, encXV_fld_55_3, encXV_fld_58_6, zero, need, Fin.eta,
      Qual.imm_ord, Qual.imm_scope, Qual.imm_rest, withFmt_code, withRnd_code, withQual_code hq, hf]⟩

theorem vsts (x : XvFields) (ql : Qual) (d a b : Reg) : Statement (.vsts x ql d a b) :=
  fun hw => ⟨_, rfl, by
    have h7 := ql.imm_lt
    replace hw : (x.wfMem ql) = true := hw
    simp [XvFields.wfMem, XvFields.noRounding] at hw
    obtain ⟨fmt, rnd, nsat, k, q⟩ := x
    dsimp only at hw
    obtain ⟨⟨⟨hr, hn⟩, hf⟩, hq⟩ := hw
    subst hr hn
    simp (disch := omega) [decode_encXV, decode64, decodeXv, decodeXv2, encXV_fld_2_6, encXV_reg_8, encXV_reg_13,
      encXV_reg_18, encXV_fld_23_5, encXV_fld_28_4, encXV_fld_32_5, encXV_fld_37_4, encXV_fld_41_4, encXV_fld_45_3,
      encXV_bit_48, encXV_k_49, encXV_bit_52, encXV_fld_53_2, encXV_fld_55_3, encXV_fld_58_6, zero, need, Fin.eta,
      Qual.imm_ord, Qual.imm_scope, Qual.imm_rest, withFmt_code, withRnd_code, withQual_code hq, hf]⟩

theorem vldx (x : XvFields) (ql : Qual) (d a b : Reg) : Statement (.vldx x ql d a b) :=
  fun hw => ⟨_, rfl, by
    have h7 := ql.imm_lt
    replace hw : (x.wfMem ql) = true := hw
    simp [XvFields.wfMem, XvFields.noRounding] at hw
    obtain ⟨fmt, rnd, nsat, k, q⟩ := x
    dsimp only at hw
    obtain ⟨⟨⟨hr, hn⟩, hf⟩, hq⟩ := hw
    subst hr hn
    simp (disch := omega) [decode_encXV, decode64, decodeXv, decodeXv2, encXV_fld_2_6, encXV_reg_8, encXV_reg_13,
      encXV_reg_18, encXV_fld_23_5, encXV_fld_28_4, encXV_fld_32_5, encXV_fld_37_4, encXV_fld_41_4, encXV_fld_45_3,
      encXV_bit_48, encXV_k_49, encXV_bit_52, encXV_fld_53_2, encXV_fld_55_3, encXV_fld_58_6, zero, need, Fin.eta,
      Qual.imm_ord, Qual.imm_scope, Qual.imm_rest, withFmt_code, withRnd_code, withQual_code hq, hf]⟩

theorem vstx (x : XvFields) (ql : Qual) (d a b : Reg) : Statement (.vstx x ql d a b) :=
  fun hw => ⟨_, rfl, by
    have h7 := ql.imm_lt
    replace hw : (x.wfMem ql) = true := hw
    simp [XvFields.wfMem, XvFields.noRounding] at hw
    obtain ⟨fmt, rnd, nsat, k, q⟩ := x
    dsimp only at hw
    obtain ⟨⟨⟨hr, hn⟩, hf⟩, hq⟩ := hw
    subst hr hn
    simp (disch := omega) [decode_encXV, decode64, decodeXv, decodeXv2, encXV_fld_2_6, encXV_reg_8, encXV_reg_13,
      encXV_reg_18, encXV_fld_23_5, encXV_fld_28_4, encXV_fld_32_5, encXV_fld_37_4, encXV_fld_41_4, encXV_fld_45_3,
      encXV_bit_48, encXV_k_49, encXV_bit_52, encXV_fld_53_2, encXV_fld_55_3, encXV_fld_58_6, zero, need, Fin.eta,
      Qual.imm_ord, Qual.imm_scope, Qual.imm_rest, withFmt_code, withRnd_code, withQual_code hq, hf]⟩

theorem c16AddRr (d s : Reg) : Statement (.c16AddRr d s) :=
  fun hw => ⟨_, rfl, by
    replace hw : (d.val != 0 && s.val != 0) = true := hw
    simp at hw
    simp (disch := omega) [decode_enc16, decode16, enc16_code, enc16_reg_2, enc16_reg_7, need, Fin.eta, hw]⟩

theorem c16Mov (d s : Reg) : Statement (.c16Mov d s) :=
  fun hw => ⟨_, rfl, by
    replace hw : (d.val != 0) = true := hw
    simp at hw
    simp (disch := omega) [decode_enc16, decode16, enc16_code, enc16_reg_2, enc16_reg_7, need, Fin.eta, hw]⟩

theorem c16AddImm (d : Reg) (i : BitVec 5) : Statement (.c16AddImm d i) :=
  fun hw => ⟨_, rfl, by
    simp (disch := omega) [decode_enc16, decode16, enc16_code, enc16_reg_2, enc16_bits_5_7, Fin.eta,
      BitVec.ofNat_toNat, BitVec.setWidth_eq]⟩

theorem c16Li (d : Reg) (i : BitVec 5) : Statement (.c16Li d i) :=
  fun hw => ⟨_, rfl, by
    simp (disch := omega) [decode_enc16, decode16, enc16_code, enc16_reg_2, enc16_bits_5_7, Fin.eta,
      BitVec.ofNat_toNat, BitVec.setWidth_eq]⟩

theorem c16Sub (d s : Reg) : Statement (.c16Sub d s) :=
  fun hw => ⟨_, rfl, by
    simp (disch := omega) [decode_enc16, decode16, enc16_code, enc16_reg_2, enc16_reg_7, Fin.eta]⟩

theorem c16And (d s : Reg) : Statement (.c16And d s) :=
  fun hw => ⟨_, rfl, by
    simp (disch := omega) [decode_enc16, decode16, enc16_code, enc16_reg_2, enc16_reg_7, Fin.eta]⟩

theorem c16Or (d s : Reg) : Statement (.c16Or d s) :=
  fun hw => ⟨_, rfl, by
    simp (disch := omega) [decode_enc16, decode16, enc16_code, enc16_reg_2, enc16_reg_7, Fin.eta]⟩

theorem c16Xor (d s : Reg) : Statement (.c16Xor d s) :=
  fun hw => ⟨_, rfl, by
    simp (disch := omega) [decode_enc16, decode16, enc16_code, enc16_reg_2, enc16_reg_7, Fin.eta]⟩

theorem c16Sll (d : Reg) (u : BitVec 5) : Statement (.c16Sll d u) :=
  fun hw => ⟨_, rfl, by
    simp (disch := omega) [decode_enc16, decode16, enc16_code, enc16_reg_2, enc16_bits_5_7, Fin.eta,
      BitVec.ofNat_toNat, BitVec.setWidth_eq]⟩

theorem c16Srl (d : Reg) (u : BitVec 5) : Statement (.c16Srl d u) :=
  fun hw => ⟨_, rfl, by
    simp (disch := omega) [decode_enc16, decode16, enc16_code, enc16_reg_2, enc16_bits_5_7, Fin.eta,
      BitVec.ofNat_toNat, BitVec.setWidth_eq]⟩

theorem c16Sra (d : Reg) (u : BitVec 5) : Statement (.c16Sra d u) :=
  fun hw => ⟨_, rfl, by
    simp (disch := omega) [decode_enc16, decode16, enc16_code, enc16_reg_2, enc16_bits_5_7, Fin.eta,
      BitVec.ofNat_toNat, BitVec.setWidth_eq]⟩

theorem c16LdDSp (d : Reg) (u : BitVec 5) : Statement (.c16LdDSp d u) :=
  fun hw => ⟨_, rfl, by
    simp (disch := omega) [decode_enc16, decode16, enc16_code, enc16_reg_2, enc16_bits_5_7, Fin.eta,
      BitVec.ofNat_toNat, BitVec.setWidth_eq]⟩

theorem c16StDSp (d : Reg) (u : BitVec 5) : Statement (.c16StDSp d u) :=
  fun hw => ⟨_, rfl, by
    simp (disch := omega) [decode_enc16, decode16, enc16_code, enc16_reg_2, enc16_bits_5_7, Fin.eta,
      BitVec.ofNat_toNat, BitVec.setWidth_eq]⟩

theorem c16LdW (d s : Reg) : Statement (.c16LdW d s) :=
  fun hw => ⟨_, rfl, by
    simp (disch := omega) [decode_enc16, decode16, enc16_code, enc16_reg_2, enc16_reg_7, Fin.eta]⟩

theorem c16StW (d s : Reg) : Statement (.c16StW d s) :=
  fun hw => ⟨_, rfl, by
    simp (disch := omega) [decode_enc16, decode16, enc16_code, enc16_reg_2, enc16_reg_7, Fin.eta]⟩

theorem c16LdD (d s : Reg) : Statement (.c16LdD d s) :=
  fun hw => ⟨_, rfl, by
    simp (disch := omega) [decode_enc16, decode16, enc16_code, enc16_reg_2, enc16_reg_7, Fin.eta]⟩

theorem c16StD (d s : Reg) : Statement (.c16StD d s) :=
  fun hw => ⟨_, rfl, by
    simp (disch := omega) [decode_enc16, decode16, enc16_code, enc16_reg_2, enc16_reg_7, Fin.eta]⟩

theorem c16J (o : BitVec 10) : Statement (.c16J o) :=
  fun hw => ⟨_, rfl, by
    simp (disch := omega) [decode_enc16J, decode16, enc16J_code, enc16J_bits_10_2, BitVec.ofNat_toNat,
      BitVec.setWidth_eq]⟩

theorem c16Jal (o : BitVec 10) : Statement (.c16Jal o) :=
  fun hw => ⟨_, rfl, by
    simp (disch := omega) [decode_enc16J, decode16, enc16J_code, enc16J_bits_10_2, BitVec.ofNat_toNat,
      BitVec.setWidth_eq]⟩

theorem c16Jr (s : Reg) : Statement (.c16Jr s) :=
  fun hw => ⟨_, rfl, by
    simp (disch := omega) [decode_enc16, decode16, enc16_code, enc16_reg_2, enc16_reg_7, zero, need, Fin.eta]⟩

theorem c16Jalr (s : Reg) : Statement (.c16Jalr s) :=
  fun hw => ⟨_, rfl, by
    simp (disch := omega) [decode_enc16, decode16, enc16_code, enc16_reg_2, enc16_reg_7, zero, need, Fin.eta]⟩

theorem c16Nop : Statement (.c16Nop) :=
  fun hw => ⟨_, rfl, by
    simp (disch := omega) [decode_enc16J, decode16, enc16J_code, enc16J_fld_2_10, zero, need]⟩

theorem c16Fend : Statement (.c16Fend) :=
  fun hw => ⟨_, rfl, by
    simp (disch := omega) [decode_enc16J, decode16, enc16J_code, enc16J_fld_2_10, zero, need]⟩

theorem c16Brk : Statement (.c16Brk) :=
  fun hw => ⟨_, rfl, by
    simp (disch := omega) [decode_enc16J, decode16, enc16J_code, enc16J_fld_2_10, zero, need]⟩

theorem lidx (f : Fmt) (q : QReg) (a b c : Reg) : Statement (.lidx f q a b c) :=
  fun hw => ⟨_, rfl, by
    have h1 := f.code_lt
    replace hw : (f.isElement) = true := hw
    simp (disch := omega) [decode_encXE, decode64, decodeXs, encXE_fld_2_6, encXE_reg_8, encXE_reg_13, encXE_reg_18,
      encXE_reg_23, encXE_fld_28_4, encXE_fld_32_4, encXE_fld_36_28, zero, need, Fin.eta, withQueue_code,
      withFmt_code, hw]⟩

theorem lsisect (f : Fmt) (q : QReg) (a b c : Reg) : Statement (.lsisect f q a b c) :=
  fun hw => ⟨_, rfl, by
    have h1 := f.code_lt
    replace hw : (f.isKey) = true := hw
    simp (disch := omega) [decode_encXE, decode64, decodeXs, encXE_fld_2_6, encXE_reg_8, encXE_reg_13, encXE_reg_18,
      encXE_reg_23, encXE_fld_28_4, encXE_fld_32_4, encXE_fld_36_28, zero, need, Fin.eta, withQueue_code,
      withFmt_code, hw]⟩

theorem lmerge (f : Fmt) (q : QReg) (a b c : Reg) : Statement (.lmerge f q a b c) :=
  fun hw => ⟨_, rfl, by
    have h1 := f.code_lt
    replace hw : (f.isKey) = true := hw
    simp (disch := omega) [decode_encXE, decode64, decodeXs, encXE_fld_2_6, encXE_reg_8, encXE_reg_13, encXE_reg_18,
      encXE_reg_23, encXE_fld_28_4, encXE_fld_32_4, encXE_fld_36_28, zero, need, Fin.eta, withQueue_code,
      withFmt_code, hw]⟩

theorem lmpart (f : Fmt) (d a b c : Reg) : Statement (.lmpart f d a b c) :=
  fun hw => ⟨_, rfl, by
    have h1 := f.code_lt
    replace hw : (f.isKey) = true := hw
    simp (disch := omega) [decode_encXE, decode64, decodeXs, encXE_fld_2_6, encXE_reg_8, encXE_reg_13, encXE_reg_18,
      encXE_reg_23, encXE_fld_28_4, encXE_fld_32_4, encXE_fld_36_28, zero, need, Fin.eta, withFmt_code, hw]⟩

theorem lcoord (f : Fmt) (q : QReg) (a b c : Reg) : Statement (.lcoord f q a b c) :=
  fun hw => ⟨_, rfl, by
    have h1 := f.code_lt
    replace hw : (f == .i16 || f == .i32) = true := hw
    simp at hw
    simp (disch := omega) [decode_encXE, decode64, decodeXs, encXE_fld_2_6, encXE_reg_8, encXE_reg_13, encXE_reg_18,
      encXE_reg_23, encXE_fld_28_4, encXE_fld_32_4, encXE_fld_36_28, zero, need, Fin.eta, withQueue_code,
      withFmt_code, hw]⟩

theorem sscat (f : Fmt) (a : Reg) (qd qi : QReg) : Statement (.sscat f a qd qi) :=
  fun hw => ⟨_, rfl, by
    have h1 := f.code_lt
    replace hw : (f.isElement) = true := hw
    simp (disch := omega) [decode_encXE, decode64, decodeXs, encXE_fld_2_6, encXE_reg_8, encXE_reg_13, encXE_reg_18,
      encXE_reg_23, encXE_fld_28_4, encXE_fld_32_4, encXE_fld_36_28, zero, need, Fin.eta, withQueue_code,
      withFmt_code, hw]⟩

theorem bldw (d a b : Reg) (off : BitVec 16) : Statement (.bldw d a b off) :=
  fun hw => ⟨_, rfl, by
    simp (disch := omega) [decode_encXE, decode64, decodeBse, encXE_fld_2_6, encXE_reg_8, encXE_reg_13, encXE_reg_18,
      encXE_reg_23, encXE_fld_28_4, encXE_fld_32_8, encXE_fld_41_7, encXE_bit_40, encXE_bits_16_48, zero, need,
      Fin.eta, BitVec.ofNat_toNat, BitVec.setWidth_eq]⟩

theorem bldwGexp (d a b : Reg) (off : BitVec 16) : Statement (.bldwGexp d a b off) :=
  fun hw => ⟨_, rfl, by
    simp (disch := omega) [decode_encXE, decode64, decodeBse, encXE_fld_2_6, encXE_reg_8, encXE_reg_13, encXE_reg_18,
      encXE_reg_23, encXE_fld_28_4, encXE_fld_32_8, encXE_fld_41_7, encXE_bit_40, encXE_bits_16_48, zero, need,
      Fin.eta, BitVec.ofNat_toNat, BitVec.setWidth_eq]⟩

theorem bset (bsd : Fin 16) (a : Reg) : Statement (.bset bsd a) :=
  fun hw => ⟨_, rfl, by
    simp (disch := omega) [decode_encXE, decode64, decodeBse, encXE_fld_2_6, encXE_reg_8, encXE_reg_13, encXE_reg_18,
      encXE_reg_23, encXE_fld_28_4, encXE_fld_32_32, zero, need, Fin.eta, withHalfFile_code]⟩

theorem bstg (f : Fmt) (d a b : Reg) (bsn : Fin 16) : Statement (.bstg f d a b bsn) :=
  fun hw => ⟨_, rfl, by
    have h1 := f.code_lt
    replace hw : (f.isFloat) = true := hw
    simp (disch := omega) [decode_encXE, decode64, decodeBse, encXE_fld_2_6, encXE_reg_8, encXE_reg_13, encXE_reg_18,
      encXE_reg_23, encXE_fld_28_4, encXE_fld_32_4, encXE_fld_36_7, encXE_fld_47_17, encXE_nib_43, zero, need,
      Fin.eta, withFmt_code, nib_self, hw]⟩

theorem bchn (f : Fmt) (mode : ChainMode) (d a b : Reg) (n : Fin 16) : Statement (.bchn f mode d a b n) :=
  fun hw => ⟨_, rfl, by
    have h1 := f.code_lt
    have h5 := mode.code_lt
    replace hw : (f.isFloat) = true := hw
    simp (disch := omega) [decode_encXE, decode64, decodeBse, encXE_fld_2_6, encXE_reg_8, encXE_reg_13, encXE_reg_18,
      encXE_reg_23, encXE_fld_28_4, encXE_fld_32_4, encXE_fld_36_4, encXE_fld_40_3, encXE_fld_43_5, encXE_fld_48_16,
      zero, need, Fin.eta, withFmt_code, chainOf_code, withHalfFile_code, hw]⟩

theorem bmma (fa fb : Fmt) (acc : Bool) (d a b c : Reg) : Statement (.bmma fa fb acc d a b c) :=
  fun hw => ⟨_, rfl, by
    have h2 := fa.code_lt
    have h3 := fb.code_lt
    have h9 := acc.toNat_lt
    simp (disch := omega) [decode_encXE, decode64, decodeBse, encXE_fld_2_6, encXE_reg_8, encXE_reg_13, encXE_reg_18,
      encXE_reg_23, encXE_fld_28_4, encXE_fld_32_4, encXE_fld_36_4, encXE_fld_40_8, encXE_fld_49_15, encXE_bit_48,
      zero, need, Fin.eta, withFmt_code, toNat_mod_two, toNat_div_two]⟩

theorem bmmap (fa fb : Fmt) (acc : Bool) (d a b c : Reg) : Statement (.bmmap fa fb acc d a b c) :=
  fun hw => ⟨_, rfl, by
    have h2 := fa.code_lt
    have h3 := fb.code_lt
    have h9 := acc.toNat_lt
    simp (disch := omega) [decode_encXE, decode64, decodeBse, encXE_fld_2_6, encXE_reg_8, encXE_reg_13, encXE_reg_18,
      encXE_reg_23, encXE_fld_28_4, encXE_fld_32_4, encXE_fld_36_4, encXE_fld_40_8, encXE_fld_49_15, encXE_bit_48,
      zero, need, Fin.eta, withFmt_code, toNat_mod_two, toNat_div_two]⟩

theorem baccKeep (f : Fmt) (rnd : Rnd) (nsat : Bool) (d a b : Reg) : Statement (.baccKeep f rnd nsat d a b) :=
  fun hw => ⟨_, rfl, by
    have h1 := f.code_lt
    have h11 := baccI_lt rnd nsat
    replace hw : (f.isFloat) = true := hw
    simp (disch := omega) [decode_encXE, decode64, decodeBse, encXE_fld_2_6, encXE_reg_8, encXE_reg_13, encXE_reg_18,
      encXE_reg_23, encXE_fld_28_4, encXE_fld_32_4, encXE_fld_36_4, encXE_fld_40_3, encXE_fld_43_5, encXE_bit_51,
      encXE_fld_52_12, encXE_fld_48_3, zero, need, Fin.eta, withFmt_code, withRnd_code, withRnd_code, baccI_rnd,
      baccI_sat, baccI_rest, hw]⟩

theorem baccTake (f : Fmt) (rnd : Rnd) (nsat : Bool) (d a b : Reg) : Statement (.baccTake f rnd nsat d a b) :=
  fun hw => ⟨_, rfl, by
    have h1 := f.code_lt
    have h11 := baccI_lt rnd nsat
    replace hw : (f.isFloat) = true := hw
    simp (disch := omega) [decode_encXE, decode64, decodeBse, encXE_fld_2_6, encXE_reg_8, encXE_reg_13, encXE_reg_18,
      encXE_reg_23, encXE_fld_28_4, encXE_fld_32_4, encXE_fld_36_4, encXE_fld_40_3, encXE_fld_43_5, encXE_bit_51,
      encXE_fld_52_12, encXE_fld_48_3, zero, need, Fin.eta, withFmt_code, withRnd_code, withRnd_code, baccI_rnd,
      baccI_sat, baccI_rest, hw]⟩

theorem baccClr (d b : Reg) : Statement (.baccClr d b) :=
  fun hw => ⟨_, rfl, by
    simp (disch := omega) [decode_encXE, decode64, decodeBse, encXE_fld_2_6, encXE_reg_8, encXE_reg_13, encXE_reg_18,
      encXE_reg_23, encXE_fld_28_4, encXE_fld_32_4, encXE_fld_36_4, encXE_fld_40_3, encXE_fld_43_5, encXE_fld_52_12,
      encXE_fld_48_3, encXE_fld_48_4, zero, need, Fin.eta, withFmt_zero, withRnd_zero]⟩

theorem baccRes (f : Fmt) (rnd : Rnd) (nsat : Bool) (sh : BitVec 5) (d a b : Reg) : Statement (.baccRes f rnd nsat sh
  d a b) :=
  fun hw => ⟨_, rfl, by
    have h1 := f.code_lt
    have h11 := baccI_lt rnd nsat
    replace hw : (f.isResidueOut && (f != .rns3 || sh == 0)) = true := hw
    simp at hw
    have hz : f = .rns3 → sh.toNat = 0 := fun h => by rcases hw.2 with h1 | h1 <;> simp_all
    simp (disch := omega) [decode_encXE, decode64, decodeBse, encXE_fld_2_6, encXE_reg_8, encXE_reg_13, encXE_reg_18,
      encXE_reg_23, encXE_fld_28_4, encXE_fld_32_4, encXE_fld_36_4, encXE_fld_40_3, encXE_fld_43_5, encXE_bits_5_43,
      encXE_bit_51, encXE_fld_52_12, encXE_fld_48_3, zero, need, Fin.eta, BitVec.ofNat_toNat, BitVec.setWidth_eq,
      withFmt_code, withRnd_code, withRnd_code, baccI_rnd, baccI_sat, baccI_rest, hw]
    exact hz⟩

theorem baccRestake (f : Fmt) (rnd : Rnd) (nsat : Bool) (sh : BitVec 5) (d a b : Reg) : Statement (.baccRestake f rnd
  nsat sh d a b) :=
  fun hw => ⟨_, rfl, by
    have h1 := f.code_lt
    have h11 := baccI_lt rnd nsat
    replace hw : (f.isResidueOut && (f != .rns3 || sh == 0)) = true := hw
    simp at hw
    have hz : f = .rns3 → sh.toNat = 0 := fun h => by rcases hw.2 with h1 | h1 <;> simp_all
    simp (disch := omega) [decode_encXE, decode64, decodeBse, encXE_fld_2_6, encXE_reg_8, encXE_reg_13, encXE_reg_18,
      encXE_reg_23, encXE_fld_28_4, encXE_fld_32_4, encXE_fld_36_4, encXE_fld_40_3, encXE_fld_43_5, encXE_bits_5_43,
      encXE_bit_51, encXE_fld_52_12, encXE_fld_48_3, zero, need, Fin.eta, BitVec.ofNat_toNat, BitVec.setWidth_eq,
      withFmt_code, withRnd_code, withRnd_code, baccI_rnd, baccI_sat, baccI_rest, hw]
    exact hz⟩

theorem brst (label : BitVec 15) : Statement (.brst label) :=
  fun hw => ⟨_, rfl, by
    have hb0 : label.toNat < 32768 := label.isLt
    simp (disch := omega) [decode_encXE, decode64, decodeBse, encXE_fld_2_6, encXE_fld_28_4, encXE_fld_8_20,
      encXE_fld_32_16, encXE_fld_63_1, encXE_bits_15_48, zero, need, BitVec.ofNat_toNat, BitVec.setWidth_eq, hb0]⟩

theorem bwait (a : Reg) : Statement (.bwait a) :=
  fun hw => ⟨_, rfl, by
    simp (disch := omega) [decode_encXE, decode64, decodeBse, encXE_fld_2_6, encXE_reg_8, encXE_reg_13, encXE_reg_18,
      encXE_reg_23, encXE_fld_28_4, encXE_fld_32_32, zero, need, Fin.eta]⟩

theorem bpoll (d a : Reg) : Statement (.bpoll d a) :=
  fun hw => ⟨_, rfl, by
    simp (disch := omega) [decode_encXE, decode64, decodeBse, encXE_fld_2_6, encXE_reg_8, encXE_reg_13, encXE_reg_18,
      encXE_reg_23, encXE_fld_28_4, encXE_fld_32_32, zero, need, Fin.eta]⟩

theorem geval (op : GOp) (d a b c : Reg) : Statement (.geval op d a b c) :=
  fun hw => ⟨_, rfl, by
    have h6 := op.code_lt
    simp (disch := omega) [decode_encXE, decode64, decodeGre, encXE_fld_2_6, encXE_reg_8, encXE_reg_13, encXE_reg_18,
      encXE_reg_23, encXE_fld_28_4, encXE_fld_40_3, encXE_fld_43_5, encXE_fld_32_8, encXE_fld_48_2, encXE_fld_50_14,
      zero, need, Fin.eta, withOp_code]⟩

theorem gred (op : GOp) (d a b c : Reg) : Statement (.gred op d a b c) :=
  fun hw => ⟨_, rfl, by
    have h6 := op.code_lt
    simp (disch := omega) [decode_encXE, decode64, decodeGre, encXE_fld_2_6, encXE_reg_8, encXE_reg_13, encXE_reg_18,
      encXE_reg_23, encXE_fld_28_4, encXE_fld_40_3, encXE_fld_43_5, encXE_fld_32_8, encXE_fld_48_2, encXE_fld_50_14,
      zero, need, Fin.eta, withOp_code]⟩

theorem gseek (d a b : Reg) : Statement (.gseek d a b) :=
  fun hw => ⟨_, rfl, by
    simp (disch := omega) [decode_encXE, decode64, decodeGre, encXE_fld_2_6, encXE_reg_8, encXE_reg_13, encXE_reg_18,
      encXE_reg_23, encXE_fld_28_4, encXE_fld_40_3, encXE_fld_43_5, encXE_fld_32_8, encXE_fld_48_2, encXE_fld_50_14,
      zero, need, Fin.eta]⟩

theorem gpfx (op : GOp) (d a b c : Reg) : Statement (.gpfx op d a b c) :=
  fun hw => ⟨_, rfl, by
    have h6 := op.code_lt
    simp (disch := omega) [decode_encXE, decode64, decodeGre, encXE_fld_2_6, encXE_reg_8, encXE_reg_13, encXE_reg_18,
      encXE_reg_23, encXE_fld_28_4, encXE_fld_40_3, encXE_fld_43_5, encXE_fld_32_8, encXE_fld_48_2, encXE_fld_50_14,
      zero, need, Fin.eta, withOp_code]⟩

theorem gexpMemory (d a b c : Reg) : Statement (.gexpMemory d a b c) :=
  fun hw => ⟨_, rfl, by
    simp (disch := omega) [decode_encXE, decode64, decodeGre, encXE_fld_2_6, encXE_reg_8, encXE_reg_13, encXE_reg_18,
      encXE_reg_23, encXE_fld_28_4, encXE_fld_40_3, encXE_fld_43_5, encXE_fld_32_8, encXE_fld_48_2, encXE_fld_50_14,
      zero, need, Fin.eta]⟩

theorem gexpQueue (d a : Reg) (q : QReg) (c : Reg) : Statement (.gexpQueue d a q c) :=
  fun hw => ⟨_, rfl, by
    simp (disch := omega) [decode_encXE, decode64, decodeGre, encXE_fld_2_6, encXE_reg_8, encXE_reg_13, encXE_reg_18,
      encXE_reg_23, encXE_fld_28_4, encXE_fld_40_3, encXE_fld_43_5, encXE_fld_32_8, encXE_fld_48_2, encXE_fld_50_14,
      zero, need, Fin.eta, withQueue_code]⟩

theorem gexpWp (d a c : Reg) : Statement (.gexpWp d a c) :=
  fun hw => ⟨_, rfl, by
    simp (disch := omega) [decode_encXE, decode64, decodeGre, encXE_fld_2_6, encXE_reg_8, encXE_reg_13, encXE_reg_18,
      encXE_reg_23, encXE_fld_28_4, encXE_fld_40_3, encXE_fld_43_5, encXE_fld_32_8, encXE_fld_48_2, encXE_fld_50_14,
      zero, need, Fin.eta]⟩

theorem gmv (op : GOp) (d a b c : Reg) : Statement (.gmv op d a b c) :=
  fun hw => ⟨_, rfl, by
    have h6 := op.code_lt
    replace hw : (op != .mom) = true := hw
    simp at hw
    simp (disch := omega) [decode_encXE, decode64, decodeGre, encXE_fld_2_6, encXE_reg_8, encXE_reg_13, encXE_reg_18,
      encXE_reg_23, encXE_fld_28_4, encXE_fld_40_3, encXE_fld_43_5, encXE_fld_32_8, encXE_fld_48_2, encXE_fld_50_14,
      zero, need, Fin.eta, withOp_code, hw]⟩

theorem gwait (a : Reg) : Statement (.gwait a) :=
  fun hw => ⟨_, rfl, by
    simp (disch := omega) [decode_encXE, decode64, decodeGre, encXE_fld_2_6, encXE_reg_8, encXE_reg_13, encXE_reg_18,
      encXE_reg_23, encXE_fld_28_4, encXE_fld_40_3, encXE_fld_43_5, encXE_fld_32_8, encXE_fld_48_2, encXE_fld_50_14,
      zero, need, Fin.eta]⟩

theorem gpoll (d a : Reg) : Statement (.gpoll d a) :=
  fun hw => ⟨_, rfl, by
    simp (disch := omega) [decode_encXE, decode64, decodeGre, encXE_fld_2_6, encXE_reg_8, encXE_reg_13, encXE_reg_18,
      encXE_reg_23, encXE_fld_28_4, encXE_fld_40_3, encXE_fld_43_5, encXE_fld_32_8, encXE_fld_48_2, encXE_fld_50_14,
      zero, need, Fin.eta]⟩

theorem cpyq (d a : Reg) : Statement (.cpyq d a) :=
  fun hw => ⟨_, rfl, by
    replace hw : (a.val % 4 == 0) = true := hw
    simp at hw
    simp (disch := omega) [decode_encXE, decode64, decodeCopy, encXE_fld_2_6, encXE_reg_8, encXE_reg_13,
      encXE_reg_18, encXE_reg_23, encXE_fld_28_4, encXE_fld_32_32, zero, need, Fin.eta, hw]⟩

theorem cpyqb (d a : Reg) : Statement (.cpyqb d a) :=
  fun hw => ⟨_, rfl, by
    replace hw : (a.val % 4 == 0) = true := hw
    simp at hw
    simp (disch := omega) [decode_encXE, decode64, decodeCopy, encXE_fld_2_6, encXE_reg_8, encXE_reg_13,
      encXE_reg_18, encXE_reg_23, encXE_fld_28_4, encXE_fld_32_32, zero, need, Fin.eta, hw]⟩

theorem copyResume (core : Nat) (ch : Nat) : Statement (.copyResume core ch) :=
  fun h => by cases h

theorem copyAbort (core : Nat) (ch : Nat) : Statement (.copyAbort core ch) :=
  fun h => by cases h

theorem cwait (a : Reg) (ch : BitVec 2) : Statement (.cwait a ch) :=
  fun hw => ⟨_, rfl, by
    have hb0 : ch.toNat < 4 := ch.isLt
    simp (disch := omega) [decode_encXE, decode64, decodeCopy, encXE_fld_2_6, encXE_reg_8, encXE_reg_13,
      encXE_reg_18, encXE_reg_23, encXE_fld_28_4, encXE_bits_2_43, encXE_fld_32_11, encXE_fld_45_19, zero, need,
      Fin.eta, BitVec.ofNat_toNat, BitVec.setWidth_eq, hb0]⟩

theorem cpoll (d a : Reg) (ch : BitVec 2) : Statement (.cpoll d a ch) :=
  fun hw => ⟨_, rfl, by
    have hb0 : ch.toNat < 4 := ch.isLt
    simp (disch := omega) [decode_encXE, decode64, decodeCopy, encXE_fld_2_6, encXE_reg_8, encXE_reg_13,
      encXE_reg_18, encXE_reg_23, encXE_fld_28_4, encXE_bits_2_43, encXE_fld_32_11, encXE_fld_45_19, zero, need,
      Fin.eta, BitVec.ofNat_toNat, BitVec.setWidth_eq, hb0]⟩

theorem wldp (d a : Reg) : Statement (.wldp d a) :=
  fun hw => ⟨_, rfl, by
    simp (disch := omega) [decode_encX, decode64, decodeWalk, encX_fld_2_6, encX_reg_8, encX_reg_13, encX_fld_18_5,
      encX_fld_23_5, encX_fld_28_4, encX_fld_32_32, zero, need, Fin.eta]⟩

theorem wret (a b : Reg) : Statement (.wret a b) :=
  fun hw => ⟨_, rfl, by
    simp (disch := omega) [decode_encX, decode64, decodeWalk, encX_fld_2_6, encX_reg_13, encX_reg_18, encX_fld_8_5,
      encX_fld_23_5, encX_fld_28_4, encX_fld_32_32, zero, need, Fin.eta]⟩

theorem tlbMissWalk (die : Nat) : Statement (.tlbMissWalk die) :=
  fun h => by cases h

theorem walkLimitExceeded (die tid : Nat) : Statement (.walkLimitExceeded die tid) :=
  fun h => by cases h

theorem hostDoorbell (die io qp value : Nat) : Statement (.hostDoorbell die io qp value) :=
  fun h => by cases h

theorem launchStart (die : Nat) (clusters : List Nat) : Statement (.launchStart die clusters) :=
  fun h => by cases h

theorem gridCompletion (grid : Nat) : Statement (.gridCompletion grid) :=
  fun h => by cases h

theorem firingStart (core : Nat) : Statement (.firingStart core) :=
  fun h => by cases h

theorem firingRetire (core : Nat) : Statement (.firingRetire core) :=
  fun h => by cases h

theorem firingWatchdog (core : Nat) : Statement (.firingWatchdog core) :=
  fun h => by cases h

theorem stealRequest (core : Nat) : Statement (.stealRequest core) :=
  fun h => by cases h

theorem stealAnswer (core : Nat) : Statement (.stealAnswer core) :=
  fun h => by cases h

theorem stealRoundTimeout (core : Nat) : Statement (.stealRoundTimeout core) :=
  fun h => by cases h

theorem messageArrival (core : Nat) : Statement (.messageArrival core) :=
  fun h => by cases h

theorem hActivationStart (core : Nat) : Statement (.hActivationStart core) :=
  fun h => by cases h

theorem pinnedRecord (core : Nat) : Statement (.pinnedRecord core) :=
  fun h => by cases h

theorem recordPushRetry (core : Nat) : Statement (.recordPushRetry core) :=
  fun h => by cases h

theorem activationLimit (core : Nat) : Statement (.activationLimit core) :=
  fun h => by cases h

theorem dActivationStart (core : Nat) : Statement (.dActivationStart core) :=
  fun h => by cases h

theorem poisonRedelivery (core : Nat) (ctx : Ctx) (addr : Word) : Statement (.poisonRedelivery core ctx addr) :=
  fun h => by cases h

theorem poisonSenderNotice (core : Nat) : Statement (.poisonSenderNotice core) :=
  fun h => by cases h

theorem quantumBoundary (grid : Nat) : Statement (.quantumBoundary grid) :=
  fun h => by cases h

theorem teamSwapOut (grid team : Nat) : Statement (.teamSwapOut grid team) :=
  fun h => by cases h

theorem greDrainExpiry (grid team : Nat) : Statement (.greDrainExpiry grid team) :=
  fun h => by cases h

theorem teamRestore (grid team cluster : Nat) : Statement (.teamRestore grid team cluster) :=
  fun h => by cases h

theorem wfiTimeout (core : Nat) : Statement (.wfiTimeout core) :=
  fun h => by cases h

theorem bseJobStart (cluster : Nat) : Statement (.bseJobStart cluster) :=
  fun h => by cases h

theorem bseJobComplete (cluster : Nat) : Statement (.bseJobComplete cluster) :=
  fun h => by cases h

theorem greJobStart (cluster : Nat) : Statement (.greJobStart cluster) :=
  fun h => by cases h

theorem greJobComplete (cluster : Nat) : Statement (.greJobComplete cluster) :=
  fun h => by cases h

theorem completionPush (cluster : Nat) : Statement (.completionPush cluster) :=
  fun h => by cases h

theorem copyDispatch (core : Nat) : Statement (.copyDispatch core) :=
  fun h => by cases h

theorem copyPageFault (core ch : Nat) : Statement (.copyPageFault core ch) :=
  fun h => by cases h

theorem copyFaultDelivery (core : Nat) : Statement (.copyFaultDelivery core) :=
  fun h => by cases h

theorem copyTransferComplete (core ch : Nat) : Statement (.copyTransferComplete core ch) :=
  fun h => by cases h

theorem keepWrite (ctrl : Nat) : Statement (.keepWrite ctrl) :=
  fun h => by cases h

theorem rcReleaseComplete (core : Nat) (ctx : Ctx) : Statement (.rcReleaseComplete core ctx) :=
  fun h => by cases h

theorem sealDecision (grid : Nat) : Statement (.sealDecision grid) :=
  fun h => by cases h

theorem sealPrepare (grid ctrl : Nat) : Statement (.sealPrepare grid ctrl) :=
  fun h => by cases h

theorem sealCommit (grid : Nat) : Statement (.sealCommit grid) :=
  fun h => by cases h

theorem sealFlip (grid : Nat) : Statement (.sealFlip grid) :=
  fun h => by cases h

theorem sealAbandon (grid : Nat) : Statement (.sealAbandon grid) :=
  fun h => by cases h

theorem fingerprintExchange (core : Nat) : Statement (.fingerprintExchange core) :=
  fun h => by cases h

theorem partnerTimeout (core : Nat) : Statement (.partnerTimeout core) :=
  fun h => by cases h

theorem pairTimeout (core : Nat) : Statement (.pairTimeout core) :=
  fun h => by cases h

theorem recordStoreParityError (core slot idx : Nat) : Statement (.recordStoreParityError core slot idx) :=
  fun h => by cases h

theorem contextLost (core : Nat) : Statement (.contextLost core) :=
  fun h => by cases h

theorem machineCheck (die : Nat) : Statement (.machineCheck die) :=
  fun h => by cases h

theorem dieReset (die : Nat) : Statement (.dieReset die) :=
  fun h => by cases h

theorem dieReload (die : Nat) : Statement (.dieReload die) :=
  fun h => by cases h

theorem scrub (store : EccStore) (at_ : Nat) (found : EccResult) : Statement (.scrub store at_ found) :=
  fun h => by cases h

theorem selfTestStart (die : Nat) : Statement (.selfTestStart die) :=
  fun h => by cases h

theorem selfTestComplete (cluster : Nat) (passed : Bool) : Statement (.selfTestComplete cluster passed) :=
  fun h => by cases h

theorem vectorPackage (port : Nat) (pkg : SignedImage) : Statement (.vectorPackage port pkg) :=
  fun h => by cases h

theorem forecastUpdate (die : Nat) (due : List Nat) (bse gre : Fin 33) : Statement (.forecastUpdate die due bse gre) :=
  fun h => by cases h

theorem powerManagerTick : Statement (.powerManagerTick) :=
  fun h => by cases h

theorem thermalThrottle (die : Nat) : Statement (.thermalThrottle die) :=
  fun h => by cases h

theorem thermalRecover (die : Nat) : Statement (.thermalRecover die) :=
  fun h => by cases h

theorem thermalReset (die : Nat) : Statement (.thermalReset die) :=
  fun h => by cases h

theorem migrationRequest (page endpoint : Nat) : Statement (.migrationRequest page endpoint) :=
  fun h => by cases h

theorem migrationComplete (page : Nat) (data : List Byte) : Statement (.migrationComplete page data) :=
  fun h => by cases h

theorem migrationHoldExpiry (page : Nat) : Statement (.migrationHoldExpiry page) :=
  fun h => by cases h

theorem linkTraining (port lanes : Nat) (authentic : Bool) : Statement (.linkTraining port lanes authentic) :=
  fun h => by cases h

theorem portDown (port : Nat) : Statement (.portDown port) :=
  fun h => by cases h

theorem inboundRequest (port : Nat) (r : InRequest) : Statement (.inboundRequest port r) :=
  fun h => by cases h

theorem inboundMessage (port : Nat) (m : InMessage) : Statement (.inboundMessage port m) :=
  fun h => by cases h

theorem remoteResponse (id : Nat) (status : RemoteStatus) (data : List Byte) : Statement (.remoteResponse id status
  data) :=
  fun h => by cases h

theorem remoteTimeout (id : Nat) : Statement (.remoteTimeout id) :=
  fun h => by cases h

theorem egressArbitration (port : Nat) : Statement (.egressArbitration port) :=
  fun h => by cases h

theorem directoryRecall (endpoint line : Nat) : Statement (.directoryRecall endpoint line) :=
  fun h => by cases h

theorem ctlsemWrite (port : Nat) (tag : BitVec 32) : Statement (.ctlsemWrite port tag) :=
  fun h => by cases h

theorem ctlsemLeaseExpiry : Statement (.ctlsemLeaseExpiry) :=
  fun h => by cases h

theorem powerOn : Statement (.powerOn) :=
  fun h => by cases h

theorem firmwareDownload (port : Nat) (image : SignedImage) : Statement (.firmwareDownload port image) :=
  fun h => by cases h

theorem attestationRequest (port : Nat) (nonce : List Byte) : Statement (.attestationRequest port nonce) :=
  fun h => by cases h

theorem routeTableWrite (port die endpoint : Nat) (value : Word) : Statement (.routeTableWrite port die endpoint
  value) :=
  fun h => by cases h

theorem keyTableWrite (port die entry : Nat) (dw0 dw1 : Word) : Statement (.keyTableWrite port die entry dw0 dw1) :=
  fun h => by cases h

theorem frameOwnerWrite (port die frame : Nat) (value : BitVec 16) : Statement (.frameOwnerWrite port die frame
  value) :=
  fun h => by cases h

theorem shareTableWrite (port egress tenant : Nat) (weight : BitVec 8) : Statement (.shareTableWrite port egress
  tenant weight) :=
  fun h => by cases h

theorem powerCapWrite (port watts : Nat) : Statement (.powerCapWrite port watts) :=
  fun h => by cases h

theorem resetRequest (port : Nat) (what : ResetScope) : Statement (.resetRequest port what) :=
  fun h => by cases h

theorem controlRegisterWrite (port : Nat) (reg : ControlReg) : Statement (.controlRegisterWrite port reg) :=
  fun h => by cases h

theorem storeBufferDrain (core : Nat) : Statement (.storeBufferDrain core) :=
  fun h => by cases h

theorem claimedLineFinished (cluster : Nat) : Statement (.claimedLineFinished cluster) :=
  fun h => by cases h

theorem gatingBufferParityError (core idx : Nat) : Statement (.gatingBufferParityError core idx) :=
  fun h => by cases h

theorem activationParityError (core : Nat) (ctx : Ctx) : Statement (.activationParityError core ctx) :=
  fun h => by cases h

theorem correctedErrorThreshold (cluster : Nat) : Statement (.correctedErrorThreshold cluster) :=
  fun h => by cases h

theorem linkLevelRetry (port : Nat) : Statement (.linkLevelRetry port) :=
  fun h => by cases h

end Sys2Proof.Laws.Roundtrip
end

