-- ==== Sys2Proof/Tests/Slice0.lean ====
section
/-! SUPPORT. Tests: terms that `Instr.wf` refuses, words that the spec's tables write out, one step of small states,
and for each statement of Certificates/Slice0/Obligations.lean states and operands that meet its hypotheses. -/

open Sys2Proof Sys2Proof.Machine

namespace Sys2Proof.Tests

set_option Elab.async false

/-! ## Terms that have no encoding, one for each check of `Instr.wf` -/

def plain : Qual := { ord := .plain, scope := .co }
def xv (f : Fmt) : XvFields := { fmt := f, rnd := .rne, nsat := false, k := 0, q := false }

theorem test_illformed :
    ([.ldW 1 2 0 { ord := .plain, scope := .cl}, .casXa 1 2 3 { ord := .plain, scope := .dv } .near true,
      .vadd .rns3 0 false 1 2 3, .vfma .i8 0 false 1 2 3, .vfms .f32 0 true 24 2 3, .vrcp .i16 0 false 1 2,
      .vshl .f32 0 false 1 2 3, .vaddXv (xv .ui8) 1 2 3, .vmvgXv { xv .f32 with k := 1 } 1 2 3, .vfmaXv (xv .i32) 1 2 3 4,
      .vshrXv (xv .bf16) 1 2 3, .vcvt (xv .gf4) .f32 0 1 2, .vcvt (xv .f32) .mxf8 0 1 2, .vcvt (xv .bf16) .f32 2 1 2,
      .vmxscale { xv .gf4 with rnd := .rtz } false 0 1 2, .vmxscale (xv .f32) false 0 1 2, .vmxscale (xv .mxf8) true 0 1 2,
      .vmxq (xv .gf4) false 0 32 1 2 3, .vmxq (xv .mxf8) false 4 0 1 2 3, .vdotMx (xv .e4m3) false 1 2 3 4,
      .vdotMx (xv .mxf4) true 1 2 3 4, .vlds (xv .i4) plain 1 2 3, .vsts { xv .f32 with nsat := true } plain 1 2 3,
      .vldx (xv .f32) { ord := .plain, scope := .sy } 1 2 3, .c16AddRr 0 1, .c16AddRr 1 0, .c16Mov 0 1] : List Instr).all
      (fun i => !i.wf) = true := by decide +kernel

theorem test_illformed_engine :
    ([.lidx .e2m1 0 1 2 3, .sscat .mxf4 1 4 5, .lsisect .f32 0 1 2 3, .lmpart .rns3 1 2 3 4, .lcoord .i8 0 1 2 3,
      .bstg .i8 1 2 3 0, .bchn .gf4 .w 1 2 3 0, .baccKeep .i32 .rne false 1 2 3, .baccRes .e4m3 .rne false 0 1 2 3,
      .baccRestake .rns3 .rne false 1 1 2 3, .gmv .mom 1 2 3 4, .cpyq 1 6, .cpyqb 1 7, .powerManagerTick, .dieReset 1,
      .reservedEncoding .minor] : List Instr).all (fun i => !i.wf) = true := by decide +kernel

/-! ## Words of the spec's tables, and what they stand for -/

/-- Do the words decode so? -/
noncomputable def reads (l : List (Nat × Instr)) : Bool :=
  l.all fun p => match decode p.1 with | .ok i => decide (i = p.2) | .error _ => false

/-- Are the words refused? -/
noncomputable def refuses (l : List Nat) : Bool :=
  l.all fun w => match decode w with | .ok _ => false | .error _ => true

/-- OP, OPI, BITF, B, XI, 16-bit, SR, SYS and RF words (R49 to R65, the example tables of chapters 4, 5, 8, 12, 18, 21, 24). -/
theorem test_decode_scalar :
    reads [(0x0A18A706, .div 7 5 6), (0x4002030A, .addImm 3 16 512), (0x3002040A, .addImm 4 16 384), (0x0731280E, .bfx 8 9 12 7),
      (0x5E018B0E, .bfi 11 12 0 30), (0x0082250E, .bfx 5 17 32 0), (0x04A01022, .beq 16 0 37), (0xFF84C722, .bne 7 6 0x7FC),
      (0x00F81822, .bqe 0 7), (0x0008000100000607, .addXi 6 0 0x80001), (0x9FE8, .c16J 0x3FA), (0x2094, .c16Li 5 1),
      (0x0200036E, .srr 3 0x10), (0x0080006A, .retk), (0x0000006A, .sysc), (0x0100006A, .wfi), (0x00100066, .fence ⟨.plain, .cl⟩),
      (0x00380066, .fence ⟨.rel, .dv⟩), (0x00400066, .fence ⟨.plain, .sy⟩), (0x00500066, .fence ⟨.plain, .rc⟩),
      (0x00808366, .rpseal 3 4), (0x01008366, .rpsealT 3 4), (0x01808366, .rprestore 3 4), (0xFFFFFF02, .hint 0xFFFFFF)] = true := by
  decide +kernel

/-- Loads, stores, atomics (R54, R60, R219, the example tables of chapters 4, 5, 8, 14, 18). -/
theorem test_decode_memory :
    reads [(0x8000852E, .ldW 5 4 0x100 plain), (0x0138854E, .stD 5 4 2 ⟨.rel, .dv⟩), (0x20020A32, .ldD 10 16 64 plain),
      (0x00020156, .vld 1 16 0 plain), (0x01820456, .vld 4 16 3 plain), (0x70148062, .amoAddD 0 4 5 ⟨.rel, .dv⟩),
      (0x5E1CC55E, .casW 5 6 7 ⟨.sc, .di⟩), (0x00000002B014830F, .amoFmaxXa 3 4 5 plain .far)] = true := by
  decide +kernel

/-- Vector words (R59, R60, R126, the example tables of chapters 4, 7, 8, 12, 24). -/
theorem test_decode_vector :
    reads [(0x00100002000B1C13, .vmulXv { xv .f32 with q := true } 28 24 2), (0x000C4182, .vadd .bf16 0 false 1 2 3),
      (0x9094827E, .vcmpLt .f32 1 false 2 4 5), (0x1C021F9E, .gmvv true 31 16), (0xC000059A, .vbcast .i8 0 false 5 0),
      (0x8814819A, .vcmpNe .i8 0 false 1 4 5), (0xE800C37E, .vmvg .f32 false 3 6 0), (0xE8188792, .vmvg .i32 false 7 4 6),
      (0x0C03049E, .vor 0 true 4 24 0), (0x1808237E, .vfma .f32 0 false 3 1 2), (0xC0022292, .vbcast .i32 0 false 2 17),
      (0x00082192, .vadd .i32 0 false 1 1 2), (0x0020002010002213, .vcvt (xv .bf16) .f32 1 2 1),
      (0x000000E311882613, .vdotMx (xv .gf4) false 6 1 2 3), (0x000200E311882613, .vdotMx { xv .gf4 with k := 1 } false 6 1 2 3),
      (0x002200E311882613, .vdotMx { xv .gf4 with k := 1 } true 6 1 2 3)] = true := by
  decide +kernel

/-- Queue, stream, task and walk words (R57, R58, R62, the example tables of chapters 9, 11, 12, 13, 24, 25). -/
theorem test_decode_work :
    reads [(0x00107872, .lstr 0 3 4), (0x38007F72, .qpeekD 3 7 0), (0x10107C72, .sstr 4 3 4), (0x20001C72, .qend 4),
      (0x4000B872, .qcnt 5 0), (0x0000000A0290794F, .lidx .i16 1 3 4 5), (0x0000000B1290784F, .lsisect .i32 0 3 4 5),
      (0x0000000B3310654F, .lmpart .i32 5 3 4 6), (0x0000000B2431584F, .lmerge .i32 0 10 12 8),
      (0x000000005EF0604F, .sscat .f32 3 4 5), (0x08028076, .push 2 20), (0x0C960076, .pushr 5 3 16),
      (0x1599C076, .sendh 6 5 14), (0x02840376, .bar 3 1 0), (0x020C0076, .barj 3 0), (0x030C0076, .barl 3 0),
      (0x038C0776, .barst 7 3 0), (0x0000837A, .launch 3 4), (0x2880A47A, .abumpT 4 5 2), (0x0580477A, .mslice 7 2 1),
      (0x0280007A, .pair), (0x0300007A, .unpair), (0x0000000000008353, .wldp 3 4), (0x0000000010250053, .wret 8 9)] = true := by
  decide +kernel

/-- Engine and copy words (R62, the example tables of chapters 17, 18, 20, 21, 22). -/
theorem test_decode_engines :
    reads [(0x0000040000148347, .geval .mom 3 4 5 0), (0x0000040013948647, .gred .mom 6 4 5 7), (0x0000000020248847, .gseek 8 4 9),
      (0x0000000035948A47, .gpfx .sum 10 4 5 11), (0x0001000045E48C47, .gexpQueue 12 4 1 11), (0x000200004781CD47, .gexpWp 13 14 15),
      (0x0000050053948947, .gmv .kdot 9 4 5 7), (0x000000006000C047, .gwait 6), (0x000000007000C747, .gpoll 7 6),
      (0x000000001000A043, .bset 0 5), (0x00000000001C8343, .bldw 3 4 7 0), (0x000001000001A343, .bldwGexp 3 13 0 0),
      (0x0000090130292843, .bchn .bf16 .n16 8 9 10 1), (0x0000110130298843, .bchn .bf16 .n16 8 12 10 2),
      (0x0000100120280343, .bstg .bf16 3 0 10 2), (0x0001007746B16A43, .bmma .gf4 .gf4 true 10 11 12 13),
      (0x0000000160298B43, .baccKeep .bf16 .rne false 11 12 10), (0x0020000070000043, .brst 0x20),
      (0x0000000080006043, .bwait 3), (0x0000000090006743, .bpoll 7 3), (0x000000000001034B, .cpyq 3 8),
      (0x000000001001034B, .cpyqb 3 8), (0x000008002000604B, .cwait 3 1), (0x000010003000654B, .cpoll 5 3 2)] = true := by
  decide +kernel

/-- Reserved words (R50, R51, R54, R60 to R65): a major that no instruction has, minor codes, unused fields, a queue field
below 24, a scope on a plain access, rounding code 6, format 0xF, and code 31 of the 16-bit space. -/
theorem test_decode_reserved :
    refuses [0x000000A2, 0x00F80022, 0xFF80006A, 0x0080016A, 0x00600066, 0x0010852E, 0x00107072, 0x00F81822 + 2 ^ 13,
      0x00100002000B1C13 + 6 * 2 ^ 45, 0x000001E311882613, 0xF001, 0x0000000000000017] = true := by
  decide +kernel

/-! ## Small states -/

/-- The reset state with a core as given and a context of it executing. -/
def at_ (x : Ctx) (f : Core → Core := id) (n : Nat := 0) : State :=
  State.setCore { State.reset with turn := .core n x } n (f Core.reset)

/-- A context with registers and privilege. -/
def ctxOf (g : List (Reg × Word)) (priv : Nat := 3) (k : Context := Context.reset 0) : Context :=
  let k := g.foldl (fun k p => k.writeG p.1 p.2) k
  { k with status := setField k.status 10 2 priv }

/-- F of core 0 with registers and privilege. -/
def inF (g : List (Reg × Word)) (priv : Nat := 3) : State := at_ .f fun c => { c with fc := ctxOf g priv }

/-- An I/O core, and a walker thread. -/
def onIo : State := { State.reset with turn := .io 1 5 }
def walkReq : WalkReq := ⟨0x5000, 7, 0, false, 0, none, [], []⟩
def onWalker (g : List (Nat × Word) := []) : State :=
  let th : Thread := ⟨5, walkReq, g.foldl (fun v p => v.set! p.1 p.2) (Vector.replicate 16 0), 8, 0, []⟩
  State.modDie { State.reset with turn := .walker 1 5 } 1 fun d => { d with threads := [th] }

/-- A value of the next state. -/
def next {α : Type} (o : Host.Outcome State Fault Refusal) (f : State → α) : Option α :=
  match o with | .next t => some (f t) | _ => none

/-- Is the outcome this next state? -/
def same (o : Host.Outcome State Fault Refusal) (t : State) : Bool := next o (fun u => decide (u = t)) == some true

/-- Values after instructions on one state: register, offset. -/
def values (s : State) (d : Reg) (is : List Instr) : List (Option (Nat × Nat)) :=
  is.map fun i => next (exec i s) fun t => ((t.readG d).toNat, t.pc.toNat)

/-! ## Integer registers (R66 to R70): results by hand -/

def two (x y : Word) : State := inF [(1, x), (2, y)]
def m1 : Word := BitVec.allOnes 64
def low : Word := BitVec.intMin 64

theorem test_add_to_xor : values (two m1 3) 5 [.add 5 1 2, .sub 5 2 1, .and 5 1 2, .or 5 1 2, .xor 5 1 2] =
    [some (2, 4), some (4, 4), some (3, 4), some (2 ^ 64 - 1, 4), some (2 ^ 64 - 4, 4)] := by decide +kernel

theorem test_shifts : values (two low 65) 1 [.sll 1 1 2, .srl 1 1 2, .sra 1 1 2] =
    [some (0, 4), some (2 ^ 62, 4), some (3 * 2 ^ 62, 4)] := by decide +kernel

theorem test_comparisons : values (two m1 0) 5 [.slt 5 1 2, .sltu 5 1 2, .min 5 1 2, .max 5 1 2, .minu 5 1 2, .maxu 5 1 2] =
    [some (1, 4), some (0, 4), some (2 ^ 64 - 1, 4), some (0, 4), some (0, 4), some (2 ^ 64 - 1, 4)] := by decide +kernel

theorem test_products : values (two m1 low) 5 [.mul 5 1 2, .mulh 5 1 2, .mulhu 5 1 2, .mulh 5 2 2] =
    [some (2 ^ 63, 4), some (0, 4), some (2 ^ 63 - 1, 4), some (2 ^ 62, 4)] := by decide +kernel

theorem test_division : values (two low m1) 5 [.div 5 1 2, .rem 5 1 2, .divu 5 1 2, .remu 5 1 2] =
    [some (2 ^ 63, 4), some (0, 4), some (0, 4), some (2 ^ 63, 4)] := by decide +kernel

theorem test_division_truncates : values (two (-7) 2) 5 [.div 5 1 2, .rem 5 1 2, .div 5 1 0, .remu 5 1 0] =
    [some (2 ^ 64 - 3, 4), some (2 ^ 64 - 1, 4), some (2 ^ 64 - 1, 4), some (2 ^ 64 - 7, 4)] := by decide +kernel

theorem test_counts : values (two 0x80 low) 5 [.clz 5 1, .ctz 5 1, .popc 5 1, .clz 5 0, .ctz 5 2, .extB 5 1, .extH 5 1, .extW 5 1] =
    [some (56, 4), some (7, 4), some (1, 4), some (64, 4), some (63, 4), some (2 ^ 64 - 128, 4), some (128, 4), some (128, 4)] := by
  decide +kernel

theorem test_immediates : values (two 0x10 m1) 5
    [.addImm 5 1 0x7FF, .andImm 5 2 0x400, .orImm 5 1 1, .xorImm 5 2 0x7FF, .sltImm 5 2 0, .sltuImm 5 1 0x7FF, .sllImm 5 1 63,
      .srlImm 5 2 63, .sraImm 5 2 63] =
    [some (15, 4), some (2 ^ 64 - 1024, 4), some (17, 4), some (0, 4), some (1, 4), some (1, 4), some (0, 4), some (1, 4),
      some (2 ^ 64 - 1, 4)] := by decide +kernel

theorem test_wide_immediates : values (two 0x10 m1) 5
    [.addXi 5 1 0xFFFFFFFF, .andXi 5 2 0x80000000, .orXi 5 1 1, .xorXi 5 2 0xFFFFFFFF, .sltXi 5 2 0, .sltuXi 5 1 0x80000000] =
    [some (15, 8), some (2 ^ 64 - 2 ^ 31, 8), some (17, 8), some (0, 8), some (1, 8), some (1, 8)] := by decide +kernel

theorem test_upper : values (two 0 0) 5 [.lui 5 0x40000, .lui 5 1, .addpc 5 0x7FFFF, .bfx 5 1 0 0] =
    [some (2 ^ 64 - 2 ^ 29, 4), some (2048, 4), some (2 ^ 64 - 2, 4), some (0, 4)] := by decide +kernel

theorem test_bit_fields : values (two 0xABCD (-1)) 1 [.bfx 1 1 4 7, .bfi 1 2 4 3, .bfx 1 2 63 0] =
    [some (0xBC, 4), some (0xABFD, 4), some (1, 4)] := by decide +kernel

theorem test_compact : values (two 6 5) 1
    [.c16AddRr 1 2, .c16Mov 1 2, .c16AddImm 1 0x1F, .c16Li 1 0x10, .c16Sub 1 2, .c16And 1 2, .c16Or 1 2, .c16Xor 1 2, .c16Sll 1 31,
      .c16Srl 1 1, .c16Sra 1 2] =
    [some (11, 2), some (5, 2), some (5, 2), some (2 ^ 64 - 16, 2), some (1, 2), some (4, 2), some (7, 2), some (3, 2),
      some (6 * 2 ^ 31, 2), some (3, 2), some (1, 2)] := by decide +kernel

theorem test_g0_discards : values (two 6 5) 0 [.add 0 1 2, .jal 0 4] = [some (0, 4), some (0, 8)] := by decide +kernel

/-- Every place executes, each with the highest register that it may name (R33, R36, R211). -/
theorem witness_Register_operations :
    (inF []).executing = true ∧ holds (inF []).turn [31, 0, 31] = true ∧ (at_ .h).executing = true ∧
    holds (at_ .h).turn [15, 0] = true ∧ holds (at_ .l).turn [15] = true ∧ holds (at_ .l).turn [16] = false ∧
    onIo.executing = true ∧ holds onIo.turn [31] = true ∧ onWalker.executing = true ∧ holds onWalker.turn [15] = true := by
  decide +kernel

/-- A divisor that is not zero, a zero divisor with DZE clear and set, and −2^63 / −1 (R67). -/
theorem witness_Division :
    (two low m1).readG 2 ≠ 0 ∧ (two low 0).readG 2 = 0 ∧ (two low 0).context.dze = false ∧
    (two low m1).readG 1 = BitVec.intMin 64 ∧ (two low m1).readG 2 = BitVec.allOnes 64 ∧
    (at_ .f fun c => { c with fc := { c.fc with status := 0xC10 } }).context.dze = true := by decide +kernel

/-- Fields that end at bit 63, and one bit above it (R69). -/
theorem witness_Immediate_operations :
    (63 : BitVec 6).toNat + ((0 : BitVec 6).toNat + 1) = 64 ∧ 64 < (63 : BitVec 6).toNat + ((1 : BitVec 6).toNat + 1) ∧
    next (exec (.bfx 5 1 63 1) (two 1 2)) (fun t => (t.core 0).fc.cause) = some 1 := by decide +kernel

/-! ## Control flow -/

theorem test_branches : (([.beq 1 2 0x7FF, .bne 1 2 4, .blt 1 2 4, .bge 1 2 4, .bltu 1 2 4, .bgeu 1 2 0x400] : List Instr).map fun i =>
      next (exec i ((two m1 0).setPc 4096)) fun t => t.pc.toNat) =
    [some 4100, some 4104, some 4104, some 4100, some 4100, some 2048] := by decide +kernel

theorem test_jumps : (([.jal 1 0x7FFFF, .jalr 2 2 1, .c16J 0x200, .c16Jal 3, .c16Jr 2, .c16Jalr 2] : List Instr).map fun i =>
      next (exec i ((two 0 0x20).setPc 2048)) fun t => (t.pc.toNat, (t.readG 1).toNat, (t.readG 2).toNat)) =
    [some (2046, 2052, 32), some (34, 0, 2052), some (1024, 0, 32), some (2054, 2050, 32), some (32, 0, 32), some (32, 2050, 32)] := by
  decide +kernel

/-- An odd and an even target of a register jump (R72). -/
theorem witness_Control_flow :
    ((inF [(2, 0x21)]).readG 2 + BitVec.ofInt 64 (2 * (0 : BitVec 11).toInt)).toNat % 2 = 1 ∧
    ((inF [(2, 0x20)]).readG 2).toNat % 2 = 0 ∧
    next (exec (.jalr 5 2 0) (inF [(2, 0x21)])) (fun t => ((t.core 0).fc.cause, (t.core 0).fc.tval)) = some (3, 0x21) := by
  decide +kernel

/-! ## Traps, returns, ends, waits -/

/-- F of core 0 in U, IE and UPE set, at offset 0x20. -/
def userF : State := (at_ .f fun c => { c with fc := { ctxOf [(1, 8)] 0 with status := 0xA0, pc := 0x20 }, sr := { c.sr with tvec := 0x100 } })

/-- Trap entry: EPC, CAUSE, TVAL, STATUS (PIE 1, IE 0, PP 0, PRIV 1), offset. -/
theorem test_trap_entry : next (exec .sysc userF) (fun t => let k := (t.core 0).fc
      (k.epc.toNat, k.cause.toNat, k.tval.toNat, k.status.toNat, k.pc.toNat)) =
    some (0x20, 0x06, 4, 0x4C0, 0x100) := by decide +kernel

theorem test_breaks : (([.brk, .c16Brk, .sysc, .reservedEncoding .minor] : List Instr).map fun i => next (exec i (inF [])) fun t =>
      ((t.core 0).fc.cause.toNat, (t.core 0).fc.tval.toNat, (t.core 0).fc.priv)) =
    [some (5, 4, 3), some (5, 2, 3), some (7, 4, 3), some (1, 0, 3)] := by decide +kernel

/-- RETK from a trap of the S-stream: PRIV and IE come back, S resumes at EPC, F at its own offset. -/
theorem test_return : next (exec .retk (at_ .f fun c => { c with
      fc := { c.fc with status := 0x440, epc := 0x44, cause := 0x206, inTrap := true }, f := { c.f with held := true, heldPc := 0x66 } }))
      (fun t => let c := t.core 0; (c.fc.status.toNat, c.f.s.pc.toNat, c.fc.pc.toNat, c.f.held)) =
    some (0x60, 0x44, 0x66, false) := by decide +kernel

/-- A firing's trap under UPE that is no page fault and one inside a handler, traps of each stream, of an activation. -/
theorem witness_Trap_entry :
    userF.alone 0 .f ∧ userF.context.upe = true ∧ 0x06 ∉ [0x10, 0x11, 0x12] ∧ (at_ .h).alone 0 .h ∧ (at_ .d).alone 0 .d ∧
    0x3F ∉ [0x0E, 0x0F, 0x31] ∧ (at_ .l).alone 0 .l ∧ (at_ .s id 7).alone 7 .s ∧ (at_ .h).context.inTrap = false := by
  unfold State.alone; decide +kernel

/-- RETK in U, in K with PP = M, in K and M, in a firing whose context is lost, in L. -/
theorem witness_Traps_and_returns :
    userF.alone 0 .f ∧ userF.context.priv = 0 ∧ (inF [] 1).context.priv = 1 ∧
    (at_ .f fun c => { c with fc := { c.fc with status := 0x700 } }).context.pp = 3 ∧ (inF [] 1).context.pp ≠ 3 ∧
    ((inF []).core 0).lost = false ∧ ((at_ .f fun c => { c with lost := true }).core 0).lost = true ∧ (at_ .l).alone 0 .l := by
  unfold State.alone; decide +kernel

/-- F of core 0 with entries in the queues. -/
def queued (x : Ctx) (q : QReg) (es : List QEntry) : State :=
  at_ x fun c => { c with f := { c.f with q := c.f.q.set q.val es q.isLt } }

theorem test_queues : next (exec (.qpeekD 3 0 15) (queued .f 0 [.data (7 <<< 960), .mark]))
        (fun t => ((t.readG 3).toNat, ((t.core 0).f.q.get 0).length)) = some (7, 1) ∧
    next (exec (.qpeekD 3 0 0) (queued .f 0 [.mark])) (fun t => ((t.readG 3).toNat, ((t.core 0).f.q.get 0).length)) = some (0, 1) ∧
    next (exec (.qcnt 3 4) (queued .f 4 [.mark, .mark])) (fun t => (t.readG 3).toNat) = some 18 ∧
    next (exec (.qpeek 3 7 0) (queued .l 7 [.data 9])) (fun t => ((t.readG 3).toNat, ((t.core 0).f.q.get 7).length)) = some (9, 1) ∧
    next (exec (.qend 4) (queued .f 4 [])) (fun t => (t.core 0).f.q.get 4) = some [.mark] := by decide +kernel

theorem test_bqe : next (exec (.bqe 0 7) (queued .f 0 [.mark, .data 1])) (fun t => (t.pc.toNat, ((t.core 0).f.q.get 0).length)) = some (14, 1) ∧
    next (exec (.bqe 0 7) (queued .f 0 [.data 1])) (fun t => (t.pc.toNat, ((t.core 0).f.q.get 0).length)) = some (4, 1) ∧
    next (exec (.bqe 0 7) (queued .f 0 [])) (fun t => (t.pc.toNat, (t.core 0).f.stalls.get 0)) = some (0, some 0) := by decide +kernel

/-- Empty, full, and with a mark or data at the head; a reader, a writer, and a stream that is neither. -/
theorem witness_Queue_operations :
    (queued .f 4 (List.replicate 8 .mark)).alone 0 .f ∧ ((queued .f 4 (List.replicate 8 .mark)).core 0).f.q.get 4 ≠ [] ∧
    [Ctx.l, .l, .l, .l, .f, .f, .s, .f].getD (4 : QReg).val .f = .f ∧ (queued .f 4 []).gexpTargets 0 4 = false ∧
    [Ctx.f, .f, .f, .f, .s, .s, .f, .l].getD (7 : QReg).val .f = .l ∧ (at_ .s).alone 0 .s ∧
    ((queued .l 7 [.data 9]).core 0).f.q.get 7 = [.data 9] ∧
    next (exec (.qcnt 3 0) (at_ .s)) (fun t => (t.core 0).fc.cause.toNat) = some 0x20A := by
  unfold State.alone; decide +kernel

/-- Jobs of core 0. -/
def cap0 : Captured := ⟨0, 0, 0, false, 0, wcfgReset, 1, none, .dv, 0, false⟩
def greJob (cmd : GreCmd) (result : Option JobEnd := none) : GreJob :=
  { id := 1, cap := cap0, cmd := cmd, op := .sum, gd := [], rrt := 0, args := [], xdesc := [], begun := false, result := result, lines := [],
    queue := [], stream := [], taken := false, pushing := false }
def bseJob (cmd : BseCmd) (result : Option JobEnd := none) : BseJob :=
  { id := 1, cap := cap0, cmd := cmd, begun := false, result := result, lines := [], pushing := false }

/-- The queue of an outstanding GEXP (R268). -/
theorem witness_Queue_operations_gexp :
    ((at_ .l fun c => { c with firing := .slot 2 }).modCluster 0 fun c => { c with gre := [greJob (.expand (.queue 1))] }).gexpTargets 0 1 = true ∧ (1 : QReg).val < 4 ∧
    next (exec (.qend 1) ((at_ .l fun c => { c with firing := .slot 2 }).modCluster 0 fun c => { c with gre := [greJob (.expand (.queue 1))] }))
      (fun t => (t.core 0).fc.cause.toNat) = some 0x10A := by decide +kernel

theorem test_ends : next (exec .fend (at_ .f)) (fun t => (t.core 0).f.cEnded) = some true ∧
    next (exec .c16Fend (at_ .l fun c => { c with f := { c.f with l := { c.f.l with ended := false } } }))
      (fun t => (t.core 0).f.l.ended) = some true ∧
    next (exec .wfi (at_ .f)) (fun t => ((t.core 0).wfi, t.pc.toNat)) = some (true, 4) ∧
    next (exec .wfi (at_ .h)) (fun t => ((t.core 0).wfi, t.pc.toNat)) = some (false, 4) := by decide +kernel

/-- A handler that has not returned, in F and in an activation. -/
theorem witness_Ends_and_waits :
    (at_ .f fun c => { c with fc := { c.fc with inTrap := true } }).alone 0 .f ∧
    ((at_ .h fun c => { c with hc := { c.hc with inTrap := true } }).core 0).hc.inTrap = true ∧ (at_ .d).alone 0 .d ∧
    ((at_ .s).core 0).fc.inTrap = false ∧ onIo.turn = .io 1 5 := by
  unfold State.alone; decide +kernel

theorem test_placement : (([(.h, .qend 0), (.h, .barj 1 0), (.l, .vadd .f32 0 false 1 2 3), (.d, .send 1 2 3), (.f, .lstr 0 1 2),
      (.f, .wret 1 2), (.s, .srw 0x10 1), (.d, .launch 1 2)] : List (Ctx × Instr)).map fun p => next (exec p.2 (at_ p.1)) fun t =>
      ((t.core 0).context p.1).cause.toNat) =
    [some 0x0A, some 0x1E, some 0x101, some 0x01, some 0x01, some 0x01, some 0x201, some 0x01] := by decide +kernel

theorem witness_Placement : (at_ .s).turn = .core 0 .s ∧ onIo.turn = .io 1 5 ∧ onWalker.turn = .walker 1 5 ∧
    (onWalker.thread 1 5).isSome = true := by decide +kernel

/-! ## Special registers -/

theorem test_srr : (([.srr 3 0x02, .srr 3 0x0F, .srr 3 0x12, .srr 3 0x1C, .srr 3 0x30, .srr 3 0x03, .srr 3 0x01] : List Instr).map fun i =>
      next (exec i (at_ .f id 700)) fun t => (t.readG 3).toNat) =
    [some (87 * 2 ^ 40), some 0, some 1, some 0x3F80000000000000, some 0xC00, some 2, some 4] := by decide +kernel

theorem test_sr_writes : (([.srw 0x30 1, .srs 0x10 1, .src 0x50 1, .srw 0x12 0, .srw 0x35 1] : List Instr).map fun i =>
      next (exec i (at_ .f fun c => { c with fc := ctxOf [(1, 0x30)], pair := { c.pair with ctl := 0x38 } })) fun t =>
        let c := t.core 0; (c.fc.status.toNat, c.fc.fpstat.toNat, c.pair.ctl.toNat, c.f.srseed.toNat, c.fc.tval.toNat)) =
    [some (0xC30, 0, 0x38, 1, 0), some (0xC00, 0x30, 0x38, 1, 0), some (0xC00, 0, 0x28, 1, 0), some (0xC00, 0, 0x38, 1, 0),
      some (0xC00, 0, 0x38, 1, 0x30)] := by decide +kernel

theorem test_sr_traps : (([(.srw 0x30 1, 0x4000, 3), (.srw 0x11 1, 6, 3), (.srw 0x10 1, 64, 3), (.srw 0x19 1, 0x60000, 3), (.srw 0x1C 1, 0xC, 3),
      (.srw 0x34 1, 0x300, 3), (.srw 0x58 1, 321, 3), (.srw 0x00 1, 0, 3), (.srw 0x31 1, 0, 0), (.srr 3 0x04, 0, 3), (.srr 3 0x36, 0, 0)] :
      List (Instr × Word × Nat)).map fun p => next (exec p.1 (inF [(1, p.2.1)] p.2.2)) fun t => (t.core 0).fc.cause.toNat) =
    [some 1, some 1, some 1, some 1, some 1, some 1, some 1, some 1, some 2, some 1, some 2] := by decide +kernel

/-- Every place with special registers, in U and above, and a selector between the listed ones. -/
theorem witness_Special_register_reads :
    (at_ .l).alone 0 .l ∧ holds (at_ .l).turn [15] = true ∧ userF.context.priv = 0 ∧ (inF []).context.priv ≠ 0 ∧
    (0x04 : BitVec 8).toNat ∉ List.range' 0x00 4 ++ List.range' 0x08 8 ++ List.range' 0x10 3 ++ List.range' 0x19 5 ++
      List.range' 0x20 4 ++ List.range' 0x28 4 ++ List.range' 0x30 7 ++ List.range' 0x40 8 ++ [0x50, 0x51, 0x58] := by
  unfold State.alone; decide +kernel

/-- The largest legal value of each register, and the smallest that each check refuses. -/
theorem witness_Special_register_writes :
    (inF [(1, 0x3F)]).alone 0 .f ∧ ((inF [(1, 0x3F)]).readG 1).toNat < 2 ^ 6 ∧ ((inF [(1, 5)]).readG 1).toNat < 6 ∧
    (0x5FF80 : Word).toNat % 2 ^ 7 = 0 ∧ (0x5FF80 : Word).toNat / 2 ^ 7 < 0xC00 ∧ 0xC00 ≤ field (0x60000 : Word) 7 12 ∧
    (let v : Word := BitVec.ofNat 64 (0x5FFFF * 2 ^ 26 + 0xBFF * 2 ^ 7 + 0xB);
      field v 4 3 = 0 ∧ field v 19 7 = 0 ∧ field v 45 3 = 0 ∧ field v 7 12 < 0xC00 ∧ field v 26 19 < 0x60000 ∧ field v 1 3 ∈ [0, 2, 5]) ∧
    (let v : Word := 0x13F8; field v 0 3 = 0 ∧ v.toNat < 2 ^ 14 ∧ field v 8 2 ≠ 2) ∧ field (0x200 : Word) 8 2 = 2 ∧
    (let v : Word := 0xFFFE; v.toNat < 2 ^ 16 ∧ v.toNat % 2 = 0) ∧ field (0x1 : Word) 0 1 ≠ 0 ∧
    (let v : Word := 0x23F; v.toNat < 2 ^ 10 ∧ field v 6 2 = 0 ∧ field v 8 2 ≠ 3) ∧ field (0x300 : Word) 8 2 = 3 ∧
    (let v : Word := 0xFFFF0000003D; v.toNat < 2 ^ 48 ∧ field v 1 1 = 0 ∧ field v 6 26 = 0) ∧ field (2 : Word) 1 1 ≠ 0 ∧
    field (320 : Word) 0 10 ≤ 320 ∧ 320 < field (321 : Word) 0 10 ∧ userF.context.priv = 0 ∧ (inF []).context.priv ≠ 0 := by
  unfold State.alone; decide +kernel

/-! ## A grid with one team, its TLB, and accesses to memory -/

def stage0 : Stage := ⟨true, 0, 0, 1, 0, 0, 0xFFFF, 0xFFFF, [(1, 3)], 0, 0⟩
def stage2 : Stage := { stage0 with slot := 1, prio := 5, rate := 2, level := 1, centry := 0x20, lentry := 0x10 }
def info0 (modes : Nat := 0) : LaunchInfo :=
  { tenant := 0, asid := 7, prio := 0, clusters := 1, levels := [(0, 1)], lperm := false, modes := modes, status := 0,
    stages := [stage0, stage2], shape := [], arenaVa := 0, arenas := [], classes := [], stores := { c := [], l := [], s := [] },
    seed := 0, key := 0, swap := 0, fibre := 0, fibres := 0, rres := 0, fres := 0, head := [], wcfg := wcfgReset, tvec := 0, uvec := 0 }
def recov0 : Recovery := ⟨0, 1, 0, [], [], false, none, 0, [], [], false, false⟩
def grid0 (modes : Nat := 0) : Grid := ⟨info0 modes, [0], [(0, 0)], [], [], 4, [], recov0, .queue 0 0 0, none⟩

/-- An entry that maps 4 KiB at 0x10000000 to 0x2000, with leaf bits as given. -/
def page (bits : Nat := 0x6D) (comp : Nat := 2 ^ 32) : TlbEntry :=
  { va := 0x10000000, size := 12, asid := 7, leaf := BitVec.ofNat 64 (0x2000 + bits), comp := BitVec.ofNat 64 comp }

/-- Core 0 in grid 1 with ASID 7, the page in its TLB, bytes 0x11, 0x82 at 0x2000 and 0xF3 at offset 0x1000 of its slot. -/
def inGrid (x : Ctx) (f : Core → Core := id) (e : TlbEntry := page) (modes : Nat := 0) : State :=
  let s := at_ x fun c => f { c with
    ident := { c.ident with grid := some 1 }, sr := { c.sr with asid := 7 }
    mem := { c.mem with scratch := [(0x1000, 0xF3), (0x1001, 0x40)] } }
  let s := s.modCluster 0 fun c => { c with tlb := [e] }
  { s with grids := [(1, grid0 modes)], mem := [(0x2000, 0x11), (0x2001, 0x82)] }

def slot : Word := 0xFF000000000000

/-- `g1` holds an address, `g3` a value. -/
def addr (a : Word) (v : Word := 0x1234) (priv : Nat := 3) (x : Ctx := .f) : State :=
  inGrid x fun c => c.setContext x (ctxOf [(1, a), (2, a), (3, v)] priv (c.context x))

theorem test_loads : values (addr 0x10000000) 5 [.ldB 5 1 1 plain, .lduB 5 1 1 plain, .ldH 5 1 0 plain, .lduH 5 1 0 plain,
      .ldW 5 1 0 plain, .ldD 5 1 1 plain, .ldWXl 5 1 0xFFFFFFFF plain, .c16LdW 5 1, .c16LdD 5 1, .c16LdDSp 5 31] =
    [some (2 ^ 64 - 0x7E, 4), some (0x82, 4), some (2 ^ 64 - 0x7DEF, 4), some (0x8211, 4), some (0x8211, 4), some (0, 4),
      some (0, 0), some (0x8211, 2), some (0x8211, 2), some (0, 2)] := by decide +kernel

theorem test_scratch_load : values (addr (slot + 0x1000)) 5 [.lduH 5 1 0 plain, .ldB 5 1 0 plain, .ldD 5 1 0 ⟨.acq, .dv⟩] =
    [some (0x40F3, 4), some (2 ^ 64 - 13, 4), some (0x40F3, 4)] := by decide +kernel

/-- The bytes that the issuer reads after a store. -/
def stored (s : State) (i : Instr) (a n : Nat) : Option (List Nat) :=
  next (exec i s) fun t => (List.range n).map fun k => (t.readByte 0 .f (.mem (a + k))).toNat

theorem test_stores : (([.stB 3 1 1 plain, .stH 3 1 0 plain, .stW 3 1 0 plain, .stD 3 1 0 plain, .c16StW 3 1] : List Instr).map fun i =>
      stored (addr 0x10000000 0xAABBCCDDEEFF5566) i 0x2000 5) =
    [some [0x11, 0x66, 0, 0, 0], some [0x66, 0x55, 0, 0, 0], some [0x66, 0x55, 0xFF, 0xEE, 0], some [0x66, 0x55, 0xFF, 0xEE, 0xDD],
      some [0x66, 0x55, 0xFF, 0xEE, 0]] := by decide +kernel

theorem test_vector_memory :
    next (exec (.vld 4 1 0 plain) (addr 0x10000000)) (fun t => (t.core 0).fc.v.get 4) = some 0x8211 ∧
    (next (exec (.vstXl 4 1 0 plain) ((addr 0x10000000).modCore 0 fun c => c.setContext .f (c.fc.writeV 4 (9 <<< 1016))))
      fun t => (t.readByte 0 .f (.mem 0x2000), t.readByte 0 .f (.mem 0x207F))) = some (0, 9) := by decide +kernel

/-- `State.reaches` as a check. -/
def reachesB (s : State) (n : Nat) (x : Ctx) (store : Bool) (va len : Nat) (p : Place) (rc : Bool) : Bool :=
  canonical va && canonical (va + len - 1) && decide (va + len ≤ 2 ^ 64) && decide (va % 4096 + len ≤ 4096) &&
    (!inScratch va || decide (va % 2 ^ 19 + len ≤ 0x60000 ∧ va / 2 ^ 19 % 8 = 0)) &&
    (match s.spot (s.viewer n x) store va with | .at_ q r _ => decide (q = p ∧ r = rc) | _ => false) &&
    !s.claimed p && !s.claimed (p.add (len - 1))

theorem reaches_of {s : State} {n : Nat} {x : Ctx} {store : Bool} {va len : Nat} {p : Place} {rc : Bool}
    (h : reachesB s n x store va len p rc = true) : s.reaches n x store va len p rc := by
  simp only [reachesB, Bool.and_eq_true, Bool.or_eq_true, Bool.not_eq_true', decide_eq_true_eq] at h
  obtain ⟨⟨⟨⟨⟨⟨⟨h1, h2⟩, h3⟩, h4⟩, h5⟩, h6⟩, h7⟩, h8⟩ := h
  refine ⟨h1, h2, h3, h4, fun hs => ?_, ?_, h7, h8⟩
  · rcases h5 with h5 | h5
    · simp [hs] at h5
    · exact h5
  · split at h6
    · next q r u hq =>
      simp only [decide_eq_true_eq] at h6
      exact ⟨u, by rw [hq, h6.1, h6.2]⟩
    · simp at h6

/-- A load and a store in memory and in the own slot, up to the last byte of a page and of the 384 KiB (R78). -/
theorem witness_Loads : (addr 0x10000FF8).alone 0 .f ∧ (addr 0x10000FF8).sound 0 .f (.mem 0x2FF8) 8 ∧
    (addr 0x10000FF8).reaches 0 .f false 0x10000FF8 8 (.mem 0x2FF8) false ∧
    (addr 0x10000FF8 0 0 .l).reaches 0 .l false 0x10000FF8 8 (.mem 0x2FF8) false ∧
    (addr 0x10000FF8).reaches 0 .f true (slot + 0x5FFF8).toNat 8 (.scratch 0 0x5FFF8) false ∧ ((addr 0).die 0).inReset = false :=
  ⟨⟨rfl, by decide +kernel⟩, by unfold State.sound; decide +kernel, reaches_of (by decide +kernel), reaches_of (by decide +kernel),
    reaches_of (by decide +kernel), by decide +kernel⟩

/-- `State.takes` where no pair is and no line of the RDC is held. -/
theorem takes_of {s : State} {n : Nat} {x : Ctx} {p : Place} {len : Nat} {rc : Bool} (hb : (s.core n).mem.buffer = [])
    (hg : (s.core n).mem.gate = []) (hu : s.gateUse n = 0) (hp : ∀ k o, p = .scratch k o → k = n)
    (h0 : (s.core n).paired = false) (h1 : (s.core (partnerOf n)).paired = false) (hr : (s.die (dieOf n)).rdc = []) :
    s.takes n x p len rc := by
  refine ⟨fun _ => by simp [CoreMem.taken, hb, hu], fun _ => by simp [hg, hu], fun _ => by simp [hb, hu], by simp [hg], ?_, ?_⟩
  · intro k o h
    obtain rfl := hp k o h
    exact ⟨h0, h1⟩
  · intro _ pa _
    exact .inr (by simp [hr, sget, State.rdcRoom])

/-- A store goes through at once in F, in H, and on the L-stream. -/
theorem witness_Stores : (∀ x : Ctx, (addr 0x10000000 0 3 x).takes 0 x (.mem 0x2000) 8 false) ∧
    (∀ x : Ctx, (addr 0x10000000 0 3 x).takes 0 x (.scratch 0 64) 8 false) ∧ ((addr 0x10000000).core 0).mem.buffer = [] ∧
    (addr 0x10000004).reaches 0 .f true 0x10000008 8 (.mem 0x2008) false ∧ (0x10000004 : Nat) % 8 ≠ 0 :=
  ⟨fun x => takes_of (by cases x <;> rfl) (by cases x <;> rfl) (by cases x <;> rfl) (by simp) (by cases x <;> rfl)
      (by cases x <;> rfl) (by cases x <;> rfl),
    fun x => takes_of (by cases x <;> rfl) (by cases x <;> rfl) (by cases x <;> rfl) (by simp) (by cases x <;> rfl)
      (by cases x <;> rfl) (by cases x <;> rfl), by decide +kernel, reaches_of (by decide +kernel), by decide⟩

/-- Vector accesses in F, H and D, to the highest register that each holds. -/
theorem witness_Vector_loads_and_stores : (addr 0x10000F80 0 3 .d).alone 0 .d ∧ (31 : Reg).val < vectorFile .f ∧
    (3 : Reg).val < vectorFile .d ∧ (addr 0x10000F80 0 3 .h).reaches 0 .h false 0x10000F80 128 (.mem 0x2F80) false ∧
    (0x10000F80 : Nat) % 128 = 0 ∧ (addr 0x10000F80).sound 0 .f (.mem 0x2F80) 128 :=
  ⟨⟨rfl, by decide +kernel⟩, by decide, by decide, reaches_of (by decide +kernel), by decide,
    by unfold State.sound; decide +kernel⟩

/-- Cause and TVAL of a trap of F. -/
def trapOf (s : State) (i : Instr) : Option (Nat × Nat) :=
  next (exec i s) fun t => ((t.core 0).fc.cause.toNat, (t.core 0).fc.tval.toNat)

theorem test_access_traps : (([(0x100000000000000, .ldB 5 1 0 plain), (0xFFFFFFFFFFFFFF, .ldH 5 1 0 plain), (slot + 0x300000, .stB 3 1 0 plain),
      (slot + 0x5FFFC, .ldD 5 1 0 plain), (slot + 0x200000, .ldW 5 1 0 plain), (slot + 0x80002, .ldW 5 1 0 plain),
      (slot + 0x80000, .ldD 5 1 0 plain), (slot + 0x1000000000, .ldB 5 1 0 plain), (0x10000004, .stD 3 1 0 ⟨.rel, .dv⟩)] :
      List (Word × Instr)).map fun p => trapOf (addr p.1) p.2) =
    [some (0x15, 0x100000000000000), some (0x16, 0xFFFFFFFFFFFFFF), some (0x1A, (slot + 0x300000).toNat),
      some (0x1A, (slot + 0x5FFFC).toNat), some (0x19, (slot + 0x200000).toNat), some (0x1A, (slot + 0x80002).toNat),
      some (0x1A, (slot + 0x80000).toNat), some (0x1B, (slot + 0x1000000000).toNat), some (0x04, 0x10000004)] := by decide +kernel

theorem test_page_traps : (([(page 0x6C, 3, .ldB 5 1 0 plain), (page 0x65, 0, .ldB 5 1 0 plain), (page 0x69, 3, .stB 3 1 0 plain),
      (page 0x4D, 3, .ldB 5 1 0 plain), (page 0x2D, 3, .stB 3 1 0 plain), (page 0x6D (2 ^ 33), 3, .ldB 5 1 0 plain)] :
      List (TlbEntry × Nat × Instr)).map fun p =>
        trapOf (inGrid .f (fun c => { c with fc := ctxOf [(1, 0x10000000)] p.2.1 }) p.1) p.2.2) =
    [some (0x10, 0x10000000), some (0x13, 0x10000000), some (0x13, 0x10000000), some (0x10, 0x10000000), some (0x11, 0x10000000),
      some (0x14, 0x10000000)] := by decide +kernel

/-- Each check at the boundary of its range: the last canonical address and the next, the last byte of window 0, the
windows 1, 4, 5 and 6; a page that lacks each bit. -/
theorem witness_Access_checks : canonical 0xFFFFFFFFFFFFFF = true ∧ canonical 0x100000000000000 = false ∧
    canonical (0xFFFFFFFFFFFFFF + 2 - 1) = false ∧ inScratch (slot + 0x5FFFC).toNat = true ∧ (slot + 0x300000).toNat / 2 ^ 19 % 8 = 6 ∧
    (slot + 0x280000).toNat / 2 ^ 19 % 8 = 5 ∧ 0x60000 < (slot + 0x5FFFC).toNat % 2 ^ 19 + 8 ∧
    flag (((addr 0).core 0).sr.wcfg.get 3) 0 = false ∧
    tlbFind ((addr 0).cluster 0).tlb 7 0x10000FFF = some page ∧ page.leaf.getLsbD 0 = true ∧ (page 0x6C).leaf.getLsbD 0 = false ∧
    ((addr 0 0 0).viewer 0 .f).user = true ∧ ((addr 0).viewer 0 .f).engine = false ∧
    (inGrid .f id (page 0x4D)).spot ((addr 0).viewer 0 .f) false 0x10000000 = .bad 0x10 := by decide +kernel

/-! ## Windows, other places, atomics -/

/-- Window 1 (BF16), 2 (E4M3), 3 (E5M2) and 5 (RNS3) of the own slot, BASE 0x1000: the bytes there are 0xF3, 0x40. -/
def windowed (w : Nat) (off : Word) (v : Word := 0) : State :=
  inGrid .f fun c => { c with fc := ctxOf [(1, slot + BitVec.ofNat 64 (w * 2 ^ 19) + off), (3, v)]
                              sr := { c.sr with wcfg := (c.sr.wcfg.set 0 0x1000).set 1 0x1000 |>.set 2 0x1000 |>.set 4 0x1000 } }

/-- BF16 0x40F3 is 7.59375, 0x40F30000; E4M3 0xF3 is −176, E5M2 0xF3 is −14336; the next elements are 0. -/
theorem test_window_loads : (([(1, 0), (2, 0), (3, 0), (2, 4), (5, 4)] : List (Nat × Word)).map fun p =>
      next (exec (.lduW 5 1 0 plain) (windowed p.1 p.2)) fun t => (t.readG 5).toNat) =
    [some 0x40F30000, some 0xC3300000, some 0xC6600000, some 0x40000000, some 0] := by decide +kernel

/-- 1.0 stored as BF16, E4M3 and E5M2, and −1 as its residues (R3, R194, R126's example 0x400F_FFFE). -/
theorem test_window_stores : (([(1, 0x3F800000), (2, 0x3F800000), (3, 0x3F800000), (5, 0xFFFFFFFF)] : List (Nat × Word)).map fun p =>
      next (exec (.stW 3 1 0 plain) (windowed p.1 0 p.2)) fun t =>
        (List.range 4).map fun k => (t.readByte 0 .f (.scratch 0 (0x1000 + k))).toNat) =
    [some [0x80, 0x3F, 0, 0], some [0x38, 0x40, 0, 0], some [0x3C, 0x40, 0, 0], some [0xFE, 0xFF, 0x0F, 0x40]] := by decide +kernel

/-- The last element of a window, in each of the four. -/
theorem witness_Windows : ∀ w ∈ [1, 2, 3, 5],
    let s := windowed w 0x57FFC
    let va := (s.readG 1).toNat
    let e := windowElem (s.core 0).sr.wcfg w (va % 2 ^ 19)
    s.turn = .core 0 .f ∧ inScratch va = true ∧ va < 2 ^ 64 ∧ va / 2 ^ 19 % 8 = w ∧ va % 4 = 0 ∧ va % 2 ^ 19 < 0x60000 ∧
    e.raw + e.bytes ≤ 0x60000 ∧ s.slotCore (s.viewer 0 .f) ((va - 0xFF000000000000) / 2 ^ 22) = .ok 0 ∧
    s.claimed (.scratch 0 e.raw) = false ∧ rnsHint (s.loads 0 .f (.scratch 0 e.raw) e.bytes) = false := by decide +kernel

theorem test_pref : next (exec (.pref 0 false 1 0 plain) (addr 0x100000000000000)) (fun t => (t.pc.toNat, (t.core 0).fc.cause.toNat)) =
    some (4, 0) ∧ next (exec (.prefXl 2 true 1 0 plain) (onWalker [(1, 300)])) (fun t => t.pc.toNat) = some 16 := by decide +kernel

theorem test_walk_scratch :
    next (exec (.stD 3 1 0 plain) (onWalker [(1, 248), (3, 0x8877665544332211)])) (fun t =>
      (t.thread 1 5).map fun th => (th.pc.toNat, th.scratch.getLast?.map fun c => (c.1, c.2.toNat))) = some (some (12, some (255, 0x88))) ∧
    next (exec (.ldD 3 1 0 plain) (onWalker [(1, 249)])) (fun t => (t.thread 1 5).isSome) = some false := by decide +kernel

/-- The last doubleword of the scratch area, and one byte past it; an I/O core's registers (R212). -/
theorem witness_Accesses_elsewhere : ((onWalker [(1, 248)]).readG 1).toNat + 8 = 256 ∧ ((onWalker [(1, 249)]).readG 1).toNat + 8 = 257 ∧
    (onWalker.thread 1 5).isSome = true ∧ (onIo.readG 1).toNat + 8 ≤ 0xC000000000 ∧ onIo.keep.gib = 0 ∧
    holds onIo.turn [31, 1] = true ∧ holds onWalker.turn [3, 1] = true := by decide +kernel

/-- Old value, and the two bytes after. The doubleword at 0x2000 is 0x8211. -/
def atomics (is : List Instr) (v : Word) : List (Option (Nat × List Nat)) :=
  is.map fun i => next (exec i (addr 0x10000000 v)) fun t =>
    ((t.readG 3).toNat, (List.range 4).map fun k => (t.readByte 0 .f (.mem (0x2000 + k))).toNat)

theorem test_amo_w : atomics [.amoAddW 3 1 3 plain, .amoAndW 3 1 3 plain, .amoOrW 3 1 3 plain, .amoXorW 3 1 3 plain, .amoSwapW 3 1 3 plain] 0xFFFF8000 =
    [some (0x8211, [0x11, 0x02, 0, 0]), some (0x8211, [0, 0x80, 0, 0]), some (0x8211, [0x11, 0x82, 0xFF, 0xFF]),
      some (0x8211, [0x11, 0x02, 0xFF, 0xFF]), some (0x8211, [0, 0x80, 0xFF, 0xFF])] := by decide +kernel

theorem test_amo_min_max : atomics [.amoMinW 3 1 3 plain, .amoMaxW 3 1 3 plain, .amoMinuD 3 1 3 plain, .amoMaxuD 3 1 3 plain, .amoMinD 3 1 3 plain,
      .amoMaxD 3 1 3 plain] (BitVec.allOnes 64) =
    [some (0x8211, [255, 255, 255, 255]), some (0x8211, [0x11, 0x82, 0, 0]), some (0x8211, [0x11, 0x82, 0, 0]),
      some (0x8211, [255, 255, 255, 255]), some (0x8211, [255, 255, 255, 255]), some (0x8211, [0x11, 0x82, 0, 0])] := by decide +kernel

theorem test_cas : atomics [.casW 3 1 0 plain, .casD 3 1 0 plain] 0x8211 = [some (0x8211, [0, 0, 0, 0]), some (0x8211, [0, 0, 0, 0])] ∧
    atomics [.casXa 3 1 0 ⟨.sc, .dv⟩ .far false] 0x8212 = [some (0x8211, [0x11, 0x82, 0, 0])] := by decide +kernel

/-- 1.0 + 0x8211 of a denormal is 1.0, inexact. -/
theorem test_amo_fadd : atomics [.amoFaddW 3 1 3 plain, .amoFaddXa 3 1 3 ⟨.acq, .cl⟩ .near] 0x3F800000 =
    [some (0x8211, [0, 0, 0x80, 0x3F]), some (0x8211, [0, 0, 0x80, 0x3F])] ∧
    next (exec (.amoFaddW 3 1 3 plain) (addr 0x10000000 0x3F800000)) (fun t => (t.core 0).fc.fpstat.toNat) = some 1 ∧
    atomics [.amoFminXa 3 1 3 plain .far, .amoFmaxXa 3 1 3 plain .far] 0x3F800000 =
    [some (0x8211, [0x11, 0x82, 0, 0]), some (0x8211, [0, 0, 0x80, 0x3F])] := by decide +kernel

theorem test_amo_xa : (([.amoAddXa 3 1 3 plain .far true, .amoAndXa 3 1 3 plain .near false, .amoOrXa 3 1 3 plain .predictor true,
      .amoXorXa 3 1 3 plain .far false, .amoMinXa 3 1 3 plain .far true, .amoMaxXa 3 1 3 plain .far false, .amoMinuXa 3 1 3 plain .far true,
      .amoMaxuXa 3 1 3 plain .far true, .amoSwapXa 3 1 3 plain .far false] : List Instr).map fun i =>
      next (exec i (addr (slot + 0x1000) 2)) fun t =>
        ((t.readG 3).toNat, t.pc.toNat, (t.readByte 0 .f (.scratch 0 0x1000)).toNat, (t.readByte 0 .f (.scratch 0 0x1001)).toNat)) =
    [some (0x40F3, 8, 0xF5, 0x40), some (0x40F3, 8, 2, 0), some (0x40F3, 8, 0xF3, 0x40), some (0x40F3, 8, 0xF1, 0x40),
      some (0x40F3, 8, 2, 0), some (0x40F3, 8, 0xF3, 0x40), some (0x40F3, 8, 2, 0), some (0x40F3, 8, 0xF3, 0x40),
      some (0x40F3, 8, 2, 0)] := by decide +kernel

theorem test_atomic_traps : (([(0x10000004, .amoAddD 3 1 3 plain), (slot + 0x80000, .amoAddW 3 1 3 plain),
      (0x10000000, .amoAddXa 3 1 3 ⟨.sc, .dv⟩ .near true)] : List (Word × Instr)).map fun p => trapOf (addr p.1) p.2) =
    [some (4, 0x10000004), some (0x1C, (slot + 0x80000).toNat), some (0x1D, 0)] := by decide +kernel

/-- An aligned doubleword in memory and in the own slot. -/
theorem witness_Atomics : (addr 0x10000FF8).alone 0 .f ∧ (addr 0x10000FF8).reaches 0 .f true 0x10000FF8 8 (.mem 0x2FF8) false ∧
    (addr 0).reaches 0 .f true (slot + 0x5FFF8).toNat 8 (.scratch 0 0x5FFF8) false ∧ ((addr 0).core 0).mem.buffer = [] ∧
    ((addr 0).die 0).inReset = false ∧ ((addr 0).die (dieOf 0)).rdc = [] ∧ (addr 0 0 3 .h).turn = .core 0 .h ∧
    (∀ k, k < 8 → (addr 0).poison.contains ((0x2FF8 + k) / 8) = false) :=
  ⟨⟨rfl, by decide +kernel⟩, reaches_of (by decide +kernel), reaches_of (by decide +kernel), rfl, by decide +kernel, by decide +kernel, rfl,
    by decide +kernel⟩

/-- An atomic that waits in the inbox of core 1 (R223): ADD of 5, width 8, at raw offset 0x1000. -/
def atomicItem : Item := ⟨some ⟨0, .f⟩, .atomic 0x1000 8, 0, 0, 5, 0, .dv, none⟩

def invoked : Core := { Core.reset with fc := { Core.reset.fc with status := 0xC20 }, inbox := [atomicItem], mem := { Core.reset.mem with scratch := [(0x1000, 0xFE)] } }

theorem test_atomic_activation : next (exec (.atomicActivation 1) (at_ .f (fun _ => invoked) 1)) (fun t => ((t.core 1).inbox.length, memGetList (t.core 1).mem.scratch 0x1000 2)) =
    some (0, [0x03, 0x01]) := by decide +kernel

theorem witness_Atomic_traps_and_activations : (addr 0x10000004).alone 0 .f ∧ canonical 0x10000004 = true ∧ 0x10000004 % 8 ≠ 0 ∧
    inScratch (slot + 0x80000).toNat = true ∧ (slot + 0x80000).toNat / 2 ^ 19 % 8 = 1 ∧ (slot + 0x2FFFF8).toNat / 2 ^ 19 % 8 = 5 ∧
    atomicItem.kind = .atomic 0x1000 8 ∧ (at_ .f id 1).core 1 = Core.reset ∧ Core.reset.paired = false ∧ Core.reset.hAct = none := by
  unfold State.alone; decide +kernel

/-! ## Vector instructions -/

/-- A value whose lanes of width `w` are as listed, lane 0 first. -/
def lanes (w : Nat) (l : List Nat) : VWord :=
  BitVec.ofNat 1024 ((l.zipIdx.map fun p => p.1 % 2 ^ w * 2 ^ (w * p.2)).sum)

/-- F of core 0 with `v1`, `v2`, `v3`, `k1` and `g1`. -/
def vecs (a b : VWord) (c : VWord := 0) (k1 : KWord := 0) (g1 : Word := 0) : State :=
  at_ .f fun k => { k with
    fc := ((((ctxOf [(1, g1)]).writeV 1 a).writeV 2 b).writeV 3 c)
    f := { k.f with k := k.f.k.set 1 k1 } }

/-- Lanes of `v3` and FPSTAT after an instruction. -/
def lanesOf (s : State) (w n : Nat) (i : Instr) : Option (List Nat × Nat) :=
  next (exec i s) fun t => ((List.range n).map fun j => elem ((t.core 0).fc.v.get 3).toNat w j, (t.core 0).fc.fpstat.toNat)

def one : Nat := 0x3F800000
def floats : State := vecs (lanes 32 [one, 0x7F800000, 0x40400000]) (lanes 32 [0x40000000, 0xFF800000, 0xC0400000]) (lanes 32 [one, 0, one])

/-- 1 + 2, ∞ − ∞, 3 + (−3), and the like; R97 gives NaN and NV. -/
theorem test_vector_arithmetic : (([.vadd .f32 0 false 3 1 2, .vsub .f32 0 false 3 1 2, .vmul .f32 0 false 3 1 2, .vfma .f32 0 false 3 1 2,
      .vfms .f32 0 false 3 1 2, .vabs .f32 0 false 3 2, .vneg .f32 0 false 3 1] : List Instr).map (lanesOf floats 32 3)) =
    [some ([0x40400000, 0x7FC00000, 0], 16), some ([0xBF800000, 0x7F800000, 0x40C00000], 0), some ([0x40000000, 0xFF800000, 0xC1100000], 0),
      some ([0x40400000, 0xFF800000, 0xC1000000], 0), some ([one, 0xFF800000, 0xC1200000], 0),
      some ([0x40000000, 0x7F800000, 0x40400000], 0), some ([0xBF800000, 0xFF800000, 0xC0400000], 0)] := by decide +kernel

theorem test_vector_arithmetic_xv : (([.vaddXv (xv .f32) 3 1 2, .vsubXv (xv .f32) 3 1 2, .vmulXv (xv .f32) 3 1 2, .vfmaXv (xv .f32) 3 1 2 3,
      .vfmsXv (xv .f32) 3 1 2 3, .vabsXv (xv .f32) 3 2, .vnegXv (xv .f32) 3 1] : List Instr).map (lanesOf floats 32 3)) =
    [some ([0x40400000, 0x7FC00000, 0], 16), some ([0xBF800000, 0x7F800000, 0x40C00000], 0), some ([0x40000000, 0xFF800000, 0xC1100000], 0),
      some ([0x40400000, 0xFF800000, 0xC1000000], 0), some ([one, 0xFF800000, 0xC1200000], 0),
      some ([0x40000000, 0x7F800000, 0x40400000], 0), some ([0xBF800000, 0xFF800000, 0xC0400000], 0)] := by decide +kernel

/-- INT8 sums saturate with NV; a masked lane keeps its bits (R109, R114). -/
theorem test_vector_masked : lanesOf (vecs (lanes 8 [127, 5, 0x80]) (lanes 8 [1, 5, 0xFF]) (lanes 8 [9, 9, 9]) 5) 8 3 (.vadd .i8 1 false 3 1 2) =
    some ([127, 9, 0x80], 16) := by decide +kernel

theorem test_vector_select : (([.vmin .f32 0 false 3 1 2, .vmax .f32 0 false 3 1 2, .vminXv (xv .f32) 3 1 2, .vmaxXv (xv .f32) 3 1 2] :
      List Instr).map (lanesOf floats 32 3)) =
    [some ([one, 0xFF800000, 0xC0400000], 0), some ([0x40000000, 0x7F800000, 0x40400000], 0),
      some ([one, 0xFF800000, 0xC0400000], 0), some ([0x40000000, 0x7F800000, 0x40400000], 0)] := by decide +kernel

/-- 1/4, 1/√4, 2^3, log2 8 (exact), and 1/0 with DZ. -/
theorem test_vector_functions :
    (([(0x40800000, .vrcp .f32 0 false 3 1), (0x40800000, .vrsq .f32 0 false 3 1), (0x40400000, .vexp2 .f32 0 false 3 1),
      (0x41000000, .vlog2 .f32 0 false 3 1), (0, .vrcpXv (xv .f32) 3 1), (0x40800000, .vrsqXv (xv .f32) 3 1),
      (0xC0000000, .vexp2Xv (xv .f32) 3 1), (0x3E800000, .vlog2Xv (xv .f32) 3 1)] : List (Nat × Instr)).map fun p =>
        (lanesOf (vecs (lanes 32 [p.1]) 0 0 1) 32 1 p.2).map fun r => r.1) =
    [some [0x3E800000], some [0x3F000000], some [0x41000000], some [0x40400000], some [0x7F800000], some [0x3F000000], some [0x3E800000],
      some [0xC0000000]] := by decide +kernel

theorem test_vector_shifts : (([.vshl .i8 0 false 3 1 2, .vshr .i8 0 false 3 1 2, .vshrA .i8 0 false 3 1 2, .vshlXv (xv .i8) 3 1 2,
      .vshrXv (xv .i8) 3 1 2, .vshrAXv (xv .i8) 3 1 2] : List Instr).map (lanesOf (vecs (lanes 8 [0x81, 0x81, 0x81]) (lanes 8 [1, 7, 8])) 8 3)) =
    [some ([2, 0x80, 0], 0), some ([0x40, 1, 0], 0), some ([0xC0, 0xFF, 0xFF], 0), some ([2, 0x80, 0], 0), some ([0x40, 1, 0], 0),
      some ([0xC0, 0xFF, 0xFF], 0)] := by decide +kernel

def ints : State := vecs (lanes 32 [10, 11, 12, 13]) (lanes 32 [3, 2, 33, 0]) 0 0xF0 2

theorem test_vector_moves : (([.vsel .i32 1 false 3 1 2, .vperm .i32 0 false 3 1 2, .vslideUp .i32 0 false 3 1 1, .vslideDn .i32 0 false 3 1 1,
      .vbcast .i32 1 false 3 1, .gmvv false 3 1] : List Instr).map (lanesOf ints 32 4)) =
    [some ([3, 11, 33, 0], 0), some ([13, 12, 11, 10], 0), some ([0, 0, 10, 11], 0), some ([12, 13, 0, 0], 0), some ([0, 2, 0, 0], 0),
      some ([2, 0, 0, 0], 0)] := by decide +kernel

theorem test_vector_moves_xv : (([.vselXv { xv .i32 with k := 1 } 3 1 2, .vpermXv (xv .i32) 3 1 2, .vslideUpXv (xv .i32) 3 1 1,
      .vslideDnXv (xv .i32) 3 1 1, .vbcastXv { xv .i32 with k := 1 } 3 1] : List Instr).map (lanesOf ints 32 4)) =
    [some ([3, 11, 33, 0], 0), some ([13, 12, 11, 10], 0), some ([0, 0, 10, 11], 0), some ([12, 13, 0, 0], 0), some ([0, 2, 0, 0], 0)] := by
  decide +kernel

theorem test_vmvg : values (vecs (lanes 16 [0, 0, 0x8000]) 0 0 0 66) 5 [.vmvg .i16 false 5 1 1, .vmvgXv (xv .bf16) 5 1 1] =
    [some (2 ^ 64 - 2 ^ 15, 4), some (0x8000, 8)] := by decide +kernel

theorem test_logic : (([.vand 0 false 3 1 2, .vor 0 false 3 1 2, .vxor 0 false 3 1 2] : List Instr).map
      (lanesOf (vecs (lanes 8 [0xF0]) (lanes 8 [0x3C])) 8 1)) = [some ([0x30], 0), some ([0xFC], 0), some ([0xCC], 0)] := by decide +kernel

/-- The examples of R108, 100,000 and −1 (here with its hint set): as residues, doubled, squared, and back with RNG. -/
theorem test_residues : (([.rnfrom 0 false 3 1, .rnadd 0 false 3 2 2, .rnmul 0 false 3 2 2, .rnto 0 false 3 2] : List Instr).map
      (lanesOf (vecs (lanes 32 [100000, 0xFFFFFFFF]) (lanes 32 [0x23FA8301, 0xC00FFFFE])) 32 2)) =
    [some ([0x23FA8301, 0x400FFFFE], 0), some ([0x07D50203, 0xBFFFFBFD], 0), some ([0x23F00043, 0x80100401], 0),
      some ([100000, 0xFFFFFFFF], 32)] := by decide +kernel

/-- Mask `k2` after a compare of 1, NaN, −0 with 2, NaN, +0. -/
theorem test_compares : (([.vcmpEq .f32 1 false 2 1 2, .vcmpNe .f32 1 false 2 1 2, .vcmpLt .f32 1 false 2 1 2, .vcmpLe .f32 1 false 2 1 2,
      .vcmpEqXv { xv .f32 with k := 1 } 2 1 2, .vcmpNeXv { xv .f32 with k := 1 } 2 1 2, .vcmpLtXv { xv .f32 with k := 1 } 2 1 2,
      .vcmpLeXv { xv .f32 with k := 1 } 2 1 2] : List Instr).map fun i =>
      next (exec i (vecs (lanes 32 [one, 0x7FC00000, 0x80000000]) (lanes 32 [0x40000000, 0x7FC00000, 0]) 0 0xFFF)) fun t =>
        ((t.core 0).f.k.get 2).toNat) =
    [some 0xF00, some 0xFF, some 0xF, some 0xF0F, some 0xF00, some 0xFF, some 0xF, some 0xF0F] := by decide +kernel

theorem test_masks : (([.kand 2 1 0, .kor 2 1 1, .knot 2 1] : List Instr).map fun i =>
      next (exec i (vecs 0 0 0 0xF0F)) fun t => ((t.core 0).f.k.get 2).toNat % 2 ^ 16) = [some 0xF0F, some 0xF0F, some 0xF0F0] ∧
    values (vecs 0 0 0 0xF0F) 5 [.kpop 5 1, .kpop 5 0] = [some (8, 4), some (128, 4)] := by decide +kernel

/-- The example of R120, and minimum, maximum and the 64-bit forms. -/
theorem test_reductions : (([.vredAdd .f32 1 false 3 1 2, .vredMin .f32 1 false 3 1 2, .vredMax .f32 1 false 3 1 2,
      .vredAddXv { xv .f32 with k := 1 } 3 1 2, .vredMinXv { xv .f32 with k := 1 } 3 1 2, .vredMaxXv { xv .f32 with k := 1 } 3 1 2] :
      List Instr).map (lanesOf (vecs (lanes 32 [0x4B800000, one, one, one]) 0 (BitVec.allOnes 1024) 0xFFFF) 32 2)) =
    [some ([0x4B800001, 0], 1), some ([0, 0], 0), some ([0x4B800000, 0], 0), some ([0x4B800001, 0], 1), some ([0, 0], 0),
      some ([0x4B800000, 0], 0)] := by decide +kernel

theorem test_scans : (([.vscanAdd .i8 1 false 3 1 2, .vscanAddXv { xv .i8 with k := 1 } 3 1 2] : List Instr).map
      (lanesOf (vecs (lanes 8 [100, 9, 50]) (0xFF <<< 1016) 0 5) 8 4)) = [some ([99, 99, 127, 127], 16), some ([99, 99, 127, 127], 16)] := by
  decide +kernel

/-- The examples of R122 (257 to BF16) and of R124: 20, −7, 1, 0.8, 3.5, −0, 10, 2 quantized to GF4. -/
def quantized : VWord := lanes 32 [0x41A00000, 0xC0E00000, one, 0x3F4CCCCD, 0x40600000, 0x80000000, 0x41200000, 0x40000000]
theorem test_conversions :
    lanesOf (vecs (lanes 32 [0, 0x43808000]) 0) 16 34 (.vcvt (xv .bf16) .f32 1 3 1) = some (List.replicate 33 0 ++ [0x4380], 1) ∧
    lanesOf (vecs quantized 0) 8 4 (.vmxscale (xv .gf4) false 0 3 1) = some ([0x43, 0x80, 0x80, 0x80], 0) ∧
    lanesOf (vecs quantized 0x80808043) 32 1 (.vmxq (xv .gf4) false 0 0 3 1 2) = some ([0x158201C7], 3) := by decide +kernel

/-- The operands of chapter 8, with the mask of variation 1: −1.75 (R130); with MXF4 and every lane, 53 × 2^−131 (R132). -/
theorem test_dot :
    let a := lanes 8 [0x10, 0x32, 0x54, 0x76, 0x98, 0xBA, 0xDC, 0xFE, 0x42, 0x76, 0x31, 0x05, 0x66, 0xEE, 0x91, 0x80, 0x77, 0x77, 0xFF,
      0xFF, 0x55, 0x33, 0x1D, 0x02]
    let b := lanes 8 [0x22, 0x22, 0xAA, 0x14, 0x92, 0x3C, 0x21, 0xA4, 0x22, 0x22, 0x22, 0x22, 0x57, 0x37, 0x44, 0xDF, 0, 0, 0, 0, 0x12,
      0xC4, 0x62, 0xFE]
    let c := lanes 8 ([0x3C, 0x38, 0x7E, 0x3E, 0x40, 0x3C] ++ List.replicate 26 0 ++ [0x40, 0x44, 0x3C, 0xBC, 0x80, 0x3C] ++
      List.replicate 26 0 ++ [0x80, 0x3E, 0x00, 0x40])
    lanesOf (vecs a b c 0xFFF0FF) 32 2 (.vdotMx { xv .gf4 with k := 1 } false 3 1 2 3) = some ([0xBFE00000, 0], 0) ∧
    lanesOf (vecs a b c 0xFFFFFF) 32 2 (.vdotMx { xv .mxf4 with k := 1 } false 3 1 2 3) = some ([0x00D40000, 0], 0) := by decide +kernel

/-- Gathers from 0x10000000 of bytes 0x11, 0x82, and a scatter there. -/
def gathering : State := inGrid .f fun c => { c with
    fc := ((ctxOf [(1, 0x10000000), (2, 1)]).writeV 2 (lanes 32 [1, 0])).writeV 3 (lanes 8 [7, 9])
    f := { c.f with k := c.f.k.set 1 3 } }

theorem test_gathers : lanesOf gathering 8 3 (.vlds { xv .i8 with k := 1 } plain 3 1 2) = some ([0x11, 0x82, 0], 0) ∧
    lanesOf gathering 8 3 (.vldx { xv .i8 with k := 1 } plain 3 1 2) = some ([0x82, 0x11, 0], 0) ∧
    (([.vsts { xv .i8 with k := 1 } plain 3 1 2, .vstx { xv .i8 with k := 1 } plain 3 1 2] : List Instr).map fun i =>
      next (exec i gathering) fun t => ((List.range 3).map fun k => (t.readByte 0 .f (.mem (0x2000 + k))).toNat)) =
      [some [7, 9, 0], some [9, 7, 0]] := by decide +kernel

/-- VADD with queues for operands: it pops, and pushes to q4. -/
theorem test_vector_queues : next (exec (.vadd .i8 0 true 28 24 2) (queued .f 0 [.data 5, .mark])) (fun t =>
      ((t.core 0).f.q.get 0, (t.core 0).f.q.get 4)) = some ([.mark], [.data 5]) ∧
    next (exec (.vadd .i8 0 true 28 24 2) (queued .f 0 [])) (fun t => (t.pc.toNat, (t.core 0).f.stalls.get 0)) = some (0, some 0) ∧
    next (exec (.vadd .i8 0 true 28 24 2) (queued .f 0 [.mark])) (fun t => (t.core 0).fc.cause.toNat) = some 8 := by decide +kernel

/-! Operands as `State.admits` and `Core.supplies` take them: queues in F, the last registers of F, H and D. -/

theorem supplies_queues : ((queued .f 0 [.data 5, .mark]).core 0).supplies .f [.queue 0, .reg 31] [.queue 4] := by
  unfold Core.supplies; decide +kernel
theorem supplies_two : (Core.reset).supplies .f [.reg 1, .reg 31] [.reg 31] ∧ (Core.reset).supplies .h [.reg 7, .reg 0] [.reg 7] ∧
    (Core.reset).supplies .d [.reg 3, .reg 0] [.reg 3] := by unfold Core.supplies; decide +kernel
theorem supplies_some : (Core.reset).supplies .f [.reg 1] [.reg 31] ∧ (Core.reset).supplies .f [] [.queue 4] ∧
    (Core.reset).supplies .f [.reg 1, .reg 2, .reg 3] [.queue 5] ∧ (Core.reset).supplies .h [.reg 7] [] ∧
    (Core.reset).supplies .f [.reg 3, .reg 2] [] := by unfold Core.supplies; refine ⟨?_, ?_, ?_, ?_, ?_⟩ <;> decide +kernel
theorem admits_forms : (at_ .f).admits .f (form64 { xv .f32 with rnd := .sr, q := true, k := 7 }) [23] ∧
    (at_ .h).admits .h (form32 .i8 7 true) [15] ∧ (at_ .d).admits .d (form32 .bf16 0 false) [] := by
  unfold State.admits; refine ⟨?_, ?_, ?_⟩ <;> decide +kernel

theorem witness_Vector_arithmetic : (at_ .f).alone 0 .f ∧ (at_ .f).admits .f (form64 { xv .f32 with rnd := .sr, q := true, k := 7 }) [23] ∧
    Core.reset.supplies .f [.reg 1, .reg 2, .reg 3] [.queue 5] ∧ ((queued .f 0 [.data 5, .mark]).core 0).supplies .f [.queue 0, .reg 31] [.queue 4] :=
  ⟨⟨rfl, by decide +kernel⟩, admits_forms.1, supplies_some.2.2.1, supplies_queues⟩

theorem witness_Vector_functions : (at_ .h).alone 0 .h ∧ (at_ .h).admits .h (form32 .i8 7 true) [15] ∧
    Core.reset.supplies .h [.reg 7, .reg 0] [.reg 7] ∧ Core.reset.supplies .f [.reg 1] [.reg 31] :=
  ⟨⟨rfl, by decide +kernel⟩, admits_forms.2.1, supplies_two.2.1, supplies_some.1⟩

/-- A distance and an element index at and past the element count (R119, R128). -/
theorem witness_Vector_moves : (at_ .d).alone 0 .d ∧ (at_ .d).admits .d (form32 .bf16 0 false) [] ∧
    Core.reset.supplies .d [.reg 3, .reg 0] [.reg 3] ∧ Core.reset.supplies .f [] [.queue 4] ∧ Core.reset.supplies .h [.reg 7] [] ∧
    holds (at_ .f).turn [31] = true ∧ (inF [(2, 32)]).readG 2 = 32 ∧ Fmt.f32.count = 32 :=
  ⟨⟨rfl, by decide +kernel⟩, admits_forms.2.2, supplies_two.2.2, supplies_some.2.1, supplies_some.2.2.2.1, by decide, by decide +kernel, by decide⟩

/-- A hint met under RNGE and without. -/
theorem witness_Vector_logic_and_residues : (at_ .f).alone 0 .f ∧ Core.reset.supplies .f [.reg 1, .reg 31] [.reg 31] ∧
    rnsHint 0xC00FFFFE = true ∧ rnsHint 0x400FFFFE = false ∧ (Context.reset 0).rnge = false ∧
    ({ Context.reset 0 with status := 0xC08 } : Context).rnge = true ∧
    next (exec (.rnto 0 false 3 2) ((vecs 0 (lanes 32 [0, 0xC00FFFFE])).modCore 0 fun c => { c with fc := { c.fc with status := 0xC08 } }))
      (fun t => ((t.core 0).fc.cause.toNat, (t.core 0).fc.tval.toNat)) = some (0x3A, 1) :=
  ⟨⟨rfl, by decide +kernel⟩, supplies_two.1, by decide +kernel⟩

/-- A compare in F into k1, one into k0, one in H; entries that make an operand wait, trap, or go through. -/
theorem witness_Vector_masks : (at_ .f).alone 0 .f ∧ (at_ .f).admits .f (form32 .bf16 7 true) [] ∧ Fmt.bf16.width ∈ [8, 16, 32] ∧
    Core.reset.supplies .f [.reg 3, .reg 2] [] ∧ (at_ .h).alone 0 .h ∧
    ((queued .f 0 [.mark]).core 0).f.q.get (ix 7 ((24 : Reg).val - 24)) = [.mark] ∧ 24 ≤ (28 : Reg).val ∧
    (Ctx.d, 4) ∈ [Ctx.f, .h, .d].zip [32, 8, 4] :=
  ⟨⟨rfl, by decide +kernel⟩, by unfold State.admits; decide +kernel, by decide, supplies_some.2.2.2.2, ⟨rfl, by decide +kernel⟩,
    by decide +kernel, by decide, by decide⟩

/-- No element active, and one. -/
theorem witness_Vector_reductions : (vecs 0 0).alone 0 .f ∧ (vecs 0 0).admits .f (form32 .i32 1 false) [] ∧
    ((vecs 0 0).core 0).supplies .f [.reg 1, .reg 2] [.reg 3] ∧ (∀ e, e < 32 → active (((vecs 0 0).core 0).f.readK 1) 32 e = false) ∧
    active (((vecs 0 0 0 1).core 0).f.readK 1) 32 0 = true ∧ Fmt.i32.isFloat = false :=
  ⟨⟨rfl, by decide +kernel⟩, by unfold State.admits; decide +kernel, by unfold Core.supplies; decide +kernel, by decide +kernel,
    by decide +kernel, rfl⟩

/-- Both directions of a conversion, with and without a hint; the last part of a block. -/
theorem witness_Vector_conversions : (vecs 0 0).alone 0 .f ∧ (vecs 0 0).admits .f (form64 (xv .bf16)) [] ∧
    ((vecs 0 0).core 0).supplies .f [.reg 1] [.reg 3] ∧ ((vecs 0 0).core 0).supplies .f [.reg 1, .reg 2] [.reg 3] ∧
    ((vecs 0 0).core 0).supplies .f [.reg 1, .reg 2, .reg 3] [.reg 3] ∧ Fmt.bf16.count = 64 ∧ Fmt.f32.count = 32 ∧
    modeOf .rne (vecs 0 0).context ≠ 5 ∧ (convert .i32 .rns3 0 false 0 (BitVec.allOnes 128) (lanes 32 [0xC00FFFFE]).toNat 0 1).2 = some 0 :=
  ⟨⟨rfl, by decide +kernel⟩, by unfold State.admits; decide +kernel, by unfold Core.supplies; decide +kernel,
    by unfold Core.supplies; decide +kernel, by unfold Core.supplies; decide +kernel, by decide, by decide, by decide +kernel, by decide +kernel⟩

/-- Two active elements in memory. -/
theorem witness_Vector_gather_and_scatter : gathering.alone 0 .f ∧ gathering.admits .f (form64 { xv .i8 with k := 1 }) [1, 2] ∧
    (gathering.core 0).supplies .f [.reg 3, .reg 2] [] ∧ (gathering.core 0).supplies .f [.reg 2] [.reg 3] ∧
    (∀ e, e < 128 → active ((gathering.core 0).f.readK 1) 8 e = true → e < 2) ∧
    gathering.reaches 0 .f true 0x10000000 1 (.mem 0x2000) false ∧ gathering.reaches 0 .f true 0x10000001 1 (.mem 0x2001) false ∧
    gathering.takes 0 .f (.mem 0x2000) 1 false :=
  ⟨⟨rfl, by decide +kernel⟩, by unfold State.admits; decide +kernel, by unfold Core.supplies; decide +kernel,
    by unfold Core.supplies; decide +kernel, by decide +kernel, reaches_of (by decide +kernel), reaches_of (by decide +kernel),
    takes_of rfl rfl (by decide +kernel) (by simp) (by decide +kernel) (by decide +kernel) (by decide +kernel)⟩

/-! ## Streams -/

/-- The L-stream of core 0 with `g1` to `g4`, over the page at 0x10000000. -/
def inL (g : List (Nat × Word)) (q0 : List QEntry := []) (mem : List Host.Cell := [(0x2000, 0x11), (0x2001, 0x82)]) : State :=
  { inGrid .l (fun c => { c with
      firing := .slot 2
      f := { c.f with l := { c.f.l with g := g.foldl (fun v p => v.set! p.1 p.2) c.f.l.g, ended := false }, q := c.f.q.set 0 q0 } })
    with mem := mem }

/-- The S-stream of core 0 with `g1`, `g2`, and entries in q4 and q5. -/
def inS (g1 g2 : Word) (q4 q5 : List QEntry) : State :=
  inGrid .s fun c => { c with
    firing := .slot 2
    f := { c.f with s := { c.f.s with g := (c.f.s.g.set 1 g1).set 2 g2 }, q := (c.f.q.set 4 q4).set 5 q5 } }

/-- Entries of q0, `g1`, `g2`, offset after an L-stream instruction. -/
def afterL (s : State) (i : Instr) : Option (List QEntry × Nat × Nat × Nat) :=
  next (exec i s) fun t => ((t.core 0).f.q.get 0, (t.readG 1).toNat, (t.readG 2).toNat, t.pc.toNat)

theorem test_lstr : afterL (inL [(1, 0x10000000), (2, 2)]) (.lstr 0 1 2) = some ([.data 0x8211], 0x10000080, 1, 0) ∧
    afterL (inL [(1, 0x10000000), (2, 1)]) (.lstr 0 1 2) = some ([.data 0x8211], 0x10000080, 0, 4) ∧
    afterL (inL [(1, 0x10000000), (2, 0)]) (.lstr 0 1 2) = some ([], 0x10000000, 0, 4) := by decide +kernel

theorem test_sstr : next (exec (.sstr 4 1 2) (inS 0x10000000 1 [.data 0x77, .mark] [])) (fun t =>
      ((t.core 0).f.q.get 4, (t.readByte 0 .s (.mem 0x2000)).toNat, (t.readByte 0 .s (.mem 0x2001)).toNat, t.pc.toNat)) =
    some ([.mark], 0x77, 0, 4) ∧
    next (exec (.sstr 4 1 2) (inS 0x10000000 1 [.mark] [])) (fun t => (t.core 0).fc.cause.toNat) = some 0x208 := by decide +kernel

/-- Indices 1, none, 0 at 0x10000000; elements of INT8 at 0x10000100: 5, 6. -/
theorem test_lidx : afterL (inL [(1, 0x10000000), (2, 3), (3, 0x10000100)] []
      ((0x2000, 1) :: (List.range 4).map (fun k => (0x2004 + k, 0xFF)) ++ [(0x2100, 5), (0x2101, 6)])) (.lidx .i8 0 3 1 2) =
    some ([.data 0x050006], 0x1000000C, 0, 8) := by decide +kernel

theorem test_sscat : next (exec (.sscat .i8 1 4 5) (inS 0x10000000 0 [.data (lanes 8 [9, 8, 7])]
      [.data (lanes 32 ([1, 0xFFFFFFFF, 0] ++ List.replicate 29 0xFFFFFFFF))])) (fun t =>
        ((List.range 3).map (fun k => (t.readByte 0 .s (.mem (0x2000 + k))).toNat), (t.core 0).f.q.get 4, t.pc.toNat)) =
    some ([7, 9, 0], [], 0) ∧
    next (exec (.sscat .i8 1 4 5) (inS 0x10000000 0 [.data 0] [.mark])) (fun t => t.pc.toNat) = some 8 := by decide +kernel

/-- An entry to go, none, the last; a mark at the data and at the indices. -/
theorem witness_Streams : (inL [(1, 0x10000F80), (2, 1)]).alone 0 .l ∧ (inL []).gexpTargets 0 0 = false ∧ (1 : Reg) ≠ 2 ∧
    (inL [(1, 0x10000F80), (2, 1)]).reaches 0 .l false 0x10000F80 128 (.mem 0x2F80) false ∧
    (inL [(1, 0x10000F80), (2, 1)]).sound 0 .l (.mem 0x2F80) 128 ∧ (inL [(2, 1)]).readG 2 = 1 ∧ (inS 0 0 [.mark] []).alone 0 .s ∧
    (inS 0x10000F80 1 [.data 1] []).reaches 0 .s true 0x10000F80 128 (.mem 0x2F80) false ∧
    (inS 0x10000F80 1 [.data 1] []).takes 0 .s (.mem 0x2F80) 128 false ∧ homeDie 0x2F80 = dieOf 0 :=
  ⟨⟨rfl, by decide +kernel⟩, by decide +kernel, by decide, reaches_of (by decide +kernel), by unfold State.sound; decide +kernel,
    by decide +kernel, ⟨rfl, by decide +kernel⟩, reaches_of (by decide +kernel),
    takes_of rfl rfl (by decide +kernel) (by simp) (by decide +kernel) (by decide +kernel) (by decide +kernel), by decide⟩

/-- Two INT8 lists of 3 keys: descriptors at 0x10000000 and 0x10000010, keys 1, 3, 5 at 0x10000100 and 3, 4, 5 at 0x10000110. -/
def listMem : List Host.Cell :=
  [(0x2001, 0x01), (0x2003, 0x10), (0x2008, 3), (0x2010, 0x10), (0x2011, 0x01), (0x2013, 0x10), (0x2018, 3), (0x2100, 1), (0x2101, 3),
    (0x2102, 5), (0x2110, 3), (0x2111, 4), (0x2112, 5)]
def lists (g3 : Word := 0) : State := inL [(1, 0x10000000), (2, 0x10000010), (3, g3)] [] listMem
def filled (l : List Nat) : QEntry := .data (lanes 32 (l ++ List.replicate (32 - l.length) 0xFFFFFFFF))

theorem test_walks : next (exec (.lsisect .i8 0 1 2 3) (lists)) (fun t => ((t.core 0).f.q.get 0, (t.readG 3).toNat, t.pc.toNat)) =
      some ([filled [1, 0, 2, 2]], 3 * 2 ^ 32 + 3, 8) ∧
    next (exec (.lmerge .i8 0 1 2 3) (lists)) (fun t => ((t.core 0).f.q.get 0, (t.readG 3).toNat, t.pc.toNat)) =
      some ([filled [0, 1, 0x80000000, 0x80000001, 2, 0x80000002]], 3 * 2 ^ 32 + 3, 8) := by decide +kernel

/-- The first four merged are 1, 3, 3, 4: two of each list. Rows of the offsets 0, 2, 2, 3 (INT32). -/
theorem test_part_and_coordinates : next (exec (.lmpart .i8 4 1 2 3) (lists 4)) (fun t => (t.readG 4).toNat) = some (2 * 2 ^ 32 + 2) ∧
    next (exec (.lcoord .i32 0 1 2 3) (inL [(1, 0x10000000), (2, 3)] [] [(0x2004, 2), (0x2008, 2), (0x200C, 3)]))
      (fun t => ((t.core 0).f.q.get 0, t.pc.toNat)) = some ([filled [0, 0, 2]], 8) := by decide +kernel

theorem keyAt_of {s : State} {n : Nat} {f : Fmt} {base : Word} {i : Nat} {p : Place} {key : Int}
    (hr : reachesB s n .l false (base + BitVec.ofNat 64 (i * (f.width / 8))).toNat (f.width / 8) p false = true)
    (hs : s.sound n .l p (f.width / 8))
    (hk : key = if f = .ui8 then (s.loads n .l p (f.width / 8) : Int)
      else (BitVec.ofNat f.width (s.loads n .l p (f.width / 8))).toInt) : s.keyAt n f base i key :=
  ⟨p, false, reaches_of hr, hs, hk⟩

/-- The two lists and their keys; rows from 2^31; a descriptor with a reserved bit. -/
theorem witness_List_walks : (lists).alone 0 .l ∧ (lists).listAt 0 .i8 0x10000000 3 (fun i => [1, 3, 5].getD i 0) ∧
    (lists).listAt 0 .i8 0x10000010 3 (fun i => [3, 4, 5].getD i 0) ∧ (lists).gexpTargets 0 0 = false ∧
    2 ^ 31 ≤ ((inL [(2, 0x80000000)]).readG 2).toNat ∧ ((lists).core 0).f.q.get 0 = [] := by
  refine ⟨⟨rfl, by decide +kernel⟩, ⟨.mem 0x2000, false, reaches_of (by decide +kernel), by unfold State.sound; decide +kernel, by decide +kernel, by decide +kernel, ?_⟩,
    ⟨.mem 0x2010, false, reaches_of (by decide +kernel), by unfold State.sound; decide +kernel, by decide +kernel, by decide +kernel, ?_⟩, by decide +kernel,
    by decide +kernel, by decide +kernel⟩
  all_goals
    intro i hi
    have hc : (lists).loads 0 .l (.mem 0x2000) 16 / 2 ^ 127 % 2 = 0 ∧ (lists).loads 0 .l (.mem 0x2010) 16 / 2 ^ 127 % 2 = 0 := by decide +kernel
    simp only [hc.1, hc.2]
    interval_cases i
  · exact keyAt_of (p := .mem 0x2100) (by decide +kernel) (by unfold State.sound; decide +kernel) (by decide +kernel)
  · exact keyAt_of (p := .mem 0x2101) (by decide +kernel) (by unfold State.sound; decide +kernel) (by decide +kernel)
  · exact keyAt_of (p := .mem 0x2102) (by decide +kernel) (by unfold State.sound; decide +kernel) (by decide +kernel)
  · exact keyAt_of (p := .mem 0x2110) (by decide +kernel) (by unfold State.sound; decide +kernel) (by decide +kernel)
  · exact keyAt_of (p := .mem 0x2111) (by decide +kernel) (by unfold State.sound; decide +kernel) (by decide +kernel)
  · exact keyAt_of (p := .mem 0x2112) (by decide +kernel) (by unfold State.sound; decide +kernel) (by decide +kernel)

/-! ## Tasks -/

/-- F of core 0 fires stage 0 of grid 1 (which pushes to slot 1), with `g5` a designator, `g16` and `g17` a record. -/
def firing (modes : Nat := 0) (more : Grid → Grid := id) (f : Core → Core := id) (priv : Nat := 3) : State :=
  let s := inGrid .f (fun c => f { c with
    firing := .slot 0
    fc := ctxOf [(1, 0x10000000), (5, 0xFFFF00000003), (6, 0xFFFF00000008), (16, 0xA), (17, 0xB)] priv }) page modes
  { s with grids := [(1, more (grid0 modes))] }

def classes (g : Grid) : Grid := { g with info := { g.info with classes := [⟨true, false, 0, 1⟩, ⟨true, true, 1, 0x40⟩] } }

theorem test_push : next (exec (.push 1 16) (firing)) (fun t => ((t.core 0).work.deques.get 1, (t.core 0).f.pushes.get 1)) =
      some ([⟨0xA, 0xB, false⟩], 1) ∧
    next (exec (.pushr 5 1 16) (firing)) (fun t => (t.core 3).work.deques.get 1) = some [⟨0xA, 0xB, false⟩] ∧
    trapOf (firing) (.push 1 17) = some (1, 0) ∧ trapOf (firing) (.push 2 16) = some (0x0B, 0) ∧
    trapOf (firing) (.pushr 6 1 16) = some (0x3D, 0xFFFF00000008) ∧
    trapOf (firing 0 id fun c => { c with f := { c.f with pushes := c.f.pushes.set 1 3 } }) (.push 1 16) = some (0x0B, 0) := by decide +kernel

theorem test_send : (([.send 5 0 16, .sendh 5 1 16] : List Instr).map fun i => next (exec i (firing 0 classes)) fun t =>
      t.net.map fun m => (m.target, m.item.kind, m.item.w1)) =
    [some [(3, .low 1, 0xB)], some [(3, .high 0x40 1, 0xB)]] ∧
    trapOf (firing 0 classes) (.send 5 1 16) = some (0x1F, 0) ∧ trapOf (firing 0 classes) (.sendh 5 2 16) = some (0x1F, 0) := by
  decide +kernel

/-- A designator of the core itself, of the last core, and of one past it; of another device; H with 7 and 8 items held. -/
theorem witness_Records_and_messages : (firing).alone 0 .f ∧ ((firing).core 0).ident.grid = some 1 ∧ ((firing).grid 1).isSome = true ∧
    holds (firing).turn [6, 16] = true ∧ ((firing).readG 6).toNat / 2 ^ 32 = 0xFFFF ∧ ((firing).readG 6).toNat % 2 ^ 32 = 8 * (info0).clusters ∧
    ((firing).readG 5).toNat % 2 ^ 32 < 8 * (info0).clusters ∧ (info0).stage 1 = some stage2 ∧ (info0).stage 2 = none ∧
    stage0.pushesTo 1 = 3 ∧ (((firing).drainAll 0).core 0).mem.buffer = [] ∧ (firing).hasMode 0 .remote = false ∧
    (info0).unitOf 0 0 ≠ (info0).unitOf 0 3 ∧ (info0).unitOf 1 0 = (info0).unitOf 1 3 ∧
    (classes (grid0)).info.classes[2]? = none ∧ (16 : Reg).val % 2 = 0 ∧ (firing).inboxFull (grid0) 1 3 = false := by
  unfold State.alone; refine ⟨?_, ?_, ?_, ?_, ?_, ?_, ?_, ?_, ?_, ?_, ?_, ?_, ?_, ?_, ?_, ?_, ?_⟩ <;> decide +kernel

def joined (arrived : Option Nat) (b : Barrier) : State :=
  firing 0 (fun g => { g with barriers := [b] }) fun c => { c with f := { c.f with bars := [⟨1, 0, arrived⟩] } }

theorem test_barriers : next (exec (.barj 1 0) (firing)) (fun t => ((t.core 0).f.bars, (t.grid 1).map (·.barriers))) =
      some ([⟨1, 0, none⟩], some [⟨1, 0, 0, 1, 0, 0, 0, 0⟩]) ∧
    next (exec (.bar 7 1 0) (joined none ⟨1, 0, 0, 2, 1, 3, 4, 0⟩)) (fun t => ((t.readG 7).toNat, (t.grid 1).map (·.barriers), t.pc.toNat)) =
      some (3, some [⟨1, 0, 0, 2, 0, 0, 5, 3⟩], 4) ∧
    next (exec (.bar 7 1 0) (joined none ⟨1, 0, 0, 3, 1, 3, 4, 0⟩)) (fun t => ((t.core 0).f.bars, (t.grid 1).map (·.barriers), t.pc.toNat)) =
      some ([⟨1, 0, some 4⟩], some [⟨1, 0, 0, 3, 2, 3, 4, 0⟩], 0) ∧
    next (exec (.barst 7 1 0) (joined none ⟨1, 0, 0, 3, 1, 2, 4, 0⟩)) (fun t => (t.readG 7).toNat) = some 0x0004000300010002 ∧
    next (exec (.barl 1 0) (joined none ⟨1, 0, 0, 3, 2, 0, 4, 0⟩)) (fun t => ((t.core 0).f.bars, (t.grid 1).map (·.barriers))) =
      some ([], some [⟨1, 0, 0, 2, 0, 0, 5, 0⟩]) ∧
    trapOf (firing) (.bar 7 1 0) = some (0x1E, 0) ∧ trapOf (firing) (.barj 2 0) = some (0x1E, 0) := by decide +kernel

/-- Levels 1 and 2 of a launch with one; a firing that has not arrived, has arrived, and whose phase has ended. -/
theorem witness_Barriers : (firing).alone 0 .f ∧ ((firing).grid 1).map (fun g => g.info.levels.length) = some 1 ∧
    ((firing).core 0).f.bars = [] ∧ ((joined none ⟨1, 0, 0, 2, 1, 3, 4, 0⟩).core 0).f.bars.find? (fun r => r.lvl == 1 && r.n == 0) = some ⟨1, 0, none⟩ ∧
    ((joined (some 4) ⟨1, 0, 0, 2, 1, 3, 4, 0⟩).core 0).f.bars = [⟨1, 0, some 4⟩] ∧
    ((joined (some 3) ⟨1, 0, 0, 2, 1, 3, 4, 0⟩).grid 1).map (fun g => (g.barrier 1 0 0).p) = some 4 := by
  unfold State.alone; refine ⟨?_, ?_, ?_, ?_, ?_, ?_⟩ <;> decide +kernel

/-- An arena table on the page at 0x10000000: base 0x9000, size 0x100, USED as given, alignment 16. -/
def arena (used : Byte) : State :=
  let s := firing 0 fun g => { g with info := { g.info with arenaVa := 0x10000000, arenas := [⟨0x9000, 0x100, 4⟩] } }
  { s.modCore 0 fun c => { c with fc := c.fc.writeG 1 9 } with mem := [(0x2010, used)] }

theorem test_abump : next (exec (.abump 4 1 0) (arena 0xE0)) (fun t => ((t.readG 4).toNat, (memGet t.mem 0x2010).toNat)) = some (0x90E0, 0xF0) ∧
    next (exec (.abump 4 1 0) (arena 0xF8)) (fun t => ((t.readG 4).toNat, (memGet t.mem 0x2010).toNat)) = some (0, 0xF8) ∧
    trapOf (arena 0xF8) (.abumpT 4 1 0) = some (0x0D, 9) ∧
    next (exec (.abumpT 4 1 0) (arena 0xE0)) (fun t => (t.readG 4).toNat) = some 0x90E0 := by decide +kernel

/-- A block of 10 elements in 4 parts at level 0: MLD, and the slice of core 0 (3 elements from 0). -/
theorem test_shapes : next (exec (.mld 2 1) (at_ .f fun c => { c with mem := { c.mem with scratch := [(32, 10), (36, 4)] } }))
      (fun t => (((t.core 0).f.m.get 2).toNat, (t.core 0).f.mIdx.get 2)) = some (4 * 2 ^ 32 + 10, some 1) ∧
    next (exec (.mslice 7 2 0) (firing 0 id fun c => { c with f := { c.f with m := c.f.m.set 2 (BitVec.ofNat 256 (4 * 2 ^ 32 + 10)) } }))
      (fun t => (t.readG 7).toNat) = some (3 * 2 ^ 32) := by decide +kernel

theorem test_launch : next (exec (.launch 3 1) (firing)) (fun t =>
      ((t.readG 3).toNat, (t.die 0).launches.map fun q => (q.record.length, natAt q.record 4 4), t.nextGrid)) = some (2, [(256, 2)], 3) ∧
    trapOf (firing 0 id id 0) (.launch 3 1) = some (2, 0) ∧ trapOf (firing) (.launch 3 16) = some (4, 0xA) := by decide +kernel

theorem test_pair : next (exec .pair (at_ .f)) (fun t => ((t.core 0).pair.joining, t.pc.toNat)) = some (some true, 0) ∧
    next (exec .pair ((at_ .f).modCore 1 fun c => { c with pair := { c.pair with joining := some true } })) (fun t =>
      ((t.core 0).pair.ctl.toNat, (t.core 1).pair.ctl.toNat, (t.core 0).fc.pc.toNat, (t.core 1).fc.pc.toNat)) = some (1, 0x21, 4, 4) ∧
    next (exec .unpair (at_ .f)) (fun t => t.pc.toNat) = some 4 ∧ trapOf (inF [] 0) .pair = some (2, 0) := by decide +kernel

/-- A pair whose odd core waits in UNPAIR, before its interval opens. -/
def unpairing : State :=
  (at_ .f fun c => { c with pair := { c.pair with ctl := 1 } }).modCore 1 fun c => { c with pair := { c.pair with ctl := 0x21, joining := some false } }

theorem test_unpair : next (exec .unpair unpairing) (fun t => ((t.core 0).paired, (t.core 1).paired, (t.core 1).fc.pc.toNat)) =
    some (false, false, 4) := by decide +kernel

/-- A saved fibre of stage 0 at 0x10000000, four pages at 0x20000, resumed by a firing of the fibre's grid. -/
def fibreHolder (valid : Byte) : State :=
  let s := firing 0 fun g => { g with info := { g.info with fibre := 0x10000000, fibres := 1 } }
  let s := s.modCore 0 fun c => { c with
    fc := c.fc.writeG 1 0x10000000, fibres := [⟨0x10000000, 0, [], true, none, false, false, [], Vector.replicate 16 0, 0⟩] }
  let s := s.modCluster 0 fun c => { c with tlb := [{ page with size := 16, leaf := 0x2006D }] }
  { s with mem := [(0x20000, valid), (0x20010, 0x40), (0x20088, 7)] }

theorem test_fresume : ((fibreHolder 1).fibreSlots 0).contains 0x10000000 = true ∧
    next (exec (.fresume 1) (fibreHolder 1)) (fun t => ((t.readG 1).toNat, t.pc.toNat, (t.core 0).fc.priv)) = some (7, 0x40, 0) := by
  decide +kernel

theorem witness_Task_services : (firing).alone 0 .f ∧ 0x10000000 % 256 = 0 ∧ 0xA % 256 ≠ 0 ∧ (firing).sound 0 .f (.mem 0x2000) 256 ∧
    (firing).reaches 0 .f false 0x10000000 256 (.mem 0x2000) false ∧ ((firing).infoOf 0).isSome = true ∧
    (arena 0).claimed (.mem 0x2010) = false ∧ (firing).claimed (.scratch 0 (32 * 7)) = false ∧ 0xE0 + 0x10 ≤ 0x100 ∧ 0x100 < 0xF8 + 0x10 ∧ (info0).levels.length = 1 ∧
    (unpairing.core 0).intervalOpen = false ∧ (unpairing.core 0).paired = true := by
  refine ⟨⟨rfl, by decide +kernel⟩, by decide, by decide, by unfold State.sound; decide +kernel, reaches_of (by decide +kernel), ?_⟩
  decide +kernel

/-! ## Engine jobs and copies at issue -/

/-- F of core 0 in grid 1: `g1` to `g9`, and bytes of its scratchpad. -/
def engine (g : List (Reg × Word)) (scratch : List Host.Cell := []) (f : Core → Core := id) : State :=
  inGrid .f fun c => f { c with firing := .slot 0, fc := ctxOf g, mem := { c.mem with scratch := scratch } }

/-- Little-endian bytes from an address, zeros not listed. -/
def cells (at_ : Nat) (bs : List Nat) : List Host.Cell :=
  (bs.zipIdx.filter fun p => p.1 != 0).map fun p => (at_ + p.2, BitVec.ofNat 8 p.1)

/-- The jobs of cluster 0, by number and command, and the register of the id. -/
def issuedBse (s : State) (i : Instr) : Option (List (Nat × BseCmd) × Nat × Nat) :=
  next (exec i s) fun t => ((t.cluster 0).bse.map fun j => (j.id, j.cmd), (t.readG 9).toNat, (t.core 0).sr.bjob.toNat)

/-- A region of one row and two columns at word 0. -/
def region : Word := BitVec.ofNat 64 (2 ^ 32 + 2 * 2 ^ 18)
def bsed (g : List (Reg × Word) := []) : State :=
  engine ([(1, slot + 0x2000), (2, region), (3, slot + 0x2040)] ++ g) [] fun c => { c with f := { c.f with bs := c.f.bs.set 0 0 } }
def region' : Region := ⟨1, 2, 0, false⟩

theorem test_bldw : (issuedBse (bsed [(4, 16)]) (.bldw 9 1 4 2)).map (·.1) = some [(0, .load (slot + 0x2000) 16 32)] ∧
    (issuedBse (bsed [(4, 16)]) (.bldw 9 1 4 2)).map (fun p => (p.2.1, p.2.2 % 2 ^ 17)) = some (0, 2 ^ 16) ∧
    trapOf (bsed [(4, 15)]) (.bldw 9 1 4 2) = some (0x20, 0) := by decide +kernel

theorem test_bse_issues : (([.bstg .f32 9 1 2 0, .bchn .bf16 .sr16 9 0 2 0, .baccKeep .f32 .rne false 9 1 2, .baccTake .bf16 .rtz true 9 1 2,
      .baccClr 9 2, .baccRes .i32 .rne false 3 9 1 2, .baccRestake .f32 .rne false 0 9 1 2] : List Instr).map fun i =>
        (issuedBse bsed i).map fun p => p.1.map (·.2)) =
    [some [.chain .f32 .w (some (slot + 0x2000)) region' [0]], some [.chain .bf16 .sr16 none region' [0]],
      some [.readout .keep .f32 .rne false 0 (slot + 0x2000) region'], some [.readout .take .bf16 .rtz true 0 (slot + 0x2000) region'],
      some [.readout .clr .f32 .rne false 0 0 region'], some [.readout .res .i32 .rne false 3 (slot + 0x2000) region'],
      some [.readout .restake .f32 .rne false 0 (slot + 0x2000) region']] := by decide +kernel

/-- A tile of 1 by 1 by 1, or of 1 by 2 by 1, in BF16: M, N, K, LDA, LDB. -/
def tileBytes (n : Nat) : List Nat := [1, 0, n, 0, 1, 0, 0, 0, 1, 0, 0, 0, 1, 0, 0, 0]
def tiling (n : Nat) : State := engine [(1, slot + 0x2000), (2, slot + 0x2004), (3, slot + 0x2040)] (cells 0x2040 (tileBytes n))

theorem test_tiles : (issuedBse (tiling 1) (.bmma .bf16 .bf16 true 9 1 2 3)).map (fun p => p.1.map fun j => j.1) = some [0] ∧
    trapOf (tiling 1) (.bmma .bf16 .i8 true 9 1 2 3) = some (0x20, 0) ∧ trapOf (tiling 2) (.bmmap .bf16 .bf16 false 9 1 2 3) = some (0x3D, 0) ∧
    (issuedBse { tiling 2 with grids := [(1, { grid0 with info := { info0 with levels := [(2, 1)] } })] } (.bmmap .bf16 .bf16 false 9 1 2 3)).map
      (fun p => p.1.length) = some 1 := by decide +kernel

/-- Operands at the bounds of each check of an issue (R286, R288, R298). -/
theorem witness_BSE_issue : (bsed).alone 0 .f ∧ (bsed).bseOut 0 < 4 ∧ ((bsed).cluster 0).bse.length < 32 ∧ region.toNat / 2 ^ 57 = 0 ∧
    regionOf region = region' ∧ (bsed).operandOk 0 false (slot + 0x2000).toNat 8 ∧ (bsed).operandOk 0 true (slot + 0x5FFF8).toNat 8 ∧
    stageLegal .f32 2 0 = true ∧ stageLegal .f32 2 1 = false ∧ (((bsed).drainAll 0).core 0).mem.buffer = [] ∧
    16 * (0x3FFF : BitVec 16).toNat + 16 = 262144 ∧ windowAt (slot + 0x2000).toNat = 0 ∧
    (tiling 1).blockAt 0 (slot + 0x2040).toNat 64 ((List.range 64).map fun i => (tiling 1).readByte 0 .f (.scratch 0 (0x2040 + i))) ∧
    tilePlaced (tiling 1) 0 false (slot + 0x2000).toNat = true := by
  refine ⟨⟨rfl, by decide +kernel⟩, by decide +kernel, by decide +kernel, by decide +kernel, by decide +kernel, ?_, ?_, by decide +kernel,
    by decide +kernel, by decide +kernel, by decide, by decide +kernel, ?_, by decide +kernel⟩
  · refine ⟨by decide +kernel, by decide +kernel, by decide +kernel, ?_⟩
    rw [if_pos (by decide +kernel)]
    exact ⟨by decide +kernel, by decide +kernel, 0, by decide +kernel, by decide +kernel⟩
  · refine ⟨by decide +kernel, by decide +kernel, by decide +kernel, ?_⟩
    rw [if_pos (by decide +kernel)]
    exact ⟨by decide +kernel, by decide +kernel, 0, by decide +kernel, by decide +kernel⟩
  · exact ⟨by decide +kernel, by decide +kernel, by decide +kernel, by decide +kernel, .scratch 0 0x2040, false, false, by decide +kernel,
      by decide +kernel, by decide +kernel, by unfold State.sound; decide +kernel, rfl⟩

/-- A grammar of 2 rules and 2 terminals of INT32 (FMT 0xB), 1 start, DEPTH 4: R244. -/
def grammarBytes : List Nat :=
  [2, 0, 0, 0, 2, 0, 0, 0, 0, 0xB, 4, 0, 1, 0, 0, 0] ++ [0, 0x30, 0, 0, 0, 0, 0xFF, 0] ++ [0x40, 0x30, 0, 0, 0, 0, 0xFF, 0] ++
    [0x60, 0x30, 0, 0, 0, 0, 0xFF, 0]

/-- An argument block whose OUT is 0x100. -/
def gred : State :=
  engine [(1, slot + 0x2000), (2, slot + 0x3080), (3, slot + 0x2040)] (cells 0x2000 grammarBytes ++ [(0x2041, 0x21), (0x2046, 0xFF)])

def issuedGre (s : State) (i : Instr) : Option (List GreCmd × List GOp × List Nat) :=
  next (exec i s) fun t => let js := (t.cluster 0).gre; (js.map (·.cmd), js.map (·.op), js.map fun j => j.rrt.toNat)

theorem test_gre_issues : issuedGre gred (.geval .mom 9 1 2 0) = some ([.eval], [.mom], [(slot + 0x3080).toNat]) ∧
    issuedGre gred (.gpfx .sum 9 1 2 3) = some ([.pfx], [.sum], [(slot + 0x3080).toNat]) ∧
    issuedGre gred (.gred .min 9 1 2 3) = some ([.red], [.min], [(slot + 0x3080).toNat]) ∧
    issuedGre gred (.gseek 9 1 3) = some ([.seek], [.sum], [0]) := by
  refine ⟨?_, ?_, ?_, ?_⟩ <;> decide +kernel

theorem test_gre_issues_more : issuedGre gred (.gexpQueue 9 1 2 0) = some ([.expand (.queue 2)], [.sum], [0]) ∧
    issuedGre gred (.gexpMemory 9 1 2 0) = some ([.expand (.memory (slot + 0x3080))], [.sum], [0]) ∧
    issuedGre gred (.gexpWp 9 1 0) = some ([.expand .weightPort], [.sum], [0]) ∧
    issuedGre gred (.gmv .max 9 1 2 3) = some ([.mv], [.max], [(slot + 0x3080).toNat]) := by
  refine ⟨?_, ?_, ?_, ?_⟩ <;> decide +kernel

theorem test_gre_rejections : trapOf gred (.geval .sum 9 3 2 0) = some (0x24, 0) ∧ trapOf gred (.geval .sum 9 1 2 3) = some (0x27, 0) ∧
    trapOf (gred.modCore 0 fun c => { c with fc := c.fc.writeG 1 (slot + 0x2020) }) (.geval .sum 9 1 2 0) =
      some (0x24, (slot + 0x2020).toNat) := by
  refine ⟨?_, ?_, ?_⟩ <;> decide +kernel

theorem witness_GRE_issue : gred.alone 0 .f ∧ gred.greOut 0 < 4 ∧ gred.gexpTargets 0 2 = false ∧ (slot + 0x2000).toNat % 64 = 0 ∧
    gred.blockAt 0 (slot + 0x2000).toNat 64 ((List.range 64).map fun i => gred.readByte 0 .f (.scratch 0 (0x2000 + i))) ∧
    descriptorLegal ((List.range 64).map fun i => gred.readByte 0 .f (.scratch 0 (0x2000 + i))) = true ∧
    pairingLegal .eval .sum (grammarOf ((List.range 64).map fun i => gred.readByte 0 .f (.scratch 0 (0x2000 + i))))
      (greArgsOf (List.replicate 32 0)) [] = true := by
  refine ⟨⟨rfl, by decide +kernel⟩, by decide +kernel, by decide +kernel, by decide, ?_, by decide +kernel, by decide +kernel⟩
  exact ⟨by decide +kernel, by decide +kernel, by decide +kernel, by decide +kernel, .scratch 0 0x2000, false, false, by decide +kernel,
      by decide +kernel, by decide +kernel, by unfold State.sound; decide +kernel, rfl⟩

/-- A store that has gone and one that waits for a claimed line: a release that goes through and one that does not; a
queue of an engine with room, full, and one in which another core's turn comes first (R230, R233, R262, R295). -/
theorem witness_Releases_and_intake :
    (addr 0x10000000).settles 0 .f .sy ∧ (bsed).settles 0 .f .dv ∧ gred.settles 0 .f .dv ∧
    ¬ (State.settles { (addr 0x10000000).modCore 0 (fun c => { c with mem := { c.mem with
        buffer := [⟨.f, [⟨.mem 0x2000, [7], 0xFF, false, false⟩], false, false, false⟩] } }) with
      claims := [⟨.mem 0x2000, .bse 0 1⟩] } 0 .f .dv) ∧
    (bsed).admitted 0 0 ((bsed).cluster 0).bseIn ∧ ¬ (bsed).admitted 0 32 ((bsed).cluster 0).bseIn ∧ (bsed).bseOut 0 < 4 ∧ gred.admitted 0 0 (gred.cluster 0).greIn := by
  unfold State.settles State.admitted
  refine ⟨?_, ?_, ?_, ?_, ⟨?_, ?_⟩, ?_, ?_, ⟨?_, ?_⟩⟩ <;> decide +kernel

/-! ## Waits for engine jobs, copy requests -/

def doneJob (stat : Word) : JobStatus := ⟨3, stat, 0x15, .dv⟩

/-- A job 3 that runs (`stat` none), or that has ended. -/
def waiting (stat : Option Word) (more : Core → Core := id) : State :=
  let s := at_ .f fun c => more { c with
    fc := ctxOf [(1, 3), (2, 0x10000)] 3
    jobs := { c.jobs with bseDone := (stat.map doneJob).toList, greDone := (stat.map doneJob).toList } }
  if stat = none then
    s.modCluster 0 fun c => { c with bse := [{ bseJob (.loadGexp 0 0) with id := 3 }], gre := [{ greJob .eval with id := 3 }] }
  else s

/-- G3, the flags, the trap and TVAL, the offset. -/
def afterWait (s : State) (i : Instr) : Option (Nat × Nat × Nat × Nat × Nat) :=
  next (exec i s) fun t => let k := (t.core 0).fc; ((t.readG 3).toNat, k.fpstat.toNat, k.cause.toNat, k.tval.toNat, k.pc.toNat)

theorem test_waits : afterWait (waiting none) (.bwait 1) = some (0, 0, 0, 0, 0) ∧
    afterWait (waiting none) (.bpoll 3 1) = some (0x40000, 0, 0, 0, 8) ∧ afterWait (waiting none) (.gpoll 3 1) = some (0x40000, 0, 0, 0, 8) ∧
    afterWait (waiting none) (.bwait 2) = some (0, 0, 0, 0, 8) ∧ afterWait (waiting (some 0x10000)) (.bwait 1) = some (0, 0x15, 0, 0, 8) ∧
    afterWait (waiting (some 0x10000)) (.gpoll 3 1) = some (0x10000, 0x15, 0, 0, 8) ∧
    afterWait (waiting (some 0x20000)) (.bwait 1) = some (0, 0x15, 0x22, 3, 0) ∧
    afterWait (waiting (some 0x30000)) (.gwait 1) = some (0, 0x15, 0x29, 3, 0) ∧
    afterWait (waiting (some 0x20000)) (.bpoll 3 1) = some (0x20000, 0x15, 0, 0, 8) := by
  refine ⟨?_, ?_, ?_, ?_, ?_, ?_, ?_, ?_, ?_⟩ <;> decide +kernel

theorem test_hint : afterWait (waiting (some (0x10200 + 5 * 2 ^ 19)) fun c => { c with fc := { c.fc with status := setField c.fc.status 3 1 1 } })
      (.bwait 1) = some (0, 0x15, 0x3A, 5, 0) ∧
    afterWait (waiting (some (0x10200 + 5 * 2 ^ 19))) (.bwait 1) = some (0, 0x15, 0, 0, 8) := by decide +kernel

theorem test_bset : next (exec (.bset 2 1) (inF [(1, 0xFFFF007F)])) (fun t => ((t.core 0).f.bs.get 2).toNat) = some 0xFFFF007F ∧
    trapOf (inF [(1, 2 ^ 32)]) (.bset 2 1) = some (0x21, 0) ∧ trapOf (inF [(1, 0x80)]) (.bset 2 1) = some (0x21, 0) ∧
    next (exec (.brst 9) (inF [])) (fun t => ((t.core 0).f.rstLabel, t.pc.toNat)) = some (some 9, 8) := by decide +kernel

/-- A job that runs, that no core holds, that ended well, failed, stopped, and whose hint traps. -/
theorem witness_Engine_waits :
    (waiting none).alone 0 .f ∧ (waiting none).bseRuns 0 3 = true ∧ (waiting none).greRuns 0 3 = true ∧
    (waiting none).bseRuns 0 0 = false ∧ (waiting none).greRuns 0 0 = false ∧
    ((waiting (some 0x10000)).core 0).jobs.bseDone.find? (fun j => j.id == 3) = some (doneJob 0x10000) ∧
    ((waiting (some 0x10000)).core 0).jobs.greDone.find? (fun j => j.id == 3) = some (doneJob 0x10000) ∧
    field (0x20000 : Word) 16 3 = 2 ∧ field (0x30000 : Word) 16 3 = 3 ∧ field (0x10200 : Word) 16 3 = 1 ∧ flag (0x10200 : Word) 9 = true ∧
    (0xFFFF007F : Word).toNat < 2 ^ 32 ∧ (0xFFFF007F : Word).toNat / 2 ^ 7 % 2 ^ 9 = 0 ∧ (0x80 : Word).toNat / 2 ^ 7 % 2 ^ 9 ≠ 0 := by
  unfold State.alone; refine ⟨?_, ?_, ?_, ?_, ?_, ?_, ?_, ?_, ?_, ?_, ?_, ?_, ?_, ?_⟩ <;> decide +kernel

/-- Request words in `g4` to `g7`, and a core's channels. -/
def copying (w : List Word) (f : CoreJobs → CoreJobs := id) : State :=
  engine (([4, 5, 6, 7] : List Reg).zip w ++ [(1, 2)]) [] fun c => { c with jobs := f c.jobs }

/-- Move 64 bytes by channel 2. -/
def moveWords : List Word := [0x200, slot + 0x2000, slot + 0x3000, 64]

def requested (s : State) (i : Instr) : Option (Nat × List Nat × Nat) :=
  next (exec i s) fun t => ((t.readG 3).toNat, (t.core 0).jobs.fifo.map (·.id), ((t.core 0).chan 2).issued)

def stalledChan (id : Nat) (moved : Nat := 0) : Chan :=
  { Chan.reset with
      issued := id, stall := true, dlv := true
      run := some ⟨⟨id, false, 7, wcfgReset, 0x200, slot + 0x2000, slot + 0x3000, 64⟩, true, 0, 0, 1, 64, 0, moved, 0, false, false⟩ }
def fullFifo (j : CoreJobs) : CoreJobs := { j with fifo := List.replicate 16 ⟨1, false, 7, wcfgReset, 0x200, 0, 0, 0⟩ }

theorem test_cpyq : requested (copying moveWords) (.cpyq 3 4) = some (1, [1], 1) ∧
    requested (copying moveWords) (.cpyqb 3 4) = some (1, [1], 1) ∧
    requested (copying moveWords fullFifo) (.cpyqb 3 4) = some (2 ^ 63, List.replicate 16 1, 0) ∧
    same (exec (.cpyq 3 4) (copying moveWords fullFifo)) (copying moveWords fullFifo) = true ∧
    trapOf (copying [9, 0, 0, 0]) (.cpyq 3 4) = some (0x2A, 0) ∧ trapOf (copying [0x201, slot, slot, 8]) (.cpyq 3 4) = some (0x2C, 0) := by
  refine ⟨?_, ?_, ?_, ?_, ?_, ?_⟩ <;> decide +kernel

theorem test_cwait : (([.cwait 1 2, .cpoll 3 1 2] : List Instr).map fun i =>
      next (exec i (copying [] fun j => { j with chans := j.chans.set 2 { Chan.reset with issued := 2, done := 2, fail := true } }))
        fun t => ((t.readG 3).toNat, t.pc.toNat, ((t.core 0).chan 2).fail)) = [some (0, 8, true), some (5, 8, false)] ∧
    trapOf (copying []) (.cwait 1 2) = some (0x2A, 2) ∧
    next (exec (.cpoll 3 1 2) (copying [] fun j => { j with chans := j.chans.set 2 (stalledChan 2) })) (fun t => (t.readG 3).toNat) = some 2 ∧
    next (exec (.cwait 1 2) (copying [] fun j => { j with chans := j.chans.set 2 (stalledChan 2) })) (fun t => t.pc.toNat) = some 0 := by
  refine ⟨?_, ?_, ?_, ?_⟩ <;> decide +kernel

/-- Words that are legal and not, with room in the FIFO and without; numbers before and after what was issued. -/
theorem witness_Copy_requests :
    (copying moveWords).alone 0 .f ∧ copyWordsLegal ((copying moveWords).core 0) 0x200 (slot + 0x2000) (slot + 0x3000) 64 = true ∧
    copyWordsLegal ((copying moveWords).core 0) 9 0 0 0 = false ∧ (0x200 : Word).getLsbD 12 = false ∧ field (0x200 : Word) 0 4 = 0 ∧
    copyWordsLegal ((copying moveWords).core 0) 0x201 slot slot 8 = true ∧ 8 % 32 ≠ 0 ∧
    ((copying moveWords fullFifo).core 0).jobs.fifo.length = 16 ∧ (((copying moveWords).drainAll 0).core 0).mem.buffer = [] ∧
    (stalledChan 2).dlv = true ∧ (Chan.reset).stall = false ∧ decide ((0 + 2 ^ 32 - 2) % 2 ^ 32 < 2 ^ 31) = false ∧
    decide ((2 + 2 ^ 32 - 2) % 2 ^ 32 < 2 ^ 31) = true := by
  unfold State.alone; refine ⟨?_, ?_, ?_, ?_, ?_, ?_, ?_, ?_, ?_, ?_, ?_, ?_, ?_⟩ <;> decide +kernel

/-! ## Walks -/

/-- The thread of `onWalker` walks for F of core 24, in grid 1 with the Keep as given. -/
def walking (g : List (Nat × Word)) (keep : Keep := State.reset.keep) (cancel : List (Nat × Inval) := []) (count : Nat := 0) : State :=
  let s := (onWalker g).modDie 1 fun d => { d with
    threads := d.threads.map fun t => { t with
      count := count, req := { t.req with waiters := [.core 24 .f], grid := some 1, cancel := cancel } } }
  { s with keep := keep, mem := [(0x9008, 0x77)] }

/-- Walker threads of die 1, pages in the TLB of cluster 3 and its failed walks, the blocks of the Keep. -/
def afterWalk (s : State) (i : Instr) : Option (Nat × List Nat × List WalkFail × List Nat) :=
  next (exec i s) fun t => ((t.die 1).threads.length, (t.cluster 3).tlb.map (·.va), (t.cluster 3).fails.map (·.2.2), t.keep.blocks.map (·.pa))

/-- A page of 4 KiB at 0x2000 with R, and a companion word with bit 26: bit 26, RC. -/
def goodLeaf : Word := 0x2063
def keepBit : Word := 2 ^ 26
def oneGib : Keep := { State.reset.keep with gib := 1 }

theorem test_wldp : next (exec (.wldp 1 2) (walking [(2, 0x9008)])) (fun t => (t.readG 1).toNat) = some 0x77 ∧
    next (exec (.wldp 1 2) (walking [(2, 0x9009)])) (fun t => (t.die 1).threads.length) = some 0 ∧
    next (exec (.wldp 1 2) (walking [(2, 0x9009)])) (fun t => (t.cluster 3).fails) = some [(.core 24 .f, 0x5000, .routine)] := by
  refine ⟨?_, ?_, ?_⟩ <;> decide +kernel

theorem test_wret : afterWalk (walking [(1, goodLeaf)]) (.wret 1 2) = some (0, [0x5000], [], []) ∧
    afterWalk (walking [(1, 0)]) (.wret 1 2) = some (0, [], [.absent], []) ∧
    afterWalk (walking [(1, goodLeaf), (2, keepBit)] oneGib) (.wret 1 2) = some (0, [0x5000], [], [0]) ∧
    afterWalk (walking [(1, goodLeaf), (2, keepBit)]) (.wret 1 2) = some (0, [], [.noKeep], []) ∧
    afterWalk (walking [(1, goodLeaf), (2, 5)]) (.wret 1 2) = some (0, [], [.routine], []) ∧
    afterWalk (walking [(1, goodLeaf)] State.reset.keep [(3, ⟨none, some 7⟩)]) (.wret 1 2) = some (0, [], [], []) := by
  refine ⟨?_, ?_, ?_, ?_, ?_, ?_⟩ <;> decide +kernel

/-- A walk that waits on die 1, whose table entry names offset 0x40 and root 0x33. -/
def missed (entry : List Host.Cell := [(0x4070, 0x33), (0x4078, 0x40), (0x407A, 1)]) : State :=
  { (State.reset).modDie 1 fun d => { d with walks := [{ walkReq with user := true, kind := 2, log := 3, waiters := [.core 24 .f] }], table := 0x4000 } with
    mem := entry }

theorem test_walk_start : next (exec (.tlbMissWalk 1) (missed)) (fun t => (t.die 1).threads.map fun th =>
      ((List.range 8).map fun k => (th.g.get (ix 15 k)).toNat, th.pc.toNat)) =
    some [([0, 0, 0, 0x5000, 0x33, 3 * 2 ^ 32 + 6, 7, 0], 0x40)] ∧
    next (exec (.tlbMissWalk 1) (missed [])) (fun t => (t.cluster 3).fails) = some [(.core 24 .f, 0x5000, .routine)] := by
  refine ⟨?_, ?_⟩ <;> decide +kernel

theorem test_walk_limit : afterWalk (walking [] State.reset.keep [] 1024) (.walkLimitExceeded 1 5) = some (0, [], [.routine], []) ∧
    same (exec (.walkLimitExceeded 1 5) (walking [] State.reset.keep [] 1023)) (walking [] State.reset.keep [] 1023) = true := by
  refine ⟨?_, ?_⟩ <;> decide +kernel

/-- Addresses that are backed and not, leaves that are legal, absent and reserved, room in the Keep and none. -/
theorem witness_Walks :
    (walking []).turn = .walker 1 5 ∧ ((walking []).thread 1 5).map (·.req) = some { walkReq with waiters := [.core 24 .f], grid := some 1 } ∧
    holds (walking []).turn [15, 15] = true ∧ 0x9008 % 8 = 0 ∧ isFabric 0x9008 = false ∧ absent (walking []) 0x9008 = false ∧
    (walking []).claimed (.mem 0x9008) = false ∧ (∀ i, i < 8 → (0x9008 + i) / 8 ∉ (walking []).poison) ∧
    goodLeaf.getLsbD 0 = true ∧ (walking []).leafLegal goodLeaf 0 12 = true ∧ [some 12, some 16, some 21, some 25, some 30][(4 : Word).toNat % 8]? = some (some 30) ∧
    (walking [] oneGib).keepRoom ((walking [] oneGib).unreserved 0x2000 12) = true ∧
    (walking []).keepRoom ((walking []).unreserved 0x2000 12) = false ∧
    ((missed).die 1).walks.length = 1 ∧ natAt (memGetList (missed).mem (0x4000 + 16 * 7) 16) 8 8 / 2 ^ 16 = 1 := by
  refine ⟨?_, ?_, ?_, ?_, ?_, ?_, ?_, ?_, ?_, ?_, ?_, ?_, ?_, ?_, ?_⟩ <;> decide +kernel

/-- A walk that has been cancelled for the only cluster that waits, and one that has not. -/
theorem witness_Walks_cancelled :
    let e : TlbEntry := { va := 0x5000, size := 12, asid := 7, leaf := goodLeaf, comp := 0 }
    let w (l : List (Nat × Inval)) : WalkReq := { walkReq with waiters := [.core 24 .f], grid := some 1, cancel := l }
    (w []).clusters.filter (fun c => !(w []).cancelled c e) = [3] ∧
    (w [(3, ⟨none, some 7⟩)]).clusters.filter (fun c => !(w [(3, ⟨none, some 7⟩)]).cancelled c e) = [] ∧
    (w [(3, ⟨none, some 8⟩)]).clusters.filter (fun c => !(w [(3, ⟨none, some 8⟩)]).cancelled c e) = [3] ∧
    ((walking [] State.reset.keep [] 1024).thread 1 5).map (·.count) = some 1024 ∧ keepBit.getLsbD 26 = true := by
  refine ⟨?_, ?_, ?_, ?_, ?_⟩ <;> decide +kernel

/-! ## Seals and restores -/

/-- F of core 0 in a recoverable grid 1 whose record is `r`, with `g1` to ask from, and the Keep's blocks. -/
def sealing (r : Recovery := recov0) (w : Option SealWait := none) (blocks : List KeepBlock := []) (msgs : List KeepMsg := []) : State :=
  let s := inGrid .f (fun c => { c with
    firing := .slot 0, fc := ctxOf [(1, 0x10000000), (2, 1)], waits := { c.waits with sealOf := w } }) page 2
  { s with grids := [(1, { grid0 2 with recov := r })], keep := { s.keep with gib := 1, blocks := blocks, msgs := msgs } }

def sealWait (phase : SealPhase := .waiting) (ctxs : List Ctx := [.f]) : SealWait := ⟨ctxs, List.replicate 16 0, phase, some 1, []⟩
def rpstatOf (s : State) : Nat := ((s.core 0).sr.rpstat).toNat
def phaseOf (s : State) : Option SealPhase := (s.core 0).waits.sealOf.map (·.phase)

theorem test_rpseal : next (exec (.rpseal 3 1) (sealing)) (fun t => (rpstatOf t, t.pc.toNat)) = some (1, 0) ∧
    next (exec (.rpseal 3 1) (sealing)) phaseOf = some (some .waiting) ∧
    next (exec (.rpseal 3 1) (sealing recov0 (some (sealWait (.done 0x50003))))) (fun t => (rpstatOf t, (t.readG 3).toNat, t.pc.toNat)) =
      some (0x50003, 0x50003, 4) ∧
    next (exec (.rpsealT 3 1) (sealing recov0 (some (sealWait (.done 0x50004))))) (fun t => ((t.core 0).fc.cause.toNat, (t.core 0).fc.tval.toNat)) =
      some (0x2F, 5) ∧
    next (exec (.rpsealT 3 1) (sealing recov0 (some (sealWait (.done 0x50104))))) (fun t => (t.core 0).fc.cause.toNat) = some 0x30 ∧
    trapOf (inF []) (.rpseal 3 1) = some (0x2E, 0) ∧ trapOf ((sealing).modCore 0 fun c => { c with fc := c.fc.writeG 1 8 }) (.rpseal 3 1) = some (4, 8) := by
  refine ⟨?_, ?_, ?_, ?_, ?_, ?_, ?_⟩ <;> decide +kernel

/-- Blocks: one of grid 1 written since its last point, one in its closed set, one of grid 2. -/
def blockA : KeepBlock := ⟨0x20000, 1, false, true, false, [(0, 5)], [(0, 6)]⟩
def blockB : KeepBlock := ⟨0x30000, 1, true, true, true, [], []⟩
def blockC : KeepBlock := ⟨0x40000, 2, false, true, false, [], []⟩
def recovAt (count : Nat) : Recovery := { recov0 with count := count, expect := 2 }

theorem test_seal_decision :
    (let t := (sealing (recovAt 1) (some (sealWait))).finishSeal 1 0 4 1; decide ((rpstatOf t, phaseOf t) = (0x10004, some (.done 0x10004)))) = true ∧
    (let t := (sealing (recovAt 2) (some (sealWait)) [blockA, blockC]).cutSeal 1 0 (sealWait)
     decide ((t.keep.blocks.map (·.inSet), (t.grid 1).map fun g => (g.recov.sealer, g.recov.cut, g.recov.count)) =
      ([true, false], some (some 0, 2, 0)))) = true := by
  refine ⟨?_, ?_⟩ <;> decide +kernel

def committing (prepared : Nat) (commit : Bool) : Recovery :=
  { recov0 with
      sealer := some 0, cut := 2, count := 1, commit := commit
      prepared := (List.range prepared).map fun k => (k, []) }

theorem test_seal_ends :
    next (exec (.sealCommit 1) (sealing (committing 12 false))) (fun t => (t.keep.logs.map (·.1), (t.grid 1).map (·.recov.commit))) =
      some ([0], some true) ∧
    same (exec (.sealCommit 1) (sealing (committing 11 false))) (sealing (committing 11 false)) = true ∧
    next (exec (.sealFlip 1) (sealing (committing 12 true) (some (sealWait (.committing 2))) [blockA, blockB])) (fun t =>
      (t.keep.blocks.map fun b => (b.cur, b.pend, b.inSet))) = some [(false, true, false), (false, false, false)] ∧
    next (exec (.sealFlip 1) (sealing (committing 12 true) (some (sealWait (.committing 2))) [blockA, blockB])) (fun t =>
      ((t.grid 1).map (·.recov.seq), rpstatOf t)) = some (some (recov0.seq + 1), 0x20003) ∧
    next (exec (.sealAbandon 1) (sealing (committing 3 false) (some (sealWait (.committing 2))) [blockA, blockB])) (fun t =>
      ((t.grid 1).map (·.recov.count), t.keep.blocks.map (·.inSet))) = some (some 3, [false, false]) := by
  refine ⟨?_, ?_, ?_, ?_, ?_⟩ <;> decide +kernel

theorem test_seal_prepare : next (exec (.sealPrepare 1 0) (sealing (committing 0 false))) (fun t =>
      (t.keep.logs.map fun l => (l.1, l.2.length), (t.grid 1).map fun g => g.recov.prepared.length)) = some ([(0, 64)], some 1) := by
  decide +kernel

/-- A write of 7 at offset 1 of a block. -/
def keepMsg (pa : Nat) : KeepMsg := ⟨keepCtrl pa, 1, none, none, pa, [7]⟩

theorem test_keep_write : next (exec (.keepWrite (keepCtrl 0x20001)) (sealing recov0 none [blockA, blockB] [keepMsg 0x20001])) (fun t =>
      (t.keep.msgs.length, t.keep.blocks.map fun b => (b.slot0, b.slot1))) =
      some (0, [([(0, 5)], [(0, 6), (1, 7)]), ([], [])]) ∧
    next (exec (.keepWrite (keepCtrl 0x30001)) (sealing recov0 none [blockA, blockB] [keepMsg 0x30001])) (fun t => t.keep.msgs.length) = some 1 := by
  refine ⟨?_, ?_⟩ <;> decide +kernel

def releasing : State := (sealing).modCore 0 fun c => { c with waits := { c.waits with rcRel := [⟨.f, 0, false, []⟩] } }

theorem test_rc_release : next (exec (.rcReleaseComplete 0 .f) releasing) (fun t =>
      ((t.grid 1).map (·.recov.count), (t.core 0).waits.rcRel.map (·.done))) = some (some (recov0.count + 1), [true]) := by decide +kernel

/-- Seals at each of their stages; a count below what is expected and at it; a write that is held and one that is not. -/
theorem witness_Seals :
    (sealing).alone 0 .f ∧ (sealing).hasMode 0 .recoverable = true ∧ (inF []).hasMode 0 .recoverable = false ∧ 0x10000000 % 16 = 0 ∧
    (sealing).reaches 0 .f false 0x10000000 16 (.mem 0x2000) false ∧ (sealing).sound 0 .f (.mem 0x2000) 16 ∧
    (sealing).rcPending { core := 0, ctx := .f } = false ∧ ((sealing).core 0).waits.sealOf = none ∧
    (sealWait (.done 0)).ctxs.contains .f = true ∧ (sealing (recovAt 1) (some (sealWait))).ripeSeals { grid0 2 with recov := recovAt 1 } = [0] ∧
    [0][Config.freeIndex (sealing).fresh % Nat.max 1 [0].length]? = some 0 ∧ (sealWait).awaitsTeams (grid0 2) = false ∧
    (recovAt 1).count < (recovAt 1).expect ∧ (recovAt 2).expect ≤ (recovAt 2).count ∧ (committing 12 true).commit = true ∧
    (sealing recov0 none [blockA, blockB]).keep.holds (keepMsg 0x30001) = true ∧
    (sealing recov0 none [blockA, blockB]).keep.holds (keepMsg 0x20001) = false ∧ (releasing.core 0).waits.rcRel = [⟨.f, 0, false, []⟩] := by
  refine ⟨⟨rfl, by decide +kernel⟩, by decide +kernel, by decide +kernel, by decide, reaches_of (by decide +kernel), by unfold State.sound; decide +kernel,
    by decide +kernel, by decide +kernel, by decide +kernel, by decide +kernel, ?_, by decide +kernel, by decide, by decide, by decide, by decide +kernel,
    by decide +kernel, by decide +kernel⟩
  have h : Config.freeIndex (sealing).fresh % Nat.max 1 [0].length = 0 := Nat.mod_one _
  rw [h]; rfl

theorem test_rprestore : next (exec (.rprestore 3 2) (sealing recov0 none [blockA])) (fun t =>
      ((t.readG 3).toNat / 2, rpstatOf t % 16, (memGet t.mem 0x20000).toNat, t.keep.blocks.map (·.pend))) = some (1, 5, 5, [false]) ∧
    next (exec (.rprestore 3 1) (sealing)) (fun t => (t.readG 3).toNat) = some 4 ∧ trapOf (inF [] 0) (.rprestore 3 1) = some (2, 0) ∧
    next (exec (.rprestore 3 2) (sealing (committing 3 false))) (fun t => (t.pc.toNat, (t.grid 1).map (·.recov.restore))) = some (0, some true) := by
  refine ⟨?_, ?_, ?_, ?_⟩ <;> decide +kernel

/-- U; grids that are not there and not recoverable; a seal under way and none. -/
theorem witness_Restore :
    (sealing recov0 none [blockA]).alone 0 .f ∧ holds (sealing).turn [3, 2] = true ∧ (inF [] 0).priv = 0 ∧ (sealing).priv ≠ 0 ∧
    ((sealing).grid 9).all (fun g => !g.info.has .recoverable) = true ∧ ((inGrid .f).grid 1).all (fun g => !g.info.has .recoverable) = true ∧
    (grid0 2).info.has .recoverable = true ∧ (committing 3 false).sealer = some 0 ∧ recov0.sealer = none ∧
    ((sealing recov0 none [blockA, blockB]).keep.blocks.map (·.pa)).Nodup ∧ (∀ b ∈ [blockA, blockB], b.pa % 65536 = 0) ∧
    (∀ b ∈ [blockA, blockB], ∀ o ∈ (if b.cur then b.slot1 else b.slot0).map (·.1), o < 65536) := by
  unfold State.alone; refine ⟨?_, ?_, ?_, ?_, ?_, ?_, ?_, ?_, ?_, ?_, ?_, ?_⟩ <;> decide +kernel

/-- A restore that may go on at once: its pages are there, and no store of its grid waits. -/
theorem witness_Restore_goes_on :
    (match (sealing recov0 none [blockA]).restorePages 0 { grid0 2 with recov := recov0 } with | .ok _ => true | .error _ => false) = true ∧
    (sealing recov0 none [blockA]).mayStop { grid0 2 with recov := recov0 } = true ∧
    (let g : Grid := { grid0 2 with info := { info0 2 with fibre := 0x40000000, fibres := 1 }, recov := recov0 }
     match (sealing recov0 none [blockA]).restorePages 0 g with | .ok _ => false | .error _ => true) = true ∧
    State.mayStop { (sealing).modCore 0 (fun c => { c with mem := { c.mem with
        buffer := [⟨.f, [⟨.mem 0x2000, [7], 0xFF, false, false⟩], false, false, false⟩] } }) with
      claims := [⟨.mem 0x2000, .bse 9 1⟩] } { grid0 2 with recov := recov0 } = false := by
  refine ⟨?_, ?_, ?_, ?_⟩ <;> decide +kernel

/-! ## Launches, firings, steals -/

/-- A record of grid 9 (tenant 0, ASID 7, one cluster, quantum 100, levels 0 and 1, one team), its fields at R158's places;
the header at 0x1000 (4 halfwords of the C routine), the stage table at 0x2000 with one stage at slot 0 (rate 1, centry
0, no L, no S), TSCALE 1.0 in WCFG4. -/
def record9 (quantum : Nat := 100) : List Byte :=
  (List.range 256).map fun i => BitVec.ofNat 8 (
    (if i = 1 then 7 else if i = 4 then 9 else if i = 8 then quantum else if i = 12 then 1 else if i = 17 then 0x20
     else if i = 25 then 0x20 else if i = 33 then 0x30 else if i = 41 then 0x40 else if i = 49 then 0x50
     else if i = 57 then 0x10 else if i = 112 then 1 else if i = 113 then 1 else 0))
def tables9 : List Host.Cell :=
  [(0x1000, 4), (0x1036, 0x80), (0x1037, 0x3F), (0x1040, 0x34), (0x2002, 0xFF), (0x2003, 0xFF), (0x2004, 0xFF), (0x2005, 0xFF), (0x2006, 0x40),
   (0x2011, 0x60), (0x2018, 1), (0x3005, 0x77), (0x4010, 3), (0x6000, 0xAB)]
def queue0 : CompleteTo := .queue 0 0 5

/-- The 64 KiB at 0 as the launch maps them: its virtual addresses are physical ones. -/
def identity : TlbEntry := { va := 0, size := 16, asid := 7, leaf := 0x6D, comp := BitVec.ofNat 64 (2 ^ 32) }

/-- Every die's firmware runs; die 0 has one launch, whose tables its first cluster can reach. -/
def launching (quantum : Nat := 100) (tlb : List TlbEntry := [identity]) : State :=
  State.modCluster { State.reset with
      dies := (Vector.replicate 4 { Die.reset with firmware := .running 1 }).set 0
        { Die.reset with firmware := .running 1, launches := [⟨record9 quantum, queue0, none⟩] }
      mem := tables9 } 0 fun c => { c with tlb := tlb }

/-- What the scheduler of die 0 finds of a record. -/
def tablesOf (s : State) (r : List Byte) : Option LaunchTables := (s.tablesOf (launchViewer 0 (recordAsid r)) r).toOption
def loadOf (s : State) (r : List Byte) : Option LaunchLoad :=
  (tablesOf s r).bind fun t => (s.loadOf (launchViewer 0 (recordAsid r)) t (natAt r 40 8)).toOption

noncomputable def started (s : State) (f : State → Nat) : Option (List Nat × Nat) :=
  next (exec (.launchStart 0 [6]) s) fun t => (t.results.map (·.2.2), f t)

theorem test_launch_start : started (launching) (fun t => let c := t.core 48; c.sr.asid.toNat * 256 + (c.work.deques.get 0).length) = some ([], 0x701) := by
  decide +kernel
theorem test_launch_team : started (launching) (fun t => let c := t.core 51
    (c.ident.lvlid.get 0).toNat * 256 + (c.stores.c.getD 0 0).toNat + (c.work.deques.get 0).length) = some ([], 0x334) := by decide +kernel
theorem test_launch_invalid : started (launching 99) (fun t => t.grids.length) = some ([0x3C], 0) := by decide +kernel
/-- With its page not in the TLB the scheduler asks for a walk first. -/
theorem test_launch_walk : started (launching 100 []) (fun t => (t.die 0).walks.length * 256 + (t.die 0).launches.length) = some ([], 0x101) := by
  decide +kernel

/-- An I/O core with a command queue of 4 entries at 0x8000. -/
def doorbell : State := (State.reset).modIo 0 2 fun c => { c with queues := [⟨5, 0x8000, 4, 3, []⟩] }

theorem test_doorbell : next (exec (.hostDoorbell 0 2 5 5) doorbell) (fun t =>
      ((t.die 0).launches.map (fun q => q.record.length), ((t.ioCore 0 2).queue 5).map (·.next))) = some ([256, 256], some 5) ∧
    same (exec (.hostDoorbell 0 2 5 3) doorbell) doorbell = true ∧
    next (exec (.gridCompletion 1) (inGrid .f)) (fun t => (t.results.map (·.2), t.grids.length, (t.core 3).ident.grid)) = some ([(1, 0)], 0, none) := by
  refine ⟨?_, ?_, ?_⟩ <;> decide +kernel

/-- A completion owed by a LAUNCH of core 0, whose record goes to a page that is in the TLB and to one that is not. -/
def owing (va : Word) (f : Die → Die := id) : State :=
  let s := launching
  { s.modDie 0 f with owed := [⟨0, 7, va, 3, 0⟩] }

theorem witness_Launches_tables :
    (match (launching 100 []).tablesOf (launchViewer 0 (recordAsid record9)) record9 with | .error (some _) => true | _ => false) = true ∧
    (owing 0x3000).owed.find? (fun o => o.grid == 3) = some ⟨0, 7, 0x3000, 3, 0⟩ ∧ (owing 0x3000).grid 3 = none ∧
    (match (owing 0x3000).gatherPages (launchViewer 0 7) true 0x3000 16 with | .ok l => l.map (fun p => (p.pa, p.len)) | .error _ => []) =
      [(0x3000, 16)] ∧
    (match (owing 0x40000).gatherPages (launchViewer 0 7) true 0x40000 16 with | .error (some _) => true | _ => false) = true ∧
    ((owing 0x3000 fun d => { d with inReset := true }).die 0).inReset = true := by
  refine ⟨?_, ?_, ?_, ?_, ?_, ?_⟩ <;> decide +kernel

/-- A queue with new entries and none; a valid and an invalid launch; a grid that has finished, one that has not. -/
theorem witness_Launches :
    (doorbell.ioCore 0 2).queue 5 = some ⟨5, 0x8000, 4, 3, []⟩ ∧ 3 < 4 ∧
    FirstBest ((launching).die 0).launches (fun _ => True) (fun x => recordField x.record 0 6 2) ⟨record9, queue0, none⟩ ∧
    ((launching).die 0).inReset = false ∧ (launching).firmwareRuns = true ∧ (doorbell).firmwareRuns = false ∧
    (tablesOf (launching 99) (record9 99)).map (fun t => launchLegal (record9 99) t none) = some false ∧
    (tablesOf (launching) (record9)).map (fun t => launchLegal (record9) t none) = some true ∧ (launching).grid 9 = none ∧
    (tablesOf (launching 100 []) (record9)).isSome = false ∧
    [6].length = recordField (record9) 8 32 16 ∧ [6].Nodup ∧ (∀ c ∈ [6], (launching).clusterFree c = true) ∧
    ((tablesOf (launching) (record9)).bind fun t => (loadOf (launching) (record9)).map fun l =>
      (launchInfo (record9) t l).placedLegal [(0, 6)]) = some true ∧
    (inGrid .f).gridDone 1 (grid0) = true ∧
    ((inGrid .f fun c => { c with firing := .slot 0 }).gridDone 1 (grid0)) = false := by
  refine ⟨by decide +kernel, by decide, ⟨[], [], rfl, trivial, by simp, by simp⟩, ?_, ?_, ?_, ?_, ?_, ?_, ?_, ?_, ?_, ?_, ?_, ?_, ?_⟩ <;> decide +kernel

/-- Core 0 of grid 1, idle, with records of slot 0 and of slot 1 (rate 2, higher priority). -/
def ready (n0 n1 : Nat) (f : Core → Core := id) : State :=
  inGrid .f fun c => f { c with work := { c.work with
    deques := (c.work.deques.set 0 (List.replicate n0 ⟨3, 4, false⟩)).set 1 ((List.range n1).map fun k => ⟨BitVec.ofNat 64 k, 9, false⟩) } }

noncomputable def afterStart (s : State) : Option (List Nat × Nat × Nat × List Nat) :=
  next (exec (.firingStart 0) s) fun t => let c := t.core 0
    ([c.fc.pc.toNat, (c.fc.readG 16).toNat, (c.fc.readG 18).toNat, (c.fc.readG 20).toNat], (c.work.deques.get 0).length,
      (c.work.deques.get 1).length, [field c.f.fire 0 4, field c.f.fire 4 2, field c.f.fire 8 32, c.work.passed.get 0])

theorem test_firing_start : afterStart (ready 1 3) = some ([0x20, 1, 0, 0], 1, 1, [1, 1, 1, 1]) ∧
    afterStart (ready 1 1) = some ([0, 3, 0, 0], 0, 1, [0, 0, 1, 0]) ∧
    afterStart (ready 1 3 fun c => { c with work := { c.work with passed := c.work.passed.set 0 64 } }) = some ([0, 3, 0, 0], 0, 3, [0, 0, 1, 0]) := by
  refine ⟨?_, ?_, ?_⟩ <;> decide +kernel

/-- A firing whose streams have all ended, with entries in q0; one of whose streams waits. -/
def retiring (q0 : List QEntry) (bars : List BarReg := []) : State :=
  inGrid .f fun c => { c with
    firing := .slot 0
    f := { c.f with l := { c.f.l with ended := true }, s := { c.f.s with ended := true }, cEnded := true, q := c.f.q.set 0 q0, bars := bars } }
def stuck (at_ : Word := 0) : State :=
  (retiring []).modCore 0 fun c => { c with f := { c.f with cEnded := false, stalls := c.f.stalls.set 0 (some at_) } }

theorem test_firing_retire : next (exec (.firingRetire 0) (retiring [])) (fun t => (t.core 0).firing) = some .idle ∧
    next (exec (.firingRetire 0) (retiring [.mark])) (fun t => ((t.core 0).fc.cause.toNat, (t.core 0).firing)) = some (9, .slot 0) ∧
    same (exec (.firingRetire 0) (stuck)) (stuck) = true ∧
    next (exec (.firingWatchdog 0) (stuck)) (fun t => (t.core 0).notices.map (·.cause)) = some [0x39] ∧
    same (exec (.firingWatchdog 0) (stuck 4)) (stuck 4) = true ∧
    next (exec (.wfiTimeout 0) (at_ .f fun c => { c with wfi := true })) (fun t => (t.core 0).wfi) = some false := by
  refine ⟨?_, ?_, ?_, ?_, ?_, ?_⟩ <;> decide +kernel

/-- Core 0 a thief; core 1 holds `n` records of slot 1, rate 2, level 1. -/
def stealing (n : Nat) (st : Steal := Steal.mk 0 none false none) : State :=
  let s := inGrid .f fun c => c.setSteal st
  s.modCore 1 fun c => { c with
    ident := { c.ident with grid := some 1, lvlid := c.ident.lvlid.set 0 1 }
    work := { c.work with deques := c.work.deques.set 1 ((List.range n).map fun k => ⟨BitVec.ofNat 64 k, 9, false⟩) } }

theorem test_steal : next (exec (.stealRequest 0) (stealing 3)) (fun t => (t.core 0).work.steal.asked) = some (some 1) ∧
    next (exec (.stealRequest 0) (stealing 3 ⟨7, none, false, none⟩)) (fun t => (t.core 0).work.steal.failed) = some true ∧
    next (exec (.stealAnswer 0) (stealing 3 ⟨0, some 1, false, none⟩)) (fun t =>
      ((t.core 0).firing, (t.core 0).fc.g.toList.map (·.toNat) |>.drop 16 |>.take 4, ((t.core 1).work.deques.get 1).map fun r => r.w0.toNat)) =
      some (.slot 1, [2, 9, 1, 9], [0]) ∧
    next (exec (.stealAnswer 0) (stealing 1 ⟨0, some 1, false, none⟩)) (fun t => ((t.core 0).firing, (t.core 0).work.steal.tried)) = some (.idle, 1) ∧
    next (exec (.stealRoundTimeout 0) (stealing 1 ⟨7, none, true, none⟩)) (fun t => (t.core 0).work.steal.failed) = some false := by
  refine ⟨?_, ?_, ?_, ?_, ?_⟩ <;> decide +kernel

/-- The first of the ready stages by priority; one passed over 64 times; a firing that ends, that leaves an entry, that
is stalled; a thief with and without a further victim, whose victim may give and may not. -/
theorem witness_Firings :
    ((ready 1 3).core 0).paired = false ∧ (ready 1 3).inService 0 = true ∧ ((ready 1 3).core 0).firing = .idle ∧
    (ready 1 3).infoOf 0 = some (info0) ∧ (info0).stage 1 = some stage2 ∧
    FirstBest (((ready 1 3).refreshReady 0).core 0).work.ready (fun _ => True) (fun j => (((info0).stage j).map (·.prio)).getD 0) 1 ∧
    ((retiring []).core 0).f.cEnded = true ∧ (retiring []).firingStreams 0 = false ∧ (∀ q, ((retiring []).core 0).f.q.get q = []) ∧
    ((stuck).core 0).f.cEnded = false ∧ ((stuck).core 0).f.stalls.get (ix 2 (streamNo .f)) = some (((stuck).core 0).pc .f) ∧ reader 0 = .f ∧ writer 4 = .f ∧
    ((stealing 3).refreshReady 0).thieving 0 = true ∧ (((stealing 3).refreshReady 0).victims 0)[7]? = none ∧
    (grid0).coreOf 1 = some 1 ∧ ((stealing 3).core 1).paired = false ∧ (stealing 3).thieving 0 = true ∧ (grid0).coreOf 8 = none := by
  refine ⟨?_, ?_, ?_, ?_, ?_, ⟨[0], [], by decide +kernel, trivial, by decide +kernel, by simp⟩, ?_, ?_, ?_, ?_, ?_, ?_, ?_, ?_, ?_, ?_, ?_, ?_, ?_⟩ <;> decide +kernel

/-! ## Messages and activations -/

def from3 : Option Issuer := some { core := 3, ctx := .f }
def item (k : ItemKind) (src : Option Issuer := from3) : Item := ⟨src, k, 3, 2, 0xA, 0xB, .co, none⟩

/-- Core 0 of grid 1 with an inbox, a record store of `n` records of slot 0, and a net. -/
def inbox (is : List Item) (n : Nat := 0) (net : List NetItem := []) (f : Core → Core := id) : State :=
  { inGrid .f (fun c => f { c with
      inbox := is, work := { c.work with deques := c.work.deques.set 0 (List.replicate n ⟨3, 4, false⟩) } }) with net := net }

def slot1 (t : State) : List (Nat × Bool) := ((t.core 0).work.deques.get 1).map fun r => (r.w0.toNat, r.pinned)

theorem test_messages :
    next (exec (.messageArrival 0) (inbox [] 0 [⟨1, 9, item (.low 1), false⟩, ⟨1, 0, item (.low 1), false⟩])) (fun t =>
      (t.net.map (·.target), (t.core 0).inbox.length)) = some ([9], 1) ∧
    next (exec (.messageArrival 0) (inbox (List.replicate 32 (item (.low 1))) 0 [⟨1, 0, item (.low 1), false⟩])) (fun t => t.net.length) = some 1 ∧
    next (exec (.pinnedRecord 0) (inbox [item (.low 1)])) (fun t => (slot1 t, (t.core 0).inbox.length)) = some ([(0xA, true)], 0) ∧
    next (exec (.pinnedRecord 0) (inbox [item (.low 1)] 512)) slot1 = some [] ∧
    next (exec (.pinnedRecord 0) (inbox [item (.record 1)])) slot1 = some [(0xA, false)] ∧
    next (exec (.recordPushRetry 3) (inbox [] 0 [⟨1, 0, item (.record 1), true⟩])) slot1 = some [(0xA, false)] ∧
    next (exec (.recordPushRetry 3) (inbox [item (.low 1)] 0 [⟨1, 0, item (.record 1), true⟩])) (fun t => (t.core 0).inbox.length) = some 2 := by
  refine ⟨?_, ?_, ?_, ?_, ?_, ?_, ?_⟩ <;> decide +kernel

/-- An item for this core behind one for another; an inbox with 31 and 32 items; a store with room beyond the reserve of 3
of stage 0 and without; an item of an activation, with and without another of its sender in the inbox. -/
theorem witness_Messages :
    ((inbox []).core 0).paired = false ∧ ((inbox []).core 0).ident.grid = some 1 ∧ (((inbox []).core 0).ident.lvlid.get 0).toNat = 0 ∧
    ((inbox (List.replicate 31 (item (.low 1)))).core 0).inbox.length < 32 ∧
    ((inbox [item (.low 1)] 508).core 0).work.free = 4 ∧
    ((inbox [item (.low 1)] 509 [] fun c => { c with firing := .slot 0 }).stage 0 0).map (fun st => sumNat (st.ports.map (·.2))) = some 3 ∧
    ((inbox [item (.low 1)] 509 [] fun c => { c with firing := .slot 0 }).core 0).work.free ≤ 3 ∧
    (item (.record 1)).src = some { core := 3, ctx := .f } ∧ (inbox []).grid 1 = some (grid0) ∧ (grid0).coreOf 0 = some 0 ∧
    (∃ y ∈ ((inbox [item (.low 1)]).core 0).inbox, y.src = (item (.record 1)).src) ∧
    ((inbox []).core 0).inbox.length + (inbox []).inbound 1 0 < 32 := by
  refine ⟨?_, ?_, ?_, ?_, ?_, ?_, ?_, ?_, ?_, ?_, ⟨item (.low 1), ?_, ?_⟩, ?_⟩ <;> decide +kernel

/-- A fibre whose completion has not been noticed, slot 1 its FRES. -/
def resting (noticed : Bool) (n : Nat := 0) : State :=
  let k : Fibre := ⟨0x10000000, 0, [], true, none, false, false, [], Vector.replicate 16 0, 0⟩
  let s := inbox [] n [] fun c => { c with fibres := [{ k with noticed := noticed }] }
  { s with grids := [(1, { grid0 with info := { info0 with fres := 1 } })] }

theorem test_fibre_notice :
    next (exec (.pinnedRecord 0) (resting false)) (fun t =>
      ((slot1 t).map (·.2), (t.core 0).fibres.map (·.noticed))) = some ([true], [true]) ∧
    same (exec (.pinnedRecord 0) (resting true)) (resting true) = true := by
  refine ⟨?_, ?_⟩ <;> decide +kernel

/-- A fibre that is to be noticed, with room beyond the reserve of its stage's ports and without. -/
theorem witness_Messages_fibre :
    ((resting false).infoOf 0).map (fun i => (i.fres, (i.stage i.fres).isSome, ((resting false).core 0).reserve i)) = some (1, true, 3) ∧
    ((resting false).core 0).inbox = [] ∧ (((resting false).core 0).fibres.reverse.find? fun k => !k.noticed).isSome = true ∧
    3 < ((resting false).core 0).work.free ∧ (∀ k ∈ ((resting true).core 0).fibres, k.noticed = true) ∧
    ((resting false 509).core 0).work.free = 3 := by
  refine ⟨?_, ?_, ?_, ?_, ?_, ?_⟩ <;> decide +kernel

def packet0 : Packet := ⟨0, 2, 77, 0x9000, [1, 2], 0x30⟩
def act0 (tr : Trigger) (count : Nat := 0) (second : Bool := false) : Activation := ⟨tr, count, [], second⟩
def enabled (c : Core) : Core := { c with fc := { c.fc with status := c.fc.status ||| 0x20 } }

/-- H runs on a message, D on a packet of channel 2. -/
def acting (h d : Option Activation) (f : Core → Core := id) : State :=
  inGrid .h fun c => f { c with
    hAct := h, dAct := d
    mem := { c.mem with poison := [0x200] }
    jobs := { c.jobs with chans := c.jobs.chans.set 2 { stalledChan 77 with stall := false, dlv := false } } }

theorem test_h_start : next (exec (.hActivationStart 0) (inbox [item (.high 0x40 1)] 0 [] enabled)) (fun t =>
      let k := (t.core 0).hc; ([k.pc.toNat, (k.readG 13).toNat, (k.readG 14).toNat, (k.readG 15).toNat, k.priv], (t.core 0).inbox.length)) =
      some ([0x40, 3 * 2 ^ 32 + 2, 0xA, 0xB, 1], 0) ∧
    same (exec (.hActivationStart 0) (inbox [item (.high 0x40 1)])) (inbox [item (.high 0x40 1)]) = true ∧
    next (exec (.dActivationStart 0) (inbox [] 0 [] fun c => { c with jobs := { c.jobs with packets := [packet0] } })) (fun t =>
      let k := (t.core 0).dc; ([k.pc.toNat, (k.readG 12).toNat, (k.readG 13).toNat, (k.readG 14).toNat, (k.v.get 0).toNat, k.priv],
        (t.core 0).jobs.packets.length)) = some ([0x30, 2 * 2 ^ 32 + 77, 2, 0x9000, 0x201, 0], 0) := by
  refine ⟨?_, ?_, ?_⟩ <;> decide +kernel

theorem test_activation_limit :
    next (exec (.activationLimit 0) (acting (some (act0 (.message (item (.high 0x40 1))) 4096)) none)) (fun t =>
      ((t.core 0).hAct.isSome, (t.core 0).hc.cause.toNat)) = some (false, 0x0E) ∧
    next (exec (.activationLimit 0) (acting (some (act0 (.message (item (.high 0x40 1))) 4095)) none)) (fun t => (t.core 0).hAct.isSome) = some true ∧
    next (exec (.activationLimit 0) (acting none (some (act0 (.packet packet0) 256)))) (fun t =>
      ((t.core 0).dAct.isSome, ((t.core 0).chan 2).run.map fun r => (r.ended, r.cause))) = some (false, some (true, 0x2D)) := by
  refine ⟨?_, ?_, ?_⟩ <;> decide +kernel

/-- An address of a poisoned word of the scratchpad. -/
def sick : Word := slot + 0x1000

theorem test_redelivery :
    next (exec (.poisonRedelivery 0 .h sick) (acting (some (act0 (.message (item (.high 0x40 1))) 9)) none)) (fun t =>
      (t.core 0).hAct.map fun a => (a.count, a.second)) = some (some (0, true)) ∧
    next (exec (.poisonRedelivery 0 .h sick) (acting (some (act0 (.message (item (.high 0x40 1))) 9 true)) none)) (fun t =>
      ((t.core 0).hAct.isSome, (t.core 3).notices.map fun n => (n.cause, n.tval.toNat))) = some (false, [(0x31, sick.toNat)]) ∧
    next (exec (.activationParityError 0 .d) (acting none (some (act0 (.packet packet0) 9 true)))) (fun t =>
      ((t.core 0).chan 2).run.map fun r => (r.ended, r.cause)) = some (some (true, 0x31)) ∧
    next (exec (.poisonSenderNotice 0) (inGrid .f fun c => { c with firing := .slot 0, notices := [⟨0x31, 5⟩] })) (fun t =>
      ((t.core 0).fc.cause.toNat, (t.core 0).fc.tval.toNat, (t.core 0).notices.length)) = some (0x31, 5, 0) := by
  refine ⟨?_, ?_, ?_, ?_⟩ <;> decide +kernel

/-- Activations to start and not; at their limits; that meet poison and not. -/
theorem witness_Activations :
    ((acting none none).core 0).paired = false ∧ (item (.high 0x40 1)).kind = .high 0x40 1 ∧
    ((inbox [] 0 [] enabled).core 0).fc.ie = true ∧ (inbox []).inService 0 = true ∧ ((inbox []).core 0).fc.ie = false ∧
    (inbox []).leaving 0 = false ∧ (act0 (.message (item (.high 0x40 1))) 4096).trigger.ctx = .h ∧ (act0 (.packet packet0) 256).trigger.ctx = .d ∧
    ((acting none none).core 0).hc.inTrap = false ∧
    (match (acting none none).spot ((acting none none).viewer 0 .h) false sick.toNat with
      | .at_ p _ _ => (acting none none).bytePoisoned 0 .h p
      | _ => false) = true ∧
    (acting none none).bytePoisoned 0 .h (.scratch 0 0x1008) = false ∧ (grid0).coreOf 3 = some 3 ∧
    ((acting none none).core 3).paired = false ∧ ((acting none none).core 0).waits.rcRel = [] := by
  refine ⟨?_, ?_, ?_, ?_, ?_, ?_, ?_, ?_, ?_, ?_, ?_, ?_, ?_, ?_⟩ <;> decide +kernel

/-! ## Team swaps -/

/-- Grid 1 of two teams on cluster 0, in quantum `q` (team `q` modulo 2 is due), team 0 there, the cores of team 1 saved. Its
swap area is at an address that does not translate. -/
def swapping (q : Nat) (f : Core → Core := id) (saved : Core → Core := id) (here : Bool := true) : State :=
  { inGrid .f f with grids := [(1, { grid0 with
      info := { info0 with clusters := 2, swap := 2 ^ 56 }, quantum := q, place := if here then [(0, 0)] else [],
      saved := [(1, (List.range 8).map fun i => if i = 2 then saved Core.reset else Core.reset)] })] }

/-- A firing of core 0 that holds the BSE, with its label. -/
def labelled (l : Option Nat) (c : Core) : Core :=
  { c with firing := .slot 0, f := { c.f with holdsBse := true, rstLabel := l, cEnded := false } }

theorem test_quantum :
    next (exec (.quantumBoundary 1) (swapping 4)) (fun t => (t.grid 1).map fun g => (g.quantum, g.place)) = some (some (5, [(0, 0)])) ∧
    same (exec (.quantumBoundary 1) (swapping 5)) (swapping 5) = true ∧
    next (exec (.greDrainExpiry 1 0) ((swapping 5).modCluster 0 fun c => { c with gre := [greJob (.expand (.queue 1))] })) (fun t =>
      ((t.cluster 0).gre.length, (t.core 0).jobs.greDone.map fun d => (d.id, d.stat.toNat / 2 ^ 16))) = some (0, [(1, 3)]) := by
  refine ⟨?_, ?_, ?_⟩ <;> decide +kernel

theorem test_swap_out :
    next (exec (.teamSwapOut 1 0) (swapping 5 fun c => { c with fc := ctxOf [(1, 9)] })) (fun t =>
      (((t.grid 1).bind fun g => (sget g.saved 0).map fun l => l.map fun c => (c.fc.readG 1).toNat), (t.core 0).ident.grid)) =
      some (some [9, 0, 0, 0, 0, 0, 0, 0], none) ∧
    same (exec (.teamSwapOut 1 0) (swapping 4)) (swapping 4) = true := by
  refine ⟨?_, ?_⟩ <;> decide +kernel

theorem test_restore_team :
    next (exec (.teamRestore 1 1 0) (swapping 5 id (labelled (some 8)) false)) (fun t =>
      ((t.core 2).fc.pc.toNat, (t.core 2).sr.bstat.toNat, (t.core 2).notices.length)) = some (16, 3 * 2 ^ 16 + 2 ^ 8, 0) ∧
    next (exec (.teamRestore 1 1 0) (swapping 5 id (labelled none) false)) (fun t => (t.core 2).notices.map (·.cause)) = some [0x23] ∧
    same (exec (.teamRestore 1 1 0) (swapping 5)) (swapping 5) = true := by
  refine ⟨?_, ?_, ?_⟩ <;> decide +kernel

/-- A quantum whose swaps are carried out and one whose are not; a team that is due to leave, that has stopped and drained
and has not; a team to be restored where it may be placed and where not. -/
theorem witness_Team_swaps :
    ((swapping 4).grid 1).map (·.settled) = some true ∧ ((swapping 5).grid 1).map (·.settled) = some false ∧
    ((swapping 5).grid 1).map (fun g => (g.resident 0, sget g.place 0, (sget g.saved 1).map (·.length))) = some (false, some 0, some 8) ∧
    (swapping 5).stopped 0 = true ∧ (swapping 5).drained 0 = true ∧
    (∀ n ∈ clusterCores 0, ((swapping 5).core n).mem.buffer = []) ∧
    (swapping 5 fun c => { c with hAct := some (act0 (.message (item (.high 0x40 1)))) }).stopped 0 = false ∧
    ((swapping 5).modCluster 0 fun c => { c with gre := [greJob .red] }).drained 0 = false ∧
    ((swapping 5 id id false).grid 1).map (fun g => (swapping 5 id id false).mayPlace g [(1, 0)]) = some true ∧
    ((swapping 5).grid 1).map (fun g => (swapping 5).mayPlace g [(1, 0)]) = some false ∧
    (labelled (some 8) Core.reset).paired = false ∧ (labelled (some 8) Core.reset).fc.inTrap = false := by
  refine ⟨?_, ?_, ?_, ?_, ?_, ?_, ?_, ?_, ?_, ?_, ?_, ?_⟩ <;> decide +kernel

/-- The grid of `swapping` with its swap area at 1 GiB, in the TLB of cluster 0 or not. -/
def areaAt (tlb : List TlbEntry) : State :=
  let s := swapping 5
  let s := s.modGrid 1 fun g => { g with info := { g.info with swap := 0x40000000 } }
  s.modCluster 0 fun c => { c with tlb := tlb }

/-- The teams that leave, their pages: none that translate, pages that need a walk, pages that are there. -/
theorem witness_Team_swaps_area :
    (swapping 5).leavingUnit 1 0 = [(0, 0)] ∧
    (((swapping 5).grid 1).map fun g => match (swapping 5).leavingPages g.info [(0, 0)] with | .ok l => l.map Option.isSome | .error _ => []) =
      some [false] ∧
    (((areaAt []).grid 1).map fun g => match (areaAt []).leavingPages g.info [(0, 0)] with | .ok _ => false | .error _ => true) = some true ∧
    (let s := areaAt [{ va := 0x40000000, size := 30, asid := 7, leaf := 0x6D, comp := BitVec.ofNat 64 (2 ^ 32 + 4) }]
     (s.grid 1).map fun g => match s.leavingPages g.info [(0, 0)] with | .ok l => l.map Option.isSome | .error _ => []) = some [true] ∧
    (((swapping 5 id id false).grid 1).map fun g => (g.comingUnit 1 0).map fun u => (u.1, u.2.1, u.2.2.length)) = some [(1, 0, 8)] ∧
    ((swapping 5).leavingUnit 1 0).map (fun p => (swapping 5).stopped p.2) = [true] := by
  refine ⟨?_, ?_, ?_, ?_, ?_, ?_⟩ <;> decide +kernel

/-! ## Engines at work -/

/-- A cluster whose engines hold the jobs as given, core 0's scratchpad with the bytes of three INT32 values at 0x1000 of
its slot. -/
def working (b : List BseJob) (g : List GreJob := []) (f : Cluster → Cluster := id) : State :=
  (engine [] (cells 0x1000 [3, 0, 0, 0, 0xFE, 0xFF, 0xFF, 0xFF, 9])).modCluster 0 fun c => f { c with bse := b, gre := g }

def loadJob : BseJob := bseJob (.load (slot + 0x1000) 9 5)
def readJob (op : BaccOp := .take) (f : Fmt := .i32) : BseJob := bseJob (.readout op f .rne false 0 (slot + 0x2000) region')
def accOf (t : State) : List Nat := [accGet (t.cluster 0).acc 0, accGet (t.cluster 0).acc 1]
def withAcc (c : Cluster) : Cluster := { c with acc := accSet c.acc 0 [0x40A00000, 0xBF800000] }

/-- The ends of the jobs, their STATE and CAUSE, and their lines. -/
def bseEnds (o : Host.Outcome State Fault Refusal) : Option (List (Nat × Option (Nat × Nat) × List (List Nat))) :=
  next o fun t => (t.cluster 0).bse.map fun j =>
    (j.id, j.result.map (fun e => (e.state, e.cause)), j.lines.map fun l => l.bytes.map fun p => p.2.toNat)

theorem test_bse_run :
    bseEnds (exec (.bseJobStart 0) (working [loadJob])) = some [(1, some (1, 0), [])] ∧
    next (exec (.bseJobStart 0) (working [loadJob])) (fun t => (memGetList (t.cluster 0).wbuf 5 9).map (·.toNat)) =
      some [3, 0, 0, 0, 0xFE, 0xFF, 0xFF, 0xFF, 9] ∧
    bseEnds (exec (.bseJobStart 0) (working [readJob] [] withAcc)) =
      some [(1, some (1, 0), [[5, 0, 0, 0, 255, 255, 255, 255]])] ∧
    same (exec (.bseJobStart 0) (working [])) (working []) = true := by
  refine ⟨?_, ?_, ?_, ?_⟩ <;> decide +kernel

/-- A grammar of terminals 5 and 7 in INT32, rules 2 = 0 1 and 3 = 2 0, start symbol 3 (R242, R245). -/
def grammarData : List Byte :=
  (cells 0 grammarBytes).foldl (fun l p => l.set p.1 p.2) (List.replicate 64 0)
def grammarCells : List Host.Cell :=
  cells 0x3000 ([0, 0, 0, 0, 1, 0, 0, 0, 2, 0, 0, 0, 255, 255, 255, 255] ++ [2, 0, 0, 0, 0, 0, 0, 0, 3, 0, 0, 0, 255, 255, 255, 255] ++
    List.replicate 32 0 ++ [5, 0, 0, 0, 7, 0, 0, 0] ++ List.replicate 24 0 ++ [3])
def expandJob : GreJob := { greJob (.expand (.queue 1)) with gd := grammarData, args := (List.replicate 32 0).set 20 3 }
def parsing (j : GreJob) : State :=
  (engine [] grammarCells).modCluster 0 fun c => { c with gre := [j] }

theorem test_gre_run :
    next (exec (.greJobStart 0) (parsing expandJob)) (fun t => (t.cluster 0).gre.map fun j =>
      (j.result.map (fun e => (e.state, e.cause)), j.queue)) =
    some [(some (1, 0), [.data (lanes 32 ([5, 7, 5] ++ List.replicate 29 0)), .mark])] ∧
    same (exec (.greJobStart 0) (parsing (greJob .red (some ⟨1, 0, 0, false, 0, 0⟩)))) (parsing (greJob .red (some ⟨1, 0, 0, false, 0, 0⟩))) = true := by
  refine ⟨?_, ?_⟩ <;> decide +kernel

/-- Does a run end, and not wait for a walk or an answer? -/
def isFinished {α : Type} (r : Except JStop α × JobRun) : Bool :=
  match r.1 with
  | .ok _ | .error (.fail _ _) => true
  | .error _ => false

def chainJob (input : Option Word) : BseJob := bseJob (.chain .bf16 .sr16 input region' [0])
def tileJob : BseJob := bseJob (.tile false .bf16 .bf16 true (slot + 0x2000) (slot + 0x2004)
  ((tileBytes 1).map (BitVec.ofNat 8) ++ List.replicate 48 0))
def jobEnv (j : BseJob) : JobEnv := { s := working [j], v := (working [j]).bseViewer 0 j, before := [], direct := false }
def startOf (j : BseJob) : JobRun := JobRun.start j.cap.seed

/-- For each kind of job one that is the next of its queue, whose run ends; a queue without one. -/
theorem witness_Engine_jobs :
    ((working []).cluster 0).openBseJobs 0 = [] ∧ ((working [loadJob]).cluster 0).openBseJobs 0 = [loadJob] ∧
    (((working [{ loadJob with begun := true }, { loadJob with id := 2, cmd := .load (slot + 0x1000) 9 64 }]).cluster 0).openBseJobs 0).length = 2 ∧
    (inScratch (slot + 0x1000).toNat = true ∧ (slot + 0x1000).toNat / 2 ^ 19 % 8 = 0 ∧ (slot + 0x1000).toNat % 2 ^ 19 + 9 ≤ 0x60000 ∧
      canonical (slot + 0x1000).toNat = true ∧ canonical ((slot + 0x1000).toNat + 8) = true) ∧
    (working [loadJob]).slotCore ((working [loadJob]).bseViewer 0 loadJob) (slotOf (slot + 0x1000).toNat).1 = .ok 0 ∧
    (∀ i, i < 9 → (working [loadJob]).isPoisoned 0 (.scratch 0 (0x1000 + i)) = false) ∧
    isFinished ((runLoad (jobEnv loadJob) (slot + 0x1000) 9).run (startOf loadJob)) = true ∧
    isFinished ((runChain (jobEnv (chainJob none)) ((working []).cluster 0) .bf16 .sr16 none region' [0]).run (startOf (chainJob none))) = true ∧
    isFinished ((runReadout (jobEnv readJob) [] .take .i32 0 false 0 (slot + 0x2000) region').run (startOf readJob)) = true ∧
    isFinished ((runTile (jobEnv tileJob) [] [] false .bf16 .bf16 true (slot + 0x2000) (slot + 0x2004)
      ((tileBytes 1).map (BitVec.ofNat 8) ++ List.replicate 48 0)).run (startOf tileJob)) = true := by
  refine ⟨?_, ?_, ?_, ?_, ?_, ?_, ?_, ?_, ?_, ?_⟩ <;> decide +kernel

theorem witness_Engine_jobs_gre :
    ((parsing expandJob).cluster 0).gre.filter (fun b => b.result.isNone) = [expandJob] ∧
    (let u : State := { parsing expandJob with fresh := (parsing expandJob).fresh + 1 }
     isFinished ((runForm (u.greEnv 0 expandJob 0) expandJob.cmd).run (JobRun.start 0)) = true) ∧
    (∀ b ∈ ((working [] [greJob .red (some ⟨1, 0, 0, false, 0, 0⟩)]).cluster 0).gre, b.result ≠ none) := by
  refine ⟨?_, ?_, ?_⟩ <;> decide +kernel

/-- A chain, a tile product and a readout that stand alone in the queue, and the GEXP that runs next. -/
theorem witness_Engine_jobs_next :
    ((working [chainJob none]).cluster 0).openBseJobs 0 = [chainJob none] ∧ ((working [tileJob]).cluster 0).openBseJobs 0 = [tileJob] ∧
    ((working [readJob]).cluster 0).openBseJobs 0 = [readJob] ∧ (parsing expandJob).nextGreJob 0 = some expandJob := by
  refine ⟨?_, ?_, ?_, ?_⟩ <;> decide +kernel

/-! ## Ends of jobs -/

def ended : JobEnd := ⟨1, 0, 0, false, 0, 5⟩
def pushJob (push : Option Nat) (pushing : Bool) (j : BseJob) : BseJob :=
  { j with cap := { j.cap with push := push }, pushing := pushing, result := some ended }
def donePushes (t : State) : List Nat × List (Nat × Nat) :=
  ((t.core 0).jobs.bseDone.map (fun d => d.stat.toNat), ((t.core 0).work.deques.get 1).map fun r => (r.w0.toNat, r.w1.toNat))
def lineAt (a : Nat) : OutLine := ⟨.mem a, 0, [(3, 0x77)], false⟩
def entryAt (p : Place) : StoreEntry := ⟨.f, [⟨p, [9, 8, 7, 6, 5, 4, 3, 2], 0xFF, false, true⟩], false, false, false⟩
def draining (e : StoreEntry) (claims : List Claim := []) : State :=
  { (engine [] [] fun c => { c with mem := { c.mem with buffer := [e] } }) with claims := claims }

theorem test_job_ends :
    next (exec (.bseJobComplete 0) (working [pushJob none false (readJob)] [] withAcc)) (fun t => (donePushes t, accOf t)) =
      some (([2 ^ 16], []), [0, 0]) ∧
    next (exec (.bseJobComplete 0) (working [pushJob none false (readJob .keep)] [] withAcc)) accOf = some [0x40A00000, 0xBF800000] ∧
    next (exec (.bseJobComplete 0) (working [pushJob (some 1) false loadJob])) (fun t => (t.cluster 0).bse.map (·.pushing)) = some [true] ∧
    next (exec (.completionPush 0) (working [pushJob (some 1) true loadJob])) donePushes =
      some ([2 ^ 16], [(1 + 2 ^ 16, (slot + 0x1000).toNat)]) ∧
    next (exec (.greJobComplete 0) (working [] [{ greJob (.expand (.queue 1)) (some ended) with queue := [.mark] }])) (fun t =>
      (t.core 0).f.q.get 1) = some [.mark] ∧
    next (exec (.greJobComplete 0) (working [] [greJob .red (some ended)])) (fun t => (t.core 0).jobs.greDone.map (·.flags)) = some [5] := by
  refine ⟨?_, ?_, ?_, ?_, ?_, ?_⟩ <;> decide +kernel

theorem test_lines :
    next (exec (.claimedLineFinished 0) (working [{ readJob with lines := [lineAt 0x3000], result := some ended }])) (fun t =>
      (t.mem, (t.cluster 0).bse.map fun j => j.lines.length)) = some ([(0x2000, 0x11), (0x2001, 0x82), (0x3003, 0x77)], [0]) ∧
    next (exec (.storeBufferDrain 0) (draining (entryAt (.mem 0x2000)))) (fun t => ((t.core 0).mem.buffer.length, memGet t.mem 0x2001)) = some (0, 8) ∧
    next (exec (.storeBufferDrain 0) (draining (entryAt (.scratch 3 8)))) (fun t => memGet (t.core 3).mem.scratch 15) = some 2 ∧
    same (exec (.storeBufferDrain 0) (draining (entryAt (.mem 0x2000)) [⟨.mem 0x2000, .bse 0 1⟩])) (draining (entryAt (.mem 0x2000)) [⟨.mem 0x2000, .bse 0 1⟩]) = true := by
  refine ⟨?_, ?_, ?_, ?_⟩ <;> decide +kernel

/-- Jobs that are ready and not, with a slot and without; a queue with room; records that find room; lines and stores. -/
theorem witness_Engine_ends :
    ((working [pushJob none false readJob]).cluster 0).bse = [] ++ pushJob none false readJob :: [] ∧
    (pushJob none false readJob).result = some ended ∧ (pushJob none false readJob).lines = [] ∧ ended.state ≠ 3 ∧
    (working [pushJob none false readJob]).jobUnanswered (.bse 0 1) = false ∧
    (working [pushJob none false readJob]).jobWriteFailed (.bse 0 1) = none ∧
    cap0.ofFiring (working []) 0 = true ∧ (((working []).core 0).f.q.get 1).length < 8 ∧ ((working []).core 0).paired = false ∧
    (greJob .red (some ended)).delivered = true ∧
    (working []).jobUnanswered (.gre 0 1) = false ∧ (working []).jobWriteFailed (.gre 0 1) = none ∧
    ((working []).stage 0 1).isSome = true ∧ 0 < ((working []).core 0).work.free ∧
    isFabric 0x3000 = false ∧ (Place.mem 0x3000).line = .mem 0x3000 ∧ (working []).claims = [] ∧
    (draining (entryAt (.mem 0x2000))).claimed (.mem 0x2000) = false ∧
    (draining (entryAt (.mem 0x2000)) [⟨.mem 0x2000, .bse 0 1⟩]).claimed (.mem 0x2000) = true ∧
    ((draining (entryAt (.mem 0x2000))).core 0).mem.buffer = entryAt (.mem 0x2000) :: [] ∧
    ((draining (entryAt (.mem 0x2000))).core 3).paired = false ∧ ((working []).core 0).mem.buffer = [] := by
  refine ⟨?_, ?_, ?_, ?_, ?_, ?_, ?_, ?_, ?_, ?_, ?_, ?_, ?_, ?_, ?_, ?_, ?_, ?_, ?_, ?_, ?_, ?_⟩ <;> decide +kernel

/-- A store that a parity error has marked: it drains with the mark; a release store behind a write to another endpoint that is under way. -/
theorem test_poisoned_drain :
    next (exec (.scrub (.buffer 0) 0 .uncorrectable) (draining (entryAt (.mem 0x2000)))) (fun t =>
      ((t.core 0).mem.buffer.map (·.poisoned), (t.die 0).log)) = some ([true], [(0x31, 0)]) ∧
    next (exec (.storeBufferDrain 0) (draining { entryAt (.mem 0x2000) with poisoned := true })) (fun t => t.poison) = some [0x400] ∧
    next (exec (.storeBufferDrain 0) (draining { entryAt (.scratch 0 8) with poisoned := true })) (fun t => (t.core 0).mem.poison) =
      some [1] := by
  refine ⟨?_, ?_, ?_⟩ <;> decide +kernel

theorem witness_Engine_ends_wide :
    State.lateWrites { draining { entryAt (.mem 0x2000) with wide := true } with
      fabric := { State.reset.fabric with reqs := [⟨5, ⟨0, .f⟩, 4, none, 0, 1, 3, .write 0x80 [1] false, true⟩] } } ⟨0, .f⟩ = true ∧
    (draining (entryAt (.mem 0x2000))).lateWrites ⟨0, .f⟩ = false ∧ ((draining (entryAt (.mem 0x2000))).core 0).outbox = [] := by
  refine ⟨?_, ?_, ?_⟩ <;> decide +kernel

/-! ## Copies at work -/

/-- The slot of core 1. -/
def slotB : Word := slot + 0x400000
def copyReq (w0 : Word) (w3 : Word := 64) : CopyReq := ⟨1, false, 7, wcfgReset, w0, slot + 0x1000, slotB + 0x3000, w3⟩
def transfer (moved : Nat := 0) (f : Transfer → Transfer := id) : Transfer := f ⟨copyReq 0x200, true, 0, 0, 1, 64, 64, moved, 0, false, false⟩
def channel (t : Option Transfer) (f : Chan → Chan := id) : Chan := f { Chan.reset with issued := 1, run := t }

/-- Core 0 of grid 1 with requests in its FIFO, a channel 2, and a parameter block at 0x2000 of its slot. -/
def copies (fifo : List CopyReq) (k : Chan := Chan.reset) (f : Core → Core := id) (block : List Nat := []) : State :=
  engine [] (cells 0x1000 [0xF3, 0x40, 5] ++ cells 0x2000 block) fun c => f { c with
    jobs := { c.jobs with fifo := fifo, chans := c.jobs.chans.set 2 k } }

/-- SSTEP, DSTEP, COUNT, SIZE, zero (R325). -/
def paramBlock (size : Nat) : List Nat := [8, 0, 0, 0, 0, 0, 0, 0, 4, 0, 0, 0, 0, 0, 0, 0, 3, 0, 0, 0, size, 0, 0, 0, 0, 0, 0, 0, 0, 0, 0, 0]
def blockReq : Transfer :=
  { transfer with req := copyReq 0x202 (slot + 0x2000), ready := false, count := 0, size := 0, lead := 0 }

def chanOf (t : State) : Option (List Nat) :=
  ((t.core 0).chan 2).run.map fun r => [r.ready.toNat, r.count, r.size, r.moved, r.cause, r.ended.toNat]

theorem test_copy_dispatch :
    next (exec (.copyDispatch 0) (copies [copyReq 0x200])) (fun t => ((t.core 0).jobs.fifo.length, chanOf t)) =
      some (0, some [1, 1, 64, 0, 0, 0]) ∧
    next (exec (.copyDispatch 0) (copies [] (channel (some blockReq)) id (paramBlock 4))) chanOf = some (some [1, 3, 4, 0, 0, 0]) ∧
    next (exec (.copyDispatch 0) (copies [] (channel (some blockReq)) id (paramBlock 5))) chanOf = some (some [0, 0, 0, 0, 0x2C, 1]) ∧
    same (exec (.copyDispatch 0) (copies [copyReq 0x200] (channel (some transfer)))) (copies [copyReq 0x200] (channel (some transfer))) = true := by
  refine ⟨?_, ?_, ?_, ?_⟩ <;> decide +kernel

theorem test_copy_move :
    next (exec (.claimedLineFinished 0) (copies [] (channel (some transfer)))) (fun t =>
      ((memGetList (t.core 1).mem.scratch 0x3000 3).map (·.toNat), chanOf t)) = some ([0xF3, 0x40, 5], some [1, 1, 64, 64, 0, 0]) ∧
    next (exec (.copyPageFault 0 2) (copies [] (channel (some { transfer with req := { copyReq 0x200 with w1 := 0x7000 } })))) (fun t =>
      (((t.core 0).chan 2).stall, ((t.core 0).chan 2).fault.toNat)) = some (false, 0) ∧
    next (exec (.copyFaultDelivery 0) (copies [] (channel (some transfer) fun k => { k with stall := true, fault := 0x7000 }))) (fun t =>
      (((t.core 0).chan 2).dlv, (t.core 0).notices.map fun n => (n.cause, n.tval.toNat))) = some (true, [(0x2B, 0x7000)]) := by
  refine ⟨?_, ?_, ?_⟩ <;> decide +kernel

theorem test_copy_done :
    next (exec (.copyTransferComplete 0 2) (copies [] (channel (some (transfer 64))))) (fun t =>
      (((t.core 0).chan 2).done, ((t.core 0).chan 2).fail, ((t.core 0).chan 2).run.isNone)) = some (1, false, true) ∧
    next (exec (.copyTransferComplete 0 2) (copies [] (channel (some { transfer 64 with req := copyReq 0x180200, cause := 0x2D })))) (fun t =>
      (((t.core 0).chan 2).fail, ((t.core 0).work.deques.get 1).map fun r => r.w0.toNat)) = some (true, [1 + 2 * 2 ^ 32 + 2 * 2 ^ 40 + 0x2D * 2 ^ 48]) ∧
    same (exec (.copyTransferComplete 0 2) (copies [] (channel (some (transfer 63))))) (copies [] (channel (some (transfer 63)))) = true := by
  refine ⟨?_, ?_, ?_⟩ <;> decide +kernel

def fieldsOf (b : List Nat) : Nat × Nat × Nat :=
  let l := b.map (BitVec.ofNat 8)
  (natAt l 24 8, natAt l 16 4, natAt l 20 4)

/-- A request that starts and one that must wait; a legal and an illegal block; a transfer that moves, one that has ended,
with its slot and without. -/
theorem witness_Copy_events :
    ((copies []).core 0).paired = false ∧ ((copies [copyReq 0x200]).core 0).jobs.fifo = [] ++ copyReq 0x200 :: [] ∧
    (((copies [copyReq 0x200]).core 0).chan (copyCh 0x200)).run = none ∧ field (0x200 : Word) 0 4 = 0 ∧
    ((jread { s := copies [] (channel (some blockReq)) id (paramBlock 4), v := (copies []).copyViewer 0 2 blockReq.req, before := [], direct := true }
      blockReq.req.w3.toNat 32).run (JobRun.start 0)).1 = .ok ((paramBlock 4).map (BitVec.ofNat 8)) ∧
    fieldsOf (paramBlock 4) = (0, 3, 4) ∧ fieldsOf (paramBlock 5) = (0, 3, 5) ∧
    (copies [] (channel (some transfer))).copyNext 0 = some (0, 2, transfer) ∧
    (copies []).bseLine 0 = none ∧ (copies []).greLine 0 = none ∧ copyLand transfer.req.w0 = false ∧
    transfer.addresses 0 = ((slot + 0x1000).toNat, (slotB + 0x3000).toNat) ∧
    (copies []).slotCore ((copies []).copyViewer 0 2 transfer.req) (slotOf (slotB + 0x3000).toNat).1 = .ok 1 ∧
    (copies []).claims = [] ∧ copyPush (0x200 : Word) = none ∧ copyPush (0x180200 : Word) = some 1 ∧
    (copies []).jobUnanswered (.copy 0 2) = false ∧ (copies []).jobWriteFailed (.copy 0 2) = none ∧ ((copies []).stage 0 1).isSome = true ∧
    ((copies []).core 1).paired = false := by
  refine ⟨?_, ?_, ?_, ?_, ?_, ?_, ?_, ?_, ?_, ?_, ?_, ?_, ?_, ?_, ?_, ?_, ?_, ?_, ?_, ?_⟩ <;> decide +kernel

/-- A transfer whose page fails with 0x12, and with another cause. -/
def nowhere (va : Word) (f : State → State := id) : State :=
  f (copies [] (channel (some { transfer with req := { copyReq 0x200 with w1 := va } })))
def failedWalk (why : WalkFail) (s : State) : State := s.modCluster 0 fun c => { c with fails := [(.copy 0 2, 0x7000, why)] }
def movesTo (s : State) (va : Word) : Option (Nat × Nat) :=
  match s.copyMove 0 2 { transfer with req := { copyReq 0x200 with w1 := va } } with | .fault c a => some (c, a) | _ => none

theorem witness_Copy_events_fault :
    movesTo (nowhere 0x7000 (failedWalk .absent)) 0x7000 = some (0x12, 0x7000) ∧ movesTo (nowhere 0x7000 (failedWalk .routine)) 0x7000 = some (0x18, 0x7000) ∧
    (((nowhere 0x7000 (failedWalk .absent)).core 0).chan 2).moving = some { transfer with req := { copyReq 0x200 with w1 := 0x7000 } } := by
  refine ⟨?_, ?_, ?_⟩ <;> decide +kernel

/-- A channel whose block is still to be read, and one under way; the one line of a short destination, and its place. -/
theorem witness_Copy_events_lines :
    (blockReq.ready = false ∧ blockReq.ended = false ∧ blockReq.count = 0 ∧ field blockReq.req.w0 0 4 ≠ 0) ∧
    (let q := copyReq 0x200
     let u : Transfer := ⟨q, false, 0, 0, 1, q.w3.toNat, 0, 0, 0, false, false⟩
     u.lineStarts 0 = [(0, (slotB + 0x3000).toNat)] ∧
     (match (copies [q]).copySpot ((copies [q]).copyViewer 0 2 q) true (slotB + 0x3000).toNat with | .at_ p _ _ => some p | _ => none) =
       some (.scratch 1 0x3000)) ∧
    (copies []).writesOut (.copy 0 2) = false ∧ (copies []).claimant (.scratch 1 0x3000) = none := by
  refine ⟨⟨?_, ?_, ?_, ?_⟩, ⟨?_, ?_⟩, ?_, ?_⟩ <;> decide +kernel

/-! ## Pairs -/

/-- Cores 0 and 1 a pair in a firing, their intervals closed with the bytes and counts as given. -/
def closedPair (x y : List Byte) (n : Nat := 4) (f : Pairing → Pairing := id) (gate : List GateEntry := []) : State :=
  let start : Snapshot := ⟨ctxOf [(1, 7)], FState.reset⟩
  let side (ctl : Word) (bs : List Byte) (n : Nat) (c : Core) : Core := { c with
    firing := .slot 0
    ident := { c.ident with grid := some 1 }
    pair := f { c.pair with ctl := ctl, bytes := #v[bs, [], []], retired := #v[n, 0, 0], start := some start } }
  let s := inGrid .f fun c => { side 5 x 4 c with mem := { c.mem with gate := gate } }
  s.modCore 1 fun c => side 0x25 y n c

def gated : GateEntry := ⟨.f, false, true, [⟨.mem 0x3000, [6], 0xFF, false, true⟩], false, false⟩

def pairOf (t : State) : List Nat :=
  let c := t.core 0
  [flag c.pair.ctl 2 |>.toNat, flag c.pair.ctl 4 |>.toNat, field c.pair.ctl 32 16, c.pair.again.toNat, (c.fc.readG 1).toNat, c.fc.cause.toNat]

theorem test_pairs :
    next (exec (.fingerprintExchange 1) (closedPair [1] [1] 4 id [gated])) (fun t => (pairOf t, (memGet t.mem 0x3000).toNat)) = some ([0, 0, 0, 0, 0, 0], 6) ∧
    next (exec (.fingerprintExchange 0) (closedPair [1] [2] 4 id [gated])) (fun t => (pairOf t, (memGet t.mem 0x3000).toNat)) = some ([0, 0, 1, 1, 7, 0], 0) ∧
    next (exec (.fingerprintExchange 0) (closedPair [1] [2] 4 fun p => { p with again := true })) pairOf = some [0, 1, 0, 0, 7, 0x34] ∧
    same (exec (.fingerprintExchange 0) (closedPair [1] [1] 5)) (closedPair [1] [1] 5) = true ∧
    next (exec (.partnerTimeout 0) (closedPair [1] [1] 5)) (fun t => [(t.core 0).paired.toNat, (t.core 1).paired.toNat, (t.core 0).fc.cause.toNat]) =
      some [0, 0, 0x35] ∧
    next (exec (.pairTimeout 0) (at_ .f fun c => { c with pair := { c.pair with joining := some true } })) (fun t => (t.core 0).fc.cause.toNat) = some 0x35 := by
  refine ⟨?_, ?_, ?_, ?_, ?_, ?_⟩ <;> decide +kernel

/-- Closed intervals with equal and unequal counts and fingerprints, the first and the second time; a gated store. -/
theorem witness_Pair_events :
    (let ca := (closedPair [1] [2]).core 0
     let cb := (closedPair [1] [2]).core 1
     ca.paired = true ∧ cb.paired = true ∧ flag ca.pair.ctl 2 = true ∧ flag cb.pair.ctl 2 = true ∧ ca.pair.retired = cb.pair.retired ∧
       crc64 [1] ≠ crc64 [2] ∧ ca.pair.start = some ⟨ctxOf [(1, 7)], FState.reset⟩ ∧ ca.firing ≠ .idle ∧ ca.pair.again = false) ∧
    ((closedPair [1] [1] 5).core 0).pair.retired ≠ ((closedPair [1] [1] 5).core 1).pair.retired ∧
    ((closedPair [1] [1] 4 id [gated]).core 0).mem.gate = [gated] ∧ ((closedPair [1] [1] 4 id [gated]).core 1).mem.gate = [] ∧
    gated.act = false ∧ gated.parts.map (fun p => (p.mask, p.uncached)) = [(0xFF, true)] ∧ gated.wide = false ∧ isFabric 0x3000 = false ∧
    ((at_ .f fun c => { c with pair := { c.pair with joining := some true } }).core 0).paired = false := by
  refine ⟨?_, ?_, ?_, ?_, ?_, ?_, ?_, ?_, ?_⟩ <;> decide +kernel

/-! ## Errors, resets, control -/

def inCluster (cl : Nat) (f : Cluster → Cluster) (s : State := State.reset) : State := s.modCluster cl f
def testing (b : Nat) (c : Cluster) : Cluster := { c with bin := b, test := some b, errors := 9 }
/-- Core 0 with a record of slot 1, an activation of H whose store is gated, and an entry of no activation. -/
def faulty (act : Bool) : State :=
  acting (some (act0 (.message (item (.high 0x40 1))) 9)) none fun c => { c with
    firing := .slot 0, work := { c.work with deques := c.work.deques.set 1 [⟨3, 4, false⟩] }
    mem := { c.mem with gate := [⟨.h, act, false, [⟨.mem 0x3000, [6], 0xFF, false, true⟩], false, false⟩] } }

theorem test_self_test :
    next (exec (.selfTestStart 1) State.reset) (fun t => ((t.die 1).testNext, (t.cluster 40).test)) = some (1, some 0) ∧
    next (exec (.selfTestStart 0) (inGrid .f)) (fun t => ((t.die 0).testNext, (t.cluster 0).test)) = some (1, none) ∧
    next (exec (.selfTestComplete 5 true) (inCluster 5 (testing 2))) (fun t => ((t.cluster 5).test, (t.cluster 5).bin)) = some (none, 2) ∧
    next (exec (.selfTestComplete 5 false) (inCluster 5 (testing 2))) (fun t => ((t.cluster 5).test, (t.cluster 5).bin)) = some (some 3, 3) ∧
    next (exec (.selfTestComplete 5 false) (inCluster 5 (testing 3))) (fun t => (t.cluster 5).retired) = some true ∧
    next (exec (.correctedErrorThreshold 5) (inCluster 5 (testing 0))) (fun t => ((t.cluster 5).bin, (t.cluster 5).errors)) =
      some (if State.reset.control.threshold < 9 then (1, 0) else (0, 9)) := by
  refine ⟨?_, ?_, ?_, ?_, ?_, ?_⟩ <;> decide +kernel

theorem test_core_errors :
    next (exec (.recordStoreParityError 0 1 0) (faulty true)) (fun t =>
      (((t.core 0).work.deques.get 1).length, (t.core 0).notices.map fun n => (n.cause, n.tval.toNat), (t.die 0).log)) = some (0, [(0x33, 1)], [(0x33, 0)]) ∧
    next (exec (.contextLost 0) (faulty true)) (fun t => ((t.core 0).lost, (t.core 0).notices.map (·.cause))) = some (true, [0x33]) ∧
    next (exec (.scrub (.scratch 0) 5 .uncorrectable) (faulty true)) (fun t => ((t.core 0).mem.poison, (t.die 0).log)) =
      some ([5, 0x200], [(0x31, 0)]) ∧
    next (exec (.scrub .home 5 .corrected) (faulty true)) (fun t => (t.poison, (t.die 0).log)) = some ([], [(0, 5)]) ∧
    next (exec (.gatingBufferParityError 0 0) (faulty true)) (fun t => ((t.core 0).mem.gate.length, (t.core 0).hAct.map fun a => (a.count, a.second))) =
      some (0, some (0, true)) ∧
    next (exec (.gatingBufferParityError 0 0) (faulty false)) (fun t => (t.core 0).mem.gate.map (·.poisoned)) = some [true] := by
  refine ⟨?_, ?_, ?_, ?_, ?_, ?_⟩ <;> decide +kernel

theorem test_machine_check : next (exec (.machineCheck 1) State.reset) (fun t =>
    ([319, 320, 639, 640].map fun n => (t.core n).notices.map (·.cause), (t.die 1).log)) = some ([[], [0x3F], [0x3F], []], [(0x3F, 1)]) := by
  decide +kernel

theorem test_gate_rollback : next (exec (.gatingBufferParityError 0 0) (closedPair [1] [1] 4 id [gated])) pairOf = some [0, 0, 1, 1, 7, 0] := by
  decide +kernel

/-- Clusters with a team and without, at bins 2 and 3; words, records and entries that exist; an activation met first. -/
theorem witness_Errors :
    (State.reset.die 1).inReset = false ∧ State.reset.grids = [] ∧ ((inCluster 5 (testing 2)).cluster 5).test ≠ none ∧
    ((inCluster 5 (testing 2)).cluster 5).bin < 3 ∧ 3 ≤ ((inCluster 5 (testing 3)).cluster 5).bin ∧
    (∃ g ∈ (inGrid .f).grids, ∃ p ∈ g.2.place, p.2 = 0) ∧
    (let s := inCluster 5 (testing 2); ({ s with control := { s.control with threshold := 8 } }).control.threshold < (s.cluster 5).errors) ∧
    ((faulty true).core 0).paired = false ∧ 0 < (((faulty true).core 0).work.deques.get 1).length ∧ ((faulty true).core 0).firing ≠ .idle ∧
    5 < Config.scratchBytes / 8 ∧ ((faulty true).core 0).act .h = some (act0 (.message (item (.high 0x40 1))) 9) ∧
    (act0 (.message (item (.high 0x40 1))) 9).trigger.ctx = .h ∧ ((closedPair [1] [1]).core (partnerOf 0)).pair.start.isSome = true ∧
    gated.interval = true ∧ gated.act = false := by
  refine ⟨?_, ?_, ?_, ?_, ?_, ⟨_, List.mem_cons_self, (0, 0), List.mem_cons_self, rfl⟩, ?_, ?_, ?_, ?_, ?_, ?_, ?_, ?_, ?_, ?_⟩ <;> decide +kernel

/-- A line of each cache, and a word of HBM and of an RDC, that may fail. -/
def cached : State :=
  { (State.reset).modDie 0 fun d => { d with rdc := [(64, RdcLine.mk 0 [] [])] } with
    caches := { State.reset.caches with l1 := [(0, 0, 0, 64)], cluster := [(0, 64)] } }

theorem test_scrub_more :
    next (exec (.scrub (.rdc 0) 1025 .uncorrectable) cached) (fun t => ((sget (t.die 0).rdc 64).map (·.poison), (t.die 0).log)) =
      some (some [1], [(0x31, 1025)]) ∧
    next (exec (.scrub .home 5 .uncorrectable) cached) (fun t => t.poison) = some [5] ∧
    next (exec (.scrub (.cluster 0) 64 .uncorrectable) cached) (fun t => (t.caches.cluster, t.caches.l1.length)) = some ([], 1) ∧
    next (exec (.scrub (.l1 0) 64 .corrected) cached) (fun t => t.caches.l1.length) = some 0 ∧
    next (exec (.scrub (.code 9) 0 .uncorrectable) cached) (fun t => ((t.cluster 1).errors, (t.die 0).log)) = some (1, [(0, 9)]) ∧
    next (exec (.scrub (.array 3) 0 .corrected) cached) (fun t => (t.die 3).log) = some [(0, 3)] := by
  refine ⟨?_, ?_, ?_, ?_, ?_, ?_⟩ <;> decide +kernel

theorem witness_Errors_sites :
    (cached.hasSite (.scratch 0) 5 = true ∧ cached.hasSite (.scratch 0) (Config.scratchBytes / 8) = false) ∧
    (cached.hasSite .home 5 = true ∧ cached.hasSite .home (4 * Config.dieBytes / 8) = false ∧ absent cached 40 = false) ∧
    (cached.hasSite (.code 9) 0 = true ∧ cached.hasSite (.code 1280) 0 = false ∧ cached.hasSite (.array 3) 0 = true ∧
      cached.hasSite (.array 4) 0 = false) ∧
    (cached.hasSite (.rdc 0) 1025 = true ∧ cached.hasSite (.rdc 0) 0 = false) ∧
    (cached.hasSite (.l1 0) 64 = true ∧ cached.hasSite (.l1 0) 65 = false) ∧
    ((draining (entryAt (.mem 0x2000))).hasSite (.buffer 0) 0 = true ∧ cached.hasSite (.buffer 0) 0 = false) ∧
    (cached.hasSite (.cluster 0) 64 = true ∧ cached.hasSite (.cluster 1) 64 = false) := by
  refine ⟨⟨?_, ?_⟩, ⟨?_, ?_, ?_⟩, ⟨?_, ?_, ?_, ?_⟩, ⟨?_, ?_⟩, ⟨?_, ?_⟩, ⟨?_, ?_⟩, ⟨?_, ?_⟩⟩ <;> decide +kernel

/-- CTLSEM held by port 1 with tag 7. -/
def semHeld (f : State → State := id) : State :=
  f { State.reset with control := { State.reset.control with sem := BitVec.ofNat 64 (2 ^ 63 + 1000 * 2 ^ 48 + 2 ^ 32 + 7) } }
def image0 : SignedImage := ⟨[1], [2], 3, [4]⟩
def recoverable : State := inGrid .f id page 2

theorem test_die_reset :
    next (exec (.dieReset 0) (inGrid .f fun c => { c with firing := .slot 0 })) (fun t =>
      ((t.die 0).inReset, t.results.map (·.2), (t.core 0).ident.grid)) = some (true, [(1, 0x33)], none) ∧
    next (exec (.thermalReset 0) recoverable) (fun t => (t.grid 1).map fun g => (g.recov.rpend, g.place, g.saved.length)) =
      some (some (true, [], 1)) ∧
    next (exec (.resetRequest 1 (.die 2)) (semHeld)) (fun t => ((t.die 2).inReset, (t.die 1).inReset)) = some (true, false) ∧
    next (exec .powerOn (semHeld)) (fun t => (t.control.sem.toNat, t.control.powerOns)) = some (0, 1) := by
  refine ⟨?_, ?_, ?_, ?_⟩ <;> decide +kernel

/-- Grids with a team on die 0, recoverable and not; a die under reset with an image (what the ROM thinks of one rests on
SM2, which no state here decides), without one, and with every die under reset. -/
theorem witness_Resets :
    ((inGrid .f).grid 1).map (fun g => (g.place, g.info.has .recoverable)) = some ([(0, 0)], false) ∧ dieOfCluster 0 = 0 ∧
    ((recoverable).grid 1).map (fun g => g.info.has .recoverable) = some true ∧ (semHeld).holdsSem 1 = true ∧
    ((semHeld fun s => s.modDie 2 fun d => { d with inReset := true }).die 2).inReset = true ∧ ((semHeld).die 1).inReset = false ∧
    (romAccepts image0 = true ∨ romAccepts image0 = false) ∧ State.reset.control.image = none := by
  refine ⟨?_, ?_, ?_, ?_, ?_, ?_, by cases romAccepts image0 <;> simp, ?_⟩ <;> decide +kernel

theorem test_ctlsem :
    next (exec (.ctlsemWrite 1 5) State.reset) (fun t => t.control.sem.toNat) = some (2 ^ 63 + 1000 * 2 ^ 48 + 2 ^ 32 + 5) ∧
    same (exec (.ctlsemWrite 0 5) (semHeld)) (semHeld) = true ∧ same (exec (.ctlsemWrite 1 5) (semHeld)) (semHeld) = true ∧
    next (exec (.ctlsemWrite 1 0) (semHeld)) (fun t => t.control.sem.toNat) = some 0 ∧
    next (exec (.powerCapWrite 0 900) (semHeld)) (fun t => (t.control.cap, t.control.nosem.toList)) = some (2200, [1, 0]) ∧
    next (exec (.powerCapWrite 1 900) (semHeld)) (fun t => (t.control.cap, t.control.nosem.toList)) = some (900, [0, 0]) := by
  refine ⟨?_, ?_, ?_, ?_, ?_, ?_⟩ <;> decide +kernel

theorem test_tables :
    next (exec (.routeTableWrite 1 2 9 (-1)) (semHeld)) (fun t => (sget (t.die 2).routes 9).map (·.toNat)) = some (some 0xE000FFFF) ∧
    next (exec (.keyTableWrite 1 2 9 (-1) (-1)) (semHeld)) (fun t => (sget (t.die 2).keys 9).map fun p => (p.1.toNat, p.2.toNat)) =
      some (some (2 ^ 48 - 1, 0xC3FF00FF)) ∧
    next (exec (.frameOwnerWrite 1 2 9 0xFFFF) (semHeld)) (fun t => (sget (t.die 2).frames 9).map (·.toNat)) = some (some 0x80FF) ∧
    next (exec (.shareTableWrite 1 3 9 7) (semHeld)) (fun t => (sget (t.port 3).shares 9).map (·.toNat)) = some (some 7) ∧
    next (exec (.controlRegisterWrite 1 (.remoteTimeout 100)) (semHeld)) (fun t => t.fabric.timeout) = some 100 ∧
    next (exec (.attestationRequest 0 (List.replicate 32 1)) (semHeld)) (fun t => t.control.reports) = some [] := by
  refine ⟨?_, ?_, ?_, ?_, ?_, ?_⟩ <;> decide +kernel

theorem test_power :
    next (exec (.forecastUpdate 0 [1] 1 1) ((inGrid .f fun c => { c with firing := .slot 0 }).modCluster 0 fun c => { c with gre := [greJob .eval] })) (fun t =>
      let f := (t.die 0).forecast; (field f 0 10, field f 10 11, field f 21 11)) = some (1, 0, 1) ∧
    next (exec (.thermalThrottle 1) State.reset) (fun t => ((t.die 1).clock, (t.die 1).throttled)) = some (1200, true) ∧
    next (exec .powerManagerTick State.reset) (fun t => (t.die 1).clock) = some 2400 ∧
    next (exec (.thermalRecover 1) (State.reset.modDie 1 fun d => { d with throttled := true, clock := 1200 })) (fun t => ((t.die 1).clock, (t.die 1).throttled)) =
      some (2400, false) := by
  refine ⟨?_, ?_, ?_, ?_⟩ <;> decide +kernel

/-- A free semaphore, one held, by this port and by the other; values at the bounds of each table and register. -/
theorem witness_Power_and_control :
    sumNat (State.reset.dies.toList.map fun d => field d.forecast 32 16) * (2400 - 100 * 0) ≤ State.reset.control.cap * 2400 ∧
    State.reset.control.sem.getLsbD 63 = false ∧ (semHeld).control.sem.getLsbD 63 = true ∧ field (semHeld).control.sem 32 1 = 1 % 2 ∧
    field (semHeld).control.sem 32 1 ≠ 0 % 2 ∧ field (semHeld).control.sem 0 32 = (7 : BitVec 32).toNat ∧ field (semHeld).control.sem 0 32 ≠ (5 : BitVec 32).toNat ∧
    1023 < 1024 ∧ 4095 < 4096 ∧ 0 < Config.dieBytes / 0x200000 ∧ (semHeld).keep.blocks = [] ∧ ((semHeld).ioCore 1 11).queues.length < 16 ∧
    ({ State.reset.control with image := some image0 }).image = some image0 ∧ (List.replicate 32 (1 : Byte)).length = 32 := by
  refine ⟨?_, ?_, ?_, ?_, ?_, ?_, ?_, ?_, ?_, ?_, ?_, ?_, ?_, ?_⟩ <;> decide +kernel

/-- The cluster to which a team comes at the boundary of grid 1, and none where no boundary is due. -/
theorem witness_Power_swap_ins :
    (swapping 4).swapIns 0 [1] = [0] ∧ (swapping 4).swapIns 0 [] = [] ∧ (swapping 4).swapIns 1 [1] = [] := by
  refine ⟨?_, ?_, ?_⟩ <;> decide +kernel

/-! ## Links -/

/-- Port 1 up with lanes, port 2 up, a request of core 0 out of port 1 and its wait, tenant 4 the owner of every frame 0,
its key 9 for endpoint 6. -/
def remote0 : RemoteReq := ⟨5, ⟨0, .f⟩, 4, none, 0, 1, 3, .read 0x80 8, false⟩
def frame0 : BitVec 16 := 4
def linked (lanes : Nat := 4) (f : Port → Port := id) (reqs : List RemoteReq := [remote0]) (g : State → State := id) : State :=
  let s := inGrid .f fun c => { c with waits := { c.waits with remote := [⟨.f, 0, 0, 5, 3, .read 0x80 8, none⟩] } }
  let s := s.modDie 0 fun d => { d with
    ports := (d.ports.set 1 (f { (Port.mk lanes 0 0 [] [] 0 false 0) with lanes := lanes })).set 2 (Port.mk 1 0 0 [] [] 0 false 0)
    routes := [(3, 6)], keys := [(0, 9, BitVec.ofNat 64 (2 ^ 31 + 6 * 2 ^ 16 + 4))], frames := [(0, frame0)] }
  g { s with fabric := { s.fabric with reqs := reqs } }

def answered (t : State) : List (Nat × RemoteStatus) := t.fabric.answers.map fun a => (a.1, a.2.1)
def loaded (p : Port) : Port := { p with egress := [⟨4, [(5, 300), (6, 100)], 50⟩, ⟨9, [(7, 10)], 0⟩] }
def reading : InRequest := ⟨6, some (4, 9), 0x2000, .read 2, false⟩
def sent (kind : MsgKind := .send) (core : Nat := 0) : InMessage := ⟨6, some (4, 9), core, kind, 0, 2, 0xA, 0xB⟩
/-- A grid of tenant 4 with the remote mode and a level bound to the pod. -/
def remoteGrid (s : State) : State :=
  { s with grids := [(1, classes { grid0 8 with info := { info0 8 with tenant := 4, levels := [(7, 1)] } })] }

theorem test_ports :
    next (exec (.linkTraining 1 2 false) (linked)) (fun t => ((t.port 1).lanes, t.fabric.reqs.map (·.port))) = some (2, [1]) ∧
    next (exec (.linkTraining 1 2 false) (linked 4 (fun p => { p with linkKey := true }) [])) (fun t => (t.port 1).lanes) = some 0 ∧
    next (exec (.portDown 1) (linked 4 id [remote0] fun s => s.modDie 0 fun d => { d with routes := [] })) (fun t =>
      ((t.fabric.reqs.length, (t.core 0).waits.remote.map fun w => w.answer.map (·.1)))) = some (0, [some .linkDown]) ∧
    next (exec (.linkLevelRetry 1) (linked)) (fun t => (t.port 1).retries) = some 1 ∧
    next (exec (.egressArbitration 1) (linked 4 loaded)) (fun t => ((t.port 1).egress.map fun e => (e.queue, e.deficit), (t.port 1).lastSent)) =
      some ([([(6, 100)], 6), ([(7, 10)], 0)], 4) := by
  refine ⟨?_, ?_, ?_, ?_, ?_⟩ <;> decide +kernel

theorem test_responses :
    next (exec (.remoteResponse 5 .ok [1]) (linked)) (fun t => (t.fabric.reqs.length, (t.core 0).waits.remote.map fun w => w.answer.map (·.2))) =
      some (0, [some [1]]) ∧
    next (exec (.remoteTimeout 5) (linked 4 id [{ remote0 with late := true, kind := .write 0x80 [1] false }])) (fun t =>
      (t.core 0).notices.map fun n => (n.cause, n.tval.toNat)) = some [(0x37, Config.fabricBase + 3 * 2 ^ 40 + 0x80)] ∧
    same (exec (.remoteResponse 5 .ok [1]) (linked 4 loaded)) (linked 4 loaded) = true ∧
    next (exec (.directoryRecall 3 1) (linked)) (fun t => (t.die 0).rdc.length) = some 0 := by
  refine ⟨?_, ?_, ?_, ?_⟩ <;> decide +kernel

theorem test_inbound :
    next (exec (.inboundRequest 1 reading) (linked)) (fun t => t.fabric.answers.map fun a => a.2.2.map (·.toNat)) = some [[0x11, 0x82]] ∧
    next (exec (.inboundRequest 1 { reading with ext := some (4, 8) }) (linked)) (fun t => (answered t, (t.port 1).keyErr)) = some ([(1, .key)], 1) ∧
    next (exec (.inboundRequest 1 { reading with offset := 0x200000 }) (linked)) (fun t => (answered t, (t.port 1).permErr)) = some ([(1, .perm)], 1) ∧
    next (exec (.inboundRequest 1 { reading with kind := .atomic 0 4 1 0 }) (linked)) (fun t => (memGet t.mem 0x2000).toNat) = some 0x12 ∧
    next (exec (.inboundRequest 1 { reading with kind := .write [5, 6] }) (linked)) (fun t => (memGet t.mem 0x2001).toNat) = some 6 ∧
    next (exec (.inboundRequest 1 reading) (linked 4 id [] fun s => s.setPage 2 ⟨7, [], [], none, false, []⟩)) answered = some [(1, .busy)] := by
  refine ⟨?_, ?_, ?_, ?_, ?_, ?_⟩ <;> decide +kernel

theorem test_inbound_messages :
    next (exec (.inboundMessage 1 (sent)) (linked 4 id [] remoteGrid)) (fun t => (t.net.map fun m => (m.target, m.item.w1.toNat), answered t)) =
      some ([(0, 0xB)], [(1, .ok)]) ∧
    next (exec (.inboundMessage 1 (sent .sendh 1)) (linked 4 id [] remoteGrid)) (fun t => (t.net.length, answered t)) = some (0, [(1, .notgt true)]) ∧
    next (exec (.inboundMessage 1 { sent .sendh 1 with cls := 1 }) (linked 4 id [] remoteGrid)) (fun t => (t.net.map (·.target), answered t)) = some ([1], []) ∧
    next (exec (.inboundMessage 1 (sent .send 8)) (linked 4 id [] remoteGrid)) answered = some [(1, .notgt false)] := by
  refine ⟨?_, ?_, ?_, ?_⟩ <;> decide +kernel

def paged (m : Migration) : State := linked 4 id [] fun s => s.setPage 2 m
theorem test_migration :
    next (exec (.migrationRequest 2 7) (linked)) (fun t => (t.fabric.page 2).moving) = some (some 7) ∧
    next (exec (.migrationRequest 2 0) (paged ⟨7, [], [.core 0 .f], none, true, []⟩)) (fun t => (t.fabric.page 2).refused) = some [.core 0 .f] ∧
    next (exec (.migrationComplete 2 [9]) (paged ⟨7, [], [], some 0, false, []⟩)) (fun t =>
      ((t.fabric.page 2).home, (memGet t.mem 0x2000).toNat)) = some (0, 9) ∧
    next (exec (.migrationHoldExpiry 2) (paged ⟨7, [3], [], none, true, []⟩)) (fun t => (t.fabric.page 2).moving) = some (some 3) := by
  refine ⟨?_, ?_, ?_, ?_⟩ <;> decide +kernel

/-- Ports up and down; a request out of the port with another and with none to take; a request answered and one still
loaded; keys, owners, pages and messages of each kind. -/
theorem witness_Links :
    ((linked).die 0).inReset = false ∧ (linked).fabric.reqs = [remote0] ∧ remote0.port = 1 ∧
    ((linked).portsUp (field ((sget ((linked).die 0).routes 3).getD 0) 0 16)).filter (fun k => k != 1) = [2] ∧
    0 < ((linked).port 1).lanes ∧ (linked).port 3 = Port.mk 0 0 0 [] [] 0 false 0 ∧
    (((linked 4 loaded).port 1).egress.map (·.tenant)).Nodup ∧ ((linked 4 loaded).port 1).lastSent < 4 ∧
    (linked 4 loaded).unsent 5 = true ∧ (linked).unsent 5 = false ∧ (linked).fabric.reqs.find? (fun y => y.id == 5) = some remote0 ∧
    ((linked).die (1 / 4)).tenantOf 6 (some (4, 9)) = some 4 ∧ ((linked).die (1 / 4)).tenantOf 6 (some (4, 8)) = none ∧
    (linked).tenantMay 4 0x2000 2 = true ∧ (linked).tenantMay 4 0x200000 2 = false ∧ inSpan (.read 2) 0x2000 = 2 ∧
    (linked).pageBusy 0x2000 = false ∧ (linked).inboundWaits 0x2000 2 = false ∧ (linked).poison = [] := by
  refine ⟨?_, ?_, ?_, ?_, ?_, ?_, ?_, ?_, ?_, ?_, ?_, ?_, ?_, ?_, ?_, ?_, ?_, ?_, ?_⟩ <;> decide +kernel

theorem witness_Links_messages :
    ((linked 4 id [] remoteGrid).messageGrid 4).map (·.1) = some 1 ∧ (linked).messageGrid 4 = none ∧
    (((linked 4 id [] remoteGrid).grid 1).map fun g => (g.coreOf 0, (g.info.arrival (sent)).isSome, (g.info.arrival (sent .sendh)).isSome)) =
      some (some 0, true, false) ∧
    ((linked).core 0).paired = false ∧ (linked).fabric.page 2 = ⟨0, [], [], none, false, []⟩ ∧
    (paged ⟨7, [3], [], none, true, []⟩).fabric.page 2 = ⟨7, [3], [], none, true, []⟩ := by
  refine ⟨?_, ?_, ?_, ?_, ?_, ?_⟩ <;> decide +kernel

/-! ## Words, steps and reset -/

/-- A well-formed instruction whose word the spec writes out (R51): a statement about all words or all well-formed
instructions is not empty. -/
theorem witness_Decode : (Instr.addImm 3 16 512).wf = true ∧ decode 0x4002030A = .ok (.addImm 3 16 512) := by
  refine ⟨?_, ?_⟩ <;> decide +kernel

/-- Core 0 fires the word at offset 0 (DIV g7, g5, g6 is 0x0A18A706), and its agent is next. -/
def stepping (w : Nat) (pc : Word := 0) : State :=
  ((inGrid .f fun c => { c with fc := ctxOf [(5, 12), (6, 4)] }).withFetchWord 32 w).modCore 0 fun c => { c with fc := { c.fc with pc := pc } }

theorem test_step :
    next (step (stepping 0x0A18A706)) (fun t => ((t.core 0).fc.pc.toNat, ((t.core 0).fc.readG 7).toNat, t.agents.length)) = some (4, 3, 1) ∧
    next (step (stepping 0xA2)) (fun t => (t.core 0).fc.cause.toNat) = some 1 ∧
    next (step (stepping 0xA2 3)) (fun t => ((t.core 0).fc.cause.toNat, (t.core 0).fc.tval.toNat)) = some (3, 3) ∧
    next (step (stepping 0xA2 8)) (fun t => (t.core 0).fc.cause.toNat) = some 0x0C ∧
    next (step { stepping 0xA2 with agenda := [.event .powerManagerTick] }) (fun t => t.agenda.length) = some 0 := by
  refine ⟨?_, ?_, ?_, ?_, ?_⟩ <;> decide +kernel

/-- A step in which the C-stream, the L-stream, an I/O core and a walker thread issue; whoever executes; reset memory. -/
theorem witness_Step_runs_decoded :
    (let s := stepping 0x0A18A706
     let r : State := { s with agents := [.cStream 0] }
     let t := { (r.modCore 0 fun c => { c with dTurn := c.dAct.isSome && !c.dNext }) with turn := .core 0 .f }
     s.agenda = [] ∧ s.agents = .cStream 0 :: [] ∧ s.down 0 = false ∧
       same (exec (.hActivationStart 0) { r with turn := .env }) { r with turn := .env } = true ∧
       same (exec (.activationLimit 0) { r with turn := .env }) { r with turn := .env } = true ∧
       (s.core 0).paired = false ∧ (s.core 0).dNext = false ∧ (s.core 0).hAct = none ∧ flag (s.core 0).pair.ctl 2 = false ∧
       (s.core 0).fIdle = false ∧ (s.core 0).wfi = false ∧ t.noticeDue 0 = false ∧ t.mayIssue 0 .f = true ∧ (s.core 0).f.cEnded = false) := by
  refine ⟨?_, ?_, ?_, ?_, ?_, ?_, ?_, ?_, ?_, ?_, ?_, ?_, ?_, ?_⟩ <;> decide +kernel

theorem witness_Step_streams :
    (let s := (stepping 0x0A18A706).modCore 0 fun c => { c with f := { c.f with l := { c.f.l with ended := false } } }
     (s.core 0).f.l.ended = false ∧ (s.core 0).f.held = false ∧ (s.core 0).fIdle = false ∧ s.mayIssue 0 .l = true) ∧
    ((State.reset.modIo 1 2 fun c => { c with running := true }).ioCore 1 2).running = true ∧
    ((onWalker).die 1).inReset = false ∧ ((onWalker).die 1).threads.map (·.count) = [0] ∧
    same (exec (.tlbMissWalk 1) { onWalker with turn := .env }) { onWalker with turn := .env } = true := by
  refine ⟨⟨?_, ?_, ?_, ?_⟩, ?_, ?_, ?_, ?_⟩ <;> decide +kernel

theorem witness_Execution : (two 1 2).executing = true ∧ (onWalker).executing = true ∧ (onIo).executing = true := by
  refine ⟨?_, ?_, ?_⟩ <;> decide +kernel

theorem witness_Memory_stays_canonical : memoryWf State.reset ∧ (next (step (stepping 0x0A18A706)) fun _ => ()) = some () := by
  refine ⟨?_, by decide +kernel⟩
  unfold memoryWf; decide +kernel

/-- F in M and in U, operands at the bounds of REACH, stores in no core's buffer; a fence at recovery scope in a
recoverable launch, met first and counted, and one outside. -/
theorem witness_Translation_and_fences :
    (addr 0).alone 0 .f ∧ holds (addr 0).turn [1, 2] = true ∧ (addr 0).priv ≠ 0 ∧ (addr 0 0 0).priv = 0 ∧ (0xBFFFF : Word).toNat < 2 ^ 20 ∧
    (0xBFFFF : Word).toNat / 2 ^ 18 % 4 = 2 ∧ (0xC0000 : Word).toNat / 2 ^ 18 % 4 = 3 ∧
    (∀ m, ((addr 0).core m).mem.buffer = [] ∧ ((addr 0).core m).mem.gate = []) ∧
    ((addr 0).die 0).inReset = false ∧ (((addr 0).drainAll 0).core 0).mem.buffer = [] ∧ (addr 0).hasMode 0 .recoverable = false ∧
    (recoverable).hasMode 0 .recoverable = true ∧ ((recoverable).core 0).waits.rcRel.find? (fun p => decide (p.ctx = .f)) = none ∧
    ((releasing).core 0).waits.rcRel.find? (fun p => decide (p.ctx = Ctx.f)) = some ⟨.f, 0, false, []⟩ := by
  refine ⟨⟨rfl, by decide +kernel⟩, ?_, ?_, ?_, ?_, ?_, ?_, ?_, ?_, ?_, ?_, ?_, ?_, ?_⟩
  rotate_left 6
  · intro m
    by_cases h : m = 0
    · subst h; decide +kernel
    · have : ((addr 0).core m) = Core.reset := by
        have e : (addr 0).cores = [(0, (addr 0).core 0)] := by decide +kernel
        unfold State.core
        rw [e]
        simp [sget, Ne.symm h]
      rw [this]; exact ⟨rfl, rfl⟩
  all_goals decide +kernel

end Sys2Proof.Tests
end

section

namespace Sys2Proof.Machine

/-! ## Every step keeps memory in canonical form

Memory changes at few places (`writeHome`, `flush`, `writePaByte`, a roll back, an image), and each is known to keep its
form (Laws/Memory). That everything else keeps it follows the model, function by function, in the model's order:
`memoryWf.f` says that the change `f` of the state does, `f_keeps` that the meaning `f` does wherever it stops,
`f_asks` that what the search `f` must await does, and `f_nextWf` that the outcome of `f` does. -/

/-- A change of the state keeps memory in canonical form. -/
def KeepsMemory (f : State → State) : Prop := ∀ s, memoryWf s → memoryWf (f s)

/-- Whatever a stop leaves behind is in canonical form, and whatever it still does keeps it. A plain trap takes up no
memory of the state in which it was found (R32). -/
def Stop.MemoryWf : Stop → Prop
  | .trapIn s _ _ | .waitIn s | .leave s => memoryWf s
  | .trapDo _ f _ _ | .waitDo f => KeepsMemory f
  | .trap .. | .wait | .fault _ => True

/-- What a meaning comes to is in canonical form. -/
def EndsWf {α : Type} : Except Stop (α × State) → Prop
  | .ok (_, t) => memoryWf t
  | .error e => e.MemoryWf

/-- A meaning, from a state in canonical form, ends in one or stops so. -/
structure Keeps {α : Type} (m : M α) : Prop where
  ends : ∀ s, memoryWf s → EndsWf (m s)

/-- The next state that an outcome gives, where it gives one, is in canonical form. -/
def NextWf (o : Host.Outcome State Fault Refusal) : Prop := ∀ t, o = .next t → memoryWf t

/-- A search that stops short does so with a reason of a kind. -/
def Awaits {ε α : Type} (P : ε → Prop) (r : Except ε α) : Prop := ∀ e, r = .error e → P e

/-- What a scheduler must await first, where it is anything, keeps memory in canonical form. -/
def AsksSafely (o : Option (State → State)) : Prop := ∀ f, o = some f → KeepsMemory f

/-! ### States -/

theorem memoryWf.ite {c : Prop} [Decidable c] {s t : State} (hs : memoryWf s) (ht : memoryWf t) :
    memoryWf (if c then s else t) := by
  split
  · exact hs
  · exact ht

/-- Only memory counts: the other fields may become anything. -/
theorem memoryWf.withFields {s : State} {turn agents agenda fresh cores clusters dies poison caches claims ticket keep
    grids nextGrid net fabric control results owed} (h : memoryWf s) :
    memoryWf ⟨turn, agents, agenda, fresh, cores, clusters, dies, s.mem, poison, caches, claims, ticket, keep, grids,
      nextGrid, net, fabric, control, results, owed⟩ :=
  h

theorem memoryWf.draw {s : State} (h : memoryWf s) : memoryWf s.draw.2 := h

theorem memoryWf.foldl {α : Type} {f : State → α → State} {l : List α} {s : State} (h : memoryWf s)
    (hf : ∀ s a, memoryWf s → memoryWf (f s a)) : memoryWf (l.foldl f s) :=
  foldl_keeps memoryWf f hf l s h

/-! ### Outcomes -/

theorem NextWf.next {s : State} (h : memoryWf s) : NextWf (.next s) := by
  rintro t ⟨⟩
  exact h

theorem NextWf.ite {c : Prop} [Decidable c] {o o' : Host.Outcome State Fault Refusal} (h : NextWf o) (h' : NextWf o') :
    NextWf (if c then o else o') := by
  split
  · exact h
  · exact h'

/-! ### Meanings -/

section
variable {α β : Type}

theorem Keeps.pure {a : α} : Keeps (pure a) := ⟨fun _ h => h⟩

theorem Keeps.bind {m : M α} {f : α → M β} (hm : Keeps m) (hf : ∀ a, Keeps (f a)) : Keeps (m >>= f) := by
  refine ⟨fun s hs => ?_⟩
  have h := hm.ends s hs
  rw [M.bind_run]
  cases e : m s with
  | ok p =>
    rw [e] at h
    exact (hf p.1).ends p.2 h
  | error e' =>
    rw [e] at h
    exact h

/-- A meaning that reads the state may use that it is in canonical form. -/
theorem Keeps.get_bind {f : State → M α} (h : ∀ s, memoryWf s → Keeps (f s)) : Keeps (get >>= f) :=
  ⟨fun s hs => (h s hs).ends s hs⟩

theorem Keeps.ite {c : Prop} [Decidable c] {m m' : M α} (h : Keeps m) (h' : Keeps m') :
    Keeps (if c then m else m') := by
  split
  · exact h
  · exact h'

/-- A meaning that several branches end in is looked at once. -/
theorem Keeps.join {γ : Type} {f : α → M β} {g : (α → M β) → M γ} (hf : ∀ a, Keeps (f a))
    (hg : ∀ k : α → M β, (∀ a, Keeps (k a)) → Keeps (g k)) : Keeps (let k := f; g k) :=
  hg f hf

theorem Keeps.set {s : State} (h : memoryWf s) : Keeps (set s : M Unit) := ⟨fun _ _ => h⟩
theorem Keeps.update {f : State → State} (h : KeepsMemory f) : Keeps (update f) := ⟨h⟩
theorem Keeps.ask {f : State → α} : Keeps (ask f) := ⟨fun _ h => h⟩
theorem Keeps.signal {c : Nat} {v : Word} : Keeps (signal c v : M α) := ⟨fun _ _ => trivial⟩
theorem Keeps.signalKept {c : Nat} {v : Word} : Keeps (signalKept c v : M α) := ⟨fun _ h => h⟩
theorem Keeps.signalDo {f : State → State} {c : Nat} {v : Word} (h : KeepsMemory f) : Keeps (signalDo f c v : M α) :=
  ⟨fun _ _ => h⟩
theorem Keeps.wait : Keeps (wait : M α) := ⟨fun _ _ => trivial⟩
theorem Keeps.waitKept : Keeps (waitKept : M α) := ⟨fun _ h => h⟩
theorem Keeps.waitDo {f : State → State} (h : KeepsMemory f) : Keeps (waitDo f : M α) := ⟨fun _ _ => h⟩
theorem Keeps.fault {f : Fault} : Keeps (stop (.fault f) : M α) := ⟨fun _ _ => trivial⟩
theorem Keeps.leave : Keeps (leave : M α) := ⟨fun _ h => h⟩
theorem Keeps.require {b : Bool} {c : Nat} {v : Word} : Keeps (require b c v) := .ite .pure .signal
theorem Keeps.waitWhile {b : Bool} : Keeps (waitWhile b) := .ite .wait .pure

theorem Keeps.self : Keeps self := by
  refine ⟨fun s h => ?_⟩
  unfold Machine.self
  split
  · exact h
  · trivial

theorem Keeps.mapM {f : α → M β} (h : ∀ a, Keeps (f a)) (l : List α) : Keeps (l.mapM f) := by
  induction l with
  | nil => exact .pure
  | cons a l ih =>
    rw [List.mapM_cons]
    exact .bind (h a) fun _ => .bind ih fun _ => .pure

theorem Keeps.forM {f : α → M PUnit} (h : ∀ a, Keeps (f a)) (l : List α) : Keeps (l.forM f) := by
  induction l with
  | nil => exact .pure
  | cons a l ih => exact .bind (h a) fun _ => ih

end

/-! ### What must be awaited -/

section
variable {ε α β : Type} {P : ε → Prop}

theorem Awaits.ok {a : α} : Awaits P (.ok a : Except ε α) := by
  rintro e ⟨⟩

theorem Awaits.error {e : ε} (h : P e) : Awaits P (.error e : Except ε α) := by
  rintro _ ⟨⟩
  exact h

theorem Awaits.ite {c : Prop} [Decidable c] {r r' : Except ε α} (h : Awaits P r) (h' : Awaits P r') :
    Awaits P (if c then r else r') := by
  split
  · exact h
  · exact h'

theorem Awaits.bind {r : Except ε α} {f : α → Except ε β} (h : Awaits P r) (hf : ∀ a, Awaits P (f a)) :
    Awaits P (r >>= f) := by
  cases r with
  | ok a => exact hf a
  | error e => exact .error (h e rfl)

theorem Awaits.map {r : Except ε α} {f : α → β} (h : Awaits P r) : Awaits P (r.map f) := by
  cases r with
  | ok a => exact .ok
  | error e => exact .error (h e rfl)

theorem Awaits.mapM {f : α → Except ε β} (h : ∀ a, Awaits P (f a)) (l : List α) : Awaits P (l.mapM f) := by
  induction l with
  | nil => exact .ok
  | cons a l ih =>
    rw [List.mapM_cons]
    exact .bind (h a) fun _ => .bind ih fun _ => .ok

end

/-! ### The state and its operations -/

theorem memoryWf.setCore {s n c} (h : memoryWf s) : memoryWf (s.setCore n c) :=
  h.withFields

theorem memoryWf.modCore {s n f} (h : memoryWf s) : memoryWf (s.modCore n f) :=
  h.setCore

theorem memoryWf.setCluster {s n c} (h : memoryWf s) : memoryWf (s.setCluster n c) :=
  h.withFields

theorem memoryWf.modCluster {s n f} (h : memoryWf s) : memoryWf (s.modCluster n f) :=
  h.setCluster

theorem memoryWf.setDie {s d a2} (h : memoryWf s) : memoryWf (s.setDie d a2) :=
  h.withFields

theorem memoryWf.modDie {s d f} (h : memoryWf s) : memoryWf (s.modDie d f) :=
  h.setDie

theorem memoryWf.setGrid {s g a2} (h : memoryWf s) : memoryWf (s.setGrid g a2) :=
  h.withFields

theorem memoryWf.modGrid {s g f} (h : memoryWf s) : memoryWf (s.modGrid g f) := by
  unfold State.modGrid
  split
  · exact h.setGrid
  · exact h

theorem memoryWf.modGridCore {s gid n f} (h : memoryWf s) : memoryWf (s.modGridCore gid n f) := by
  unfold State.modGridCore
  split
  · exact h
  · split
    · exact h.modCore
    · split
      · split
        · exact h.setGrid
        · exact h
      · exact h

theorem memoryWf.snoop {s line} (h : memoryWf s) : memoryWf (s.snoop line) :=
  h.withFields

theorem memoryWf.writeHome {s pa bs} (h : memoryWf s) : memoryWf (s.writeHome pa bs) :=
  State.writeHome_wf pa bs h

theorem memoryWf.flush {s line l} (h : memoryWf s) : memoryWf (s.flush line l) :=
  State.flush_wf line l h

theorem memoryWf.writeBackRdc {s d} (h : memoryWf s) : memoryWf (s.writeBackRdc d) :=
  .modDie <| .foldl h fun _ _ h => h.flush

theorem memoryWf.dropCleanRdc {s d} (h : memoryWf s) : memoryWf (s.dropCleanRdc d) :=
  h.modDie

theorem memoryWf.evictRdc {s d line} (h : memoryWf s) : memoryWf (s.evictRdc d line) := by
  unfold State.evictRdc
  split
  · exact h
  · exact h.flush.modDie

theorem memoryWf.roomRdc {s d line} (h : memoryWf s) : memoryWf (s.roomRdc d line) := by
  refine .ite h ?_
  split
  · exact .evictRdc h.draw
  · exact h.draw

theorem memoryWf.putRdc {s d line l} (h : memoryWf s) : memoryWf (s.putRdc d line l) :=
  h.roomRdc.modDie

theorem memoryWf.writePaByte {s d iss pa b} (h : memoryWf s) : memoryWf (s.writePaByte d iss pa b) :=
  State.writePaByte_wf d iss pa b h

theorem memoryWf.modRdcPoison {s d line f} (h : memoryWf s) : memoryWf (s.modRdcPoison d line f) := by
  unfold State.modRdcPoison
  split
  · exact h
  · exact h.modDie

theorem memoryWf.clearPaPoison {s d pa n} (h : memoryWf s) : memoryWf (s.clearPaPoison d pa n) :=
  .ite h <| .ite h.withFields <| .ite h.modRdcPoison h.modRdcPoison.modRdcPoison

theorem memoryWf.writePa {s d iss pa bs} (h : memoryWf s) : memoryWf (s.writePa d iss pa bs) :=
  .ite (.clearPaPoison <| .foldl h fun _ _ h => h.writePaByte) <| .snoop <| .snoop <| .clearPaPoison <|
  .foldl h fun _ _ h => h.writePaByte

theorem memoryWf.markPa {s d pa n} (h : memoryWf s) : memoryWf (s.markPa d pa n) :=
  .ite h.withFields <| .foldl h fun _ _ h => h.modRdcPoison

theorem memoryWf.touchRdc {s d pa} (h : memoryWf s) : memoryWf (s.touchRdc d pa) :=
  .ite h <| .ite (.putRdc h.draw) h.draw

theorem memoryWf.writeScratch {s owner iss off bs} (h : memoryWf s) : memoryWf (s.writeScratch owner iss off bs) :=
  .ite (.ite h.modCore h.modCore.modCore) h.modCore

theorem memoryWf.sendKeep {s src job pa bs} (h : memoryWf s) : memoryWf (s.sendKeep src job pa bs) := by
  unfold State.sendKeep
  split
  · exact h
  · exact h.withFields

theorem memoryWf.writeRc {s src job pa bs} (h : memoryWf s) : memoryWf (s.writeRc src job pa bs) :=
  .ite h.writeHome.sendKeep h.writeHome.sendKeep.sendKeep

theorem memoryWf.modPort {s p f} (h : memoryWf s) : memoryWf (s.modPort p f) :=
  h.modDie

theorem memoryWf.sendRemote {s src endpoint line kind late} (h : memoryWf s) :
    memoryWf (s.sendRemote src endpoint line kind late) :=
  h.withFields.modPort

theorem memoryWf.logError {s d cause where_} (h : memoryWf s) : memoryWf (s.logError d cause where_) :=
  h.modDie

theorem memoryWf.notify {s core cause tval} (h : memoryWf s) : memoryWf (s.notify core cause tval) :=
  .ite h.modCore.modCore h.modCore

theorem memoryWf.notifyGrid {s gid n cause tval} (h : memoryWf s) : memoryWf (s.notifyGrid gid n cause tval) := by
  unfold State.notifyGrid
  split
  · exact h.notify
  · exact h.modGridCore

theorem memoryWf.forgetHostLine {s d line} (h : memoryWf s) : memoryWf (s.forgetHostLine d line) :=
  h.modDie.withFields

theorem memoryWf.dropHostLine {s d pa n} (h : memoryWf s) : memoryWf (s.dropHostLine d pa n) :=
  .ite h.forgetHostLine h.forgetHostLine.forgetHostLine

theorem memoryWf.lateStore {s iss pa bs poisoned} (h : memoryWf s) : memoryWf (s.lateStore iss pa bs poisoned) := by
  unfold State.lateStore
  split
  split
  · exact h.notify
  · exact h.sendRemote.dropHostLine

theorem memoryWf.mergeScratch {s owner iss off b mask} (h : memoryWf s) :
    memoryWf (s.mergeScratch owner iss off b mask) :=
  h.writeScratch

theorem memoryWf.perform {s iss p poisoned} (h : memoryWf s) : memoryWf (s.perform iss p poisoned) := by
  unfold State.perform
  split
  · exact .ite (.modCore <| .ite h.writeScratch h.mergeScratch) <| .ite h.writeScratch h.mergeScratch
  · exact .ite h.lateStore <|
      .ite (.ite (.withFields <| .ite h.writeRc h.writeHome) <| .ite h.writeRc h.writeHome) <|
      .ite h.writePa.markPa h.writePa

theorem memoryWf.performAll {s iss parts wide poisoned} (h : memoryWf s) :
    memoryWf (s.performAll iss parts wide poisoned) :=
  .ite (.writeBackRdc <| .foldl h fun _ _ h => h.perform) <| .foldl h fun _ _ h => h.perform

theorem memoryWf.drainOne {s core} (h : memoryWf s) : memoryWf (s.drainOne core) := by
  unfold State.drainOne
  split
  · exact h
  · exact .ite h h.modCore.performAll

theorem memoryWf.drainAll {s core} (h : memoryWf s) : memoryWf (s.drainAll core) :=
  .foldl h fun _ _ h => h.drainOne

theorem memoryWf.releaseGate {s core} (h : memoryWf s) : memoryWf (s.releaseGate core) :=
  h.modCore.drainAll

theorem memoryWf.setThread {s d tid f} (h : memoryWf s) : memoryWf (s.setThread d tid f) :=
  h.modDie

theorem memoryWf.modIo {s d n f} (h : memoryWf s) : memoryWf (s.modIo d n f) :=
  h.modDie

theorem memoryWf.writeG {s r v} (h : memoryWf s) : memoryWf (s.writeG r v) := by
  unfold State.writeG
  split
  · exact h.modCore
  · exact h.setThread
  · exact h.modIo
  · exact h

theorem memoryWf.setPc {s v} (h : memoryWf s) : memoryWf (s.setPc v) := by
  unfold State.setPc
  split
  · exact h.modCore
  · exact h.setThread
  · exact h.modIo
  · exact h

theorem memoryWf.requestWalk {s v store va} (h : memoryWf s) : memoryWf (s.requestWalk v store va) :=
  h.modDie

theorem memoryWf.askPage {s who page} (h : memoryWf s) : memoryWf (s.askPage who page) := by
  unfold State.askPage
  split
  · exact h
  · exact h.withFields

theorem memoryWf.forgetRefusal {s who page} (h : memoryWf s) : memoryWf (s.forgetRefusal who page) := by
  unfold State.forgetRefusal
  split
  · exact h
  · exact h.withFields

theorem memoryWf.writeReached {s iss l bs} (h : memoryWf s) : memoryWf (s.writeReached iss l bs) :=
  .foldl h fun _ _ h => h.perform

theorem memoryWf.fibreUpcall {s core slot l stream cause tval} (h : memoryWf s) :
    memoryWf (s.fibreUpcall core slot l stream cause tval) :=
  .modCore <| .ite h h.drainAll.writeReached

/-- What the search for the pages of a range awaits is a walk or a page. -/
theorem reachParts_asks {s v store va f} : ∀ {l}, State.reachParts s v store va l = .ask f → KeepsMemory f
  | [], e => by cases e
  | (o, n) :: rest, e => by
    unfold State.reachParts at e
    split at e
    · split at e
      · cases e
      · exact reachParts_asks e
    · cases e; exact fun _ h => h
    · cases e; exact fun _ h => h.askPage
    · cases e; exact fun _ h => h
    · cases e; exact fun _ h => h
    · cases e

theorem reach_asks {s v store va n f} (e : State.reach s v store va n = .ask f) : KeepsMemory f := by
  unfold State.reach at e
  split at e
  · exact reachParts_asks e
  · cases e

theorem searchFibre_asks {s v f} : ∀ {l}, State.searchFibre s v l = .ask f → KeepsMemory f
  | [], e => by cases e
  | a :: rest, e => by
    unfold State.searchFibre at e
    split at e
    · cases e; exact reach_asks ‹_›
    · exact searchFibre_asks e
    · split at e
      · exact searchFibre_asks e
      · cases e

theorem freeFibre_asks {s core x f} (e : State.freeFibre s core x = .ask f) : KeepsMemory f := by
  unfold State.freeFibre at e
  split at e
  · cases e
  · exact searchFibre_asks e

theorem upcallAwaits_asks {s core x cause f} (e : State.upcallAwaits s core x cause = some f) : KeepsMemory f := by
  unfold State.upcallAwaits at e
  dsimp only at e
  split at e
  · split at e
    · cases e; exact freeFibre_asks ‹_›
    · cases e
  · cases e

theorem memoryWf.trapF {s core a2 cause tval} (h : memoryWf s) : memoryWf (s.trapF core a2 cause tval) := by
  refine .ite (.ite ?_ ?_) h.setCore
  · dsimp only
    split
    · exact h
    · exact .ite h.setCore.setCore h.setCore.fibreUpcall
  · dsimp only
    split
    · exact .ite h.fibreUpcall.modCore h.fibreUpcall
    · exact .ite h.setCore.modCore h.setCore

theorem memoryWf.failLanding {s p cause} (h : memoryWf s) : memoryWf (s.failLanding p cause) :=
  h.modCore

theorem memoryWf.answerSender {s i st} (h : memoryWf s) : memoryWf (s.answerSender i st) := by
  unfold State.answerSender
  split
  · exact h.withFields
  · exact h

theorem memoryWf.dropActivation {s core a2} (h : memoryWf s) : memoryWf (s.dropActivation core a2) := by
  unfold State.dropActivation
  dsimp only
  split
  · exact h.setCore.failLanding
  · exact h.setCore.answerSender
  · exact h.setCore

theorem memoryWf.poisonActivation {s core a2 addr} (h : memoryWf s) : memoryWf (s.poisonActivation core a2 addr) := by
  unfold State.poisonActivation
  dsimp only
  split
  · exact h
  · refine .ite ?_ h.setCore
    split
    · split
      · exact h.setCore.notifyGrid
      · exact h.setCore.answerSender
    · exact h.setCore.failLanding

theorem memoryWf.forgetWaits {s core a2} (h : memoryWf s) : memoryWf (s.forgetWaits core a2) :=
  h.modCore.modCluster

theorem takeTrap_memoryWf {s cause tval} (h : memoryWf s) : memoryWf (takeTrap s cause tval) := by
  unfold takeTrap
  split
  · dsimp only
    split
    · exact .ite h.forgetWaits.poisonActivation <| .ite h.forgetWaits.setCore.dropActivation h.forgetWaits.setCore
    · exact .ite h.forgetWaits.poisonActivation <| .ite h.forgetWaits.setCore.dropActivation h.forgetWaits.setCore
    · exact h.forgetWaits.trapF
  · exact h.modIo
  · exact h

theorem memoryWf.returnFromTrap {s core a2} (h : memoryWf s) : memoryWf (s.returnFromTrap core a2) := by
  refine .ite ?_ h.setCore
  dsimp only
  split <;> exact h.setCore

theorem memoryWf.failWalk {s d t w} (h : memoryWf s) : memoryWf (s.failWalk d t w) :=
  .foldl h.modDie fun _ _ h => h.modCluster

theorem memoryWf.note {s core a2 bs} (h : memoryWf s) : memoryWf (s.note core a2 bs) :=
  .ite h.setCore h

theorem memoryWf.noteHere {s bs} (h : memoryWf s) : memoryWf (s.noteHere bs) := by
  unfold State.noteHere
  split
  · exact h.note
  · exact h

theorem getG_keeps {r} : Keeps (getG r) :=
  .ask

theorem setG_keeps {r v} : Keeps (setG r v) :=
  .update fun _ h => h.writeG.noteHere

theorem memoryWf.retire {s next} (h : memoryWf s) : memoryWf (s.retire next) := by
  unfold State.retire
  split
  · exact h.modCore.setPc.modCore
  · exact h.setPc.setThread
  · exact h.setPc

theorem memoryWf.trapTurn {s cause tval} (h : memoryWf s) : memoryWf (s.trapTurn cause tval) := by
  unfold State.trapTurn
  split
  · split
    · exact h.failWalk
    · exact h
  · split
    · exact h
    · split
      · next hf =>
        split at hf
        · cases hf
        · exact upcallAwaits_asks hf _ h
      · exact takeTrap_memoryWf h
  · exact takeTrap_memoryWf h

theorem memoryWf.keepPassed {s t} (h : memoryWf s) : memoryWf (s.keepPassed t) := by
  unfold State.keepPassed
  split
  · exact .ite h.modCore.modCore h
  · exact h

theorem memoryWf.trapKept {s cause tval} (h : memoryWf s) : memoryWf (s.trapKept cause tval) := by
  unfold State.trapKept
  split
  · exact (takeTrap_memoryWf h).modCore
  · exact h.trapTurn

/-- Whatever a meaning comes to (R32), the machine goes on in canonical form. -/
theorem NextWf.runMeaning {m : M Word} {s : State} (hm : Keeps m) (h : memoryWf s) : NextWf (runMeaning m s) := by
  intro t ht
  have hs := hm.ends s h
  obtain ⟨_, _, e, rfl⟩ | ⟨_, _, _, e, rfl⟩ | ⟨_, _, _, _, e, rfl⟩ | ⟨_, _, _, e, rfl⟩ | ⟨e, rfl⟩ | ⟨_, e, rfl⟩ |
    ⟨_, e, rfl⟩ | ⟨_, e, rfl⟩ := runMeaning_cases m ht
  all_goals rw [e] at hs
  · exact memoryWf.retire hs
  · exact h.keepPassed.trapTurn
  · exact .ite h.trapTurn (hs _ h.keepPassed).trapTurn
  · exact memoryWf.trapKept hs
  · exact h
  · exact hs
  · exact hs _ h
  · exact hs

/-! ### Flags and rounding -/

theorem memoryWf.modContext {s f} (h : memoryWf s) : memoryWf (s.modContext f) := by
  unfold State.modContext
  split
  · exact h.modCore
  · exact h.modIo
  · exact h

theorem setFlags_keeps {fl} : Keeps (setFlags fl) :=
  .ite .pure <| .update fun _ h => h.modContext

theorem roundingMode_keeps {r} : Keeps (roundingMode r) :=
  .bind .ask fun _ => .bind .self fun ⟨_, _⟩ => .bind .require fun _ => .pure

theorem getSeed_keeps : Keeps getSeed :=
  .bind .self fun ⟨_, _⟩ => .ask

theorem setSeed_keeps {a0} : Keeps (setSeed a0) :=
  .bind .self fun ⟨_, _⟩ => .update fun _ h => h.modCore

theorem rangeCheck_keeps {hinted} : Keeps (rangeCheck hinted) := by
  unfold rangeCheck
  split
  · exact .pure
  · exact .bind .ask fun _ => .bind .require fun _ => setFlags_keeps

/-! ### Operands -/

theorem startOrd_keeps {g ordOk rs} : Keeps (startOrd g ordOk rs) := by
  refine .bind .ask fun _ => ?_
  split
  · exact .signal
  · exact .bind .require fun _ => .require

theorem start_keeps {g rs} : Keeps (start g rs) :=
  startOrd_keeps

theorem after_keeps {len m} (hm : Keeps m) : Keeps (after len m) :=
  .bind hm fun _ => .ask

theorem privileged_keeps : Keeps privileged :=
  .bind .ask fun _ => .require

theorem getMask_keeps {k} : Keeps (getMask k) :=
  .bind .self fun ⟨_, _⟩ => .bind .require fun _ => .ask

theorem setMask_keeps {k v} : Keeps (setMask k v) :=
  .bind .self fun ⟨_, _⟩ => .bind .require fun _ => .update fun _ h => h.modCore.noteHere

theorem getQueue_keeps {q} : Keeps (getQueue q) :=
  .bind .self fun ⟨_, _⟩ => .ask

theorem memoryWf.markStall {s} (h : memoryWf s) : memoryWf (s.markStall) := by
  unfold State.markStall
  split
  · exact h.modCore
  · exact h

theorem queueStall_keeps {α : Type} : Keeps (queueStall : M α) :=
  .waitDo fun _ h => h.markStall

theorem stallWhile_keeps {c} : Keeps (stallWhile c) :=
  .ite queueStall_keeps .pure

theorem popQueue_keeps {q} : Keeps (popQueue q) :=
  .bind .self fun ⟨_, _⟩ => .update fun _ h => h.modCore

theorem releaseToStreams_keeps : Keeps releaseToStreams :=
  .bind .self fun ⟨_, _⟩ =>
  .ite (.bind (.update fun _ h => h.drainAll) fun _ => .bind .ask fun _ => .ite .pure <|
     .waitDo fun _ h => h.drainAll) .pure

theorem pushQueue_keeps {q e} : Keeps (pushQueue q e) :=
  .bind releaseToStreams_keeps fun _ => .bind .self fun ⟨_, _⟩ => .update fun _ h => h.modCore.noteHere

theorem waitRoom_keeps {q} : Keeps (waitRoom q) :=
  .bind getQueue_keeps fun _ => stallWhile_keeps

theorem checkVector_keeps {srcs dst} : Keeps (checkVector srcs dst) :=
  .bind .self fun ⟨_, _⟩ => .bind .require fun _ => .require

theorem waitVector_keeps {srcs dst} : Keeps (waitVector srcs dst) :=
  .bind .self fun ⟨_, _⟩ => .bind .ask fun _ => stallWhile_keeps

theorem checkMarks_keeps {srcs} : Keeps (checkMarks srcs) :=
  .bind .self fun ⟨_, _⟩ => .bind .ask fun _ => .require

theorem takeSource_keeps {f} : Keeps (takeSource f) := by
  refine .bind .self fun ⟨_, _⟩ => ?_
  dsimp only
  split
  · exact .ask
  · exact .bind getQueue_keeps fun _ => .bind popQueue_keeps fun _ => .pure

theorem takeSources_keeps : ∀ {l}, Keeps (takeSources l)
  | [] => .pure
  | _ :: _ => .bind takeSource_keeps fun _ => .bind takeSources_keeps fun _ => .pure

theorem vectorSources_keeps {srcs dst} : Keeps (vectorSources srcs dst) :=
  .bind checkVector_keeps fun _ => .bind waitVector_keeps fun _ => .bind checkMarks_keeps fun _ => takeSources_keeps

theorem oldValue_keeps {f} : Keeps (oldValue f) := by
  refine .bind .self fun ⟨_, _⟩ => ?_
  dsimp only
  split
  · exact .ask
  · exact .pure

theorem putVector_keeps {f v} : Keeps (putVector f v) := by
  refine .bind .self fun ⟨_, _⟩ => ?_
  dsimp only
  split
  · exact .update fun _ h => h.modCore.noteHere
  · exact pushQueue_keeps

/-! ### Memory accesses -/

theorem heldByReset_keeps {α : Type} {tval : Word} : Keeps (heldByReset tval : M α) := by
  refine ⟨fun s _ => ?_⟩
  unfold heldByReset
  split <;> exact fun _ h => h

theorem locate_keeps {v store va} : Keeps (locate v store va) := by
  refine .get_bind fun _ _ => ?_
  split
  · exact .signal
  · exact .signalDo fun _ h => h.forgetRefusal
  · exact .waitDo fun _ h => h.requestWalk
  · exact .wait
  · exact .waitDo fun _ h => h.askPage
  · exact heldByReset_keeps
  · exact .pure

theorem locateAll_keeps {v store va n} : Keeps (locateAll v store va n) :=
  .ite (.bind locate_keeps fun _ => .pure) <| .bind locate_keeps fun _ => .bind locate_keeps fun _ => .pure

theorem waitClaims_keeps {ps} : Keeps (waitClaims ps) :=
  .get_bind fun _ _ => .waitWhile

theorem checkPoison_keeps {va ps} : Keeps (checkPoison va ps) := by
  refine .bind .self fun ⟨_, _⟩ => .get_bind fun _ _ => ?_
  split
  · exact .signal
  · exact .pure

theorem askRemote_keeps {endpoint line kind tval} : Keeps (askRemote endpoint line kind tval) := by
  refine .bind .self fun ⟨_, _⟩ => .get_bind fun _ _ => ?_
  dsimp only
  split
  · split
    · exact .pure
    · exact .signal
  · exact .wait
  · split
    · exact .signal
    · exact .waitDo fun _ h => h.modCore.sendRemote

theorem accessRemote_keeps {pa kind tval} : Keeps (accessRemote pa kind tval) :=
  askRemote_keeps

theorem memoryWf.keepHostLine {s d line bs} (h : memoryWf s) : memoryWf (s.keepHostLine d line bs) :=
  .ite (.putRdc h.draw) h.draw

theorem readHostLine_keeps {d pa len va} : Keeps (readHostLine d pa len va) := by
  refine .get_bind fun _ _ => ?_
  split
  · exact .pure
  · exact .bind accessRemote_keeps fun _ => .bind (.update fun _ h => h.keepHostLine) fun _ => .pure

theorem readPiece_keeps {va p} : Keeps (readPiece va p) := by
  refine .bind .self fun ⟨_, _⟩ => ?_
  dsimp only
  split
  · exact .ask
  · exact .get_bind fun _ _ => .ite readHostLine_keeps <| .bind accessRemote_keeps fun _ => .pure
  · exact .pure

theorem readPieces_keeps {va} : ∀ {l}, Keeps (readPieces va l)
  | [] => .pure
  | _ :: _ => .bind readPiece_keeps fun _ => .bind readPieces_keeps fun _ => .pure

theorem memoryWf.fillL2 {s pa} (h : memoryWf s) : memoryWf (s.fillL2 pa) :=
  h.withFields

theorem memoryWf.fillCluster {s n pa} (h : memoryWf s) : memoryWf (s.fillCluster n pa) :=
  .ite h.fillL2 h.fillL2.withFields

theorem memoryWf.fillL1 {s n va asid pa} (h : memoryWf s) : memoryWf (s.fillL1 n va asid pa) :=
  .ite h h.withFields

theorem memoryWf.predictor {s pa} (h : memoryWf s) : memoryWf (s.predictor pa).2 := by
  unfold State.predictor
  split <;> exact h

theorem memoryWf.setPredict {s pa p} (h : memoryWf s) : memoryWf (s.setPredict pa p) :=
  h.modDie

theorem memoryWf.predictLine {s n pa owns} (h : memoryWf s) : memoryWf (s.predictLine n pa owns) :=
  .ite h <| .ite h <| .setPredict <| .draw h.predictor

theorem memoryWf.leaveTraces {s v va p} (h : memoryWf s) : memoryWf (s.leaveTraces v va p) := by
  unfold State.leaveTraces
  split
  · exact .ite (.predictLine <| .ite h h.touchRdc.touchRdc) <| .fillL1 <| .fillCluster <| .predictLine <|
      .ite h h.touchRdc.touchRdc
  · exact h

theorem obtain_keeps {n x m} (hm : Keeps m) : Keeps (obtain_ n x m) := by
  refine ⟨fun s hs => ?_⟩
  have h := hm.ends s hs
  unfold obtain_
  dsimp only
  split <;> (rename_i e; rw [e] at h; exact h)

theorem takePassed_keeps {n x} : Keeps (takePassed n x) := by
  refine ⟨fun s h => ?_⟩
  unfold takePassed
  dsimp only
  split
  · trivial
  · split
    · trivial
    · exact h

theorem external_keeps {m} (hm : Keeps m) : Keeps (external m) :=
  .bind .self fun ⟨_, _⟩ => .bind .ask fun _ => .ite hm <| .ite (obtain_keeps hm) takePassed_keeps

theorem closing_keeps {m} (hm : Keeps m) : Keeps (closing m) :=
  .bind .self fun ⟨_, _⟩ => .bind .ask fun _ => .ite hm <| .ite (.waitDo fun _ h => h.modCore) <|
  .bind (external_keeps hm) fun _ => .bind (.update fun _ h => h.modCore) fun _ => .pure

theorem release_keeps {sc} : Keeps (release sc) :=
  .bind .self fun ⟨_, _⟩ => .bind .ask fun _ => .ite (.ite (.waitDo fun _ h => h.modCore) .wait) <|
  .bind (.update fun _ h => h.drainAll) fun _ => .bind .ask fun _ => .ite (.waitDo fun _ h => h.drainAll) <|
  .ite (.update fun _ h => h.writeBackRdc) .pure

theorem acquire_keeps {sc} : Keeps (acquire sc) :=
  .bind .self fun ⟨_, _⟩ => .ite (.update fun _ h => h.dropCleanRdc) .pure

theorem takeTicket_keeps : Keeps takeTicket :=
  .get_bind fun _ _ => .ite heldByReset_keeps <| .update fun _ h => h.withFields

theorem ticketFor_keeps {ql} : Keeps (ticketFor ql) :=
  .ite (.bind (external_keeps <| .bind takeTicket_keeps fun _ => .pure) fun _ => .pure) .pure

theorem rcBegun_keeps : Keeps rcBegun :=
  .bind .self fun ⟨_, _⟩ => .ask

theorem rcWait_keeps {data} : Keeps (rcWait data) :=
  .bind .self fun ⟨_, _⟩ => .bind .ask fun _ => .bind .ask fun _ => by
    split
    · exact .bind .waitWhile fun _ => .bind (.update fun _ h => h.modCore) fun _ => .pure
    · exact ⟨fun _ h => h.modCore⟩

theorem rcAllowed_keeps {ql rcPages va} : Keeps (rcAllowed ql rcPages va) :=
  .bind .self fun ⟨_, _⟩ => .bind .ask fun _ => .require

theorem acquireFor_keeps {ql} : Keeps (acquireFor ql) :=
  .ite .pure acquire_keeps

theorem loadPieces_keeps {v va ps} : Keeps (loadPieces v va ps) :=
  .bind waitClaims_keeps fun _ => .bind checkPoison_keeps fun _ => .bind readPieces_keeps fun _ =>
  .bind (.update fun _ h => .foldl h fun _ _ h => h.leaveTraces) fun _ => .pure

theorem readFor_keeps {own m} (hm : Keeps m) : Keeps (readFor own m) :=
  .ite hm <| external_keeps hm

theorem memRead_keeps {va n ql} : Keeps (memRead va n ql) := by
  refine .bind .self fun ⟨_, _⟩ => .bind .ask fun _ => ?_
  split
  · exact .signal
  · split
    · exact .signal
    · exact .bind .ask fun _ => .bind acquireFor_keeps fun _ =>
        .bind (readFor_keeps <|
           .bind locateAll_keeps fun _ => loadPieces_keeps) fun _ => .bind ticketFor_keeps fun _ => .pure

theorem readRaw_keeps {v va slot raw n} : Keeps (readRaw v va slot raw n) := by
  refine .get_bind fun _ _ => ?_
  split
  · exact .signal
  · exact .bind loadPieces_keeps fun _ => .pure

theorem readWindow_keeps {v va slot e} : Keeps (readWindow v va slot e) := by
  unfold readWindow
  split
  · exact .bind readRaw_keeps fun _ => .pure
  · exact .bind readRaw_keeps fun _ => .ite .pure <| .bind readRaw_keeps fun _ => .pure

theorem windowLoad_keeps {v va} : Keeps (windowLoad v va) :=
  .bind .ask fun _ => .bind (readFor_keeps readWindow_keeps) fun _ => .pure

theorem checkWord_keeps {v va n aligned word_} : Keeps (checkWord v va n aligned word_) := by
  unfold checkWord
  split
  · exact .signal
  · split
    · exact .signal
    · exact .pure

theorem noteStore_keeps {va bs} : Keeps (noteStore va bs) :=
  .update fun _ h => h.noteHere

theorem gateStore_keeps {act parts wide} : Keeps (gateStore act parts wide) :=
  .bind .self fun ⟨_, _⟩ => .get_bind fun _ _ => .bind .require fun _ =>
  .ite (.ite (.waitDo fun _ h => h.modCore) .wait) <| .update fun _ h => .ite h.modCore.modCore h.modCore

theorem memoryWf.makeRoom {s n} (h : memoryWf s) : memoryWf (s.makeRoom n) :=
  .foldl h fun _ _ h => h.drainOne

theorem bufferStore_keeps {parts} : Keeps (bufferStore parts) :=
  .bind .self fun ⟨_, _⟩ => .get_bind fun _ h => .bind .waitWhile fun _ => .set <| .modCore <| .ite h.makeRoom h

theorem sendParts_keeps {va l} : Keeps (sendParts va l) := by
  induction l generalizing va with
  | nil => exact .pure
  | cons p ps ih =>
    refine .bind .self fun ⟨_, _⟩ => .bind ?_ fun _ => ih
    split
    · exact .ite (.bind accessRemote_keeps fun _ => .update fun _ h => h.dropHostLine) .pure
    · exact .pure

theorem performNow_keeps {va parts wide} : Keeps (performNow va parts wide) :=
  .bind .self fun ⟨_, _⟩ => .get_bind fun _ _ =>
  .join (fun _ => .bind .waitWhile fun _ =>
     .bind sendParts_keeps fun _ => .update fun _ h => h.performAll) fun _ hk =>
  .ite (.bind (.waitDo fun _ h => h.drainAll) hk) <| hk ()

theorem putStore_keeps {ql st} : Keeps (putStore ql st) := by
  refine .bind .self fun ⟨_, _⟩ => .bind .ask fun _ => .bind noteStore_keeps fun _ =>
    .bind (.update fun _ h => .foldl h fun _ _ h => ?_) fun _ => .ite gateStore_keeps <|
    .ite (.ite (.ite (.waitDo fun _ h => h.modCore) performNow_keeps) <| .bind gateStore_keeps fun _ => .ite .pure <|
       .update fun _ h => h.modCore) <|
    .ite (.bind sendParts_keeps fun _ => .ite .pure bufferStore_keeps) performNow_keeps
  split
  · exact h.predictLine
  · exact h

theorem putStores_keeps {ql} : ∀ {l}, Keeps (putStores ql l)
  | [] => .pure
  | _ :: _ => .bind putStore_keeps fun _ => putStores_keeps

theorem performStores_keeps {ql} : ∀ {l}, Keeps (performStores ql l)
  | [] => .pure
  | _ :: _ => .bind performNow_keeps fun _ => performStores_keeps

theorem orderStore_keeps {ql gated} : Keeps (orderStore ql gated) :=
  .bind (.ite .pure release_keeps) fun _ => ticketFor_keeps

theorem locateStore_keeps {v va n ql own} : Keeps (locateStore v va n ql own) := by
  refine .bind .self fun ⟨_, _⟩ => ?_
  extract_lets find
  have hfind : Keeps find := .bind locateAll_keeps fun _ => .bind rcAllowed_keeps fun _ => .pure
  exact .bind .ask fun _ => .ite (.bind hfind fun _ => .pure) <|
    .bind (external_keeps <| .bind hfind fun _ => .pure) fun _ =>
    .ite (.bind hfind fun _ => .pure) <| .bind .pure fun _ => .pure

theorem orderedRun_keeps {ql apart find run} (hfind : Keeps find) (hrun : Keeps run) :
    Keeps (orderedRun ql apart find run) :=
  .bind .self fun ⟨_, _⟩ => .bind .ask fun _ =>
  .join
    (fun _ => .ite
      (.join
        (fun _ => .bind
          (closing_keeps <| .bind
            (.ite .pure <| .bind (.ite .pure release_keeps) fun _ => .bind (.ite takeTicket_keeps .pure) fun _ =>
              performStores_keeps)
            fun _ => .ite rcWait_keeps .pure)
          fun _ => performStores_keeps)
        fun _ hk => .ite (.bind .pure hk) <| .bind hfind hk)
      (.bind (.ite .pure <| .bind orderStore_keeps fun _ => hrun) fun _ =>
        .ite (.bind rcWait_keeps fun _ => .pure) .pure))
    fun _ hk => .ite (.bind rcBegun_keeps hk) <| .bind .pure hk

theorem resumeRc_keeps {ql m} (hm : Keeps m) : Keeps (resumeRc ql m) :=
  .join (fun _ => .ite (orderedRun_keeps .pure .pure) hm) fun _ hk => .ite (.bind rcBegun_keeps hk) <| .bind .pure hk

theorem orderedStores_keeps {ql far sts} : Keeps (orderedStores ql far sts) :=
  orderedRun_keeps .pure putStores_keeps

theorem memWrite_keeps {va bs ql} : Keeps (memWrite va bs ql) := by
  refine resumeRc_keeps <| .bind .self fun ⟨_, _⟩ => .bind .ask fun _ => ?_
  split
  · exact .signal
  · split
    · exact .signal
    · exact .bind .ask fun _ => .bind locateStore_keeps fun ⟨_, _⟩ => orderedStores_keeps

theorem windowScale_keeps {v va slot e} : Keeps (windowScale v va slot e) := by
  refine .bind .self fun ⟨_, _⟩ => .get_bind fun _ _ => ?_
  split
  · exact .signal
  · split
    · split
      · exact .signal
      · exact .pure
    · split
      · refine .bind waitClaims_keeps fun _ => .bind (.ite .pure ?_) fun _ => .bind checkPoison_keeps fun _ => .pure
        split
        · exact .signal
        · exact .pure
      · exact .signal
      · exact .pure

theorem checkWindowStore_keeps {v va ql} : Keeps (checkWindowStore v va ql) :=
  .bind .ask fun _ => .bind (readFor_keeps windowScale_keeps) fun _ => .bind .require fun _ => .pure

theorem windowParts_keeps {v va pattern ql} : Keeps (windowParts v va pattern ql) := by
  unfold windowParts
  split
  refine .bind checkWindowStore_keeps fun _ => ?_
  split
  refine .bind .self fun ⟨_, _⟩ => .get_bind fun _ _ => ?_
  dsimp only
  split <;> exact .pure

theorem windowStore_keeps {v va pattern ql} : Keeps (windowStore v va pattern ql) :=
  .bind .ask fun _ => .bind windowParts_keeps fun ⟨_, _, _⟩ => .bind orderedStores_keeps fun _ => setFlags_keeps

theorem walkOffset_keeps {va n ql} : Keeps (walkOffset va n ql) :=
  .bind .require fun _ => .pure

theorem ioAddress_keeps {va n aligned} : Keeps (ioAddress va n aligned) := by
  unfold ioAddress
  split
  · exact .signal
  · exact .get_bind fun _ _ => .bind .require fun _ => .bind .waitWhile fun _ => .pure

theorem ioLoad_keeps {d va n ql} : Keeps (ioLoad d va n ql) := by
  refine .bind ioAddress_keeps fun _ =>
    .bind (.ite (.update fun _ h => h.dropCleanRdc) .pure) fun _ => .get_bind fun _ _ => ?_
  split
  · exact .signal
  · exact .bind (.ite takeTicket_keeps .pure) fun _ => .pure

theorem memoryWf.evictRange {s d pa n} (h : memoryWf s) : memoryWf (s.evictRange d pa n) :=
  .ite (.ite h h.evictRdc) <| .evictRdc <| .ite h h.evictRdc

theorem ioStore_keeps {d va bs ql} : Keeps (ioStore d va bs ql) :=
  .bind ioAddress_keeps fun _ => .bind .require fun _ =>
  .bind (.ite (.update fun _ h => h.writeBackRdc) .pure) fun _ =>
  .bind (.ite takeTicket_keeps .pure) fun _ => .update fun _ h => h.evictRange.writeRc

theorem loadValue_keeps {va n ql} : Keeps (loadValue va n ql) := by
  refine .bind .ask fun _ => ?_
  split
  · exact .bind walkOffset_keeps fun _ => .ask
  · exact ioLoad_keeps
  · exact .bind .self fun ⟨_, _⟩ => .bind .ask fun _ =>
      .ite (.bind checkWord_keeps fun _ => .bind acquireFor_keeps fun _ => .bind windowLoad_keeps fun ⟨_, _, _⟩ =>
         .bind ticketFor_keeps fun _ => .bind rangeCheck_keeps fun _ => .bind setFlags_keeps fun _ => .pure) <|
      .bind memRead_keeps fun _ => .pure

theorem storeValue_keeps {va n a2 ql} : Keeps (storeValue va n a2 ql) := by
  refine .bind .ask fun _ => ?_
  split
  · exact .bind walkOffset_keeps fun _ => .update fun _ h => h.setThread
  · exact ioStore_keeps
  · exact .bind .self fun ⟨_, _⟩ => .bind .ask fun _ =>
      .ite (.bind checkWord_keeps fun _ => windowStore_keeps) memWrite_keeps

/-! ### Firings, records and barriers -/

theorem memoryWf.refreshReady {s core} (h : memoryWf s) : memoryWf (s.refreshReady core) := by
  unfold State.refreshReady
  split
  · exact h
  · exact h.modCore

theorem memoryWf.wake {s core} (h : memoryWf s) : memoryWf (s.wake core) :=
  .ite h.modCore.modCore h.modCore

theorem memoryWf.pushRecord {s core slot r} (h : memoryWf s) : memoryWf (s.pushRecord core slot r) :=
  .ite h.modCore.refreshReady.modCore.refreshReady h.modCore.refreshReady

theorem memoryWf.deliverRecord {s gid n slot r} (h : memoryWf s) : memoryWf (s.deliverRecord gid n slot r) := by
  unfold State.deliverRecord
  split
  · exact h
  · split
    · exact h.pushRecord
    · exact .ite h.modGridCore.modGridCore h.modGridCore

theorem memoryWf.onPair {s core f} (h : memoryWf s) (hf : ∀ y0 y1, memoryWf y0 → memoryWf (f y0 y1)) :
    memoryWf (s.onPair core f) :=
  .ite (hf _ _ <| hf _ _ h) <| hf _ _ h

theorem memoryWf.modBarrier {s core lvl n f} (h : memoryWf s) : memoryWf (s.modBarrier core lvl n f) := by
  unfold State.modBarrier
  split
  · exact h
  · exact h.modGrid

theorem memoryWf.withdrawAll {s core} (h : memoryWf s) : memoryWf (s.withdrawAll core) :=
  .modCore <| .ite (.foldl h fun _ _ h => h.modBarrier) h

theorem memoryWf.endFiring {s core} (h : memoryWf s) : memoryWf (s.endFiring core) :=
  h.withdrawAll.modCore

theorem memoryWf.startFiring {s core st rs} (h : memoryWf s) : memoryWf (s.startFiring core st rs) := by
  unfold State.startFiring
  split
  · exact h
  · exact .modCore <| .modCore <| .ite h.dropCleanRdc h

theorem memoryWf.sendOut {s core o} (h : memoryWf s) : memoryWf (s.sendOut core o) := by
  unfold State.sendOut
  dsimp only
  split
  · exact .withFields <| .ite h.writeBackRdc h
  · exact .withFields <| .ite h.writeBackRdc h
  · split
    · exact .notify <| .ite h.writeBackRdc h
    · exact .sendRemote <| .ite h.writeBackRdc h
  · exact .modCore <| .ite h.writeBackRdc h

theorem memoryWf.flushOutbox {s core} (h : memoryWf s) : memoryWf (s.flushOutbox core) :=
  .ite h <| .foldl h.modCore fun _ _ h => h.sendOut

/-! ### Atomics -/

theorem memoryWf.predictAfter {s n pa ql pl rc uncached} (h : memoryWf s) :
    memoryWf (s.predictAfter n pa ql pl rc uncached) :=
  .ite h <| .ite h.predictLine <| .setPredict <| .draw h.predictor

theorem memoryWf.atomMemory {s iss pa rc op n b cmp} (h : memoryWf s) :
    memoryWf (s.atomMemory iss pa rc op n b cmp).1 := by
  unfold State.atomMemory
  dsimp only
  split
  · exact .ite h h.evictRdc
  · exact .ite (memoryWf.ite h h.evictRdc).writeRc (memoryWf.ite h h.evictRdc).writeHome

theorem memoryWf.atomScratch {s owner off op n b cmp} (h : memoryWf s) :
    memoryWf (s.atomScratch owner off op n b cmp).1 := by
  unfold State.atomScratch
  dsimp only
  split
  · exact h
  · exact .ite h h

theorem takeAtom_keeps {w} : Keeps (takeAtom w) := by
  refine .bind .self fun ⟨_, _⟩ => ?_
  dsimp only
  split
  · exact .bind (.update fun _ h => h.modCore) fun _ => .pure
  · exact .signalDo fun _ h => h.modCore
  · exact .wait

theorem sendAtom_keeps {owner off op n b cmp va ql} : Keeps (sendAtom owner off op n b cmp va ql) :=
  .bind .self fun ⟨_, _⟩ => .bind (.ite takeTicket_keeps .pure) fun _ =>
  .bind (.update fun _ h => h.modCore.withFields) fun _ => .waitKept

theorem atomPoison_keeps {sp own n va} : Keeps (atomPoison sp own n va) := by
  refine .bind .self fun ⟨_, _⟩ => .get_bind fun _ _ => ?_
  dsimp only
  split
  · exact .signal
  · exact .pure

theorem atomAt_keeps {sp own op n b cmp va ql pl} : Keeps (atomAt sp own op n b cmp va ql pl) := by
  refine .bind .self fun ⟨_, _⟩ => ?_
  dsimp only
  split
  · exact .bind accessRemote_keeps fun _ => .bind (.update fun _ h => h.dropHostLine) fun _ => .pure
  · exact .ite (.bind (.ite takeTicket_keeps .pure) fun _ =>
         .get_bind fun _ h => .bind (.set h.atomScratch) fun _ => .pure) sendAtom_keeps
  · exact .bind (.ite takeTicket_keeps .pure) fun _ => .get_bind fun _ h => .bind .waitWhile fun _ =>
      .bind (.set h.predictAfter.atomMemory) fun _ => .pure
  · exact .pure

theorem atomBody_keeps {v op n b cmp va ql pl} : Keeps (atomBody v op n b cmp va ql pl) :=
  .bind .self fun ⟨_, _⟩ => .bind .ask fun _ => .bind locate_keeps fun _ => .bind (.ite .signal .pure) fun _ =>
  .bind waitClaims_keeps fun _ => .bind release_keeps fun _ => .bind atomPoison_keeps fun _ =>
  .bind rcAllowed_keeps fun _ => .bind atomAt_keeps fun _ => .ite rcWait_keeps .pure

theorem atomResumed_keeps {va ql m} (hm : Keeps m) : Keeps (atomResumed va ql m) := by
  refine .bind .self fun ⟨_, _⟩ => .join (fun _ => .ite rcWait_keeps <| .get_bind fun _ _ => ?_) fun _ hk =>
    .ite (.bind rcBegun_keeps hk) <| .bind .pure hk
  split
  · exact takeAtom_keeps
  · exact hm

theorem atomic_keeps {len op n d base b ql pl} : Keeps (atomic len op n d base b ql pl) := by
  refine after_keeps <| .bind startOrd_keeps fun _ => .bind getG_keeps fun _ => .bind getG_keeps fun _ =>
    .bind getG_keeps fun _ => .bind .self fun ⟨_, _⟩ => .bind .ask fun _ => ?_
  split
  · exact .signal
  · split
    · exact .signal
    · exact .bind (closing_keeps <| atomResumed_keeps atomBody_keeps) fun _ =>
        .bind (.ite acquire_keeps .pure) fun _ => .bind setFlags_keeps fun _ => setG_keeps

theorem memoryWf.answerAtom {s i a} (h : memoryWf s) : memoryWf (s.answerAtom i a) := by
  unfold State.answerAtom
  split
  · exact h
  · exact h.modCore

theorem execAtomicActivation_nextWf {core s} (h : memoryWf s) :
    NextWf (execAtomicActivation core s) := by
  unfold execAtomicActivation
  dsimp only
  split
  · split
    · refine .ite (.next h) ?_
      split
      · exact .next h.setCore.answerAtom
      · exact .next <| .answerAtom h.setCore.atomScratch
    · exact .next h
  · exact .next h

/-! ### Branches and the ends of routines -/

theorem branchIf_keeps {a b o taken} : Keeps (branchIf a b o taken) :=
  .bind start_keeps fun _ => .bind getG_keeps fun _ => .bind getG_keeps fun _ => .ask

theorem jumpLink_keeps {n len d} {o : BitVec n} : Keeps (jumpLink len d o) :=
  .bind start_keeps fun _ => .bind .ask fun _ => .bind setG_keeps fun _ => .pure

theorem jumpRegister_keeps {len d a i} : Keeps (jumpRegister len d a i) :=
  .bind start_keeps fun _ => .bind getG_keeps fun _ => .bind .require fun _ =>
  .bind .ask fun _ => .bind setG_keeps fun _ => .pure

theorem memoryWf.releaseActivation {s core a2} (h : memoryWf s) : memoryWf (s.releaseActivation core a2) :=
  h.modCore.releaseGate.flushOutbox

theorem memoryWf.endActivation {s core a2} (h : memoryWf s) : memoryWf (s.endActivation core a2) := by
  unfold State.endActivation
  dsimp only
  split
  · exact h.releaseActivation.modCore.answerSender
  · exact h.releaseActivation.modCore

theorem endWork_keeps : Keeps endWork := by
  refine .bind start_keeps fun _ => .bind .ask fun _ => ?_
  split
  · refine .bind .ask fun _ => ?_
    split
    · exact .bind (.update fun _ h => .ite h.dropActivation h.endActivation) fun _ => .leave
    · exact .bind (.update fun _ h => .ite h.dropActivation h.endActivation) fun _ => .leave
    · exact .ite (.bind (.update fun _ h => h.endFiring) fun _ => .leave) <|
        .bind (.update fun _ h => h.modCore) fun _ => .leave
  · exact .bind (.update fun _ h => h.modIo) fun _ => .leave
  · exact .leave

theorem breakpoint_keeps {len} : Keeps (breakpoint len) :=
  .bind start_keeps fun _ => .signal

theorem execBqe_nextWf {q o s} (h : memoryWf s) : NextWf (execBqe q o s) := by
  refine .runMeaning (.bind start_keeps fun _ => .bind .self fun ⟨_, _⟩ =>
       .bind .require fun _ => .bind getQueue_keeps fun _ => ?_) h
  split
  · exact queueStall_keeps
  · exact .bind popQueue_keeps fun _ => .ask
  · exact .ask

/-! ### System registers, traps and fences -/

theorem memoryWf.writeSr {s n a2 sel v} (h : memoryWf s) : memoryWf (s.writeSr n a2 sel v) := by
  unfold State.writeSr
  split
  · split
    · exact h.modGrid
    · exact h
  · exact h.modDie
  · exact h.modCore

theorem checkRead_keeps {sel} : Keeps (checkRead sel) := by
  refine .bind .ask fun _ => ?_
  split
  · exact .signal
  · exact .require

theorem checkWrite_keeps {sel} : Keeps (checkWrite sel) := by
  refine .bind .ask fun _ => ?_
  split
  · exact .signal
  · exact .bind .require fun _ => .require

theorem srModify_keeps {sel a f} : Keeps (srModify sel a f) :=
  after_keeps <| .bind start_keeps fun _ => .bind checkWrite_keeps fun _ => .bind .self fun ⟨_, _⟩ =>
  .bind .ask fun _ => .bind getG_keeps fun _ => .bind .require fun _ => .update fun _ h => h.writeSr.noteHere

theorem execSrr_nextWf {d sel s} (h : memoryWf s) : NextWf (execSrr d sel s) :=
  .runMeaning (after_keeps <| .bind start_keeps fun _ => .bind checkRead_keeps fun _ => .bind .self fun ⟨_, _⟩ =>
     .bind (external_keeps .ask) fun _ => setG_keeps) h

theorem execSysc_nextWf {s} (h : memoryWf s) : NextWf (execSysc s) :=
  .runMeaning (.bind start_keeps fun _ => .bind .ask fun _ => .signal) h

theorem execRetk_nextWf {s} (h : memoryWf s) : NextWf (execRetk s) :=
  .runMeaning (.bind start_keeps fun _ => .bind privileged_keeps fun _ => .bind .ask fun _ => .bind .require fun _ =>
     .bind .self fun ⟨_, _⟩ =>
     .bind (.update fun _ h => .ite h.endFiring h.returnFromTrap.modCore) fun _ => .leave) h

theorem execWfi_nextWf {s} (h : memoryWf s) : NextWf (execWfi s) :=
  .runMeaning (after_keeps <| .bind start_keeps fun _ =>
     .bind .self fun ⟨_, _⟩ => .update fun _ h => .ite h.modCore h) h

theorem memoryWf.removeTranslations {s i cluster} (h : memoryWf s) : memoryWf (s.removeTranslations i cluster) :=
  h.modCluster.withFields.modDie

theorem execTlbinv_nextWf {a b s} (h : memoryWf s) : NextWf (execTlbinv a b s) :=
  .runMeaning (after_keeps <| .bind start_keeps fun _ => .bind privileged_keeps fun _ => .bind getG_keeps fun _ =>
     .bind getG_keeps fun _ => .bind .require fun _ => .bind .self fun ⟨_, _⟩ => .bind release_keeps fun _ =>
     .bind (.update fun _ h => .foldl h fun _ _ h => .ite h.drainAll h) fun _ => .bind .ask fun _ =>
     .bind (.ite .waitKept .pure) fun _ => .update fun _ h => .foldl h fun _ _ h => h.removeTranslations) h

theorem execL1inv_nextWf {a s} (h : memoryWf s) : NextWf (execL1inv a s) :=
  .runMeaning (after_keeps <| .bind start_keeps fun _ => .bind privileged_keeps fun _ => .bind getG_keeps fun _ =>
     .bind .self fun ⟨_, _⟩ => .update fun _ h => h.withFields) h

theorem fenceRelease_keeps {sc} : Keeps (fenceRelease sc) :=
  .ite (.bind rcBegun_keeps fun _ =>
     .bind (.ite .pure release_keeps) fun _ => .bind rcWait_keeps fun _ => .pure) release_keeps

theorem execFence_nextWf {ql s} (h : memoryWf s) : NextWf (execFence ql s) := by
  refine .runMeaning (after_keeps <| .bind start_keeps fun _ => .bind .ask fun _ =>
       .bind .require fun _ => .bind .ask fun _ => ?_) h
  split
  · exact .bind (.ite .pure <|
         .ite (.bind (closing_keeps <|
               .bind fenceRelease_keeps fun _ => .pure) fun _ => .pure) fenceRelease_keeps) fun _ =>
      .bind ticketFor_keeps fun _ => .ite .pure acquire_keeps
  · exact .ite takeTicket_keeps .pure

/-! ### What the engines share -/

theorem enginePoison_keeps {va ps} : Keeps (enginePoison va ps) := by
  refine .bind .self fun ⟨_, _⟩ => .get_bind fun _ _ => ?_
  split
  · exact .signal
  · exact .pure

theorem engineLocate_keeps {store va n} : Keeps (engineLocate store va n) := by
  refine .bind .self fun ⟨_, _⟩ => .bind .ask fun _ => ?_
  split
  · exact .signal
  · split
    · exact .signal
    · exact locateAll_keeps

theorem engineRead_keeps {va n} : Keeps (engineRead va n) :=
  .bind engineLocate_keeps fun _ => .bind waitClaims_keeps fun _ => .bind enginePoison_keeps fun _ => readPieces_keeps

theorem checkFirstLine_keeps {store va n} : Keeps (checkFirstLine store va n) :=
  .bind engineLocate_keeps fun _ => .ite .pure enginePoison_keeps

theorem memoryWf.recallLine {s p} (h : memoryWf s) : memoryWf (s.recallLine p) := by
  unfold State.recallLine
  split
  · exact .foldl h fun _ _ h => h.evictRdc
  · exact h

theorem memoryWf.claimLine {s who p} (h : memoryWf s) : memoryWf (s.claimLine who p) :=
  .ite h h.recallLine.withFields

theorem memoryWf.claimLines {s who ps} (h : memoryWf s) : memoryWf (s.claimLines who ps) :=
  .foldl h fun _ _ h => h.claimLine

theorem memoryWf.dropClaims {s who} (h : memoryWf s) : memoryWf (s.dropClaims who) :=
  h.withFields

theorem memoryWf.dropClaim {s who p} (h : memoryWf s) : memoryWf (s.dropClaim who p) :=
  h.withFields

theorem destPages_asks {s v va f left l} (e : State.destPages s v va left l = .ask f) : KeepsMemory f := by
  induction l generalizing left with
  | nil => simp [State.destPages] at e
  | cons p rest ih =>
    obtain ⟨o, n⟩ := p
    cases left with
    | zero => simp [State.destPages] at e
    | succ left =>
      simp only [State.destPages] at e
      split at e
      · split at e
        · cases e
        · exact ih e
      · split at e
        · cases e
        · exact ih e
      · cases e; exact fun _ h => h.requestWalk
      · cases e; exact fun _ h => h.askPage
      · cases e; exact fun _ h => h
      · cases e

theorem destLines_keeps {v va n} : Keeps (destLines v va n) := by
  refine .get_bind fun _ _ => .ite .pure ?_
  split
  · exact .pure
  · exact .waitDo (destPages_asks ‹_›)

theorem awaitIntake_keeps {full get_ put} : Keeps (awaitIntake full get_ put) :=
  .bind .self fun ⟨_, _⟩ => .get_bind fun _ _ => .ite (.waitDo fun _ h => h.modCluster) <|
  .update fun _ h => h.modCluster

theorem memoryWf.sendEngine {s who core endpoint line page kind} (h : memoryWf s) :
    memoryWf (s.sendEngine who core endpoint line page kind) :=
  h.withFields.sendRemote

theorem memoryWf.jobAwaits {s v a2} (h : memoryWf s) : memoryWf (s.jobAwaits v a2) := by
  unfold State.jobAwaits
  split
  · exact h.requestWalk
  · exact h.askPage
  · exact h.sendEngine
  · exact h.draw
  · exact h

theorem memoryWf.forgetPages {s who} (h : memoryWf s) : memoryWf (s.forgetPages who) :=
  h.withFields

theorem memoryWf.forgetJob {s cluster who} (h : memoryWf s) : memoryWf (s.forgetJob cluster who) :=
  h.forgetPages.withFields.modCluster

theorem memoryWf.writeLine {s who core l} (h : memoryWf s) : memoryWf (s.writeLine who core l) := by
  unfold State.writeLine
  split
  · exact .foldl h fun _ _ h => h.writeScratch
  · exact .ite (.foldl h fun _ _ h => h.sendEngine.dropHostLine) <| .ite (.foldl h fun _ _ h => h.writeRc) <|
      .foldl h fun _ _ h => h.writeHome

theorem memoryWf.landRecord {s core slot r} (h : memoryWf s) : memoryWf (s.landRecord core slot r).1 := by
  unfold State.landRecord
  split
  · exact h
  · split
    · exact h
    · exact h.pushRecord

/-! ### Instructions of the BSE -/

theorem checkSlotRange_keeps {store va n} : Keeps (checkSlotRange store va n) := by
  refine .bind .self fun ⟨_, _⟩ => .bind .ask fun _ => .bind .require fun _ => .get_bind fun _ _ => ?_
  split
  · exact .signal
  · exact .pure

theorem checkWindowRange_keeps {store va lo n} : Keeps (checkWindowRange store va lo n) := by
  refine .bind .self fun ⟨_, _⟩ => .bind .ask fun _ => ?_
  split
  · exact .signal
  · refine .get_bind fun _ _ => ?_
    split
    split
    · exact .signal
    · exact .pure

theorem checkOperand_keeps {store va n} : Keeps (checkOperand store va n) := by
  unfold checkOperand
  split
  · exact .signal
  · exact .ite (.ite checkSlotRange_keeps .signal) checkFirstLine_keeps

theorem checkLoad_keeps {a b off} : Keeps (checkLoad a b off) :=
  .bind getG_keeps fun _ => .bind getG_keeps fun _ => .bind .require fun _ => .bind .require fun _ =>
  .bind .require fun _ => .bind checkOperand_keeps fun _ => .pure

theorem checkLoadGexp_keeps {a b off} : Keeps (checkLoadGexp a b off) := by
  refine .bind .self fun ⟨_, _⟩ => .bind getG_keeps fun _ => .bind getG_keeps fun _ =>
    .bind .require fun _ => .bind .ask fun _ => ?_
  dsimp only
  split
  · exact .signal
  · split
    · exact .signal
    · exact .bind .require fun _ => .pure

theorem checkInputAlign_keeps {f va} : Keeps (checkInputAlign f va) :=
  .require

theorem checkInput_keeps {f va n} : Keeps (checkInput f va n) :=
  .ite checkOperand_keeps <| .ite .signal checkWindowRange_keeps

theorem checkChain_keeps {f mode a b regs} : Keeps (checkChain f mode a b regs) :=
  .bind .self fun ⟨_, _⟩ => .bind getG_keeps fun _ => .bind .require fun _ => .bind getG_keeps fun _ =>
  .bind (.ite .pure checkInputAlign_keeps) fun _ => .bind .ask fun _ => .bind .require fun _ =>
  .bind (.ite .pure checkInput_keeps) fun _ => .pure

theorem checkTileOperand_keeps {o rows k ld b scale} : Keeps (checkTileOperand o rows k ld b scale) :=
  .ite (.bind checkOperand_keeps fun _ => .ite checkOperand_keeps .pure) (.forM (fun _ => checkWindowRange_keeps) _)

theorem checkTile_keeps {pair acc fa fb a b c} : Keeps (checkTile pair acc fa fb a b c) :=
  .bind .self fun ⟨_, _⟩ => .bind getG_keeps fun _ => .bind .require fun _ => .bind engineRead_keeps fun _ =>
  .bind getG_keeps fun _ => .bind getG_keeps fun _ => .get_bind fun _ _ => .bind .require fun _ =>
  .bind .require fun _ => .bind .require fun _ =>
  .bind checkTileOperand_keeps fun _ => .bind checkTileOperand_keeps fun _ => .pure

theorem checkReadout_keeps {op f rnd nsat sh a b} : Keeps (checkReadout op f rnd nsat sh a b) :=
  .bind .self fun ⟨_, _⟩ => .bind getG_keeps fun _ => .bind .require fun _ => .bind getG_keeps fun _ =>
  .bind .require fun _ => .get_bind fun _ _ => .bind .require fun _ =>
  .bind (.ite .pure checkOperand_keeps) fun _ => .pure

theorem capture_keeps {push scope} : Keeps (capture push scope) :=
  .bind .self fun ⟨_, _⟩ => .ask

theorem submitBse_keeps {i} : Keeps (submitBse i) := by
  refine .bind .self fun ⟨_, _⟩ => .bind release_keeps fun _ => .bind capture_keeps fun _ => .get_bind fun _ _ => ?_
  extract_lets cl id job submit
  have hk lines : Keeps (submit lines) :=
    .bind (.update fun _ h => h.modCluster.modCore.claimLines) fun _ => .pure
  split
  · exact .bind destLines_keeps hk
  · exact .bind .pure hk

theorem issueBse_keeps {d rs check} (hcheck : Keeps check) : Keeps (issueBse d rs check) :=
  after_keeps <| .bind start_keeps fun _ => .bind .self fun ⟨_, _⟩ =>
  .bind (closing_keeps <| .get_bind fun _ _ => .bind .waitWhile fun _ => .bind awaitIntake_keeps fun _ =>
     .bind hcheck fun _ => .bind submitBse_keeps fun _ => .pure) fun _ =>
  .bind (.update fun _ h => h.modCore) fun _ =>
  .bind (.ite (.bind getSeed_keeps fun _ => setSeed_keeps) .pure) fun _ => setG_keeps

theorem execBset_nextWf {bsd a s} (h : memoryWf s) : NextWf (execBset bsd a s) :=
  .runMeaning (after_keeps <| .bind start_keeps fun _ => .bind getG_keeps fun _ => .bind .require fun _ =>
     .bind .self fun ⟨_, _⟩ => .update fun _ h => h.modCore.noteHere) h

theorem execBrst_nextWf {label s} (h : memoryWf s) : NextWf (execBrst label s) :=
  .runMeaning (after_keeps <| .bind start_keeps fun _ => .bind .self fun ⟨_, _⟩ => .update fun _ h => h.modCore) h

theorem takeBse_keeps {n id} : Keeps (takeBse n id) := by
  refine .bind .ask fun _ => ?_
  split
  · exact .pure
  · exact .bind (.update fun _ h => h.modCore) fun _ => .bind acquire_keeps fun _ => .pure

theorem writeBstat_keeps {stat} : Keeps (writeBstat stat) :=
  .bind .self fun ⟨_, _⟩ => .bind .ask fun _ => .bind (.update fun _ h => h.modCore) fun _ => .pure

theorem observeBse_keeps {id} : Keeps (observeBse id) := by
  refine .bind .self fun ⟨_, _⟩ => .bind takeBse_keeps fun _ => ?_
  split <;> exact .pure

theorem hintTrap_keeps {stat} : Keeps (hintTrap stat) :=
  .bind .ask fun _ => .ite .signalKept .pure

theorem execBwait_nextWf {a s} (h : memoryWf s) : NextWf (execBwait a s) :=
  .runMeaning (after_keeps <| .bind start_keeps fun _ => .bind getG_keeps fun _ => .bind .self fun ⟨_, _⟩ =>
     .bind (external_keeps <| .bind .ask fun _ => .bind .waitWhile fun _ => observeBse_keeps) fun _ =>
     .bind writeBstat_keeps fun _ => .bind setFlags_keeps fun _ =>
     .bind (.ite .signalKept .pure) fun _ => hintTrap_keeps) h

theorem execBpoll_nextWf {d a s} (h : memoryWf s) : NextWf (execBpoll d a s) :=
  .runMeaning (after_keeps <| .bind start_keeps fun _ => .bind getG_keeps fun _ => .bind .self fun ⟨_, _⟩ =>
     .bind (external_keeps <| .bind .ask fun _ => .ite .pure observeBse_keeps) fun _ =>
     .bind writeBstat_keeps fun _ => .bind setFlags_keeps fun _ => .bind setG_keeps fun _ => hintTrap_keeps) h

/-! ### Loads and stores -/

theorem loadTo_keeps {len n signed d base ql va} : Keeps (loadTo len n signed d base ql va) :=
  after_keeps <| .bind startOrd_keeps fun _ => .bind getG_keeps fun _ => .bind loadValue_keeps fun _ => setG_keeps

theorem storeFrom_keeps {len n r base ql va} : Keeps (storeFrom len n r base ql va) :=
  after_keeps <| .bind startOrd_keeps fun _ => .bind getG_keeps fun _ => .bind getG_keeps fun _ => storeValue_keeps

theorem memoryWf.prefetch {s v target write va pa rc} (h : memoryWf s) :
    memoryWf (s.prefetch v target write va pa rc) := by
  unfold State.prefetch
  dsimp only
  split
  · exact .fillL1 <| .fillCluster <| .ite (.ite h.predictLine h) <| .ite (.ite h.predictLine h) <| .touchRdc <|
      .ite h.predictLine h
  · exact .fillCluster <| .ite (.ite h.predictLine h) <| .ite (.ite h.predictLine h) <| .touchRdc <|
      .ite h.predictLine h
  · exact .fillL2 <| .ite (.ite h.predictLine h) <| .ite (.ite h.predictLine h) <| .touchRdc <| .ite h.predictLine h

theorem prefetchAt_keeps {len target write base ql va} :
    Keeps (prefetchAt len target write base ql va) := by
  refine after_keeps <| .bind startOrd_keeps fun _ => .bind getG_keeps fun _ => .bind .ask fun _ => ?_
  split
  · refine .get_bind fun _ _ => ?_
    dsimp only
    split
    · exact .update fun _ h => h.prefetch
    · exact .waitDo fun _ h => h.requestWalk
    · exact .update fun _ h => h.forgetWaits
  · exact .pure

theorem loadLanes_keeps {v va} : ∀ {k}, Keeps (loadLanes v va k)
  | 0 => .pure
  | _ + 1 => .bind loadLanes_keeps fun _ => .bind windowLoad_keeps fun _ => .pure

theorem checkEntry_keeps {v va ql} : Keeps (checkEntry v va ql) := by
  unfold checkEntry
  split
  · exact .signal
  · split
    · exact .signal
    · exact .pure

theorem loadEntry_keeps {va ql} : Keeps (loadEntry va ql) :=
  .bind .self fun ⟨_, _⟩ => .bind .ask fun _ =>
  .ite (.bind checkEntry_keeps fun _ => .bind acquireFor_keeps fun _ => .bind loadLanes_keeps fun _ =>
     .bind ticketFor_keeps fun _ => .bind rangeCheck_keeps fun _ => .bind setFlags_keeps fun _ => .pure) <|
  .bind memRead_keeps fun _ => .pure

theorem laneParts_keeps {v va x ql} : ∀ {l}, Keeps (laneParts v va x ql l)
  | [] => .pure
  | _ :: _ => .bind windowParts_keeps fun ⟨_, _, _⟩ => .bind laneParts_keeps fun ⟨_, _, _⟩ => .pure

theorem storeEntry_keeps {va a1 ql} : Keeps (storeEntry va a1 ql) :=
  .bind .self fun ⟨_, _⟩ => .bind .ask fun _ =>
  .ite (.bind checkEntry_keeps fun _ => .bind .ask fun _ => .bind laneParts_keeps fun ⟨_, _, _⟩ =>
     .bind orderedStores_keeps fun _ => setFlags_keeps) memWrite_keeps

theorem vectorLoad_keeps {len d base ql va} : Keeps (vectorLoad len d base ql va) :=
  after_keeps <| .bind startOrd_keeps fun _ => .bind checkVector_keeps fun _ => .bind getG_keeps fun _ =>
  .bind loadEntry_keeps fun _ => putVector_keeps

theorem vectorStore_keeps {len r base ql va} : Keeps (vectorStore len r base ql va) :=
  after_keeps <| .bind startOrd_keeps fun _ => .bind checkVector_keeps fun _ => .bind getG_keeps fun _ =>
  .bind oldValue_keeps fun _ => storeEntry_keeps

/-! ### Vector operations -/

theorem VecForm.begin_keeps {v gs} : Keeps (VecForm.begin_ v gs) :=
  .bind start_keeps fun _ => .bind .require fun _ =>
  .bind getMask_keeps fun _ => .bind roundingMode_keeps fun _ => .pure

theorem putLanes_keeps {d w l} : Keeps (putLanes d w l) :=
  .bind getSeed_keeps fun _ => .bind (.ite .pure setSeed_keeps) fun _ => .bind setFlags_keeps fun _ => putVector_keeps

theorem VecForm.elementwise_keeps {v gs srcs d op} : Keeps (VecForm.elementwise v gs srcs d op) :=
  after_keeps <| .bind VecForm.begin_keeps fun ⟨_, _⟩ => .bind vectorSources_keeps fun _ =>
  .bind oldValue_keeps fun _ => .bind getSeed_keeps fun _ => putLanes_keeps

theorem VecForm.arith_keeps {v op d srcs} : Keeps (VecForm.arith v op d srcs) :=
  VecForm.elementwise_keeps

theorem VecForm.select_keeps {v max d a b} : Keeps (VecForm.select v max d a b) :=
  VecForm.elementwise_keeps

theorem VecForm.function_keeps {v op d a} : Keeps (VecForm.function v op d a) :=
  VecForm.elementwise_keeps

theorem VecForm.shift_keeps {v op d a b} : Keeps (VecForm.shift v op d a b) :=
  VecForm.elementwise_keeps

theorem VecForm.compare_keeps {v op d a b} : Keeps (VecForm.compare v op d a b) :=
  after_keeps <| .bind VecForm.begin_keeps fun ⟨_, _⟩ => .bind .self fun ⟨_, _⟩ => .bind .require fun _ =>
  .bind vectorSources_keeps fun _ => .bind setFlags_keeps fun _ => setMask_keeps

theorem VecForm.choose_keeps {v d a b} : Keeps (VecForm.choose v d a b) :=
  after_keeps <| .bind VecForm.begin_keeps fun ⟨_, _⟩ => .bind vectorSources_keeps fun _ => putVector_keeps

theorem VecForm.permute_keeps {v d a b} : Keeps (VecForm.permute v d a b) :=
  VecForm.elementwise_keeps

theorem VecForm.slide_keeps {v op d a g} : Keeps (VecForm.slide v op d a g) :=
  .bind .ask fun _ => VecForm.elementwise_keeps

theorem VecForm.broadcast_keeps {v d g} : Keeps (VecForm.broadcast v d g) :=
  .bind .ask fun _ => VecForm.elementwise_keeps

theorem VecForm.reduction_keeps {v op d a b} : Keeps (VecForm.reduction v op d a b) :=
  after_keeps <| .bind VecForm.begin_keeps fun ⟨_, _⟩ =>
  .bind vectorSources_keeps fun _ => .bind getSeed_keeps fun _ => putLanes_keeps

theorem VecForm.scan_keeps {v d a b} : Keeps (VecForm.scan v d a b) :=
  after_keeps <| .bind VecForm.begin_keeps fun ⟨_, _⟩ =>
  .bind vectorSources_keeps fun _ => .bind getSeed_keeps fun _ => putLanes_keeps

theorem VecForm.toGeneral_keeps {v d a g} : Keeps (VecForm.toGeneral v d a g) :=
  after_keeps <| .bind VecForm.begin_keeps fun ⟨_, _⟩ =>
  .bind getG_keeps fun _ => .bind vectorSources_keeps fun _ => setG_keeps

theorem checkElement_keeps {v store f va ql} : Keeps (checkElement v store f va ql) :=
  .bind checkWord_keeps fun _ =>
  .ite (.bind (.ite (.bind checkWindowStore_keeps fun _ => .pure) <|
        .bind windowLoad_keeps fun _ => .pure) fun _ => .pure) <|
  .bind .ask fun _ => .ite (.bind locateStore_keeps fun ⟨_, _⟩ => .pure) <|
  .bind (readFor_keeps <| .bind locateAll_keeps fun _ =>
     .bind waitClaims_keeps fun _ => .bind checkPoison_keeps fun _ => .pure) fun _ => .pure

theorem checkElements_keeps {v store f ql} : ∀ {l}, Keeps (checkElements v store f ql l)
  | [] => .pure
  | (_, _) :: _ => .bind checkElement_keeps fun _ => .bind checkElements_keeps fun _ => .pure

theorem loadElements_keeps {v f ql} : ∀ {l}, Keeps (loadElements v f ql l)
  | [] => .pure
  | (_, _) :: _ =>
    .ite
      (.bind checkWord_keeps fun _ => .bind windowLoad_keeps fun ⟨_, _, _⟩ =>
        .bind loadElements_keeps fun _ => .pure)
      (.bind memRead_keeps fun _ => .bind .pure fun ⟨_, _, _⟩ => .bind loadElements_keeps fun _ => .pure)

theorem vectorGather_keeps {a0 ql n d gs srcs address} :
    Keeps (vectorGather a0 ql n d gs srcs address) :=
  after_keeps <| .bind startOrd_keeps fun _ => .bind .require fun _ => .bind getMask_keeps fun _ =>
  .get_bind fun _ _ => .bind vectorSources_keeps fun _ => .bind .self fun ⟨_, _⟩ => .bind .ask fun _ =>
  .bind acquireFor_keeps fun _ => .bind loadElements_keeps fun _ => .bind rangeCheck_keeps fun _ =>
  .bind setFlags_keeps fun _ => .bind oldValue_keeps fun _ => putVector_keeps

theorem elementStore_keeps {v f ql va code} : Keeps (elementStore v f ql va code) :=
  .bind .ask fun _ =>
  .ite (.bind windowParts_keeps fun ⟨_, _, _⟩ => .bind setFlags_keeps fun _ => .pure) <|
  .bind locateStore_keeps fun ⟨_, _⟩ => .pure

theorem findElements_keeps {v f ql x} : ∀ {l}, Keeps (findElements v f ql x l)
  | [] => .pure
  | (_, _) :: _ => .bind elementStore_keeps fun _ => .bind findElements_keeps fun _ => .pure

theorem storeElements_keeps {v f ql x} : ∀ {l}, Keeps (storeElements v f ql x l)
  | [] => .pure
  | (_, _) :: _ => .bind elementStore_keeps fun _ => .bind putStores_keeps fun _ => storeElements_keeps

theorem scatter_keeps {v f ql far a4 els} : Keeps (scatter v f ql far a4 els) :=
  orderedRun_keeps findElements_keeps storeElements_keeps

theorem vectorScatter_keeps {a0 ql n d gs idx address} :
    Keeps (vectorScatter a0 ql n d gs idx address) :=
  after_keeps <| .bind startOrd_keeps fun _ => .bind .require fun _ => .bind getMask_keeps fun _ => resumeRc_keeps <|
  .get_bind fun _ _ => .bind vectorSources_keeps fun _ => .bind .self fun ⟨_, _⟩ => .bind .ask fun _ =>
  .bind checkElements_keeps fun _ => scatter_keeps

/-! ### Jobs of the BSE -/

theorem memoryWf.bseRan {α : Type} {s cl j run} {r : Except JStop α} (h : memoryWf s) :
    memoryWf (s.bseRan cl j r run) :=
  .claimLines h.modCluster.withFields

theorem memoryWf.afterRun {α : Type} {s v done} {r : Except JStop α} (h : memoryWf s) (hd : memoryWf done) :
    memoryWf (s.afterRun v r done) := by
  unfold State.afterRun
  split
  · exact hd
  · exact h.jobAwaits
  · exact hd

theorem memoryWf.writeAcc {s cl base ws} (h : memoryWf s) : memoryWf (s.writeAcc cl base ws) :=
  h.modCluster

theorem memoryWf.writeWeights {s cl off bs} (h : memoryWf s) : memoryWf (s.writeWeights cl off bs) :=
  h.modCluster

theorem memoryWf.runLoadGexp {s cl j gre off} (h : memoryWf s) : memoryWf (s.runLoadGexp cl j gre off) := by
  unfold State.runLoadGexp
  split
  · exact h.modCluster
  · split
    · exact h
    · exact h.writeWeights.modCluster

theorem memoryWf.runBse {s cl j} (h : memoryWf s) : memoryWf (s.runBse cl j) := by
  unfold State.runBse
  dsimp only
  split
  · exact .afterRun h.modCluster (h.modCluster.bseRan.writeWeights)
  · exact h.modCluster.runLoadGexp
  · exact .afterRun h.modCluster (h.modCluster.bseRan.writeAcc)
  · exact .afterRun h.modCluster (h.modCluster.bseRan.writeAcc.writeAcc)
  · exact .afterRun h.modCluster h.modCluster.bseRan

theorem execBseJobStart_nextWf {cluster s} (h : memoryWf s) : NextWf (execBseJobStart cluster s) := by
  unfold execBseJobStart
  dsimp only
  split
  · exact .next h
  · exact .next h.runBse
  · exact .next <| .runBse h.draw

theorem memoryWf.finishBse {s cl j e} (h : memoryWf s) : memoryWf (s.finishBse cl j e) :=
  h.modCluster.dropClaims.forgetJob.wake.modCore

theorem memoryWf.clearRead {s cl j e} (h : memoryWf s) : memoryWf (s.clearRead cl j e) := by
  unfold State.clearRead
  split
  · exact .ite h.writeAcc h
  · exact h

theorem memoryWf.endBse {s cl j e} (h : memoryWf s) : memoryWf (s.endBse cl j e) := by
  unfold State.endBse
  dsimp only
  split
  · exact .ite h.clearRead.finishBse h.clearRead.modCluster
  · exact h.clearRead.finishBse

theorem execBseJobComplete_nextWf {cluster s} (h : memoryWf s) :
    NextWf (execBseJobComplete cluster s) := by
  unfold execBseJobComplete
  split
  · exact .next h.endBse
  · exact .next h

theorem memoryWf.discardBse {s cl p} (h : memoryWf s) : memoryWf (s.discardBse cl p) :=
  .modCluster <| .foldl h fun _ _ h => h.dropClaims.forgetJob

/-! ### Copy engines -/

theorem memoryWf.forgetPage {s cluster asid va} (h : memoryWf s) : memoryWf (s.forgetPage cluster asid va) :=
  h.modCluster

theorem memoryWf.copyResume {s core ch} (h : memoryWf s) : memoryWf (s.copyResume core ch) :=
  .ite h.forgetPage.modCore h

theorem memoryWf.copyAbort {s core ch} (h : memoryWf s) : memoryWf (s.copyAbort core ch) :=
  .ite h.modCore h

theorem execCopyResume_nextWf {core ch s} (h : memoryWf s) : NextWf (execCopyResume core ch s) :=
  .next h.copyResume

theorem execCopyAbort_nextWf {core ch s} (h : memoryWf s) : NextWf (execCopyAbort core ch s) :=
  .next h.copyAbort

theorem enterRequest_keeps {w0 w1 w2 w3} : Keeps (enterRequest w0 w1 w2 w3) :=
  .bind .self fun ⟨_, _⟩ => .get_bind fun _ _ => .bind release_keeps fun _ => .bind .ask fun _ =>
  .bind (.update fun _ h => h.modCore) fun _ => .pure

theorem copyRequest_keeps {busy w0 w1 w2 w3} : Keeps (copyRequest busy w0 w1 w2 w3) := by
  refine .bind .self fun ⟨_, _⟩ => .get_bind fun _ _ => .bind .require fun _ => .bind ?_ fun _ =>
    .bind .require fun _ =>
    .ite (.bind (.update fun _ h => .ite h.copyResume h.copyAbort) fun _ => .pure) <|
    .ite (.bind .waitWhile fun _ => .pure) <| .bind enterRequest_keeps fun _ => .pure
  split
  · refine .ite ?_ .pure
    split
    · exact .signal
    · exact .pure
  · exact .require

theorem copyIssue_keeps {busy d a} : Keeps (copyIssue busy d a) :=
  after_keeps <| .bind start_keeps fun _ => .bind getG_keeps fun _ => .bind getG_keeps fun _ =>
  .bind getG_keeps fun _ => .bind getG_keeps fun _ => .bind (closing_keeps copyRequest_keeps) fun _ => setG_keeps

theorem execCwait_nextWf {a ch s} (h : memoryWf s) : NextWf (execCwait a ch s) :=
  .runMeaning (after_keeps <| .bind start_keeps fun _ => .bind getG_keeps fun _ => .bind .self fun ⟨_, _⟩ =>
     .bind (external_keeps <| .get_bind fun _ _ => .bind .require fun _ =>
        .bind .waitWhile fun _ => .bind acquire_keeps fun _ => .pure) fun _ => .pure) h

theorem execCpoll_nextWf {d a ch s} (h : memoryWf s) : NextWf (execCpoll d a ch s) :=
  .runMeaning (after_keeps <| .bind start_keeps fun _ => .bind getG_keeps fun _ => .bind .self fun ⟨_, _⟩ =>
     .bind (external_keeps <| .get_bind fun _ _ => .bind .require fun _ => .bind (.ite acquire_keeps .pure) fun _ =>
        .bind (.update fun _ h => h.modCore) fun _ => .pure) fun _ => setG_keeps) h

theorem memoryWf.claimFrom {v} : ∀ {l s}, memoryWf s → memoryWf (State.claimFrom s v l).1
  | [], _, h => h
  | (_, _) :: _, _, h => by
    unfold State.claimFrom
    split
    · exact h
    · split
      · exact h.claimLine.claimFrom
      · exact h.claimLine.claimFrom
      all_goals exact h

theorem claimFrom_asks {v f} : ∀ {l s}, (State.claimFrom s v l).2.2 = some f → KeepsMemory f
  | [], _, e => by cases e
  | (_, _) :: _, _, e => by
    unfold State.claimFrom at e
    split at e
    · cases e
    · split at e
      · exact claimFrom_asks e
      · exact claimFrom_asks e
      · cases e; exact fun _ h => h
      · cases e; exact fun _ h => h.askPage
      · cases e; exact fun _ h => h
      · cases e

theorem memoryWf.forgetReads {s core ch} (h : memoryWf s) : memoryWf (s.forgetReads core ch) :=
  h.forgetPages.withFields.modCluster

theorem memoryWf.stopTransfer {s core ch cause va} (h : memoryWf s) : memoryWf (s.stopTransfer core ch cause va) :=
  .ite h.forgetReads.modCore h.forgetReads.modCore

theorem memoryWf.fillParam {s cl lines} (h : memoryWf s) : memoryWf (s.fillParam cl lines) :=
  h.withFields

theorem memoryWf.claimTransfer {s core ch t} (h : memoryWf s) : memoryWf (s.claimTransfer core ch t) := by
  unfold State.claimTransfer
  split
  · exact h
  · dsimp only
    split
    · exact claimFrom_asks ‹_› _ h.claimFrom
    · exact h.claimFrom

theorem memoryWf.prepare {s core ch t} (h : memoryWf s) : memoryWf (s.prepare core ch t) := by
  refine .ite h.claimTransfer <| .ite h.claimTransfer ?_
  dsimp only
  split
  · exact .ite h.fillParam.claimTransfer h.stopTransfer
  · exact h.stopTransfer
  · exact h.jobAwaits

theorem memoryWf.dispatchCopy {s core} (h : memoryWf s) : memoryWf (s.dispatchCopy core) := by
  unfold State.dispatchCopy
  dsimp only
  split
  · exact h
  · exact h.modCore.prepare

theorem execCopyDispatch_nextWf {core s} (h : memoryWf s) : NextWf (execCopyDispatch core s) :=
  .next <| .dispatchCopy <| .foldl h fun _ _ h => h.prepare

theorem memoryWf.writePiece {s v t k lines} (h : memoryWf s) : memoryWf (s.writePiece v t k lines) :=
  .foldl h fun _ _ h => .ite h.claimLine.writeLine h.claimLine.writeLine.dropClaim

theorem memoryWf.claimOn {s v t} (h : memoryWf s) : memoryWf (s.claimOn v t).1 := h.claimFrom

/-- What the next piece of a transfer comes to is in canonical form. -/
def CopyMove.MemoryWf : CopyMove → Prop
  | .done s | .await s => memoryWf s
  | .fault _ _ => True

theorem CopyMove.MemoryWf.ite {c : Prop} [Decidable c] {m m' : CopyMove} (h : m.MemoryWf) (h' : m'.MemoryWf) :
    (if c then m else m').MemoryWf := by
  split
  · exact h
  · exact h'

theorem movePiece_memoryWf {s core ch t} (h : memoryWf s) : (State.movePiece s core ch t).MemoryWf := by
  unfold State.movePiece
  dsimp only
  refine .ite h ?_
  split
  · trivial
  · refine .ite h (.ite trivial (.ite trivial ?_))
    split
    · trivial
    · exact h.jobAwaits
    · split
      · trivial
      · exact h.jobAwaits
      · exact .ite h.writePiece.claimOn h

theorem landPiece_memoryWf {s core ch t} (h : memoryWf s) : (State.landPiece s core ch t).MemoryWf := by
  unfold State.landPiece
  dsimp only
  refine .ite h (.ite trivial ?_)
  split
  · trivial
  · exact h.jobAwaits
  · split
    · trivial
    · split
      · exact memoryWf.wake h
      · trivial
      · trivial

theorem copyMove_memoryWf {s core ch t} (h : memoryWf s) : (State.copyMove s core ch t).MemoryWf :=
  .ite (landPiece_memoryWf h) (movePiece_memoryWf h)

theorem memoryWf.copyTurn {s cl} (h : memoryWf s) : memoryWf (s.copyTurn cl) := by
  unfold State.copyTurn
  split
  · exact h
  · next core ch t _ =>
    have hm := copyMove_memoryWf (core := core) (ch := ch) (t := t)
      (s := s.modCluster cl fun c => { c with copyAt := 4 * (core % 8) + ch }) h
    dsimp only
    split
    · next e => rw [e] at hm; exact hm
    · next e => rw [e] at hm; exact hm
    · exact h

theorem execCopyPageFault_nextWf {core ch s} (h : memoryWf s) :
    NextWf (execCopyPageFault core ch s) := by
  unfold execCopyPageFault
  split
  · exact .next h
  · split
    · exact .next h.stopTransfer
    · exact .next h

theorem execCopyFaultDelivery_nextWf {core s} (h : memoryWf s) :
    NextWf (execCopyFaultDelivery core s) := by
  refine .ite (.next h) ?_
  split
  · exact .next h
  · exact .next h.modCore.notify

theorem execCopyTransferComplete_nextWf {core ch s} (h : memoryWf s) : NextWf (execCopyTransferComplete core ch s) := by
  unfold execCopyTransferComplete
  dsimp only
  split
  · exact .next h
  · refine .ite (.next h) (.ite (.next h) (.next (memoryWf.wake ?_)))
    split
    · exact h.landRecord
    · exact h

theorem execDActivationStart_nextWf {core s} (h : memoryWf s) : NextWf (execDActivationStart core s) := by
  unfold execDActivationStart
  dsimp only
  split
  · exact .ite (.next h) (.next h)
  · exact .next h

/-! ### Streams and list walks -/

theorem stepDone_keeps : Keeps stepDone :=
  .bind .self fun ⟨_, _⟩ => .bind (.update fun _ h => h.modCore) fun _ => .waitKept

theorem distinct_keeps {a b} : Keeps (distinct a b) :=
  .require

theorem mayUse_keeps {ok} : Keeps (mayUse ok) :=
  .bind .self fun ⟨_, _⟩ => .require

theorem noGexp_keeps {q} : Keeps (noGexp q) :=
  .bind .self fun ⟨_, _⟩ => .ite (.bind (external_keeps .ask) fun _ => .require) .pure

theorem execQend_nextWf {q s} (h : memoryWf s) : NextWf (execQend q s) :=
  .runMeaning (after_keeps <| .bind start_keeps fun _ => .bind mayUse_keeps fun _ =>
     .bind noGexp_keeps fun _ => .bind waitRoom_keeps fun _ => pushQueue_keeps) h

theorem peek_keeps {q i g take} : Keeps (peek q i g take) := by
  refine .bind getQueue_keeps fun _ => ?_
  split
  · exact queueStall_keeps
  · exact setG_keeps
  · exact .bind (.ite popQueue_keeps .pure) fun _ => setG_keeps

theorem execQpeek_nextWf {g q i s} (h : memoryWf s) : NextWf (execQpeek g q i s) :=
  .runMeaning (after_keeps <| .bind start_keeps fun _ => .bind mayUse_keeps fun _ => peek_keeps) h

theorem execQpeekD_nextWf {g q i s} (h : memoryWf s) : NextWf (execQpeekD g q i s) :=
  .runMeaning (after_keeps <| .bind start_keeps fun _ => .bind mayUse_keeps fun _ => peek_keeps) h

theorem execQcnt_nextWf {g q s} (h : memoryWf s) : NextWf (execQcnt g q s) :=
  .runMeaning (after_keeps <| .bind start_keeps fun _ =>
     .bind mayUse_keeps fun _ => .bind getQueue_keeps fun _ => setG_keeps) h

theorem nextEntry_keeps {a b va n} : Keeps (nextEntry a b va n) :=
  .bind setG_keeps fun _ => .bind setG_keeps fun _ => .bind getG_keeps fun _ => .ite .ask stepDone_keeps

theorem execLstr_nextWf {q a b s} (h : memoryWf s) : NextWf (execLstr q a b s) :=
  .runMeaning (.bind start_keeps fun _ => .bind distinct_keeps fun _ => .bind mayUse_keeps fun _ =>
     .bind getG_keeps fun _ => .ite .ask <| .bind noGexp_keeps fun _ => .bind waitRoom_keeps fun _ =>
     .bind getG_keeps fun _ => .bind loadEntry_keeps fun _ => .bind pushQueue_keeps fun _ => nextEntry_keeps) h

theorem execSstr_nextWf {q a b s} (h : memoryWf s) : NextWf (execSstr q a b s) := by
  refine .runMeaning (.bind start_keeps fun _ => .bind distinct_keeps fun _ => .bind mayUse_keeps fun _ =>
       .bind getG_keeps fun _ => .ite .ask <| .bind getQueue_keeps fun _ => ?_) h
  split
  · exact queueStall_keeps
  · exact .signal
  · exact .bind getG_keeps fun _ => .bind storeEntry_keeps fun _ => .bind popQueue_keeps fun _ => nextEntry_keeps

theorem loadIndex_keeps {v va} : Keeps (loadIndex v va) :=
  .ite (.bind checkWord_keeps fun _ => windowLoad_keeps) <| .bind memRead_keeps fun _ => .pure

theorem loadIndices_keeps {v base} : ∀ {l}, Keeps (loadIndices v base l)
  | [] => .pure
  | _ :: _ => .bind loadIndex_keeps fun _ => .bind loadIndices_keeps fun _ => .pure

theorem execLidx_nextWf {f q a b c s} (h : memoryWf s) : NextWf (execLidx f q a b c s) :=
  .runMeaning (.bind start_keeps fun _ => .bind distinct_keeps fun _ => .bind mayUse_keeps fun _ =>
     .bind getG_keeps fun _ => .ite .ask <| .bind noGexp_keeps fun _ => .bind waitRoom_keeps fun _ =>
     .bind .self fun ⟨_, _⟩ => .bind .ask fun _ => .bind getG_keeps fun _ => .bind getG_keeps fun _ =>
     .bind loadIndices_keeps fun _ => .bind checkElements_keeps fun _ => .bind loadElements_keeps fun _ =>
     .bind rangeCheck_keeps fun _ => .bind setFlags_keeps fun _ => .bind pushQueue_keeps fun _ =>
     .bind setG_keeps fun _ => .bind setG_keeps fun _ => .bind getG_keeps fun _ => .ite .ask stepDone_keeps) h

theorem execSscat_nextWf {f a qd qi s} (h : memoryWf s) : NextWf (execSscat f a qd qi s) := by
  refine .runMeaning (.bind start_keeps fun _ => .bind .require fun _ => .bind mayUse_keeps fun _ =>
       .bind getQueue_keeps fun _ => .bind getQueue_keeps fun _ => ?_) h
  split
  · exact queueStall_keeps
  · exact .ask
  · exact queueStall_keeps
  · exact .signal
  · exact .bind .self fun ⟨_, _⟩ => .bind .ask fun _ => .bind getG_keeps fun _ => .bind checkElements_keeps fun _ =>
      .bind scatter_keeps fun _ => .bind popQueue_keeps fun _ => .bind popQueue_keeps fun _ => stepDone_keeps

theorem listRead_keeps {va n} : Keeps (listRead va n) :=
  .bind .require fun _ => .bind memRead_keeps fun _ => .pure

theorem readDesc_keeps {va} : Keeps (readDesc va) :=
  .bind listRead_keeps fun _ => .bind .require fun _ => .pure

theorem readKey_keeps {d f i} : Keeps (readKey d f i) :=
  .ite .pure <| .bind listRead_keeps fun _ => .pure

theorem readDescs_keeps {va vb} : Keeps (readDescs va vb) :=
  .ite (.bind readDesc_keeps fun _ => .bind readDesc_keeps fun _ => .pure) <|
  .bind readDesc_keeps fun _ => .bind readDesc_keeps fun _ => .pure

theorem readKeys_keeps {da db f i j} : Keeps (readKeys da db f i j) :=
  .ite (.bind readKey_keeps fun _ => .bind readKey_keeps fun _ => .pure) <|
  .bind readKey_keeps fun _ => .bind readKey_keeps fun _ => .pure

theorem intersect_keeps {f da db} : ∀ {fuel p}, Keeps (intersect f da db fuel p)
  | 0, _ => .pure
  | _ + 1, _ => .ite .pure <| .ite .pure <| .bind readKeys_keeps fun ⟨_, _⟩ => intersect_keeps

theorem mergeLists_keeps {f da db} : ∀ {fuel p}, Keeps (mergeLists f da db fuel p)
  | 0, _ => .pure
  | _ + 1, _ => .ite .pure <| .ite .pure <| .ite mergeLists_keeps <| .ite mergeLists_keeps <|
    .bind readKeys_keeps fun ⟨_, _⟩ => mergeLists_keeps

theorem coordinates_keeps {f offs rows} : ∀ {fuel p}, Keeps (coordinates f offs rows fuel p)
  | 0, _ => .pure
  | _ + 1, _ => .ite .pure <| .ite .pure <| .bind readKey_keeps fun _ => .bind readKey_keeps fun _ => coordinates_keeps

theorem whileFull_keeps {m} (hm : Keeps m) : Keeps (whileFull m) := by
  refine ⟨fun s hs => ?_⟩
  have h := hm.ends s hs
  unfold whileFull
  split
  · next e =>
    rw [e] at h
    split
    · exact h
    · exact fun _ h => h.markStall
  · exact fun _ h => h.markStall

theorem walkStart_keeps {c} : Keeps (walkStart c) :=
  .bind .self fun ⟨_, _⟩ => .bind getG_keeps fun _ => .bind .ask fun _ => .pure

theorem walkStep_keeps {q c run} (hrun : Keeps run) : Keeps (walkStep q c run) :=
  .bind mayUse_keeps fun _ => .bind getQueue_keeps fun _ =>
  .join (fun _ =>
     .bind (.ite .pure <| .bind noGexp_keeps fun _ => pushQueue_keeps) fun _ => .bind setG_keeps fun _ =>
     .bind .self fun ⟨_, _⟩ => .ite (.bind (.update fun _ h => h.modCore) fun _ => .ask) <|
     .bind (.update fun _ h => h.modCore) fun _ => stepDone_keeps) fun _ hk =>
  .ite (.bind hrun hk) <| .bind (whileFull_keeps hrun) hk

theorem execLsisect_nextWf {f q a b c s} (h : memoryWf s) : NextWf (execLsisect f q a b c s) :=
  .runMeaning (.bind start_keeps fun _ => walkStep_keeps <| .bind walkStart_keeps fun _ => .bind getG_keeps fun _ =>
     .bind getG_keeps fun _ => .bind readDescs_keeps fun ⟨_, _⟩ => intersect_keeps) h

theorem execLmerge_nextWf {f q a b c s} (h : memoryWf s) : NextWf (execLmerge f q a b c s) :=
  .runMeaning (.bind start_keeps fun _ => walkStep_keeps <| .bind walkStart_keeps fun _ => .bind getG_keeps fun _ =>
     .bind getG_keeps fun _ => .bind readDescs_keeps fun ⟨_, _⟩ => mergeLists_keeps) h

theorem bisect_keeps {f da db d} : ∀ {fuel lo hi}, Keeps (bisect f da db d fuel lo hi)
  | 0, _, _ => .pure
  | _ + 1, _, _ =>
    .ite .pure <| .bind readKey_keeps fun _ => .bind readKey_keeps fun _ => .ite bisect_keeps bisect_keeps

theorem execLmpart_nextWf {f d a b c s} (h : memoryWf s) : NextWf (execLmpart f d a b c s) :=
  .runMeaning (after_keeps <| .bind start_keeps fun _ => .bind getG_keeps fun _ => .bind getG_keeps fun _ =>
     .bind readDesc_keeps fun _ => .bind readDesc_keeps fun _ =>
     .bind getG_keeps fun _ => .bind bisect_keeps fun _ => setG_keeps) h

theorem execLcoord_nextWf {f q a b c s} (h : memoryWf s) : NextWf (execLcoord f q a b c s) :=
  .runMeaning (.bind start_keeps fun _ => walkStep_keeps <| .bind walkStart_keeps fun _ => .bind getG_keeps fun _ =>
     .bind getG_keeps fun _ => .bind .require fun _ => coordinates_keeps) h

/-! ### Instructions of the GRE -/

theorem checkGre_keeps {cmd op gd block rrt} : Keeps (checkGre cmd op gd block rrt) := by
  refine .bind .require fun _ => .bind engineRead_keeps fun _ => ?_
  extract_lets gr check
  have hk b : Keeps (check b) := by
    unfold check
    extract_lets a finish
    have hk x : Keeps (finish x) :=
      .bind .require fun _ => .bind .require fun _ => .bind .require fun _ => .bind capture_keeps fun _ => .pure
    exact .ite (.bind .require fun _ => .bind engineRead_keeps hk) <| .bind .pure hk
  split
  · exact .bind .pure hk
  · exact .bind .require fun _ => .bind engineRead_keeps hk

theorem submitGre_keeps {j} : Keeps (submitGre j) := by
  refine .bind .self fun ⟨_, _⟩ => .bind release_keeps fun _ => .get_bind fun _ _ => ?_
  extract_lets k cl id submit
  have hk lines : Keeps (submit lines) :=
    .bind (.update fun _ h => h.modCluster.modCore.claimLines) fun _ => .pure
  split
  · exact .bind destLines_keeps hk
  · exact .bind .pure hk

theorem issueGre_keeps {d rs cmd op a rrt block} (hcmd : Keeps cmd) :
    Keeps (issueGre d rs cmd op a rrt block) := by
  refine after_keeps <| .bind start_keeps fun _ => .bind .self fun ⟨_, _⟩ => .bind hcmd fun _ =>
    .bind getG_keeps fun _ => ?_
  extract_lets issue
  have hk base : Keeps (issue base) := by
    refine .bind getG_keeps fun _ => .bind (closing_keeps <| .get_bind fun _ _ => .bind ?_ fun _ =>
      .bind .waitWhile fun _ => .bind awaitIntake_keeps fun _ => .bind checkGre_keeps fun _ =>
      .bind submitGre_keeps fun _ => .pure) fun _ => setG_keeps
    split
    · exact .require
    · exact .pure
  split
  · exact .bind getG_keeps hk
  · exact .bind .pure hk

theorem execGexpMemory_nextWf {d a b c s} (h : memoryWf s) : NextWf (execGexpMemory d a b c s) :=
  .runMeaning (issueGre_keeps <| .bind getG_keeps fun _ => .pure) h

theorem takeGre_keeps {n id} : Keeps (takeGre n id) := by
  refine .bind .ask fun _ => ?_
  split
  · exact .pure
  · exact .bind (.update fun _ h => h.modCore) fun _ => .bind acquire_keeps fun _ => .pure

theorem writeGstat_keeps {stat} : Keeps (writeGstat stat) :=
  .bind .self fun ⟨_, _⟩ => .update fun _ h => h.modCore

theorem execGwait_nextWf {a s} (h : memoryWf s) : NextWf (execGwait a s) :=
  .runMeaning (after_keeps <| .bind start_keeps fun _ => .bind getG_keeps fun _ => .bind .self fun ⟨_, _⟩ =>
     .bind (external_keeps <| .bind .ask fun _ => .bind .waitWhile fun _ => takeGre_keeps) fun _ =>
     .bind writeGstat_keeps fun _ => .bind setFlags_keeps fun _ => .ite .signalKept .pure) h

theorem execGpoll_nextWf {d a s} (h : memoryWf s) : NextWf (execGpoll d a s) :=
  .runMeaning (after_keeps <| .bind start_keeps fun _ => .bind getG_keeps fun _ => .bind .self fun ⟨_, _⟩ =>
     .bind (external_keeps <| .bind .ask fun _ => .ite .pure takeGre_keeps) fun _ =>
     .bind writeGstat_keeps fun _ => .bind setFlags_keeps fun _ => setG_keeps) h

/-! ### Jobs of the GRE -/

theorem memoryWf.fillRrc {s cl lines} (h : memoryWf s) : memoryWf (s.fillRrc cl lines) :=
  h.withFields

theorem memoryWf.greRan {s cl j r run} (h : memoryWf s) : memoryWf (s.greRan cl j r run) :=
  h.modCluster.withFields.fillRrc.claimLines

theorem memoryWf.runGre {s cl j} (h : memoryWf s) : memoryWf (s.runGre cl j) :=
  .afterRun h.modCluster h.modCluster.greRan

theorem execGreJobStart_nextWf {cluster s} (h : memoryWf s) :
    NextWf (execGreJobStart cluster s) := by
  unfold execGreJobStart
  split
  · exact .next h.withFields.runGre
  · exact .next h

theorem memoryWf.finishGre {s cl j e} (h : memoryWf s) : memoryWf (s.finishGre cl j e) :=
  h.modCluster.dropClaims.forgetJob.wake.modCore

theorem memoryWf.endGre {s cl j e} (h : memoryWf s) : memoryWf (s.endGre cl j e) := by
  unfold State.endGre
  dsimp only
  split
  · exact h.modCluster
  · exact h.finishGre

theorem memoryWf.deliverEntries {s cl j q} (h : memoryWf s) : memoryWf (s.deliverEntries cl j q) :=
  .ite h <| .modCluster <| .ite h.modCore.modCore h.modCore

theorem memoryWf.discardGre {s cl p} (h : memoryWf s) : memoryWf (s.discardGre cl p) :=
  .foldl h fun _ _ h => h.finishGre

theorem memoryWf.discardStreams {s cl p} (h : memoryWf s) : memoryWf (s.discardStreams cl p) :=
  .discardGre <| .foldl h fun _ _ h => h.finishBse

theorem execGreJobComplete_nextWf {cluster s} (h : memoryWf s) :
    NextWf (execGreJobComplete cluster s) := by
  unfold execGreJobComplete
  split
  · exact .next h.deliverEntries
  · split
    · exact .next h.endGre
    · exact .next h.discardStreams

/-! ### Claimed lines and completions -/

theorem memoryWf.finishLine {s who core l rest} (h : memoryWf s) : memoryWf (s.finishLine who core l rest) := by
  unfold State.finishLine
  dsimp only
  split
  · exact .claimLine <| .ite h.claimLine.writeLine h.claimLine.writeLine.dropClaim
  · exact .ite h.claimLine.writeLine h.claimLine.writeLine.dropClaim

theorem memoryWf.releaseAnswered {s who line} (h : memoryWf s) : memoryWf (s.releaseAnswered who line) :=
  .ite h h.dropClaim

theorem execClaimedLineFinished_nextWf {cluster s} (h : memoryWf s) :
    NextWf (execClaimedLineFinished cluster s) := by
  unfold execClaimedLineFinished
  split
  · exact .next h.finishLine.modCluster
  · split
    · exact .next h.finishLine.modCluster
    · exact .next h.copyTurn

theorem bseRecord_memoryWf {s cl j e t} (h : memoryWf s) (hr : State.bseRecord s cl = some (j, e, t)) : memoryWf t := by
  obtain ⟨_, _, hj⟩ := List.exists_of_findSome?_eq_some hr
  split at hj
  · dsimp only at hj
    split at hj
    · cases hj; exact h.landRecord
    · cases hj
  · cases hj

theorem greRecord_memoryWf {s cl j e t} (h : memoryWf s) (hr : State.greRecord s cl = some (j, e, t)) : memoryWf t := by
  obtain ⟨_, _, hj⟩ := List.exists_of_findSome?_eq_some hr
  split at hj
  · dsimp only at hj
    split at hj
    · cases hj; exact h.landRecord
    · cases hj
  · cases hj

theorem execCompletionPush_nextWf {cluster s} (h : memoryWf s) : NextWf (execCompletionPush cluster s) := by
  unfold execCompletionPush
  split
  · next e => exact .next (bseRecord_memoryWf h e).finishBse
  · split
    · next e => exact .next (greRecord_memoryWf h e).finishGre
    · exact .next h

/-! ### Tasks -/

theorem designator_keeps {w} : Keeps (designator w) :=
  .bind .self fun ⟨_, _⟩ => .get_bind fun _ _ => .bind .require fun _ =>
  .ite (.bind .require fun _ => .bind .require fun _ => .pure) <| .bind .require fun _ => .pure

theorem myGrid_keeps : Keeps myGrid :=
  .bind .self fun ⟨_, _⟩ => .ask

theorem memoryWf.sendItem {s g gid n i} (h : memoryWf s) : memoryWf (s.sendItem g gid n i) := by
  unfold State.sendItem
  split
  · exact h.modGridCore
  · exact h.withFields

theorem holdItem_keeps {i} : Keeps (holdItem i) := by
  refine .bind .self fun ⟨_, _⟩ => .bind .ask fun _ => ?_
  split
  · exact .pure
  · exact .bind .require fun _ => .update fun _ h => h.modCore

theorem payload_keeps {gs} : Keeps (payload gs) :=
  .bind getG_keeps fun _ => .bind getG_keeps fun _ => .pure

theorem checkPorts_keeps {slot} : Keeps (checkPorts slot) :=
  .bind .self fun ⟨_, _⟩ => .get_bind fun _ _ => .require

theorem countPush_keeps {slot} : Keeps (countPush slot) :=
  .bind .self fun ⟨_, _⟩ => .update fun _ h => h.modCore

theorem pushFromF_keeps {target slot push w0 w1} : Keeps (pushFromF target slot push w0 w1) := by
  refine .bind .self fun ⟨_, _⟩ => .bind myGrid_keeps fun ⟨_, _⟩ => .get_bind fun _ _ => ?_
  split
  · exact .pure
  · exact .ite (.bind .waitWhile fun _ => .bind release_keeps fun _ => .update fun _ h => h.sendItem) <|
      .bind .waitWhile fun _ => .bind release_keeps fun _ => .update fun _ h => h.deliverRecord

theorem pushRecordTo_keeps {target slot push gs} : Keeps (pushRecordTo target slot push gs) := by
  refine .bind .self fun ⟨_, _⟩ => .bind payload_keeps fun ⟨_, _⟩ =>
    .ite (.bind checkPorts_keeps fun _ =>
       .bind (closing_keeps <| .bind pushFromF_keeps fun _ => .pure) fun _ => countPush_keeps) <|
    .bind myGrid_keeps fun ⟨_, _⟩ => .get_bind fun _ _ => ?_
  split
  · exact .pure
  · exact holdItem_keeps

theorem checkSlot_keeps {slot} : Keeps (checkSlot slot) := by
  refine .bind .self fun ⟨_, _⟩ => .get_bind fun _ _ => ?_
  split
  · exact .pure
  · exact .signal

theorem execPush_nextWf {slot gs s} (h : memoryWf s) : NextWf (execPush slot gs s) :=
  .runMeaning (after_keeps <| .bind start_keeps fun _ => .bind .require fun _ => .bind checkSlot_keeps fun _ =>
     .bind .self fun ⟨_, _⟩ => .bind .ask fun _ => pushRecordTo_keeps) h

theorem pushRemote_keeps {endpoint core slot level w gs} :
    Keeps (pushRemote endpoint core slot level w gs) :=
  .bind .self fun ⟨_, _⟩ => .get_bind fun _ _ => .bind .require fun _ => .bind payload_keeps fun ⟨_, _⟩ =>
  .ite (.bind checkPorts_keeps fun _ =>
     .bind (closing_keeps <| .bind release_keeps fun _ => askRemote_keeps) fun _ => countPush_keeps) holdItem_keeps

theorem execPushr_nextWf {gc slot gs s} (h : memoryWf s) : NextWf (execPushr gc slot gs s) := by
  refine .runMeaning (after_keeps <| .bind start_keeps fun _ => .bind .require fun _ => .bind getG_keeps fun _ =>
       .bind designator_keeps fun _ => .bind checkSlot_keeps fun _ => ?_) h
  split
  · exact pushRemote_keeps
  · exact .bind .self fun ⟨_, _⟩ => .get_bind fun _ _ => .bind .require fun _ => pushRecordTo_keeps

theorem sendHere_keeps {target cls high gs} : Keeps (sendHere target cls high gs) := by
  refine .bind .self fun ⟨_, _⟩ => .bind myGrid_keeps fun ⟨_, _⟩ => .get_bind fun _ _ => ?_
  split
  · exact .pure
  · split
    · exact .signal
    · exact .bind payload_keeps fun ⟨_, _⟩ =>
        .ite (.bind (closing_keeps <| .get_bind fun _ _ => .bind .waitWhile fun _ => .bind release_keeps fun _ =>
              .bind (.update fun _ h => h.sendItem) fun _ => .pure) fun _ => .pure) holdItem_keeps

theorem sendMessage_keeps {gc cls gs high} : Keeps (sendMessage gc cls gs high) := by
  refine after_keeps <| .bind start_keeps fun _ => .bind .require fun _ =>
    .bind getG_keeps fun _ => .bind designator_keeps fun _ => ?_
  split
  · exact sendHere_keeps
  · exact .bind .self fun ⟨_, _⟩ => .bind payload_keeps fun ⟨_, _⟩ =>
      .ite (.bind (closing_keeps <| .bind release_keeps fun _ => askRemote_keeps) fun _ => .pure) holdItem_keeps

theorem myBars_keeps : Keeps myBars :=
  .bind .self fun ⟨_, _⟩ => .ask

theorem setBars_keeps {l} : Keeps (setBars l) :=
  .bind .self fun ⟨_, _⟩ => .update fun _ h => h.modCore

theorem changeBarrier_keeps {lvl n f} : Keeps (changeBarrier lvl n f) :=
  .bind .self fun ⟨_, _⟩ => .update fun _ h => .ite h.modBarrier h

theorem startBarrier_keeps {rs lvl} : Keeps (startBarrier rs lvl) :=
  .bind start_keeps fun _ => .bind .self fun ⟨_, _⟩ => .get_bind fun _ _ => .require

theorem registration_keeps {lvl n} : Keeps (registration lvl n) := by
  refine .bind myBars_keeps fun _ => ?_
  split
  · exact .pure
  · exact .signal

theorem execBarj_nextWf {lvl n s} (h : memoryWf s) : NextWf (execBarj lvl n s) :=
  .runMeaning (after_keeps <| .bind startBarrier_keeps fun _ => .bind myBars_keeps fun _ => .bind .require fun _ =>
     .bind changeBarrier_keeps fun _ => setBars_keeps) h

theorem meet_keeps {lvl n} : Keeps (meet lvl n) := by
  refine .bind registration_keeps fun _ => .bind .self fun ⟨_, _⟩ => .bind .ask fun _ => .bind ?_ fun _ =>
    .bind registration_keeps fun _ => .bind .ask fun _ => .ite .waitKept <| .bind myBars_keeps fun _ =>
    .bind setBars_keeps fun _ => .bind acquire_keeps fun _ => .pure
  split
  · exact .pure
  · exact .bind release_keeps fun _ => .bind .ask fun _ => .bind myBars_keeps fun _ =>
      .bind setBars_keeps fun _ => changeBarrier_keeps

theorem execBar_nextWf {d lvl n s} (h : memoryWf s) : NextWf (execBar d lvl n s) :=
  .runMeaning (after_keeps <| .bind startBarrier_keeps fun _ => .bind registration_keeps fun _ =>
     .bind (external_keeps meet_keeps) fun _ => setG_keeps) h

theorem execBarl_nextWf {lvl n s} (h : memoryWf s) : NextWf (execBarl lvl n s) :=
  .runMeaning (after_keeps <| .bind startBarrier_keeps fun _ => .bind registration_keeps fun _ =>
     .bind myBars_keeps fun _ => .bind setBars_keeps fun _ => changeBarrier_keeps) h

theorem execBarst_nextWf {d lvl n s} (h : memoryWf s) : NextWf (execBarst d lvl n s) :=
  .runMeaning (after_keeps <| .bind startBarrier_keeps fun _ => .bind registration_keeps fun _ =>
     .bind .self fun ⟨_, _⟩ => .bind (external_keeps .ask) fun _ => setG_keeps) h

theorem queueLaunch_keeps {record} : Keeps (queueLaunch record) :=
  .bind .self fun ⟨_, _⟩ => .get_bind fun _ _ => .ite .pure <|
  .bind (.update fun _ h => h.modDie.withFields) fun _ => .pure

theorem execLaunch_nextWf {d a s} (h : memoryWf s) : NextWf (execLaunch d a s) :=
  .runMeaning (after_keeps <| .bind start_keeps fun _ => .bind .self fun ⟨_, _⟩ => .get_bind fun _ _ =>
     .bind .require fun _ => .bind getG_keeps fun _ => .bind .require fun _ => .bind memRead_keeps fun _ =>
     .bind (closing_keeps <| .bind release_keeps fun _ => queueLaunch_keeps) fun _ => setG_keeps) h

theorem memoryWf.bumpUsed {s iss pa rc a size} (h : memoryWf s) : memoryWf (s.bumpUsed iss pa rc a size).1 := by
  unfold State.bumpUsed
  extract_lets t old g need
  have ht : memoryWf t := .ite h h.evictRdc
  split
  · exact .ite ht.writeRc ht.writeHome
  · exact ht

theorem allocate_keeps {index size} : Keeps (allocate index size) := by
  refine .bind .self fun ⟨_, _⟩ => .get_bind fun _ h => ?_
  split
  · exact .pure
  · refine .bind locate_keeps fun _ => ?_
    split
    · refine .bind waitClaims_keeps fun _ => .bind ?_ fun _ => .bind (.set h.bumpUsed) fun _ => ?_
      · split
        · exact .signal
        · exact .pure
      · split <;> exact .pure
    · exact .signal

theorem bump_keeps {d a arena trap} : Keeps (bump d a arena trap) := by
  refine after_keeps <| .bind start_keeps fun _ => .bind getG_keeps fun _ =>
    .bind (closing_keeps allocate_keeps) fun _ => ?_
  split
  · exact setG_keeps
  · exact .ite .signal setG_keeps

theorem loadShape_keeps {idx} : Keeps (loadShape idx) := by
  refine .bind .self fun ⟨_, _⟩ => .get_bind fun _ _ => .bind .waitWhile fun _ => ?_
  split
  · exact .signal
  · exact .pure

theorem execMld_nextWf {md idx s} (h : memoryWf s) : NextWf (execMld md idx s) :=
  .runMeaning (after_keeps <| .bind start_keeps fun _ => .bind .self fun ⟨_, _⟩ =>
     .bind loadShape_keeps fun _ => .update fun _ h => h.modCore.noteHere) h

theorem execMslice_nextWf {d ms lvl s} (h : memoryWf s) : NextWf (execMslice d ms lvl s) := by
  refine .runMeaning (after_keeps <| .bind start_keeps fun _ => .bind .self fun ⟨_, _⟩ => .get_bind fun _ _ => ?_) h
  dsimp only
  split
  · exact .signal
  · exact .bind .require fun _ => setG_keeps

theorem awaitPartner_keeps {n joining both} (hboth : KeepsMemory both) :
    Keeps (awaitPartner n joining both) :=
  .bind .ask fun _ => .bind .ask fun _ =>
  .ite (.bind (.update fun _ h => hboth _ h) fun _ => .bind (.update fun _ h => h.modCore.modCore) fun _ =>
     .bind (.update fun _ h => h.modCore.modCore) fun _ => .leave) <|
  .ite .wait <| .waitDo fun _ h => h.modCore

theorem execPair_nextWf {s} (h : memoryWf s) : NextWf (execPair s) :=
  .runMeaning (.bind start_keeps fun _ => .bind privileged_keeps fun _ => .bind .self fun ⟨_, _⟩ =>
     .bind .ask fun _ => .ite .ask <| awaitPartner_keeps fun _ h => h.modCore.modCore) h

theorem execUnpair_nextWf {s} (h : memoryWf s) : NextWf (execUnpair s) :=
  .runMeaning (.bind start_keeps fun _ => .bind privileged_keeps fun _ => .bind .self fun ⟨_, _⟩ =>
     .get_bind fun _ _ => .bind .require fun _ => .ite .pure <| .ite (.waitDo fun _ h => h.modCore) <|
     awaitPartner_keeps fun _ h => h.modCore.modCore) h

/-! ### Links and the fabric -/

theorem memoryWf.dropRequest {s id} (h : memoryWf s) : memoryWf (s.dropRequest id) :=
  h.withFields

theorem memoryWf.answerEngine {s id st data} (h : memoryWf s) : memoryWf (s.answerEngine id st data) := by
  unfold State.answerEngine
  dsimp only
  split
  · split
    · exact h.withFields.releaseAnswered
    · exact h.withFields
  · exact h.withFields

theorem memoryWf.answerRemote {s id st data} (h : memoryWf s) : memoryWf (s.answerRemote id st data) := by
  unfold State.answerRemote
  split
  · exact h
  · refine .ite ?_ h.dropRequest.modCore.answerEngine
    split
    · exact h.dropRequest.notify
    · exact h.dropRequest

theorem execRemoteResponse_nextWf {id status data s} (h : memoryWf s) :
    NextWf (execRemoteResponse id status data s) :=
  .ite (.next h) <| .next h.answerRemote

theorem execRemoteTimeout_nextWf {id s} (h : memoryWf s) : NextWf (execRemoteTimeout id s) :=
  .next h.answerRemote

theorem memoryWf.reroute {s r} (h : memoryWf s) : memoryWf (s.reroute r) := by
  unfold State.reroute
  dsimp only
  split
  · exact h.answerRemote
  · exact h.withFields.modPort

theorem memoryWf.downPort {s port} (h : memoryWf s) : memoryWf (s.downPort port) :=
  .foldl h.modPort fun _ _ h => h.reroute

theorem execPortDown_nextWf {port s} (h : memoryWf s) : NextWf (execPortDown port s) :=
  .ite (.next h.downPort) <| .next h

theorem execLinkTraining_nextWf {port lanes authentic s} (h : memoryWf s) :
    NextWf (execLinkTraining port lanes authentic s) :=
  .ite (.next h) <| .ite (.next h.modPort) <| .next h.downPort

theorem execLinkLevelRetry_nextWf {port s} (h : memoryWf s) : NextWf (execLinkLevelRetry port s) :=
  .ite (.next h.modPort) <| .next h

theorem execEgressArbitration_nextWf {port s} (h : memoryWf s) :
    NextWf (execEgressArbitration port s) :=
  .ite (.next h.modPort) <| .next h

theorem memoryWf.answerInbound {s port st data} (h : memoryWf s) : memoryWf (s.answerInbound port st data) :=
  h.withFields

theorem memoryWf.failKey {s port} (h : memoryWf s) : memoryWf (s.failKey port) :=
  h.modPort.answerInbound

theorem memoryWf.failPerm {s port} (h : memoryWf s) : memoryWf (s.failPerm port) :=
  h.modPort.answerInbound

theorem memoryWf.performInbound {s port pa kind poisoned} (h : memoryWf s) :
    memoryWf (s.performInbound port pa kind poisoned) := by
  unfold State.performInbound
  split
  · exact .ite h.answerInbound h.answerInbound
  · exact .answerInbound <| .ite h.writeRc.withFields h.writeRc
  · refine .ite h.answerInbound <| .answerInbound ?_
    split
    · exact h.writeRc
    · exact h

theorem execInboundRequest_nextWf {port r s} (h : memoryWf s) :
    NextWf (execInboundRequest port r s) := by
  refine .ite (.next h) ?_
  split
  · exact .next h.failKey
  · exact .ite (.next h.failPerm) <| .ite (.next h.failPerm) <| .ite (.next h.answerInbound) <| .ite (.next h) <|
      .next h.performInbound

theorem execInboundMessage_nextWf {port m s} (h : memoryWf s) :
    NextWf (execInboundMessage port m s) := by
  refine .ite (.next h) ?_
  split
  · exact .next h.failKey
  · split
    · exact .next h.answerInbound
    · split
      · exact .next h.answerInbound
      · split
        · exact .next h.answerInbound
        · exact .next <| .ite h.sendItem h.sendItem.answerInbound

theorem execDirectoryRecall_nextWf {endpoint line s} (h : memoryWf s) :
    NextWf (execDirectoryRecall endpoint line s) :=
  .next <| .foldl h fun _ _ h => h.forgetHostLine

theorem memoryWf.setPage {s page m} (h : memoryWf s) : memoryWf (s.setPage page m) :=
  h.withFields

theorem execMigrationRequest_nextWf {page endpoint s} (h : memoryWf s) :
    NextWf (execMigrationRequest page endpoint s) :=
  .ite (.next h) <| .ite (.next h.setPage) <| .next h.setPage

theorem memoryWf.flushPage {s page} (h : memoryWf s) : memoryWf (s.flushPage page) :=
  .foldl h fun _ _ h => .foldl h fun _ _ h => h.evictRdc

theorem execMigrationComplete_nextWf {page data s} (h : memoryWf s) :
    NextWf (execMigrationComplete page data s) := by
  unfold execMigrationComplete
  dsimp only
  split
  · exact .next h
  · exact .next <| .setPage <| .ite h.flushPage.writeHome h.flushPage

theorem execMigrationHoldExpiry_nextWf {page s} (h : memoryWf s) :
    NextWf (execMigrationHoldExpiry page s) :=
  .ite (.next h.setPage) <| .next h

/-! ### Firings, stealing, arrivals and notices -/

theorem memoryWf.startOn {s core st} (h : memoryWf s) : memoryWf (s.startOn core st) :=
  h.modCore.refreshReady.startFiring

theorem execFiringStart_nextWf {core s} (h : memoryWf s) : NextWf (execFiringStart core s) := by
  refine .ite (.next h) ?_
  have ht := h.onPair (core := s.actor core) fun _ k h => h.refreshReady (core := k)
  split
  · exact .next ht
  · split
    · exact .next (ht.onPair fun _ _ h => h.startOn)
    · exact .next ht

theorem memoryWf.trapAtBoundary {s core cause tval} (h : memoryWf s) : memoryWf (s.trapAtBoundary core cause tval) :=
  h.withFields.trapTurn

theorem execFiringRetire_nextWf {core s} (h : memoryWf s) : NextWf (execFiringRetire core s) :=
  .ite (.next h) <| .ite (.next (h.onPair fun _ _ h => h.modCore)) <|
  .ite (.next (h.discardStreams.onPair fun _ _ h => h.trapAtBoundary)) <|
  .ite (.next (h.onPair fun _ _ h => h.trapAtBoundary)) <| .next (h.onPair fun _ _ h => h.endFiring)

theorem execFiringWatchdog_nextWf {core s} (h : memoryWf s) : NextWf (execFiringWatchdog core s) :=
  .ite (.next h.notify) <| .next h

theorem execStealRequest_nextWf {core s} (h : memoryWf s) : NextWf (execStealRequest core s) := by
  refine .ite (.next h.refreshReady) ?_
  split <;> exact .next h.refreshReady.modCore

theorem execStealAnswer_nextWf {core s} (h : memoryWf s) : NextWf (execStealAnswer core s) := by
  unfold execStealAnswer
  dsimp only
  split
  · split
    · split
      · exact .next ((h.onPair fun _ _ h => h.modCore.refreshReady).modCore.onPair fun _ _ h => h.startFiring)
      · exact .next h.modCore
    · exact .next h.modCore
  · exact .next h.modCore
  · exact .next h

theorem execStealRoundTimeout_nextWf {core s} (h : memoryWf s) :
    NextWf (execStealRoundTimeout core s) :=
  .ite (.next h.modCore) <| .next h

theorem memoryWf.enterInbox {s core i} (h : memoryWf s) : memoryWf (s.enterInbox core i) :=
  h.wake.modCore

theorem execMessageArrival_nextWf {core s} (h : memoryWf s) :
    NextWf (execMessageArrival core s) := by
  unfold execMessageArrival
  dsimp only
  split
  · exact .next h
  · exact .ite (.next h) <| .next h.withFields.enterInbox

theorem memoryWf.fibreNotice {s core} (h : memoryWf s) : memoryWf (s.fibreNotice core) := by
  unfold State.fibreNotice
  split
  · exact .ite h <| .pushRecord <| .onPair (.draw h.draw) fun _ _ h => h.modCore
  · exact h

theorem execPinnedRecord_nextWf {core s} (h : memoryWf s) : NextWf (execPinnedRecord core s) := by
  unfold execPinnedRecord
  dsimp only
  split
  · exact .next h.fibreNotice
  · refine .ite (.next h) ?_
    split
    · exact .next h.modCore.pushRecord
    · exact .next h.modCore.pushRecord
    · exact .next h

theorem landHeld_memoryWf {s m t} (h : memoryWf s) (e : State.landHeld s m = some t) : memoryWf t := by
  unfold State.landHeld at e
  split at e
  · cases e; exact h.withFields
  · split at e
    · cases e; exact h.withFields
    · extract_lets s' behind enter at e
      have hs' : memoryWf s' := h.withFields
      have hin (e : enter = some t) : memoryWf t := by
        unfold enter at e
        split at e
        · cases e
        · split at e
          · cases e; exact hs'.enterInbox
          · cases e; exact hs'.modGridCore
      split at e
      · split at e
        · exact hin e
        · split at e
          · cases e
          · cases e; exact hs'.deliverRecord
      · exact hin e

theorem execRecordPushRetry_nextWf {core s} (h : memoryWf s) : NextWf (execRecordPushRetry core s) := by
  unfold execRecordPushRetry
  dsimp only
  split
  · next e =>
    obtain ⟨_, _, hm⟩ := List.exists_of_findSome?_eq_some e
    exact .next (landHeld_memoryWf h hm)
  · exact .next h

theorem execHActivationStart_nextWf {core s} (h : memoryWf s) :
    NextWf (execHActivationStart core s) := by
  unfold execHActivationStart
  dsimp only
  split
  · exact .next h
  · split
    · exact .ite (.next h) <| .next <| .setCore <| .ite h.dropCleanRdc h
    · exact .next h

theorem execActivationLimit_nextWf {core s} (h : memoryWf s) :
    NextWf (execActivationLimit core s) :=
  .ite (.next <| takeTrap_memoryWf h.withFields) <|
  .ite (.next <| takeTrap_memoryWf h.withFields) <| .next h

theorem execPoisonRedelivery_nextWf {core ctx addr s} (h : memoryWf s) :
    NextWf (execPoisonRedelivery core ctx addr s) :=
  .ite (.next h.poisonActivation) <| .next h

theorem execActivationParityError_nextWf {core ctx s} (h : memoryWf s) :
    NextWf (execActivationParityError core ctx s) :=
  .ite (.next h.logError.poisonActivation) <| .next h

theorem memoryWf.copyUpcall {s core tval} (h : memoryWf s) : memoryWf (s.copyUpcall core tval) := by
  refine .ite h.modCore.modCore <| .ite (takeTrap_memoryWf h.withFields) <| .ite ?_ ?_
  · dsimp only
    split
    · exact takeTrap_memoryWf h.withFields
    · exact .ite (takeTrap_memoryWf h.setCore.withFields) h.setCore.fibreUpcall.modCore
  · dsimp only
    split
    · exact .ite h.fibreUpcall.modCore.modCore h.fibreUpcall.modCore
    · exact .ite (takeTrap_memoryWf h.withFields).modCore <| takeTrap_memoryWf h.withFields

theorem memoryWf.deliverNotice {s core nt} (h : memoryWf s) : memoryWf (s.deliverNotice core nt) :=
  .ite h.copyUpcall <| takeTrap_memoryWf h.withFields

theorem noticeAwaits_asks {s core nt f} (e : State.noticeAwaits s core nt = some f) : KeepsMemory f := by
  unfold State.noticeAwaits at e
  dsimp only at e
  split at e
  · split at e
    · cases e; exact freeFibre_asks ‹_›
    · cases e
  · cases e

theorem memoryWf.takeNotice {s core} (h : memoryWf s) : memoryWf (s.takeNotice core) := by
  unfold State.takeNotice
  dsimp only
  split
  · exact h
  · split
    · exact .ite h h
    · split
      · exact noticeAwaits_asks ‹_› _ h
      · exact memoryWf.deliverNotice h

theorem execPoisonSenderNotice_nextWf {core s} (h : memoryWf s) :
    NextWf (execPoisonSenderNotice core s) := by
  unfold execPoisonSenderNotice
  split
  · exact .ite (.next h.takeNotice) <| .next h
  · exact .next h

theorem execWfiTimeout_nextWf {core s} (h : memoryWf s) : NextWf (execWfiTimeout core s) :=
  .next h.wake

/-! ### Pairs -/

theorem memoryWf.releaseInterval {s core} (h : memoryWf s) : memoryWf (s.releaseInterval core) :=
  h.modCore.releaseGate

theorem memoryWf.undoBars {s core before} (h : memoryWf s) : memoryWf (s.undoBars core before) :=
  .ite (.foldl h fun _ _ h => h.modBarrier) h

theorem memoryWf.rollCore {s core} (h : memoryWf s) : memoryWf (s.rollCore core) := by
  unfold State.rollCore
  split
  · exact h
  · exact h.undoBars.modCore

theorem memoryWf.suspect {s core} (h : memoryWf s) : memoryWf (s.suspect core) :=
  (takeTrap_memoryWf h.modCore.withFields).modCore

theorem execFingerprintExchange_nextWf {core s} (h : memoryWf s) :
    NextWf (execFingerprintExchange core s) :=
  .ite (.next h) <|
  .ite (.next h.releaseInterval.releaseInterval.modCore.modCore) <|
  .ite (.next h.rollCore.rollCore.suspect.suspect) <| .next h.rollCore.rollCore.modCore.modCore

theorem execPartnerTimeout_nextWf {core s} (h : memoryWf s) : NextWf (execPartnerTimeout core s) :=
  .ite (.next <| takeTrap_memoryWf <| .withFields <| .ite h.rollCore.modCore.modCore h.rollCore.modCore) <| .next h

theorem execPairTimeout_nextWf {core s} (h : memoryWf s) : NextWf (execPairTimeout core s) :=
  .ite (.next h.modCore.trapAtBoundary) <| .next h

/-! ### Launches -/

theorem memoryWf.forgetLaunch {s die} (h : memoryWf s) : memoryWf (s.forgetLaunch die) :=
  h.modCluster

theorem memoryWf.placeTeam {s gid team phys cores} (h : memoryWf s) : memoryWf (s.placeTeam gid team phys cores) :=
  .modGrid <| .modCluster <| .foldl h fun _ _ h => h.setCore

theorem memoryWf.bindTeam {s gid team phys} (h : memoryWf s) : memoryWf (s.bindTeam gid team phys) := by
  unfold State.bindTeam
  split
  · exact h
  · exact h.placeTeam

theorem memoryWf.dealInitial {s gid records} (h : memoryWf s) : memoryWf (s.dealInitial gid records) := by
  unfold State.dealInitial
  split
  · exact h
  · exact .foldl h fun _ _ h => .foldl h fun _ _ h => h.deliverRecord

theorem memoryWf.report {s to_ asid grid cause} (h : memoryWf s) : memoryWf (s.report to_ asid grid cause) := by
  unfold State.report
  extract_lets t t'
  have ht : memoryWf t := .foldl h fun _ _ h => h.writeBackRdc
  split
  · exact ht.withFields.modIo.withFields
  · exact ht.withFields.withFields

theorem gatherPages_asks {s v store va n} : Awaits AsksSafely (State.gatherPages s v store va n) := by
  unfold State.gatherPages
  refine .ite .ok ?_
  split
  · exact .ok
  · exact .error fun _ e => by cases e; exact reach_asks ‹_›
  · exact .error fun _ e => by cases e

theorem gather_asks {s v va n} : Awaits AsksSafely (State.gather s v va n) :=
  .bind gatherPages_asks fun _ => .ite (.error fun _ e => by cases e) .ok

theorem tablesOf_asks {s v r} : Awaits AsksSafely (State.tablesOf s v r) :=
  .bind gather_asks fun _ => .bind gather_asks fun _ => .bind gather_asks fun _ => .bind gather_asks fun _ =>
  .bind gather_asks fun _ => .ok

theorem recordPages_asks {s v stages} : Awaits AsksSafely (State.recordPages s v stages) :=
  .mapM (fun _ => .ite gatherPages_asks .ok) _

theorem loadOf_asks {s v t arenas} : Awaits AsksSafely (State.loadOf s v t arenas) :=
  .bind gather_asks fun _ => .bind recordPages_asks fun _ => .bind (.mapM (fun _ => gatherPages_asks) _) fun _ => .ok

theorem memoryWf.payOwed {s o} (h : memoryWf s) : memoryWf (s.payOwed o) := by
  unfold State.payOwed
  dsimp only
  split
  · exact h.withFields.writeReached.writeBackRdc.forgetLaunch
  · next e => exact gatherPages_asks _ e _ rfl _ h
  · exact h

theorem memoryWf.clearUsed {s die l} (h : memoryWf s) : memoryWf (s.clearUsed die l) :=
  h.writeReached

theorem memoryWf.startGrid {s die q t l clusters} (h : memoryWf s) : memoryWf (s.startGrid die q t l clusters) :=
  .dealInitial <| .writeBackRdc <| .foldl (.foldl h.setGrid fun _ _ h => h.bindTeam) fun _ _ h => h.clearUsed

theorem execLaunchStart_nextWf {die clusters s} (h : memoryWf s) : NextWf (execLaunchStart die clusters s) := by
  unfold execLaunchStart
  dsimp only
  split
  · exact .next h
  · refine .ite (.next h) ?_
    split
    · next e => exact .next (tablesOf_asks _ e _ rfl _ h)
    · exact .next (memoryWf.report h)
    · refine .ite (.next (memoryWf.report h)) ?_
      split
      · next e => exact .next (loadOf_asks _ e _ rfl _ h)
      · exact .next (memoryWf.report h)
      · exact .ite (.next (memoryWf.startGrid h)) (.next h)

theorem memoryWf.logNotices {s die core l} (h : memoryWf s) : memoryWf (s.logNotices die core l) :=
  .foldl h fun _ _ h => h.logError

theorem memoryWf.endGrid {s gid g cause} (h : memoryWf s) : memoryWf (s.endGrid gid g cause) :=
  .report <| .withFields <|
    .foldl
      (.foldl (.foldl (.foldl h fun _ _ h => h.drainAll) fun _ _ h => h.logNotices) fun _ _ h =>
        .foldl h fun _ _ h => h.logNotices)
      fun _ _ h => h.modCore

theorem execGridCompletion_nextWf {grid s} (h : memoryWf s) :
    NextWf (execGridCompletion grid s) := by
  unfold execGridCompletion
  split
  · exact .ite (.next h.endGrid) <| .next h
  · split
    · exact .ite (.next h) <| .next h.payOwed
    · exact .next h

theorem readEntries_memoryWf {s d io q} (h : memoryWf s) : ∀ {k}, memoryWf (readEntries s d io q k).1
  | 0 => h
  | k + 1 => by
    have hk := readEntries_memoryWf (d := d) (io := io) (q := q) h (k := k)
    unfold readEntries
    dsimp only
    split
    · exact hk
    · exact hk

theorem execHostDoorbell_nextWf {die io qp value s} (h : memoryWf s) :
    NextWf (execHostDoorbell die io qp value s) := by
  unfold execHostDoorbell
  split
  · exact .next h
  · exact .ite (.next h) (.next (readEntries_memoryWf (s := s.dropCleanRdc die) h))

/-! ### Recovery -/

theorem memoryWf.modBlocks {s gid f} (h : memoryWf s) : memoryWf (s.modBlocks gid f) :=
  h.withFields

theorem execKeepWrite_nextWf {ctrl s} (h : memoryWf s) : NextWf (execKeepWrite ctrl s) := by
  unfold execKeepWrite
  split
  · exact .next h.withFields
  · exact .next h

theorem memoryWf.modRecovery {s gid f} (h : memoryWf s) : memoryWf (s.modRecovery gid f) :=
  h.modGrid

theorem execRcReleaseComplete_nextWf {core ctx s} (h : memoryWf s) :
    NextWf (execRcReleaseComplete core ctx s) := by
  refine .ite ?_ <| .next h
  dsimp only
  split
  · exact .next h.modCore.modRecovery
  · exact .next h.modCore

theorem memoryWf.setSealState {s core state} (h : memoryWf s) : memoryWf (s.setSealState core state) :=
  h.onPair fun _ _ h => h.modCore

theorem sealWait_keeps {resume} : Keeps (sealWait resume) := by
  refine .bind .self fun ⟨_, _⟩ => .get_bind fun _ _ => .ite (.waitDo fun _ h => h.drainAll) ?_
  split
  · exact .waitDo fun _ h => h.modCore.setSealState
  · split
    · exact .bind (.update fun _ h => h.modCore) fun _ => .pure
    · exact .wait
    · exact .wait
    · exact .waitDo fun _ h => h.modCore

theorem sealMeaning_keeps {trap d a} : Keeps (sealMeaning trap d a) :=
  after_keeps <| .bind start_keeps fun _ => .bind .self fun ⟨_, _⟩ => .get_bind fun _ _ => .bind .require fun _ =>
  .bind getG_keeps fun _ => .bind .require fun _ => .bind memRead_keeps fun _ =>
  .bind (closing_keeps sealWait_keeps) fun _ => .bind (.update fun _ h => h.modCore) fun _ =>
  .bind setG_keeps fun _ => .ite .signalKept .pure

theorem memoryWf.finishSeal {s gid n state count} (h : memoryWf s) : memoryWf (s.finishSeal gid n state count) :=
  .ite h.modGridCore.modGridCore h.modGridCore

theorem memoryWf.startTeamWaits {s gid} (h : memoryWf s) : memoryWf (s.startTeamWaits gid) := by
  unfold State.startTeamWaits
  split
  · exact h
  · exact .modGrid <| .foldl h fun _ _ h => h.modCore

theorem memoryWf.cutSeal {s gid core w} (h : memoryWf s) : memoryWf (s.cutSeal gid core w) :=
  h.modGrid.modBlocks.modCore.setSealState

theorem execSealDecision_nextWf {grid s} (h : memoryWf s) : NextWf (execSealDecision grid s) := by
  unfold execSealDecision
  split
  · exact .next h
  · refine .ite (.next h) ?_
    dsimp only
    split
    · exact .next h
    · split
      · exact .next h.withFields
      · exact .ite (.next h.withFields.finishSeal) <| .next h.withFields.cutSeal

theorem execSealPrepare_nextWf {grid ctrl s} (h : memoryWf s) :
    NextWf (execSealPrepare grid ctrl s) := by
  unfold execSealPrepare
  split
  · exact .next h
  · exact .ite (.next h) <| .next h.withFields.modRecovery

theorem execSealCommit_nextWf {grid s} (h : memoryWf s) : NextWf (execSealCommit grid s) := by
  unfold execSealCommit
  split
  · exact .next h
  · exact .ite (.next h.withFields.modRecovery) <| .next h

theorem execSealFlip_nextWf {grid s} (h : memoryWf s) : NextWf (execSealFlip grid s) := by
  unfold execSealFlip
  split
  · exact .next h
  · split
    · exact .next h.modBlocks.modRecovery.finishSeal.startTeamWaits
    · exact .next h

theorem execSealAbandon_nextWf {grid s} (h : memoryWf s) : NextWf (execSealAbandon grid s) := by
  unfold execSealAbandon
  split
  · exact .next h
  · split
    · exact .next h.modBlocks.modRecovery.finishSeal.startTeamWaits
    · exact .next h

theorem pagesOrNone_asks {g} (h : Awaits AsksSafely g) : Awaits KeepsMemory (pagesOrNone g) := by
  unfold pagesOrNone
  split
  · exact .ok
  · exact .ok
  · exact .error (h _ rfl _ rfl)

theorem slotHeads_asks {s v i cores} : Awaits KeepsMemory (State.slotHeads s v i cores) :=
  .mapM (fun _ => pagesOrNone_asks gatherPages_asks) _

theorem restorePages_asks {s die g} : Awaits KeepsMemory (State.restorePages s die g) :=
  .bind slotHeads_asks fun _ =>
    .ite (.bind .ok fun _ => .ok)
      (.bind (.mapM (fun _ => .ite (pagesOrNone_asks gatherPages_asks) .ok) _) fun _ => .ok)

theorem memoryWf.clearFibres {s core heads} (h : memoryWf s) : memoryWf (s.clearFibres core heads) :=
  .foldl h fun _ _ h => .ite h.writeReached h

theorem memoryWf.drainGrid {s g} (h : memoryWf s) : memoryWf (s.drainGrid g) :=
  .foldl h fun _ _ h => h.drainAll

theorem memoryWf.killGrid {s gid g} (h : memoryWf s) : memoryWf (s.killGrid gid g) :=
  .modGrid <| .withFields <| .foldl h.drainGrid fun _ _ h => h.modCore

theorem memoryWf.dropCopies {s cl} (h : memoryWf s) : memoryWf (s.dropCopies cl) :=
  h.withFields.modCluster

theorem memoryWf.discardJobs {s g} (h : memoryWf s) : memoryWf (s.discardJobs g) :=
  .foldl h fun _ _ h => .dropCopies <| .discardGre <| .foldl h fun _ _ h => h.finishBse

theorem memoryWf.dropBlock {s pa} (h : memoryWf s) : memoryWf (s.dropBlock pa) :=
  .withFields <| .foldl h fun _ _ h => h.modDie

theorem memoryWf.rollBack {s gid seq} (h : memoryWf s) : memoryWf (s.rollBack gid seq).1 :=
  memoryWf.foldl (s := { s with keep := _, mem := _ })
    (foldl_keeps (fun m => Memory.wf m = true) rollHome (fun _ b w => rollHome_wf b w) _ _ h) fun _ _ h => h.dropBlock

theorem memoryWf.replay {s gid g records} (h : memoryWf s) : memoryWf (s.replay gid g records) :=
  .ite (.dealInitial <| .foldl h fun _ _ h => h.writeBackRdc) <| .deliverRecord <|
  .foldl h fun _ _ h => h.writeBackRdc

theorem memoryWf.restoreGrid {s core gid g p} (h : memoryWf s) : memoryWf (s.restoreGrid core gid g p).1 :=
  h.discardJobs.killGrid.clearFibres.rollBack.modRecovery.replay

theorem restoreWait_keeps {gid} : Keeps (restoreWait gid) :=
  .bind .self fun ⟨_, _⟩ => .get_bind fun _ hs => by
    split
    · exact .pure
    · refine .ite .pure (.ite (.waitDo fun _ h => h.modRecovery) ?_)
      split
      · next e => exact .waitDo fun _ h => restorePages_asks _ e _ h.modRecovery
      · exact .ite (.waitDo fun _ h => h.drainGrid.modRecovery) (.bind (.set hs.restoreGrid) fun _ => .pure)

theorem memoryWf.noteRestore {s n gid r} (h : memoryWf s) : memoryWf (s.noteRestore n gid r) :=
  .ite (h.onPair fun _ _ h => h.modCore) h.modCore

theorem execRprestore_nextWf {d a s} (h : memoryWf s) : NextWf (execRprestore d a s) :=
  .runMeaning (after_keeps <| .bind start_keeps fun _ => .bind privileged_keeps fun _ => .bind getG_keeps fun _ =>
     .bind .self fun ⟨_, _⟩ => .bind (closing_keeps restoreWait_keeps) fun _ =>
     .join (fun _ => setG_keeps) fun _ hk => .ite (hk ()) <| .bind (.update fun _ h => h.noteRestore) hk) h

/-! ### Fibres -/

theorem memoryWf.resumeFibre {s n slot bs shape} (h : memoryWf s) : memoryWf (s.resumeFibre n slot bs shape) :=
  h.endFiring.modCore

theorem readFibre_keeps {va} : Keeps (readFibre va) :=
  .bind .self fun ⟨_, _⟩ => .get_bind fun _ _ => by
    split
    · exact .waitDo (reach_asks ‹_›)
    · exact .signal
    · exact .bind waitClaims_keeps fun _ => .bind checkPoison_keeps fun _ => .bind readPieces_keeps fun _ => .pure

theorem takeFibre_keeps {va} : Keeps (takeFibre va) :=
  .bind .self fun ⟨_, _⟩ => .get_bind fun _ _ => .bind .require fun _ => .bind releaseToStreams_keeps fun _ =>
  .bind readFibre_keeps fun ⟨_, _⟩ => .bind .require fun _ => .bind .require fun _ =>
  .bind (.ite (.signalDo fun _ h => h.discardStreams) .pure) fun _ =>
  .bind (.update fun _ h => h.writeReached) fun _ => .pure

theorem loadShapes_keeps {bs} : Keeps (loadShapes bs) :=
  .mapM (fun _ => .bind loadShape_keeps fun _ => .pure) _

theorem execFresume_nextWf {a s} (h : memoryWf s) : NextWf (execFresume a s) :=
  .runMeaning (.bind start_keeps fun _ => .bind .self fun ⟨_, _⟩ => .bind getG_keeps fun _ =>
     .bind (closing_keeps takeFibre_keeps) fun _ => .bind loadShapes_keeps fun _ =>
     .bind (.update fun _ h => h.resumeFibre.modCore) fun _ => .leave) h

/-! ### The swap area -/

theorem memoryWf.writeImage {s image poison p} (h : memoryWf s) : memoryWf (s.writeImage image poison p) :=
  State.writeImage_wf image poison p h

theorem memoryWf.storeTeam {s l cores} (h : memoryWf s) : memoryWf (s.storeTeam l cores) :=
  .foldl h fun _ _ h => h.writeImage

/-! ### Teams swapped out and in -/

theorem execQuantumBoundary_nextWf {grid s} (h : memoryWf s) :
    NextWf (execQuantumBoundary grid s) := by
  unfold execQuantumBoundary
  split
  · exact .next h
  · exact .ite (.next h) <| .next <| .modGrid <| .foldl h fun _ _ h => h.modCore

theorem memoryWf.markSlot {s k q} (h : memoryWf s) : memoryWf (s.markSlot k q) :=
  .ite h h.writeRc

theorem memoryWf.markQueue {s j} (h : memoryWf s) : memoryWf (s.markQueue j) := by
  unfold State.markQueue
  split
  · refine .ite (h.onPair fun _ _ h => h.modCore) ?_
    split
    · exact h.markSlot
    · exact h
  · exact h

theorem memoryWf.discardAllGre {s cl} (h : memoryWf s) : memoryWf (s.discardAllGre cl) :=
  .discardStreams <| .foldl h fun _ _ h => h.markQueue

theorem execGreDrainExpiry_nextWf {grid team s} (h : memoryWf s) :
    NextWf (execGreDrainExpiry grid team s) := by
  unfold execGreDrainExpiry
  split
  · exact .next h
  · exact .ite (.next h.discardAllGre) <| .next h

theorem memoryWf.performAtomics {s core} (h : memoryWf s) : memoryWf (s.performAtomics core) := by
  refine .foldl h fun _ _ h => ?_
  split
  · dsimp only
    split
    · exact h.modCore.answerAtom
    · exact .answerAtom h.modCore.atomScratch
  · exact h

theorem memoryWf.withdrawAtomics {s core} (h : memoryWf s) : memoryWf (s.withdrawAtomics core) :=
  h.withFields.modCore

theorem memoryWf.forgetRequesters {s cl} (h : memoryWf s) : memoryWf (s.forgetRequesters cl) :=
  h.modCluster.modDie.withFields

theorem memoryWf.returnPackets {s core} (h : memoryWf s) : memoryWf (s.returnPackets core) :=
  .foldl h.withFields fun _ _ h => h.modCore

theorem memoryWf.settleCopies {s core} (h : memoryWf s) : memoryWf (s.settleCopies core) := by
  refine .foldl h fun _ _ h => ?_
  split
  · exact h.stopTransfer
  · exact h

theorem memoryWf.collectNet {s grid team} (h : memoryWf s) : memoryWf (s.collectNet grid team) :=
  .foldl h fun _ _ h => h.withFields.modGridCore

theorem memoryWf.settleTeam {s grid team cl} (h : memoryWf s) : memoryWf (s.settleTeam grid team cl) :=
  .foldl h.discardBse.collectNet fun _ _ h => h.returnPackets.performAtomics.withdrawAtomics.drainAll.flushOutbox

theorem memoryWf.takeTeam {s grid team cl area} (h : memoryWf s) : memoryWf (s.takeTeam grid team cl area) := by
  refine .modGrid ?_
  split
  · exact .storeTeam <|
      .foldl (.forgetRequesters <| .withFields <| .foldl h fun _ _ h => h.settleCopies) fun _ _ h => h.modCore
  · exact .foldl (.forgetRequesters <| .withFields <| .foldl h fun _ _ h => h.settleCopies) fun _ _ h => h.modCore

theorem leavingPages_asks {s i unit} : Awaits KeepsMemory (State.leavingPages s i unit) := by
  refine .mapM (fun _ => ?_) _
  split
  · exact .ok
  · exact .ok
  · next e => exact .error (gatherPages_asks _ e _ rfl)

theorem execTeamSwapOut_nextWf {grid team s} (h : memoryWf s) : NextWf (execTeamSwapOut grid team s) := by
  unfold execTeamSwapOut
  split
  · exact .next h
  · dsimp only
    refine .ite (.next h) ?_
    split
    · next e => exact .next (leavingPages_asks _ e _ h)
    · have ht := h.foldl (l := s.leavingUnit grid team) fun _ u h =>
        h.settleTeam (grid := grid) (team := u.1) (cl := u.2)
      refine .ite (.next ht) (.next (memoryWf.foldl ?_ fun _ _ h => h.forgetLaunch))
      exact (ht.foldl fun _ _ h => h.takeTeam).modGrid

theorem comingCores_asks {s g team cl cs} : Awaits KeepsMemory (State.comingCores s g team cl cs) := by
  unfold State.comingCores
  refine .ite .ok ?_
  split
  · exact .ok
  · exact .ok
  · next e => exact .error (gatherPages_asks _ e _ rfl)

theorem execTeamRestore_nextWf {grid team cluster s} (h : memoryWf s) :
    NextWf (execTeamRestore grid team cluster s) := by
  unfold execTeamRestore
  split
  · exact .next h
  · dsimp only
    refine .ite (.next h) ?_
    split
    · next e => exact .next (Awaits.mapM (fun _ => comingCores_asks.map) _ _ e _ h)
    · exact .next (h.foldl fun _ _ h => h.placeTeam).modGrid

/-! ### Errors and resets -/

theorem memoryWf.logCorrected {s core} (h : memoryWf s) : memoryWf (s.logCorrected core) :=
  h.logError.modCluster

theorem execRecordStoreParityError_nextWf {core slot idx s} (h : memoryWf s) :
    NextWf (execRecordStoreParityError core slot idx s) :=
  .ite (.next (h.logError.onPair fun _ _ h => h.modCore.refreshReady).notify) <| .next h

theorem execContextLost_nextWf {core s} (h : memoryWf s) : NextWf (execContextLost core s) :=
  .ite (.next h) <| .next h.logError.modCore

theorem memoryWf.machineCheck {s die} (h : memoryWf s) : memoryWf (s.machineCheck die) :=
  .foldl h.logError fun _ _ h => h.modCore

theorem execMachineCheck_nextWf {die s} (h : memoryWf s) : NextWf (execMachineCheck die s) :=
  .next h.machineCheck

theorem execGatingBufferParityError_nextWf {core idx s} (h : memoryWf s) :
    NextWf (execGatingBufferParityError core idx s) := by
  unfold execGatingBufferParityError
  split
  · exact .next h
  · exact .ite (.next h.logError.poisonActivation) <| .ite (.next h.logError.rollCore.rollCore.modCore.modCore) <|
      .next h.logError.modCore

theorem memoryWf.logUncorrected {s core} (h : memoryWf s) : memoryWf (s.logUncorrected core) :=
  h.logError

theorem memoryWf.poisonSite {s store k} (h : memoryWf s) : memoryWf (s.poisonSite store k) := by
  unfold State.poisonSite
  split
  · exact h.logUncorrected.modCore
  · exact h.logError.withFields
  · exact h.logError.modRdcPoison
  · exact h.logUncorrected.modCore
  · exact h.machineCheck
  all_goals exact h

theorem memoryWf.refetchSite {s store k} (h : memoryWf s) : memoryWf (s.refetchSite store k) := by
  unfold State.refetchSite
  split
  · exact h.logCorrected.withFields
  · exact h.logCorrected.withFields
  · exact h.logCorrected
  all_goals exact h

theorem memoryWf.correctSite {s store k} (h : memoryWf s) : memoryWf (s.correctSite store k) := by
  unfold State.correctSite
  split
  · exact h.logCorrected
  · exact h.logError
  · exact h.logError
  · exact h.logError
  all_goals exact h

theorem execScrub_nextWf {store at_ found s} (h : memoryWf s) :
    NextWf (execScrub store at_ found s) := by
  refine .ite (.next h) ?_
  split
  · exact .next h
  · exact .next <| .ite h.refetchSite h.correctSite
  · exact .next <| .ite h.refetchSite h.poisonSite

theorem execStoreBufferDrain_nextWf {core s} (h : memoryWf s) :
    NextWf (execStoreBufferDrain core s) :=
  .next h.drainOne.flushOutbox

theorem memoryWf.withdrawFibres {s core} (h : memoryWf s) : memoryWf (s.withdrawFibres core) :=
  .ite (.foldl h.withdrawAll fun _ _ h => .foldl h fun _ _ h => h.modBarrier) h.withdrawAll

theorem memoryWf.returnAtomics {s core} (h : memoryWf s) : memoryWf (s.returnAtomics core) := by
  refine .foldl h fun _ _ h => ?_
  split
  · exact h.modCore
  · exact h

theorem memoryWf.killFibres {s core} (h : memoryWf s) : memoryWf (s.killFibres core) :=
  .foldl h fun _ _ h => .ite h h.writeRc

theorem memoryWf.returnLanding {s core} (h : memoryWf s) : memoryWf (s.returnLanding core) := by
  unfold State.returnLanding
  split
  · exact h.modCore
  · exact h

theorem memoryWf.withdrawCore {s core} (h : memoryWf s) : memoryWf (s.withdrawCore core) :=
  h.withdrawFibres.killFibres.returnLanding.returnPackets.returnAtomics.withdrawAtomics

theorem memoryWf.clearDie {s d} (h : memoryWf s) : memoryWf (s.clearDie d) :=
  .modDie <| .withFields <|
  .foldl (.withFields <| .foldl h fun _ _ h => h.downPort) fun _ _ h => h.dropRequest

theorem memoryWf.killWhole {s gid g} (h : memoryWf s) : memoryWf (s.killWhole gid g) :=
  .endGrid <|
  .foldl (.foldl h.discardJobs.withFields fun _ _ h => h.dropRequest) fun _ _ h => h.forgetRequesters

theorem memoryWf.settleGrid {s d gid} (h : memoryWf s) : memoryWf (s.settleGrid d gid) := by
  unfold State.settleGrid
  split
  · exact h
  · exact .ite h <| .ite h.modGrid h.killWhole

theorem memoryWf.loseLines {s lines} (h : memoryWf s) : memoryWf (s.loseLines lines) :=
  .foldl h fun _ _ h => .ite h.draw <| .withFields h.draw

theorem memoryWf.resetDie {s d} (h : memoryWf s) : memoryWf (s.resetDie d) :=
  .foldl (.clearDie <|
     .foldl h.modDie.writeBackRdc.loseLines.modDie fun _ _ h => h.withdrawCore) fun _ _ h => h.settleGrid

theorem execDieReset_nextWf {die s} (h : memoryWf s) : NextWf (execDieReset die s) :=
  .next h.resetDie

theorem execDieReload_nextWf {die s} (h : memoryWf s) : NextWf (execDieReload die s) := by
  unfold execDieReload
  dsimp only
  split
  · exact .next h
  · exact .ite (.next h) <| .ite (.next h.modDie) <| .next h.modDie

theorem execSelfTestStart_nextWf {die s} (h : memoryWf s) : NextWf (execSelfTestStart die s) :=
  .ite (.next h) <| .ite (.next h.modDie.modCluster) <| .next h.modDie

theorem memoryWf.nextBin {s cl} (h : memoryWf s) : memoryWf (s.nextBin cl) :=
  .ite h.modCluster.withFields h.modCluster

theorem execSelfTestComplete_nextWf {cluster passed s} (h : memoryWf s) :
    NextWf (execSelfTestComplete cluster passed s) :=
  .ite (.next h) <| .ite (.next h.modCluster) <| .next h.nextBin

theorem execCorrectedErrorThreshold_nextWf {cluster s} (h : memoryWf s) :
    NextWf (execCorrectedErrorThreshold cluster s) :=
  .ite (.next h.nextBin) <| .next h

/-! ### Control ports and power -/

theorem execForecastUpdate_nextWf {die due bse gre s} (h : memoryWf s) :
    NextWf (execForecastUpdate die due bse gre s) :=
  .next h.modDie

theorem memoryWf.setClocks {s} (h : memoryWf s) : memoryWf (s.setClocks) :=
  h.withFields

theorem execPowerManagerTick_nextWf {s} (h : memoryWf s) : NextWf (execPowerManagerTick s) :=
  .next h.setClocks

theorem execThermalThrottle_nextWf {die s} (h : memoryWf s) : NextWf (execThermalThrottle die s) :=
  .next h.modDie

theorem execThermalRecover_nextWf {die s} (h : memoryWf s) : NextWf (execThermalRecover die s) :=
  .next h.modDie.setClocks

theorem execThermalReset_nextWf {die s} (h : memoryWf s) : NextWf (execThermalReset die s) :=
  .next h.resetDie

theorem memoryWf.modControl {s f} (h : memoryWf s) : memoryWf (s.modControl f) :=
  h.withFields

theorem execCtlsemWrite_nextWf {port tag s} (h : memoryWf s) :
    NextWf (execCtlsemWrite port tag s) :=
  .ite (.ite (.next h) <| .next h.modControl) <| .ite (.next h) <| .ite (.next h.modControl) <|
  .ite (.next h.modControl) <| .next h

theorem execCtlsemLeaseExpiry_nextWf {s} (h : memoryWf s) : NextWf (execCtlsemLeaseExpiry s) :=
  .next h.modControl

theorem memoryWf.underSem {s port f} (h : memoryWf s) (hf : KeepsMemory f) : memoryWf (s.underSem port f) :=
  .ite (hf _ h) h.modControl

theorem memoryWf.configured {s bs} (h : memoryWf s) : memoryWf (s.configured bs) :=
  h.modControl

theorem memoryWf.powered {s} (_ : memoryWf s) : memoryWf s.powered :=
  State.reset_mem_wf

theorem execPowerOn_nextWf {s} (h : memoryWf s) : NextWf (execPowerOn s) :=
  .next h.powered

theorem execResetRequest_nextWf {port what s} (h : memoryWf s) :
    NextWf (execResetRequest port what s) := by
  refine .next (h.underSem fun _ h => ?_)
  split
  · exact h.resetDie
  · exact h.powered

theorem execFirmwareDownload_nextWf {port image s} (h : memoryWf s) :
    NextWf (execFirmwareDownload port image s) :=
  .next (h.underSem fun _ h => .ite h.withFields.modControl h.withFields)

theorem execVectorPackage_nextWf {port pkg s} (h : memoryWf s) :
    NextWf (execVectorPackage port pkg s) :=
  .next (h.underSem fun _ h => h.withFields)

theorem execAttestationRequest_nextWf {port nonce s} (h : memoryWf s) :
    NextWf (execAttestationRequest port nonce s) := by
  unfold execAttestationRequest
  split
  · exact .next h
  · exact .ite (.next h.modControl) <| .next h

theorem execRouteTableWrite_nextWf {port die endpoint value s} (h : memoryWf s) :
    NextWf (execRouteTableWrite port die endpoint value s) :=
  .next (h.underSem fun _ h => .ite h.modDie.configured h)

theorem execKeyTableWrite_nextWf {port die entry dw0 dw1 s} (h : memoryWf s) :
    NextWf (execKeyTableWrite port die entry dw0 dw1 s) :=
  .next (h.underSem fun _ h => .ite h.modDie.configured h)

theorem execFrameOwnerWrite_nextWf {port die frame value s} (h : memoryWf s) :
    NextWf (execFrameOwnerWrite port die frame value s) :=
  .next (h.underSem fun _ h => .ite h.modDie.configured h)

theorem execShareTableWrite_nextWf {port egress tenant weight s} (h : memoryWf s) :
    NextWf (execShareTableWrite port egress tenant weight s) :=
  .next (h.underSem fun _ h => .ite h.modPort.configured h)

theorem execPowerCapWrite_nextWf {port watts s} (h : memoryWf s) :
    NextWf (execPowerCapWrite port watts s) :=
  .next (h.underSem fun _ h => .ite h.modControl.configured h)

theorem memoryWf.bindQueue {s d io qp base entries} (h : memoryWf s) : memoryWf (s.bindQueue d io qp base entries) :=
  .ite h <| .ite h h.withFields.modIo

theorem memoryWf.writeControl {s reg} (h : memoryWf s) : memoryWf (s.writeControl reg) := by
  unfold State.writeControl
  split
  · exact .ite h.withFields h
  · exact .ite h.withFields h
  · exact h.modDie
  · exact h.modDie
  · exact h.modDie
  · exact .ite h.withFields h
  · exact .ite h.modControl h
  · exact h.modControl
  · exact .ite h.modPort h
  · exact .ite h.modIo h
  · exact h.bindQueue

theorem execControlRegisterWrite_nextWf {port reg s} (h : memoryWf s) :
    NextWf (execControlRegisterWrite port reg s) :=
  .next (h.underSem fun _ h => h.writeControl.configured)

/-! ### Scalar instructions -/

theorem twoRegs_keeps {len d a b f} : Keeps (twoRegs len d a b f) :=
  after_keeps <| .bind start_keeps fun _ => .bind getG_keeps fun _ => .bind getG_keeps fun _ => setG_keeps

theorem oneReg_keeps {len d a f} : Keeps (oneReg len d a f) :=
  after_keeps <| .bind start_keeps fun _ => .bind getG_keeps fun _ => setG_keeps

theorem dividing_keeps {d a b f} : Keeps (dividing d a b f) :=
  after_keeps <| .bind start_keeps fun _ => .bind getG_keeps fun _ => .bind getG_keeps fun _ =>
  .bind .ask fun _ => .bind .require fun _ => setG_keeps

theorem execBfx_nextWf {d a pos lenm1 s} (h : memoryWf s) : NextWf (execBfx d a pos lenm1 s) :=
  .runMeaning (after_keeps <| .bind start_keeps fun _ =>
     .bind .require fun _ => .bind getG_keeps fun _ => setG_keeps) h

theorem execBfi_nextWf {d a pos lenm1 s} (h : memoryWf s) : NextWf (execBfi d a pos lenm1 s) :=
  .runMeaning (after_keeps <| .bind start_keeps fun _ => .bind .require fun _ =>
     .bind getG_keeps fun _ => .bind getG_keeps fun _ => setG_keeps) h

theorem execLui_nextWf {d i s} (h : memoryWf s) : NextWf (execLui d i s) :=
  .runMeaning (after_keeps <| .bind start_keeps fun _ => setG_keeps) h

theorem execAddpc_nextWf {d i s} (h : memoryWf s) : NextWf (execAddpc d i s) :=
  .runMeaning (after_keeps <| .bind start_keeps fun _ => .bind .ask fun _ => setG_keeps) h

/-! ### Vector instructions -/

theorem execVrcp_nextWf {f k q d a s} (h : memoryWf s) : NextWf (execVrcp f k q d a s) :=
  .runMeaning VecForm.function_keeps h

theorem execVrsq_nextWf {f k q d a s} (h : memoryWf s) : NextWf (execVrsq f k q d a s) :=
  .runMeaning VecForm.function_keeps h

theorem execVexp2_nextWf {f k q d a s} (h : memoryWf s) : NextWf (execVexp2 f k q d a s) :=
  .runMeaning VecForm.function_keeps h

theorem execVlog2_nextWf {f k q d a s} (h : memoryWf s) : NextWf (execVlog2 f k q d a s) :=
  .runMeaning VecForm.function_keeps h

/-! ### Mask instructions -/

theorem bitwise_keeps {k q d a b op} : Keeps (bitwise k q d a b op) :=
  after_keeps <| .bind start_keeps fun _ => .bind getMask_keeps fun _ => .bind vectorSources_keeps fun _ =>
  .bind oldValue_keeps fun _ => .bind getSeed_keeps fun _ => putLanes_keeps

theorem residueOp_keeps {k q d srcs op} : Keeps (residueOp k q d srcs op) :=
  after_keeps <| .bind start_keeps fun _ => .bind getMask_keeps fun _ => .bind vectorSources_keeps fun _ =>
  .bind oldValue_keeps fun _ => .bind getSeed_keeps fun _ => putLanes_keeps

theorem maskOp_keeps {d op} : Keeps (maskOp d op) :=
  after_keeps <| .bind start_keeps fun _ => .bind .self fun ⟨_, _⟩ =>
  .bind .require fun _ => .bind .ask fun _ => setMask_keeps

theorem execGmvv_nextWf {q d a s} (h : memoryWf s) : NextWf (execGmvv q d a s) :=
  .runMeaning (after_keeps <| .bind start_keeps fun _ =>
     .bind vectorSources_keeps fun _ => .bind getG_keeps fun _ => putVector_keeps) h

theorem execKpop_nextWf {d a s} (h : memoryWf s) : NextWf (execKpop d a s) :=
  .runMeaning (after_keeps <| .bind start_keeps fun _ => .bind .self fun ⟨_, _⟩ =>
     .bind .require fun _ => .bind .ask fun _ => setG_keeps) h

theorem execRnto_nextWf {k q d a s} (h : memoryWf s) : NextWf (execRnto k q d a s) :=
  .runMeaning (after_keeps <| .bind start_keeps fun _ => .bind getMask_keeps fun _ =>
     .bind vectorSources_keeps fun _ => .bind oldValue_keeps fun _ => .bind getSeed_keeps fun _ =>
     .bind rangeCheck_keeps fun _ => putLanes_keeps) h

/-! ### Long vector instructions -/

theorem execVrcpXv_nextWf {a0 d a s} (h : memoryWf s) : NextWf (execVrcpXv a0 d a s) :=
  .runMeaning VecForm.function_keeps h

theorem execVrsqXv_nextWf {a0 d a s} (h : memoryWf s) : NextWf (execVrsqXv a0 d a s) :=
  .runMeaning VecForm.function_keeps h

theorem execVexp2Xv_nextWf {a0 d a s} (h : memoryWf s) : NextWf (execVexp2Xv a0 d a s) :=
  .runMeaning VecForm.function_keeps h

theorem execVlog2Xv_nextWf {a0 d a s} (h : memoryWf s) : NextWf (execVlog2Xv a0 d a s) :=
  .runMeaning VecForm.function_keeps h

theorem execVcvt_nextWf {a0 sfmt p d a s} (h : memoryWf s) : NextWf (execVcvt a0 sfmt p d a s) :=
  .runMeaning (after_keeps <| .bind VecForm.begin_keeps fun ⟨_, _⟩ => .bind vectorSources_keeps fun _ =>
     .bind oldValue_keeps fun _ => .bind getSeed_keeps fun _ => .bind rangeCheck_keeps fun _ => putLanes_keeps) h

theorem execVmxscale_nextWf {a0 b16 p d a s} (h : memoryWf s) :
    NextWf (execVmxscale a0 b16 p d a s) :=
  .runMeaning (after_keeps <| .bind VecForm.begin_keeps fun ⟨_, _⟩ => .bind vectorSources_keeps fun _ =>
     .bind oldValue_keeps fun _ => .bind setFlags_keeps fun _ => putVector_keeps) h

theorem execVmxq_nextWf {a0 b16 qp p d a b s} (h : memoryWf s) :
    NextWf (execVmxq a0 b16 qp p d a b s) :=
  .runMeaning (after_keeps <| .bind VecForm.begin_keeps fun ⟨_, _⟩ => .bind vectorSources_keeps fun _ =>
     .bind oldValue_keeps fun _ => .bind getSeed_keeps fun _ => putLanes_keeps) h

theorem execVdotMx_nextWf {a0 b16 d a b c s} (h : memoryWf s) :
    NextWf (execVdotMx a0 b16 d a b c s) :=
  .runMeaning (after_keeps <| .bind VecForm.begin_keeps fun ⟨_, _⟩ =>
     .bind vectorSources_keeps fun _ => .bind setFlags_keeps fun _ => putVector_keeps) h

/-! ### Walks -/

theorem execTlbMissWalk_nextWf {die s} (h : memoryWf s) : NextWf (execTlbMissWalk die s) := by
  unfold execTlbMissWalk
  dsimp only
  split
  · exact .next h
  · refine .ite (.next h) ?_
    split
    · exact .next h.modDie.failWalk
    · exact .next h.modDie.modDie

theorem execWalkLimitExceeded_nextWf {die tid s} (h : memoryWf s) :
    NextWf (execWalkLimitExceeded die tid s) := by
  unfold execWalkLimitExceeded
  split
  · exact .ite (.next h.failWalk) <| .next h
  · exact .next h

theorem execWldp_nextWf {d a s} (h : memoryWf s) : NextWf (execWldp d a s) :=
  .runMeaning (after_keeps <| .bind start_keeps fun _ => .bind getG_keeps fun _ => .get_bind fun _ _ =>
     .bind .require fun _ => .bind .waitWhile fun _ => .bind .require fun _ => setG_keeps) h

theorem memoryWf.reserveBlocks {s grid new} (h : memoryWf s) : memoryWf (s.reserveBlocks grid new) :=
  h.withFields

theorem memoryWf.installFor {s w e} (h : memoryWf s) : memoryWf (s.installFor w e) :=
  .foldl h fun _ _ h => h.modCluster

theorem memoryWf.install {s d t leaf comp size} (h : memoryWf s) : memoryWf (s.install d t leaf comp size) := by
  unfold State.install
  dsimp only
  split
  · exact .ite h.modDie.reserveBlocks.installFor h.failWalk
  · exact h.modDie.installFor

theorem execWret_nextWf {a b s} (h : memoryWf s) : NextWf (execWret a b s) := by
  refine .runMeaning (.bind start_keeps fun _ => .bind getG_keeps fun _ =>
       .bind getG_keeps fun _ => .get_bind fun _ h => ?_) h
  split
  · split
    · exact .fault
    · refine .ite (.bind (.set h.failWalk) fun _ => .leave) ?_
      split
      · exact .signal
      · exact .bind .require fun _ => .bind (.set h.install) fun _ => .leave
  · exact .signal

/-! ### Every instruction and event -/

theorem exec_nextWf {s} (h : memoryWf s) (i : Instr) : NextWf (exec i s) := by
  cases i
  case add | sub | and | or | xor | sll | srl | sra | slt | sltu | min | max | minu | maxu | mul | mulh | mulhu |
    c16AddRr | c16Mov | c16Sub | c16And | c16Or | c16Xor =>
    exact .runMeaning twoRegs_keeps h
  case div | divu | rem | remu => exact .runMeaning dividing_keeps h
  case clz | ctz | popc | extB | extH | extW | addImm | andImm | orImm | xorImm | sltImm | sltuImm | sllImm | srlImm
    | sraImm | addXi | andXi | orXi | xorXi | sltXi | sltuXi | c16AddImm | c16Li | c16Sll | c16Srl | c16Sra =>
    exact .runMeaning oneReg_keeps h
  case bfx => exact execBfx_nextWf h
  case bfi => exact execBfi_nextWf h
  case lui => exact execLui_nextWf h
  case addpc => exact execAddpc_nextWf h
  case jal | c16J | c16Jal => exact .runMeaning jumpLink_keeps h
  case jalr | c16Jr | c16Jalr => exact .runMeaning jumpRegister_keeps h
  case beq | bne | blt | bge | bltu | bgeu =>
    exact .runMeaning branchIf_keeps h
  case bqe => exact execBqe_nextWf h
  case ldB | ldH | ldW | ldD | lduB | lduH | lduW | ldBXl | ldHXl | ldWXl | ldDXl | lduBXl | lduHXl | lduWXl |
    c16LdDSp | c16LdW | c16LdD =>
    exact .runMeaning loadTo_keeps h
  case stB | stH | stW | stD | stBXl | stHXl | stWXl | stDXl | c16StDSp | c16StW | c16StD =>
    exact .runMeaning storeFrom_keeps h
  case pref | prefXl => exact .runMeaning prefetchAt_keeps h
  case vld | vldXl => exact .runMeaning vectorLoad_keeps h
  case vst | vstXl => exact .runMeaning vectorStore_keeps h
  case amoAddW | amoAndW | amoOrW | amoXorW | amoMinW | amoMaxW | amoMinuW | amoMaxuW | amoSwapW | amoFaddW |
    amoFminW | amoFmaxW | casW | amoAddD | amoAndD | amoOrD | amoXorD | amoMinD | amoMaxD | amoMinuD | amoMaxuD |
    amoSwapD | casD | amoAddXa | amoAndXa | amoOrXa | amoXorXa | amoMinXa | amoMaxXa | amoMinuXa | amoMaxuXa |
    amoSwapXa | amoFaddXa | amoFminXa | amoFmaxXa | casXa =>
    exact .runMeaning atomic_keeps h
  case atomicActivation => exact execAtomicActivation_nextWf h
  case fence => exact execFence_nextWf h
  case rpseal | rpsealT => exact .runMeaning sealMeaning_keeps h
  case rprestore => exact execRprestore_nextWf h
  case sysc => exact execSysc_nextWf h
  case retk => exact execRetk_nextWf h
  case wfi => exact execWfi_nextWf h
  case fend | c16Fend => exact .runMeaning endWork_keeps h
  case brk | c16Brk => exact .runMeaning breakpoint_keeps h
  case tlbinv => exact execTlbinv_nextWf h
  case l1inv => exact execL1inv_nextWf h
  case srr => exact execSrr_nextWf h
  case srw | srs | src => exact .runMeaning srModify_keeps h
  case hint | hint64 | c16Nop => exact .runMeaning (after_keeps start_keeps) h
  case reservedEncoding => exact .runMeaning .signal h
  case lstr => exact execLstr_nextWf h
  case sstr => exact execSstr_nextWf h
  case qend => exact execQend_nextWf h
  case qpeek => exact execQpeek_nextWf h
  case qpeekD => exact execQpeekD_nextWf h
  case qcnt => exact execQcnt_nextWf h
  case push => exact execPush_nextWf h
  case pushr => exact execPushr_nextWf h
  case send | sendh => exact .runMeaning sendMessage_keeps h
  case barj => exact execBarj_nextWf h
  case bar => exact execBar_nextWf h
  case barl => exact execBarl_nextWf h
  case barst => exact execBarst_nextWf h
  case launch => exact execLaunch_nextWf h
  case abump | abumpT => exact .runMeaning bump_keeps h
  case mld => exact execMld_nextWf h
  case mslice => exact execMslice_nextWf h
  case fresume => exact execFresume_nextWf h
  case pair => exact execPair_nextWf h
  case unpair => exact execUnpair_nextWf h
  case vadd | vsub | vmul | vfma | vfms | vabs | vneg | vaddXv | vsubXv | vmulXv | vfmaXv | vfmsXv | vabsXv | vnegXv
    =>
    exact .runMeaning VecForm.arith_keeps h
  case vmin | vmax | vminXv | vmaxXv => exact .runMeaning VecForm.select_keeps h
  case vrcp => exact execVrcp_nextWf h
  case vrsq => exact execVrsq_nextWf h
  case vexp2 => exact execVexp2_nextWf h
  case vlog2 => exact execVlog2_nextWf h
  case vshl | vshr | vshrA | vshlXv | vshrXv | vshrAXv =>
    exact .runMeaning VecForm.shift_keeps h
  case vcmpEq | vcmpNe | vcmpLt | vcmpLe | vcmpEqXv | vcmpNeXv | vcmpLtXv | vcmpLeXv =>
    exact .runMeaning VecForm.compare_keeps h
  case vsel | vselXv => exact .runMeaning VecForm.choose_keeps h
  case vperm | vpermXv => exact .runMeaning VecForm.permute_keeps h
  case vslideUp | vslideDn | vslideUpXv | vslideDnXv => exact .runMeaning VecForm.slide_keeps h
  case vbcast | vbcastXv => exact .runMeaning VecForm.broadcast_keeps h
  case vredAdd | vredMin | vredMax | vredAddXv | vredMinXv | vredMaxXv =>
    exact .runMeaning VecForm.reduction_keeps h
  case vscanAdd | vscanAddXv => exact .runMeaning VecForm.scan_keeps h
  case vmvg | vmvgXv => exact .runMeaning VecForm.toGeneral_keeps h
  case vand | vor | vxor => exact .runMeaning bitwise_keeps h
  case gmvv => exact execGmvv_nextWf h
  case kand | kor | knot => exact .runMeaning maskOp_keeps h
  case kpop => exact execKpop_nextWf h
  case rnadd | rnmul | rnfrom => exact .runMeaning residueOp_keeps h
  case rnto => exact execRnto_nextWf h
  case vrcpXv => exact execVrcpXv_nextWf h
  case vrsqXv => exact execVrsqXv_nextWf h
  case vexp2Xv => exact execVexp2Xv_nextWf h
  case vlog2Xv => exact execVlog2Xv_nextWf h
  case vcvt => exact execVcvt_nextWf h
  case vmxscale => exact execVmxscale_nextWf h
  case vmxq => exact execVmxq_nextWf h
  case vdotMx => exact execVdotMx_nextWf h
  case vlds | vldx => exact .runMeaning vectorGather_keeps h
  case vsts | vstx => exact .runMeaning vectorScatter_keeps h
  case lidx => exact execLidx_nextWf h
  case lsisect => exact execLsisect_nextWf h
  case lmerge => exact execLmerge_nextWf h
  case lmpart => exact execLmpart_nextWf h
  case lcoord => exact execLcoord_nextWf h
  case sscat => exact execSscat_nextWf h
  case bldw => exact .runMeaning (issueBse_keeps checkLoad_keeps) h
  case bldwGexp => exact .runMeaning (issueBse_keeps checkLoadGexp_keeps) h
  case bset => exact execBset_nextWf h
  case bstg | bchn => exact .runMeaning (issueBse_keeps checkChain_keeps) h
  case bmma | bmmap => exact .runMeaning (issueBse_keeps checkTile_keeps) h
  case baccKeep | baccTake | baccClr | baccRes | baccRestake =>
    exact .runMeaning (issueBse_keeps checkReadout_keeps) h
  case brst => exact execBrst_nextWf h
  case bwait => exact execBwait_nextWf h
  case bpoll => exact execBpoll_nextWf h
  case geval | gred | gseek | gpfx | gexpQueue | gexpWp | gmv =>
    exact .runMeaning (issueGre_keeps .pure) h
  case gexpMemory => exact execGexpMemory_nextWf h
  case gwait => exact execGwait_nextWf h
  case gpoll => exact execGpoll_nextWf h
  case cpyq | cpyqb => exact .runMeaning copyIssue_keeps h
  case copyResume => exact execCopyResume_nextWf h
  case copyAbort => exact execCopyAbort_nextWf h
  case cwait => exact execCwait_nextWf h
  case cpoll => exact execCpoll_nextWf h
  case wldp => exact execWldp_nextWf h
  case wret => exact execWret_nextWf h
  case tlbMissWalk => exact execTlbMissWalk_nextWf h
  case walkLimitExceeded => exact execWalkLimitExceeded_nextWf h
  case hostDoorbell => exact execHostDoorbell_nextWf h
  case launchStart => exact execLaunchStart_nextWf h
  case gridCompletion => exact execGridCompletion_nextWf h
  case firingStart => exact execFiringStart_nextWf h
  case firingRetire => exact execFiringRetire_nextWf h
  case firingWatchdog => exact execFiringWatchdog_nextWf h
  case stealRequest => exact execStealRequest_nextWf h
  case stealAnswer => exact execStealAnswer_nextWf h
  case stealRoundTimeout => exact execStealRoundTimeout_nextWf h
  case messageArrival => exact execMessageArrival_nextWf h
  case hActivationStart => exact execHActivationStart_nextWf h
  case pinnedRecord => exact execPinnedRecord_nextWf h
  case recordPushRetry => exact execRecordPushRetry_nextWf h
  case activationLimit => exact execActivationLimit_nextWf h
  case dActivationStart => exact execDActivationStart_nextWf h
  case poisonRedelivery => exact execPoisonRedelivery_nextWf h
  case poisonSenderNotice => exact execPoisonSenderNotice_nextWf h
  case quantumBoundary => exact execQuantumBoundary_nextWf h
  case teamSwapOut => exact execTeamSwapOut_nextWf h
  case greDrainExpiry => exact execGreDrainExpiry_nextWf h
  case teamRestore => exact execTeamRestore_nextWf h
  case wfiTimeout => exact execWfiTimeout_nextWf h
  case bseJobStart => exact execBseJobStart_nextWf h
  case bseJobComplete => exact execBseJobComplete_nextWf h
  case greJobStart => exact execGreJobStart_nextWf h
  case greJobComplete => exact execGreJobComplete_nextWf h
  case completionPush => exact execCompletionPush_nextWf h
  case copyDispatch => exact execCopyDispatch_nextWf h
  case copyPageFault => exact execCopyPageFault_nextWf h
  case copyFaultDelivery => exact execCopyFaultDelivery_nextWf h
  case copyTransferComplete => exact execCopyTransferComplete_nextWf h
  case keepWrite => exact execKeepWrite_nextWf h
  case rcReleaseComplete => exact execRcReleaseComplete_nextWf h
  case sealDecision => exact execSealDecision_nextWf h
  case sealPrepare => exact execSealPrepare_nextWf h
  case sealCommit => exact execSealCommit_nextWf h
  case sealFlip => exact execSealFlip_nextWf h
  case sealAbandon => exact execSealAbandon_nextWf h
  case fingerprintExchange => exact execFingerprintExchange_nextWf h
  case partnerTimeout => exact execPartnerTimeout_nextWf h
  case pairTimeout => exact execPairTimeout_nextWf h
  case recordStoreParityError => exact execRecordStoreParityError_nextWf h
  case contextLost => exact execContextLost_nextWf h
  case machineCheck => exact execMachineCheck_nextWf h
  case dieReset => exact execDieReset_nextWf h
  case dieReload => exact execDieReload_nextWf h
  case scrub => exact execScrub_nextWf h
  case selfTestStart => exact execSelfTestStart_nextWf h
  case selfTestComplete => exact execSelfTestComplete_nextWf h
  case vectorPackage => exact execVectorPackage_nextWf h
  case forecastUpdate => exact execForecastUpdate_nextWf h
  case powerManagerTick => exact execPowerManagerTick_nextWf h
  case thermalThrottle => exact execThermalThrottle_nextWf h
  case thermalRecover => exact execThermalRecover_nextWf h
  case thermalReset => exact execThermalReset_nextWf h
  case migrationRequest => exact execMigrationRequest_nextWf h
  case migrationComplete => exact execMigrationComplete_nextWf h
  case migrationHoldExpiry => exact execMigrationHoldExpiry_nextWf h
  case linkTraining => exact execLinkTraining_nextWf h
  case portDown => exact execPortDown_nextWf h
  case inboundRequest => exact execInboundRequest_nextWf h
  case inboundMessage => exact execInboundMessage_nextWf h
  case remoteResponse => exact execRemoteResponse_nextWf h
  case remoteTimeout => exact execRemoteTimeout_nextWf h
  case egressArbitration => exact execEgressArbitration_nextWf h
  case directoryRecall => exact execDirectoryRecall_nextWf h
  case ctlsemWrite => exact execCtlsemWrite_nextWf h
  case ctlsemLeaseExpiry => exact execCtlsemLeaseExpiry_nextWf h
  case powerOn => exact execPowerOn_nextWf h
  case firmwareDownload => exact execFirmwareDownload_nextWf h
  case attestationRequest => exact execAttestationRequest_nextWf h
  case routeTableWrite => exact execRouteTableWrite_nextWf h
  case keyTableWrite => exact execKeyTableWrite_nextWf h
  case frameOwnerWrite => exact execFrameOwnerWrite_nextWf h
  case shareTableWrite => exact execShareTableWrite_nextWf h
  case powerCapWrite => exact execPowerCapWrite_nextWf h
  case resetRequest => exact execResetRequest_nextWf h
  case controlRegisterWrite => exact execControlRegisterWrite_nextWf h
  case storeBufferDrain => exact execStoreBufferDrain_nextWf h
  case claimedLineFinished => exact execClaimedLineFinished_nextWf h
  case gatingBufferParityError => exact execGatingBufferParityError_nextWf h
  case activationParityError => exact execActivationParityError_nextWf h
  case correctedErrorThreshold => exact execCorrectedErrorThreshold_nextWf h
  case linkLevelRetry => exact execLinkLevelRetry_nextWf h

/-! ### Choices and steps -/

/-- The state in which a choice runs an instruction, or which it reaches, is in canonical form. -/
def Choice.MemoryWf : Choice → Prop
  | .run s _ | .reach s => memoryWf s
  | .idle => True

theorem Choice.MemoryWf.ite {p : Prop} [Decidable p] {c c' : Choice} (h : c.MemoryWf) (h' : c'.MemoryWf) :
    (if p then c else c').MemoryWf := by
  split
  · exact h
  · exact h'

theorem due_memoryWf {s is} (h : memoryWf s) : (due s is).MemoryWf := by
  unfold due
  split
  · exact h.withFields
  · trivial

theorem issue_memoryWf {s t} (h : memoryWf s) : (issue s t).MemoryWf := by
  unfold issue
  dsimp only
  split
  · exact h.withFields
  · exact h.withFields.trapTurn

theorem chooseF_memoryWf {s n} (h : memoryWf s) : (chooseF s n).MemoryWf :=
  .ite (.ite (issue_memoryWf h) trivial) <| .ite h.takeNotice <| .ite (due_memoryWf h) <| .ite trivial <|
  .ite (due_memoryWf h) <| .ite trivial <| issue_memoryWf h

theorem chooseC_memoryWf {s n} (h : memoryWf s) : (chooseC s n).MemoryWf := by
  refine .ite trivial ?_
  split
  · next e => exact e ▸ due_memoryWf h
  · split
    · exact h.modCore
    · refine .ite (issue_memoryWf h.modCore) (.ite (issue_memoryWf h.modCore) ?_)
      split
      · exact .ite (issue_memoryWf h.modCore) trivial
      · exact chooseF_memoryWf h.modCore

theorem chooseStream_memoryWf {s n x ended} (h : memoryWf s) : (chooseStream s n x ended).MemoryWf :=
  .ite trivial (issue_memoryWf h)

theorem chooseWalk_memoryWf {s d} (h : memoryWf s) : (chooseWalk s d).MemoryWf := by
  refine .ite trivial ?_
  split
  · next e => exact e ▸ due_memoryWf h
  · split
    · trivial
    · exact .ite (due_memoryWf h) (issue_memoryWf h)

theorem chooseIo_memoryWf {s d k} (h : memoryWf s) : (chooseIo s d k).MemoryWf :=
  .ite trivial (issue_memoryWf h)

theorem choose_memoryWf {s} (h : memoryWf s) (a : Agent) : (choose s a).MemoryWf := by
  cases a with
  | cStream => exact chooseC_memoryWf h
  | lStream | sStream => exact chooseStream_memoryWf h
  | walker => exact chooseWalk_memoryWf h
  | ioCore => exact chooseIo_memoryWf h
  | _ => exact due_memoryWf h

theorem carryOut_nextWf {s c} (h : memoryWf s) (hc : c.MemoryWf) : NextWf (carryOut s c) := by
  cases c with
  | run t i => exact exec_nextWf hc i
  | reach t => exact .next hc
  | idle => exact .next h

theorem step_nextWf {s} (h : memoryWf s) : NextWf (step s) := by
  unfold step
  split
  · exact exec_nextWf h.withFields _
  · exact carryOut_nextWf h.withFields (choose_memoryWf h.withFields _)
  · split
    · exact .next h
    · exact carryOut_nextWf h.withFields (choose_memoryWf h.withFields _)

/-- Settles O59: the agenda's event and the agent's choice start from a state in canonical form, and whatever any
instruction or event leaves of it is in canonical form again. -/
theorem memory_stays_canonical : Obligations.Memory_stays_canonical := by
  unfold Obligations.Memory_stays_canonical
  exact fun _ _ h => step_nextWf h _

end Sys2Proof.Machine

end

section

namespace Sys2Proof.Machine

/-! ## Whoever executes an instruction, the machine goes on

`exec` gives a next state for every event by its own text, and for an instruction unless its meaning raises the model's
machine fault. For each meaning, in the model's order: `f_safe` says that it raises none and what becomes of the turn,
`f_goesOn` that the outcome of the instruction or event `f` is a next state. -/

/-! ### Changes of the state that leave the turn alone -/

@[simp] theorem State.ite_turn {c : Prop} [Decidable c] {s t : State} :
    (if c then s else t).turn = if c then s.turn else t.turn :=
  apply_ite State.turn c s t

@[simp] theorem State.foldl_turn {α : Type} {f : State → α → State} {l : List α} {s : State}
    (hf : ∀ t a, (f t a).turn = t.turn) : (l.foldl f s).turn = s.turn :=
  foldl_keeps (fun t => t.turn = s.turn) f (fun t a h => (hf t a).trans h) l s rfl

@[simp] theorem State.draw_turn {s : State} : s.draw.2.turn = s.turn := rfl

@[simp] theorem State.snoop_turn {s : State} {line} : (s.snoop line).turn = s.turn := rfl

@[simp] theorem State.writeHome_turn {s : State} {pa bs} : (s.writeHome pa bs).turn = s.turn := by
  simp [State.writeHome]

@[simp] theorem State.flush_turn {s : State} {line l} : (s.flush line l).turn = s.turn := by
  simp [State.flush]

@[simp] theorem State.writeBackRdc_turn {s : State} {d} : (s.writeBackRdc d).turn = s.turn := by
  simp [State.writeBackRdc]

@[simp] theorem State.evictRdc_turn {s : State} {d line} : (s.evictRdc d line).turn = s.turn := by
  unfold State.evictRdc
  split <;> simp

@[simp] theorem State.roomRdc_turn {s : State} {d line} : (s.roomRdc d line).turn = s.turn := by
  unfold State.roomRdc
  dsimp only
  split
  · rfl
  · split <;> simp

@[simp] theorem State.putRdc_turn {s : State} {d line l} : (s.putRdc d line l).turn = s.turn := by
  simp [State.putRdc]

@[simp] theorem State.writePaByte_turn {s : State} {d iss pa b} : (s.writePaByte d iss pa b).turn = s.turn := by
  simp [State.writePaByte]

@[simp] theorem State.modRdcPoison_turn {s : State} {d line f} : (s.modRdcPoison d line f).turn = s.turn := by
  unfold State.modRdcPoison
  split <;> simp

@[simp] theorem State.clearPaPoison_turn {s : State} {d pa n} : (s.clearPaPoison d pa n).turn = s.turn := by
  simp [State.clearPaPoison]

@[simp] theorem State.writePa_turn {s : State} {d iss pa bs} : (s.writePa d iss pa bs).turn = s.turn := by
  simp [State.writePa]

@[simp] theorem State.markPa_turn {s : State} {d pa n} : (s.markPa d pa n).turn = s.turn := by
  simp [State.markPa]

@[simp] theorem State.touchRdc_turn {s : State} {d pa} : (s.touchRdc d pa).turn = s.turn := by
  simp [State.touchRdc]

@[simp] theorem State.modGridCore_turn {s : State} {gid n f} : (s.modGridCore gid n f).turn = s.turn := by
  unfold State.modGridCore
  split
  · rfl
  · split
    · rfl
    · split
      · split <;> rfl
      · rfl

@[simp] theorem State.writeScratch_turn {s : State} {owner iss off bs} :
    (s.writeScratch owner iss off bs).turn = s.turn := by
  simp [State.writeScratch]

@[simp] theorem State.sendKeep_turn {s : State} {src job pa bs} : (s.sendKeep src job pa bs).turn = s.turn := by
  unfold State.sendKeep
  split <;> simp

@[simp] theorem State.writeRc_turn {s : State} {src job pa bs} : (s.writeRc src job pa bs).turn = s.turn := by
  simp [State.writeRc]

@[simp] theorem State.modPort_turn {s : State} {p f} : (s.modPort p f).turn = s.turn := by
  simp [State.modPort]

@[simp] theorem State.sendRemote_turn {s : State} {src endpoint line kind late} :
    (s.sendRemote src endpoint line kind late).turn = s.turn := by
  simp [State.sendRemote]

@[simp] theorem State.notify_turn {s : State} {core cause tval} : (s.notify core cause tval).turn = s.turn := by
  simp [State.notify]

@[simp] theorem State.forgetHostLine_turn {s : State} {d line} : (s.forgetHostLine d line).turn = s.turn := by
  simp [State.forgetHostLine]

@[simp] theorem State.dropHostLine_turn {s : State} {d pa n} : (s.dropHostLine d pa n).turn = s.turn := by
  simp [State.dropHostLine]

@[simp] theorem State.lateStore_turn {s : State} {iss pa bs poisoned} :
    (s.lateStore iss pa bs poisoned).turn = s.turn := by
  unfold State.lateStore
  split
  split <;> simp

@[simp] theorem State.mergeScratch_turn {s : State} {owner iss off b mask} :
    (s.mergeScratch owner iss off b mask).turn = s.turn := by
  simp [State.mergeScratch]

@[simp] theorem State.perform_turn {s : State} {iss p poisoned} : (s.perform iss p poisoned).turn = s.turn := by
  unfold State.perform
  split <;> simp

@[simp] theorem State.performAll_turn {s : State} {iss parts wide poisoned} :
    (s.performAll iss parts wide poisoned).turn = s.turn := by
  simp [State.performAll]

@[simp] theorem State.drainOne_turn {s : State} {core} : (s.drainOne core).turn = s.turn := by
  unfold State.drainOne
  split <;> simp

@[simp] theorem State.drainAll_turn {s : State} {core} : (s.drainAll core).turn = s.turn := by
  simp [State.drainAll]

@[simp] theorem State.writeReached_turn {s : State} {iss l bs} : (s.writeReached iss l bs).turn = s.turn := by
  simp [State.writeReached]

@[simp] theorem State.note_turn {s : State} {core a2 bs} : (s.note core a2 bs).turn = s.turn := by
  simp [State.note]

@[simp] theorem State.noteHere_turn {s : State} {bs} : (s.noteHere bs).turn = s.turn := by
  unfold State.noteHere
  split <;> simp

@[simp] theorem State.modContext_turn {s : State} {f} : (s.modContext f).turn = s.turn := by
  unfold State.modContext
  split <;> simp

@[simp] theorem State.keepHostLine_turn {s : State} {d line bs} : (s.keepHostLine d line bs).turn = s.turn := by
  simp [State.keepHostLine]

@[simp] theorem State.fillL2_turn {s : State} {pa} : (s.fillL2 pa).turn = s.turn := by
  simp [State.fillL2]

@[simp] theorem State.fillCluster_turn {s : State} {n pa} : (s.fillCluster n pa).turn = s.turn := by
  simp [State.fillCluster]

@[simp] theorem State.fillL1_turn {s : State} {n va asid pa} : (s.fillL1 n va asid pa).turn = s.turn := by
  simp [State.fillL1]

@[simp] theorem State.predictor_turn {s : State} {pa} : (s.predictor pa).2.turn = s.turn := by
  unfold State.predictor
  split <;> rfl

@[simp] theorem State.setPredict_turn {s : State} {pa p} : (s.setPredict pa p).turn = s.turn := by
  simp [State.setPredict]

@[simp] theorem State.predictLine_turn {s : State} {n pa owns} : (s.predictLine n pa owns).turn = s.turn := by
  simp [State.predictLine]

@[simp] theorem State.leaveTraces_turn {s : State} {v va p} : (s.leaveTraces v va p).turn = s.turn := by
  unfold State.leaveTraces
  split <;> simp

@[simp] theorem State.makeRoom_turn {s : State} {n} : (s.makeRoom n).turn = s.turn := by
  simp [State.makeRoom]

@[simp] theorem State.evictRange_turn {s : State} {d pa n} : (s.evictRange d pa n).turn = s.turn := by
  simp [State.evictRange]

@[simp] theorem State.refreshReady_turn {s : State} {core} : (s.refreshReady core).turn = s.turn := by
  unfold State.refreshReady
  split <;> simp

@[simp] theorem State.pushRecord_turn {s : State} {core slot r} : (s.pushRecord core slot r).turn = s.turn := by
  simp [State.pushRecord]

@[simp] theorem State.deliverRecord_turn {s : State} {gid n slot r} : (s.deliverRecord gid n slot r).turn = s.turn := by
  unfold State.deliverRecord
  split
  · rfl
  · split <;> simp

@[simp] theorem State.modBarrier_turn {s : State} {core lvl n f} : (s.modBarrier core lvl n f).turn = s.turn := by
  unfold State.modBarrier
  split <;> simp

@[simp] theorem State.predictAfter_turn {s : State} {n pa ql pl rc uncached} :
    (s.predictAfter n pa ql pl rc uncached).turn = s.turn := by
  simp [State.predictAfter]

@[simp] theorem State.atomMemory_turn {s : State} {iss pa rc op n b cmp} :
    (s.atomMemory iss pa rc op n b cmp).1.turn = s.turn := by
  unfold State.atomMemory
  dsimp only
  split <;> simp

@[simp] theorem State.atomScratch_turn {s : State} {owner off op n b cmp} :
    (s.atomScratch owner off op n b cmp).1.turn = s.turn := by
  unfold State.atomScratch
  dsimp only
  split <;> simp

@[simp] theorem State.recallLine_turn {s : State} {p} : (s.recallLine p).turn = s.turn := by
  unfold State.recallLine
  split <;> simp

@[simp] theorem State.claimLine_turn {s : State} {who p} : (s.claimLine who p).turn = s.turn := by
  simp [State.claimLine]

@[simp] theorem State.claimLines_turn {s : State} {who ps} : (s.claimLines who ps).turn = s.turn := by
  simp [State.claimLines]

@[simp] theorem State.prefetch_turn {s : State} {v target write va pa rc} :
    (s.prefetch v target write va pa rc).turn = s.turn := by
  unfold State.prefetch
  dsimp only
  split <;> simp

@[simp] theorem State.sendItem_turn {s : State} {g gid n i} : (s.sendItem g gid n i).turn = s.turn := by
  unfold State.sendItem
  split <;> simp

/-! ### Turns

The model's machine fault (`Fault.noContext`) is raised where a meaning asks for the core that executes and no core's
turn it is. An instruction that asks is placed on a core (R64), and no meaning passes the turn on. -/

/-- A stream or context of a core has its turn. -/
def IsCore (t : Turn) : Prop := ∃ n x, t = .core n x

/-- Somebody has their turn. -/
def Acts (t : Turn) : Prop := t ≠ .env

theorem IsCore.acts {t : Turn} (h : IsCore t) : Acts t := by
  obtain ⟨_, _, rfl⟩ := h
  exact Turn.noConfusion

/-- Whoever has their turn. -/
abbrev Anyone (_ : Turn) : Prop := True

/-- The groups that R64 places on the cores alone. -/
def Group.ofCores : Group → Bool
  | .scalar | .fend | .fence | .walk => false
  | _ => true

/-- A place that does not refuse such a group is a core's (R64). -/
theorem Group.isCore_of_refused_none {g : Group} {t : Turn} (hg : g.ofCores = true) (ht : Acts t)
    (h : g.refused t = none) : IsCore t := by
  cases t with
  | env => exact absurd rfl ht
  | core n x => exact ⟨n, x, rfl⟩
  | walker d tid => cases g <;> simp_all [Group.ofCores, Group.refused]
  | io d k => cases g <;> simp_all [Group.ofCores, Group.refused]

/-! ### Meanings that raise no machine fault -/

/-- A stop is no machine fault. -/
def Stop.NoFault : Stop → Prop
  | .fault _ => False
  | _ => True

/-- What a meaning comes to is no machine fault, and leaves a turn of a kind where the instruction ran. -/
def EndsSafe {α : Type} (Q : Turn → Prop) : Except Stop (α × State) → Prop
  | .ok (_, t) => Q t.turn
  | .error e => e.NoFault

theorem EndsSafe.mono {α : Type} {Q R : Turn → Prop} {e : Except Stop (α × State)} (h : EndsSafe Q e)
    (hr : ∀ t, Q t → R t) : EndsSafe R e :=
  match e, h with
  | .ok _, h => hr _ h
  | .error _, h => h

/-- From a turn of the kind `P`, a meaning raises no machine fault, and one that runs leaves a turn of the kind `Q`. -/
structure Safe {α : Type} (P Q : Turn → Prop) (m : M α) : Prop where
  ends : ∀ s, P s.turn → EndsSafe Q (m s)

/-- A meaning of the cores. -/
abbrev OnCore {α : Type} (m : M α) : Prop := Safe IsCore IsCore m

section
variable {α β : Type} {P Q R : Turn → Prop}

theorem Safe.bind {m : M α} {f : α → M β} (hm : Safe P Q m) (hf : ∀ a, Safe Q R (f a)) : Safe P R (m >>= f) := by
  refine ⟨fun s hs => ?_⟩
  have h := hm.ends s hs
  rw [M.bind_run]
  match m s, h with
  | .ok (a, t), h => exact (hf a).ends t h
  | .error e', h => exact h

/-- A meaning that reads the state. -/
theorem Safe.get_bind {f : State → M α} (h : ∀ s, P s.turn → Safe P Q (f s)) : Safe P Q (get >>= f) :=
  ⟨fun s hs => (h s hs).ends s hs⟩

/-- A meaning that goes one way on a core, another in a walk, and another on an I/O core. -/
theorem Safe.turn_cases {f : Turn → M α} (hcore : ∀ n x, OnCore (f (.core n x)))
    (hwalk : ∀ d t, Safe Acts Acts (f (.walker d t))) (hio : ∀ d k, Safe Acts Acts (f (.io d k))) :
    Safe Acts Acts (ask State.turn >>= f) := by
  refine ⟨fun s hs => ?_⟩
  change EndsSafe Acts (f s.turn s)
  cases h : s.turn with
  | env => exact absurd h hs
  | core n x => exact ((hcore n x).ends s ⟨n, x, h⟩).mono fun _ hc => hc.acts
  | walker d t => exact (hwalk d t).ends s hs
  | io d k => exact (hio d k).ends s hs

theorem Safe.ite {c : Prop} [Decidable c] {m m' : M α} (h : Safe P Q m) (h' : Safe P Q m') :
    Safe P Q (if c then m else m') := by
  split
  · exact h
  · exact h'

/-- A meaning that several branches end in is looked at once. -/
theorem Safe.join {γ : Type} {f : α → M β} {g : (α → M β) → M γ} (hf : ∀ a, Safe P Q (f a))
    (hg : ∀ k : α → M β, (∀ a, Safe P Q (k a)) → Safe P R (g k)) : Safe P R (let k := f; g k) :=
  hg f hf

theorem Safe.pure {a : α} : Safe P P (pure a) := ⟨fun _ h => h⟩
/-- A meaning after which the turn no longer matters. -/
theorem Safe.done {a : α} : Safe P Anyone (Pure.pure a : M α) := ⟨fun _ _ => trivial⟩
theorem Safe.set {s : State} (h : Q s.turn) : Safe P Q (set s : M Unit) := ⟨fun _ _ => h⟩
theorem Safe.update {f : State → State} (h : ∀ s, (f s).turn = s.turn) : Safe P P (update f) :=
  ⟨fun s hs => show P (f s).turn from (h s).symm ▸ hs⟩
/-- A change after which the turn no longer matters. -/
theorem Safe.change {f : State → State} : Safe P Anyone (Machine.update f) := ⟨fun _ _ => trivial⟩
theorem Safe.replace {s : State} : Safe P Anyone (MonadStateOf.set s : M Unit) := ⟨fun _ _ => trivial⟩
theorem Safe.ask {f : State → α} : Safe P P (ask f) := ⟨fun _ h => h⟩
theorem Safe.signal {c : Nat} {v : Word} : Safe P Q (signal c v : M α) := ⟨fun _ _ => trivial⟩
theorem Safe.signalKept {c : Nat} {v : Word} : Safe P Q (signalKept c v : M α) := ⟨fun _ _ => trivial⟩
theorem Safe.signalDo {f : State → State} {c : Nat} {v : Word} : Safe P Q (signalDo f c v : M α) :=
  ⟨fun _ _ => trivial⟩
theorem Safe.wait : Safe P Q (wait : M α) := ⟨fun _ _ => trivial⟩
theorem Safe.waitKept : Safe P Q (waitKept : M α) := ⟨fun _ _ => trivial⟩
theorem Safe.waitDo {f : State → State} : Safe P Q (waitDo f : M α) := ⟨fun _ _ => trivial⟩
theorem Safe.leave : Safe P Q (leave : M α) := ⟨fun _ _ => trivial⟩
theorem Safe.require {b : Bool} {c : Nat} {v : Word} : Safe P P (require b c v) := .ite .pure .signal
theorem Safe.waitWhile {b : Bool} : Safe P P (waitWhile b) := .ite .wait .pure

theorem Safe.self : OnCore self := by
  refine ⟨fun s ⟨n, x, h⟩ => ?_⟩
  rw [self_run h]
  exact ⟨n, x, h⟩

theorem Safe.mapM {f : α → M β} (h : ∀ a, Safe P P (f a)) (l : List α) : Safe P P (l.mapM f) := by
  induction l with
  | nil => exact .pure
  | cons a l ih =>
    rw [List.mapM_cons]
    exact .bind (h a) fun _ => .bind ih fun _ => .pure

theorem Safe.forM {f : α → M PUnit} (h : ∀ a, Safe P P (f a)) (l : List α) : Safe P P (l.forM f) := by
  induction l with
  | nil => exact .pure
  | cons a l ih => exact .bind (h a) fun _ => ih

end

/-! ### Outcomes -/

/-- The machine goes on: an outcome is a next state. -/
def GoesOn (o : Host.Outcome State Fault Refusal) : Prop := ∃ t, o = .next t

theorem GoesOn.next {s : State} : GoesOn (.next s) := ⟨s, rfl⟩

theorem GoesOn.ite {c : Prop} [Decidable c] {o o' : Host.Outcome State Fault Refusal} (h : GoesOn o) (h' : GoesOn o') :
    GoesOn (if c then o else o') := by
  split
  · exact h
  · exact h'

/-- Whatever a meaning that raises no machine fault comes to (R32), the machine goes on. -/
theorem GoesOn.runMeaning_of_ends {Q : Turn → Prop} {m : M Word} {s : State} (hs : s.executing = true)
    (h : EndsSafe Q (m s)) : GoesOn (runMeaning m s) := by
  unfold runMeaning
  split
  · exact absurd ‹_› (State.turn_ne_env hs)
  · match m s, h with
    | .ok _, _ | .error (.trap ..), _ | .error (.trapDo ..), _ | .error (.trapIn ..), _ | .error .wait, _
    | .error (.waitIn _), _ | .error (.waitDo _), _ | .error (.leave _), _ => exact .next

theorem GoesOn.runMeaning {Q : Turn → Prop} {m : M Word} {s : State} (hs : s.executing = true) (h : Safe Acts Q m) :
    GoesOn (runMeaning m s) :=
  .runMeaning_of_ends hs (h.ends s (State.turn_ne_env hs))

theorem GoesOn.onCore {m : M Word} {s : State} (hs : s.executing = true) (h : Safe Acts IsCore m) :
    GoesOn (Machine.runMeaning m s) :=
  .runMeaning hs h

section
variable {P Q : Turn → Prop}

/-! ### The state and its operations -/

theorem getG_safe {r} : Safe P P (getG r) :=
  .ask

theorem setG_safe {r v} : Safe P P (setG r v) :=
  .update fun _ => State.putG_turn ..

/-! ### Flags and rounding -/

theorem setFlags_safe {fl} : Safe P P (setFlags fl) :=
  .ite .pure <| .update fun _ => State.modContext_turn

theorem roundingMode_safe {r} : OnCore (roundingMode r) :=
  .bind .ask fun _ => .bind .self fun ⟨_, _⟩ => .bind .require fun _ => .pure

theorem getSeed_safe : OnCore getSeed :=
  .bind .self fun ⟨_, _⟩ => .ask

theorem setSeed_safe {a0} : OnCore (setSeed a0) :=
  .bind .self fun ⟨_, _⟩ => .update fun _ => rfl

theorem rangeCheck_safe {hinted} : Safe P P (rangeCheck hinted) := by
  unfold rangeCheck
  split
  · exact .pure
  · exact .bind .ask fun _ => .bind .require fun _ => setFlags_safe

/-! ### Operands -/

theorem startOrd_safe {g ok rs} : Safe P P (startOrd g ok rs) := by
  refine .bind .ask fun _ => ?_
  split
  · exact .signal
  · exact .bind .require fun _ => .require

/-- Past the placement of its group, an instruction of the cores runs on a core (R64). -/
theorem startOrd_onCore {g ok rs} (hg : g.ofCores = true) : Safe Acts IsCore (startOrd g ok rs) := by
  refine ⟨fun s hs => ?_⟩
  cases h : g.refused s.turn with
  | some c =>
    rw [startOrd_refused h]
    trivial
  | none => exact startOrd_safe.ends s (Group.isCore_of_refused_none hg hs h)

theorem start_safe {g rs} : Safe P P (start g rs) :=
  startOrd_safe

theorem start_onCore {g rs} (hg : g.ofCores = true) : Safe Acts IsCore (start g rs) :=
  startOrd_onCore hg

/-- The checks that come first pass, and change nothing, or raise a cause. -/
theorem start_stays (g : Group) (rs : List Reg) (s : State) :
    (start g rs) s = .ok ((), s) ∨ ∃ c, (start g rs) s = .error (.trap s c 0) := by
  cases hp : g.refused s.turn with
  | some c => exact .inr ⟨c, startOrd_refused hp⟩
  | none =>
    cases hr : holds s.turn rs with
    | true => exact .inl (start_run hp hr)
    | false => exact .inr ⟨0x01, by simp [start, startOrd, M.bind_run, hp, hr]⟩

theorem after_safe {len m} (hm : Safe P Q m) : Safe P Q (after len m) :=
  .bind hm fun _ => .ask

theorem privileged_safe : Safe P P privileged :=
  .bind .ask fun _ => .require

theorem getMask_safe {k} : OnCore (getMask k) :=
  .bind .self fun ⟨_, _⟩ => .bind .require fun _ => .ask

theorem setMask_safe {k v} : OnCore (setMask k v) :=
  .bind .self fun ⟨_, _⟩ => .bind .require fun _ => .update fun _ => State.noteHere_turn

theorem getQueue_safe {q} : OnCore (getQueue q) :=
  .bind .self fun ⟨_, _⟩ => .ask

theorem queueStall_safe {α : Type} : OnCore (queueStall : M α) :=
  .waitDo

theorem stallWhile_safe {c} : OnCore (stallWhile c) :=
  .ite queueStall_safe .pure

theorem popQueue_safe {q} : OnCore (popQueue q) :=
  .bind .self fun ⟨_, _⟩ => .update fun _ => rfl

theorem releaseToStreams_safe : OnCore releaseToStreams :=
  .bind .self fun ⟨_, _⟩ =>
  .ite (.bind (.update fun _ => State.drainAll_turn) fun _ => .bind .ask fun _ => .ite .pure .waitDo) .pure

theorem pushQueue_safe {q e} : OnCore (pushQueue q e) :=
  .bind releaseToStreams_safe fun _ => .bind .self fun ⟨_, _⟩ => .update fun _ => State.noteHere_turn

theorem waitRoom_safe {q} : OnCore (waitRoom q) :=
  .bind getQueue_safe fun _ => stallWhile_safe

theorem checkVector_safe {srcs dst} : OnCore (checkVector srcs dst) :=
  .bind .self fun ⟨_, _⟩ => .bind .require fun _ => .require

theorem waitVector_safe {srcs dst} : OnCore (waitVector srcs dst) :=
  .bind .self fun ⟨_, _⟩ => .bind .ask fun _ => stallWhile_safe

theorem checkMarks_safe {srcs} : OnCore (checkMarks srcs) :=
  .bind .self fun ⟨_, _⟩ => .bind .ask fun _ => .require

theorem takeSource_safe {f} : OnCore (takeSource f) := by
  refine .bind .self fun ⟨_, _⟩ => ?_
  dsimp only
  split
  · exact .ask
  · exact .bind getQueue_safe fun _ => .bind popQueue_safe fun _ => .pure

theorem takeSources_safe : ∀ {l}, OnCore (takeSources l)
  | [] => .pure
  | _ :: _ => .bind takeSource_safe fun _ => .bind takeSources_safe fun _ => .pure

theorem vectorSources_safe {srcs dst} : OnCore (vectorSources srcs dst) :=
  .bind checkVector_safe fun _ => .bind waitVector_safe fun _ => .bind checkMarks_safe fun _ => takeSources_safe

theorem oldValue_safe {f} : OnCore (oldValue f) := by
  refine .bind .self fun ⟨_, _⟩ => ?_
  dsimp only
  split
  · exact .ask
  · exact .pure

theorem putVector_safe {f v} : OnCore (putVector f v) := by
  refine .bind .self fun ⟨_, _⟩ => ?_
  dsimp only
  split
  · exact .update fun _ => State.noteHere_turn
  · exact pushQueue_safe

/-! ### Memory accesses -/

theorem heldByReset_safe {α : Type} {tval : Word} : Safe P Q (heldByReset tval : M α) := by
  refine ⟨fun s _ => ?_⟩
  unfold heldByReset
  split <;> trivial

theorem locate_safe {v store va} : Safe P P (locate v store va) := by
  refine .get_bind fun _ _ => ?_
  split
  · exact .signal
  · exact .signalDo
  · exact .waitDo
  · exact .wait
  · exact .waitDo
  · exact heldByReset_safe
  · exact .pure

theorem locateAll_safe {v store va n} : Safe P P (locateAll v store va n) :=
  .ite (.bind locate_safe fun _ => .pure) <| .bind locate_safe fun _ => .bind locate_safe fun _ => .pure

theorem waitClaims_safe {ps} : Safe P P (waitClaims ps) :=
  .get_bind fun _ _ => .waitWhile

theorem checkPoison_safe {va ps} : OnCore (checkPoison va ps) := by
  refine .bind .self fun ⟨_, _⟩ => .get_bind fun _ _ => ?_
  split
  · exact .signal
  · exact .pure

theorem askRemote_safe {endpoint line kind tval} : OnCore (askRemote endpoint line kind tval) := by
  refine .bind .self fun ⟨_, _⟩ => .get_bind fun _ _ => ?_
  dsimp only
  split
  · split
    · exact .pure
    · exact .signal
  · exact .wait
  · split
    · exact .signal
    · exact .waitDo

theorem accessRemote_safe {pa kind tval} : OnCore (accessRemote pa kind tval) :=
  askRemote_safe

theorem readHostLine_safe {d pa len va} : OnCore (readHostLine d pa len va) := by
  refine .get_bind fun _ _ => ?_
  split
  · exact .pure
  · exact .bind accessRemote_safe fun _ => .bind (.update fun _ => State.keepHostLine_turn) fun _ => .pure

theorem readPiece_safe {va p} : OnCore (readPiece va p) := by
  refine .bind .self fun ⟨_, _⟩ => ?_
  dsimp only
  split
  · exact .ask
  · exact .get_bind fun _ _ => .ite readHostLine_safe <| .bind accessRemote_safe fun _ => .pure
  · exact .pure

theorem readPieces_safe {va} : ∀ {l}, OnCore (readPieces va l)
  | [] => .pure
  | _ :: _ => .bind readPiece_safe fun _ => .bind readPieces_safe fun _ => .pure

theorem obtain_safe {n x m} (hm : Safe P Q m) : Safe P Q (obtain_ n x m) := by
  refine ⟨fun s hs => ?_⟩
  have h := hm.ends s hs
  unfold obtain_
  dsimp only
  split <;> (rename_i e; rw [e] at h; exact h)

theorem takePassed_safe {n x} : OnCore (takePassed n x) := by
  refine ⟨fun s h => ?_⟩
  unfold takePassed
  dsimp only
  split
  · trivial
  · split
    · trivial
    · exact h

/-- What the even core of a pair obtains, the odd core takes (R367). -/
theorem external_ends {m} (hm : Safe IsCore Q m) (hq : ∀ t, IsCore t → Q t) : Safe IsCore Q (external m) :=
  .bind .self fun ⟨_, _⟩ => .bind .ask fun _ => .ite hm <| .ite (obtain_safe hm)
    ⟨fun s hs => (takePassed_safe.ends s hs).mono hq⟩

theorem external_safe {m} (hm : OnCore m) : OnCore (external m) := external_ends hm fun _ h => h

/-- What closes the interval of a pair is done by its even core (R367). -/
theorem closing_ends {m} (hm : Safe IsCore Q m) (hq : ∀ t, IsCore t → Q t) : Safe IsCore Q (closing m) :=
  .bind .self fun ⟨_, _⟩ => .bind .ask fun _ => .ite hm <| .ite .waitDo <|
  .bind (external_ends hm hq) fun _ => .bind (.update fun _ => rfl) fun _ => .pure

theorem closing_safe {m} (hm : OnCore m) : OnCore (closing m) := closing_ends hm fun _ h => h

theorem closing_anyone {m} (hm : Safe IsCore Anyone m) : Safe IsCore Anyone (closing m) :=
  closing_ends hm fun _ _ => trivial

theorem release_safe {sc} : OnCore (release sc) :=
  .bind .self fun ⟨_, _⟩ => .bind .ask fun _ => .ite (.ite .waitDo .wait) <|
  .bind (.update fun _ => State.drainAll_turn) fun _ => .bind .ask fun _ => .ite .waitDo <|
  .ite (.update fun _ => State.writeBackRdc_turn) .pure

theorem acquire_safe {sc} : OnCore (acquire sc) :=
  .bind .self fun ⟨_, _⟩ => .ite (.update fun _ => rfl) .pure

theorem takeTicket_safe : Safe P P takeTicket :=
  .get_bind fun _ _ => .ite heldByReset_safe <| .update fun _ => rfl

theorem ticketFor_safe {ql} : OnCore (ticketFor ql) :=
  .ite (.bind (external_safe <| .bind takeTicket_safe fun _ => .pure) fun _ => .pure) .pure

theorem rcBegun_safe : OnCore rcBegun :=
  .bind .self fun ⟨_, _⟩ => .ask

theorem rcWait_safe {data} : OnCore (rcWait data) :=
  .bind .self fun ⟨_, _⟩ => .bind .ask fun _ => .bind .ask fun _ => by
    split
    · exact .bind .waitWhile fun _ => .bind (.update fun _ => rfl) fun _ => .pure
    · exact ⟨fun _ _ => trivial⟩

theorem rcAllowed_safe {ql rcPages va} : OnCore (rcAllowed ql rcPages va) :=
  .bind .self fun ⟨_, _⟩ => .bind .ask fun _ => .require

theorem acquireFor_safe {ql} : OnCore (acquireFor ql) :=
  .ite .pure acquire_safe

theorem loadPieces_safe {v va ps} : OnCore (loadPieces v va ps) :=
  .bind waitClaims_safe fun _ => .bind checkPoison_safe fun _ => .bind readPieces_safe fun _ =>
  .bind (.update fun _ => State.foldl_turn fun _ _ => State.leaveTraces_turn) fun _ => .pure

theorem readFor_safe {own m} (hm : OnCore m) : OnCore (readFor own m) :=
  .ite hm <| external_safe hm

theorem memRead_safe {va n ql} : OnCore (memRead va n ql) := by
  refine .bind .self fun ⟨_, _⟩ => .bind .ask fun _ => ?_
  split
  · exact .signal
  · split
    · exact .signal
    · exact .bind .ask fun _ => .bind acquireFor_safe fun _ =>
        .bind (readFor_safe <|
           .bind locateAll_safe fun _ => loadPieces_safe) fun _ => .bind ticketFor_safe fun _ => .pure

theorem readRaw_safe {v va slot raw n} : OnCore (readRaw v va slot raw n) := by
  refine .get_bind fun _ _ => ?_
  split
  · exact .signal
  · exact .bind loadPieces_safe fun _ => .pure

theorem readWindow_safe {v va slot e} : OnCore (readWindow v va slot e) := by
  unfold readWindow
  split
  · exact .bind readRaw_safe fun _ => .pure
  · exact .bind readRaw_safe fun _ => .ite .pure <| .bind readRaw_safe fun _ => .pure

theorem windowLoad_safe {v va} : OnCore (windowLoad v va) :=
  .bind .ask fun _ => .bind (readFor_safe readWindow_safe) fun _ => .pure

theorem checkWord_safe {v va n aligned word_} : Safe P P (checkWord v va n aligned word_) := by
  unfold checkWord
  split
  · exact .signal
  · split
    · exact .signal
    · exact .pure

theorem noteStore_safe {va bs} : Safe P P (noteStore va bs) :=
  .update fun _ => State.noteHere_turn

theorem gateStore_safe {act parts wide} : OnCore (gateStore act parts wide) :=
  .bind .self fun ⟨_, _⟩ => .get_bind fun _ _ => .bind .require fun _ =>
  .ite (.ite .waitDo .wait) <| .update fun _ => by simp

theorem bufferStore_safe {parts} : OnCore (bufferStore parts) :=
  .bind .self fun ⟨_, _⟩ => .get_bind fun _ hs => .bind .waitWhile fun _ => .set <| by simpa using hs

theorem sendParts_safe {va l} : OnCore (sendParts va l) := by
  induction l generalizing va with
  | nil => exact .pure
  | cons p ps ih =>
    refine .bind .self fun ⟨_, _⟩ => .bind ?_ fun _ => ih
    split
    · exact .ite (.bind accessRemote_safe fun _ => .update fun _ => State.dropHostLine_turn) .pure
    · exact .pure

theorem performNow_safe {va parts wide} : OnCore (performNow va parts wide) :=
  .bind .self fun ⟨_, _⟩ => .get_bind fun _ _ =>
  .join (fun _ => .bind .waitWhile fun _ =>
     .bind sendParts_safe fun _ => .update fun _ => State.performAll_turn) fun _ hk =>
  .ite (.bind .waitDo hk) <| hk ()

theorem putStore_safe {ql st} : OnCore (putStore ql st) := by
  refine .bind .self fun ⟨_, _⟩ => .bind .ask fun _ => .bind noteStore_safe fun _ =>
    .bind (.update fun _ => State.foldl_turn fun _ _ => ?_) fun _ => .ite gateStore_safe <|
    .ite (.ite (.ite .waitDo performNow_safe) <| .bind gateStore_safe fun _ => .ite .pure <| .update fun _ => rfl) <|
    .ite (.bind sendParts_safe fun _ => .ite .pure bufferStore_safe) performNow_safe
  split
  · exact State.predictLine_turn
  · rfl

theorem putStores_safe {ql} : ∀ {l}, OnCore (putStores ql l)
  | [] => .pure
  | _ :: _ => .bind putStore_safe fun _ => putStores_safe

theorem performStores_safe {ql} : ∀ {l}, OnCore (performStores ql l)
  | [] => .pure
  | _ :: _ => .bind performNow_safe fun _ => performStores_safe

theorem orderStore_safe {ql gated} : OnCore (orderStore ql gated) :=
  .bind (.ite .pure release_safe) fun _ => ticketFor_safe

theorem locateStore_safe {v va n ql own} : OnCore (locateStore v va n ql own) := by
  refine .bind .self fun ⟨_, _⟩ => ?_
  extract_lets find
  have hfind : OnCore find := .bind locateAll_safe fun _ => .bind rcAllowed_safe fun _ => .pure
  exact .bind .ask fun _ => .ite (.bind hfind fun _ => .pure) <|
    .bind (external_safe <| .bind hfind fun _ => .pure) fun _ =>
    .ite (.bind hfind fun _ => .pure) <| .bind .pure fun _ => .pure

theorem orderedRun_safe {ql apart find run} (hfind : OnCore find) (hrun : OnCore run) :
    OnCore (orderedRun ql apart find run) :=
  .bind .self fun ⟨_, _⟩ => .bind .ask fun _ =>
  .join
    (fun _ => .ite
      (.join
        (fun _ => .bind
          (closing_safe <| .bind
            (.ite .pure <| .bind (.ite .pure release_safe) fun _ => .bind (.ite takeTicket_safe .pure) fun _ =>
              performStores_safe)
            fun _ => .ite rcWait_safe .pure)
          fun _ => performStores_safe)
        fun _ hk => .ite (.bind .pure hk) <| .bind hfind hk)
      (.bind (.ite .pure <| .bind orderStore_safe fun _ => hrun) fun _ =>
        .ite (.bind rcWait_safe fun _ => .pure) .pure))
    fun _ hk => .ite (.bind rcBegun_safe hk) <| .bind .pure hk

theorem resumeRc_safe {ql m} (hm : OnCore m) : OnCore (resumeRc ql m) :=
  .join (fun _ => .ite (orderedRun_safe .pure .pure) hm) fun _ hk => .ite (.bind rcBegun_safe hk) <| .bind .pure hk

theorem orderedStores_safe {ql far sts} : OnCore (orderedStores ql far sts) :=
  orderedRun_safe .pure putStores_safe

theorem memWrite_safe {va bs ql} : OnCore (memWrite va bs ql) := by
  refine resumeRc_safe <| .bind .self fun ⟨_, _⟩ => .bind .ask fun _ => ?_
  split
  · exact .signal
  · split
    · exact .signal
    · exact .bind .ask fun _ => .bind locateStore_safe fun ⟨_, _⟩ => orderedStores_safe

theorem windowScale_safe {v va slot e} : OnCore (windowScale v va slot e) := by
  refine .bind .self fun ⟨_, _⟩ => .get_bind fun _ _ => ?_
  split
  · exact .signal
  · split
    · split
      · exact .signal
      · exact .pure
    · split
      · refine .bind waitClaims_safe fun _ => .bind (.ite .pure ?_) fun _ => .bind checkPoison_safe fun _ => .pure
        split
        · exact .signal
        · exact .pure
      · exact .signal
      · exact .pure

theorem checkWindowStore_safe {v va ql} : OnCore (checkWindowStore v va ql) :=
  .bind .ask fun _ => .bind (readFor_safe windowScale_safe) fun _ => .bind .require fun _ => .pure

theorem windowParts_safe {v va pattern ql} : OnCore (windowParts v va pattern ql) := by
  unfold windowParts
  split
  refine .bind checkWindowStore_safe fun _ => ?_
  split
  refine .bind .self fun ⟨_, _⟩ => .get_bind fun _ _ => ?_
  dsimp only
  split <;> exact .pure

theorem windowStore_safe {v va pattern ql} : OnCore (windowStore v va pattern ql) :=
  .bind .ask fun _ => .bind windowParts_safe fun ⟨_, _, _⟩ => .bind orderedStores_safe fun _ => setFlags_safe

theorem walkOffset_safe {va n ql} : Safe P P (walkOffset va n ql) :=
  .bind .require fun _ => .pure

theorem ioAddress_safe {va n aligned} : Safe P P (ioAddress va n aligned) := by
  unfold ioAddress
  split
  · exact .signal
  · exact .get_bind fun _ _ => .bind .require fun _ => .bind .waitWhile fun _ => .pure

theorem ioLoad_safe {d va n ql} : Safe P P (ioLoad d va n ql) := by
  refine .bind ioAddress_safe fun _ =>
    .bind (.ite (.update fun _ => rfl) .pure) fun _ => .get_bind fun _ _ => ?_
  split
  · exact .signal
  · exact .bind (.ite takeTicket_safe .pure) fun _ => .pure

theorem ioStore_safe {d va bs ql} : Safe P P (ioStore d va bs ql) :=
  .bind ioAddress_safe fun _ => .bind .require fun _ =>
  .bind (.ite (.update fun _ => State.writeBackRdc_turn) .pure) fun _ =>
  .bind (.ite takeTicket_safe .pure) fun _ => .update fun _ => State.writeRc_turn.trans State.evictRange_turn

theorem loadValue_safe {va n ql} : Safe Acts Acts (loadValue va n ql) :=
  .turn_cases
    (fun _ _ => .bind .self fun ⟨_, _⟩ => .bind .ask fun _ =>
      .ite (.bind checkWord_safe fun _ => .bind acquireFor_safe fun _ => .bind windowLoad_safe fun ⟨_, _, _⟩ =>
        .bind ticketFor_safe fun _ => .bind rangeCheck_safe fun _ => .bind setFlags_safe fun _ => .pure) <|
      .bind memRead_safe fun _ => .pure)
    (fun _ _ => .bind walkOffset_safe fun _ => .ask)
    fun _ _ => ioLoad_safe

theorem storeValue_safe {va n y ql} : Safe Acts Acts (storeValue va n y ql) :=
  .turn_cases
    (fun _ _ => .bind .self fun ⟨_, _⟩ => .bind .ask fun _ =>
      .ite (.bind checkWord_safe fun _ => windowStore_safe) memWrite_safe)
    (fun _ _ => .bind walkOffset_safe fun _ => .update fun _ => State.setThread_turn ..)
    fun _ _ => ioStore_safe

/-! ### Atomics -/

theorem takeAtom_safe {w} : OnCore (takeAtom w) := by
  refine .bind .self fun ⟨_, _⟩ => ?_
  dsimp only
  split
  · exact .bind (.update fun _ => rfl) fun _ => .pure
  · exact .signalDo
  · exact .wait

theorem sendAtom_safe {owner off op n b cmp va ql} : OnCore (sendAtom owner off op n b cmp va ql) :=
  .bind .self fun ⟨_, _⟩ => .bind (.ite takeTicket_safe .pure) fun _ =>
  .bind (.update fun _ => rfl) fun _ => .waitKept

theorem atomPoison_safe {sp own n va} : OnCore (atomPoison sp own n va) := by
  refine .bind .self fun ⟨_, _⟩ => .get_bind fun _ _ => ?_
  dsimp only
  split
  · exact .signal
  · exact .pure

theorem atomAt_safe {sp own op n b cmp va ql pl} : OnCore (atomAt sp own op n b cmp va ql pl) := by
  refine .bind .self fun ⟨_, _⟩ => ?_
  dsimp only
  split
  · exact .bind accessRemote_safe fun _ => .bind (.update fun _ => State.dropHostLine_turn) fun _ => .pure
  · exact .ite (.bind (.ite takeTicket_safe .pure) fun _ =>
         .get_bind fun _ hs => .bind (.set <| by simpa using hs) fun _ => .pure) sendAtom_safe
  · exact .bind (.ite takeTicket_safe .pure) fun _ => .get_bind fun _ hs => .bind .waitWhile fun _ =>
      .bind (.set <| by simpa using hs) fun _ => .pure
  · exact .pure

theorem atomBody_safe {v op n b cmp va ql pl} : OnCore (atomBody v op n b cmp va ql pl) :=
  .bind .self fun ⟨_, _⟩ => .bind .ask fun _ => .bind locate_safe fun _ => .bind (.ite .signal .pure) fun _ =>
  .bind waitClaims_safe fun _ => .bind release_safe fun _ => .bind atomPoison_safe fun _ =>
  .bind rcAllowed_safe fun _ => .bind atomAt_safe fun _ => .ite rcWait_safe .pure

theorem atomResumed_safe {va ql m} (hm : OnCore m) : OnCore (atomResumed va ql m) := by
  refine .bind .self fun ⟨_, _⟩ => .join (fun _ => .ite rcWait_safe <| .get_bind fun _ _ => ?_) fun _ hk =>
    .ite (.bind rcBegun_safe hk) <| .bind .pure hk
  split
  · exact takeAtom_safe
  · exact hm

theorem atomic_safe {len op n d base b ql pl} : Safe Acts IsCore (atomic len op n d base b ql pl) := by
  refine after_safe <| .bind (startOrd_onCore rfl) fun _ => .bind getG_safe fun _ => .bind getG_safe fun _ =>
    .bind getG_safe fun _ => .bind .self fun ⟨_, _⟩ => .bind .ask fun _ => ?_
  split
  · exact .signal
  · split
    · exact .signal
    · exact .bind (closing_safe <| atomResumed_safe atomBody_safe) fun _ =>
        .bind (.ite acquire_safe .pure) fun _ => .bind setFlags_safe fun _ => setG_safe

/-! ### Branches and the ends of routines -/

theorem branchIf_safe {a b o taken} : Safe P P (branchIf a b o taken) :=
  .bind start_safe fun _ => .bind getG_safe fun _ => .bind getG_safe fun _ => .ask

theorem jumpLink_safe {n len d} {o : BitVec n} : Safe P P (jumpLink len d o) :=
  .bind start_safe fun _ => .bind .ask fun _ => .bind setG_safe fun _ => .pure

theorem jumpRegister_safe {len d a i} : Safe P P (jumpRegister len d a i) :=
  .bind start_safe fun _ => .bind getG_safe fun _ => .bind .require fun _ =>
  .bind .ask fun _ => .bind setG_safe fun _ => .pure

theorem endWork_safe : Safe Acts Acts endWork := by
  refine .bind start_safe fun _ =>
    .turn_cases (fun _ _ => .bind .ask fun _ => ?_) (fun _ _ => .leave) fun _ _ => .bind .change fun _ => .leave
  dsimp only
  split
  · exact .bind .change fun _ => .leave
  · exact .bind .change fun _ => .leave
  · exact .ite (.bind .change fun _ => .leave) <| .bind .change fun _ => .leave

theorem breakpoint_safe {len} : Safe Acts IsCore (breakpoint len) :=
  .bind (start_onCore rfl) fun _ => .signal

theorem execBqe_goesOn {q o s} (h : s.executing = true) : GoesOn (execBqe q o s) := by
  refine .onCore h (.bind (start_onCore rfl) fun _ => .bind .self fun ⟨_, _⟩ =>
       .bind .require fun _ => .bind getQueue_safe fun _ => ?_)
  split
  · exact queueStall_safe
  · exact .bind popQueue_safe fun _ => .ask
  · exact .ask

/-! ### System registers, traps and fences -/

theorem checkRead_safe {sel} : Safe P P (checkRead sel) := by
  refine .bind .ask fun _ => ?_
  split
  · exact .signal
  · exact .require

theorem checkWrite_safe {sel} : Safe P P (checkWrite sel) := by
  refine .bind .ask fun _ => ?_
  split
  · exact .signal
  · exact .bind .require fun _ => .require

theorem srModify_safe {sel a f} : Safe Acts Anyone (srModify sel a f) :=
  after_safe <| .bind (start_onCore rfl) fun _ => .bind checkWrite_safe fun _ => .bind .self fun ⟨_, _⟩ =>
  .bind .ask fun _ => .bind getG_safe fun _ => .bind .require fun _ => .change

theorem execSrr_goesOn {d sel s} (h : s.executing = true) : GoesOn (execSrr d sel s) :=
  .onCore h (after_safe <| .bind (start_onCore rfl) fun _ => .bind checkRead_safe fun _ => .bind .self fun ⟨_, _⟩ =>
     .bind (external_safe .ask) fun _ => setG_safe)

theorem execSysc_goesOn {s} (h : s.executing = true) : GoesOn (execSysc s) :=
  .onCore h (.bind (start_onCore rfl) fun _ => .bind .ask fun _ => .signal)

theorem execRetk_goesOn {s} (h : s.executing = true) : GoesOn (execRetk s) :=
  .onCore h (.bind (start_onCore rfl) fun _ => .bind privileged_safe fun _ => .bind .ask fun _ =>
     .bind .require fun _ => .bind .self fun ⟨_, _⟩ => .bind .change fun _ => .leave)

theorem execWfi_goesOn {s} (h : s.executing = true) : GoesOn (execWfi s) :=
  .runMeaning h (after_safe <| .bind (start_onCore rfl) fun _ =>
     .bind .self fun ⟨_, _⟩ => .change)

theorem execTlbinv_goesOn {a b s} (h : s.executing = true) : GoesOn (execTlbinv a b s) :=
  .runMeaning h (after_safe <| .bind (start_onCore rfl) fun _ => .bind privileged_safe fun _ => .bind getG_safe fun _ =>
     .bind getG_safe fun _ => .bind .require fun _ => .bind .self fun ⟨_, _⟩ => .bind release_safe fun _ =>
     .bind (.update fun _ => by simp) fun _ => .bind .ask fun _ =>
     .bind (.ite .waitKept .pure) fun _ => .change)

theorem execL1inv_goesOn {a s} (h : s.executing = true) : GoesOn (execL1inv a s) :=
  .runMeaning h (after_safe <| .bind (start_onCore rfl) fun _ => .bind privileged_safe fun _ => .bind getG_safe fun _ =>
     .bind .self fun ⟨_, _⟩ => .update fun _ => rfl)

theorem fenceRelease_safe {sc} : OnCore (fenceRelease sc) :=
  .ite (.bind rcBegun_safe fun _ =>
     .bind (.ite .pure release_safe) fun _ => .bind rcWait_safe fun _ => .pure) release_safe

theorem execFence_goesOn {ql s} (h : s.executing = true) : GoesOn (execFence ql s) :=
  .runMeaning h <| after_safe <| .bind start_safe fun _ => .bind .ask fun _ => .bind .require fun _ => .turn_cases
    (fun _ _ =>
      .bind (.ite .pure <|
        .ite (.bind (closing_safe <| .bind fenceRelease_safe fun _ => .pure) fun _ => .pure) fenceRelease_safe) fun _ =>
      .bind ticketFor_safe fun _ => .ite .pure acquire_safe)
    (fun _ _ => .ite takeTicket_safe .pure)
    fun _ _ => .ite takeTicket_safe .pure

/-! ### What the engines share -/

theorem enginePoison_safe {va ps} : OnCore (enginePoison va ps) := by
  refine .bind .self fun ⟨_, _⟩ => .get_bind fun _ _ => ?_
  split
  · exact .signal
  · exact .pure

theorem engineLocate_safe {store va n} : OnCore (engineLocate store va n) := by
  refine .bind .self fun ⟨_, _⟩ => .bind .ask fun _ => ?_
  split
  · exact .signal
  · split
    · exact .signal
    · exact locateAll_safe

theorem engineRead_safe {va n} : OnCore (engineRead va n) :=
  .bind engineLocate_safe fun _ => .bind waitClaims_safe fun _ => .bind enginePoison_safe fun _ => readPieces_safe

theorem checkFirstLine_safe {store va n} : OnCore (checkFirstLine store va n) :=
  .bind engineLocate_safe fun _ => .ite .pure enginePoison_safe

theorem destLines_safe {v va n} : Safe P P (destLines v va n) := by
  refine .get_bind fun _ _ => .ite .pure ?_
  split
  · exact .pure
  · exact .waitDo

theorem awaitIntake_safe {full get_ put} : OnCore (awaitIntake full get_ put) :=
  .bind .self fun ⟨_, _⟩ => .get_bind fun _ _ => .ite .waitDo <| .update fun _ => rfl

/-! ### Instructions of the BSE -/

theorem checkSlotRange_safe {store va n} : OnCore (checkSlotRange store va n) := by
  refine .bind .self fun ⟨_, _⟩ => .bind .ask fun _ => .bind .require fun _ => .get_bind fun _ _ => ?_
  split
  · exact .signal
  · exact .pure

theorem checkWindowRange_safe {store va lo n} : OnCore (checkWindowRange store va lo n) := by
  refine .bind .self fun ⟨_, _⟩ => .bind .ask fun _ => ?_
  split
  · exact .signal
  · refine .get_bind fun _ _ => ?_
    split
    split
    · exact .signal
    · exact .pure

theorem checkOperand_safe {store va n} : OnCore (checkOperand store va n) := by
  unfold checkOperand
  split
  · exact .signal
  · exact .ite (.ite checkSlotRange_safe .signal) checkFirstLine_safe

theorem checkLoad_safe {a b off} : OnCore (checkLoad a b off) :=
  .bind getG_safe fun _ => .bind getG_safe fun _ => .bind .require fun _ => .bind .require fun _ =>
  .bind .require fun _ => .bind checkOperand_safe fun _ => .pure

theorem checkLoadGexp_safe {a b off} : OnCore (checkLoadGexp a b off) := by
  refine .bind .self fun ⟨_, _⟩ => .bind getG_safe fun _ => .bind getG_safe fun _ =>
    .bind .require fun _ => .bind .ask fun _ => ?_
  dsimp only
  split
  · exact .signal
  · split
    · exact .signal
    · exact .bind .require fun _ => .pure

theorem checkInputAlign_safe {f va} : Safe P P (checkInputAlign f va) :=
  .require

theorem checkInput_safe {f va n} : OnCore (checkInput f va n) :=
  .ite checkOperand_safe <| .ite .signal checkWindowRange_safe

theorem checkChain_safe {f mode a b regs} : OnCore (checkChain f mode a b regs) :=
  .bind .self fun ⟨_, _⟩ => .bind getG_safe fun _ => .bind .require fun _ => .bind getG_safe fun _ =>
  .bind (.ite .pure checkInputAlign_safe) fun _ => .bind .ask fun _ => .bind .require fun _ =>
  .bind (.ite .pure checkInput_safe) fun _ => .pure

theorem checkTileOperand_safe {o rows k ld b scale} : OnCore (checkTileOperand o rows k ld b scale) :=
  .ite (.bind checkOperand_safe fun _ => .ite checkOperand_safe .pure) (.forM (fun _ => checkWindowRange_safe) _)

theorem checkTile_safe {pair acc fa fb a b c} : OnCore (checkTile pair acc fa fb a b c) :=
  .bind .self fun ⟨_, _⟩ => .bind getG_safe fun _ => .bind .require fun _ => .bind engineRead_safe fun _ =>
  .bind getG_safe fun _ => .bind getG_safe fun _ => .get_bind fun _ _ => .bind .require fun _ =>
  .bind .require fun _ => .bind .require fun _ =>
  .bind checkTileOperand_safe fun _ => .bind checkTileOperand_safe fun _ => .pure

theorem checkReadout_safe {op f rnd nsat sh a b} : OnCore (checkReadout op f rnd nsat sh a b) :=
  .bind .self fun ⟨_, _⟩ => .bind getG_safe fun _ => .bind .require fun _ => .bind getG_safe fun _ =>
  .bind .require fun _ => .get_bind fun _ _ => .bind .require fun _ =>
  .bind (.ite .pure checkOperand_safe) fun _ => .pure

theorem capture_safe {push scope} : OnCore (capture push scope) :=
  .bind .self fun ⟨_, _⟩ => .ask

theorem submitBse_safe {i} : OnCore (submitBse i) := by
  refine .bind .self fun ⟨_, _⟩ => .bind release_safe fun _ => .bind capture_safe fun _ => .get_bind fun _ _ => ?_
  extract_lets cl id job submit
  have hk lines : OnCore (submit lines) :=
    .bind (.update fun _ => State.claimLines_turn) fun _ => .pure
  split
  · exact .bind destLines_safe hk
  · exact .bind .pure hk

theorem issueBse_safe {d rs check} (hcheck : OnCore check) : Safe Acts IsCore (issueBse d rs check) :=
  after_safe <| .bind (start_onCore rfl) fun _ => .bind .self fun ⟨_, _⟩ =>
  .bind (closing_safe <| .get_bind fun _ _ => .bind .waitWhile fun _ => .bind awaitIntake_safe fun _ =>
     .bind hcheck fun _ => .bind submitBse_safe fun _ => .pure) fun _ =>
  .bind (.update fun _ => rfl) fun _ =>
  .bind (.ite (.bind getSeed_safe fun _ => setSeed_safe) .pure) fun _ => setG_safe

theorem execBset_goesOn {bsd a s} (h : s.executing = true) : GoesOn (execBset bsd a s) :=
  .runMeaning h (after_safe <| .bind (start_onCore rfl) fun _ => .bind getG_safe fun _ => .bind .require fun _ =>
     .bind .self fun ⟨_, _⟩ => .change)

theorem execBrst_goesOn {label s} (h : s.executing = true) : GoesOn (execBrst label s) :=
  .onCore h (after_safe <| .bind (start_onCore rfl) fun _ => .bind .self fun ⟨_, _⟩ => .update fun _ => rfl)

theorem takeBse_safe {n id} : OnCore (takeBse n id) := by
  refine .bind .ask fun _ => ?_
  split
  · exact .pure
  · exact .bind (.update fun _ => rfl) fun _ => .bind acquire_safe fun _ => .pure

theorem writeBstat_safe {stat} : OnCore (writeBstat stat) :=
  .bind .self fun ⟨_, _⟩ => .bind .ask fun _ => .bind (.update fun _ => rfl) fun _ => .pure

theorem observeBse_safe {id} : OnCore (observeBse id) := by
  refine .bind .self fun ⟨_, _⟩ => .bind takeBse_safe fun _ => ?_
  split <;> exact .pure

theorem hintTrap_safe {stat} : Safe P P (hintTrap stat) :=
  .bind .ask fun _ => .ite .signalKept .pure

theorem execBwait_goesOn {a s} (h : s.executing = true) : GoesOn (execBwait a s) :=
  .onCore h (after_safe <| .bind (start_onCore rfl) fun _ => .bind getG_safe fun _ => .bind .self fun ⟨_, _⟩ =>
     .bind (external_safe <| .bind .ask fun _ => .bind .waitWhile fun _ => observeBse_safe) fun _ =>
     .bind writeBstat_safe fun _ => .bind setFlags_safe fun _ =>
     .bind (.ite .signalKept .pure) fun _ => hintTrap_safe)

theorem execBpoll_goesOn {d a s} (h : s.executing = true) : GoesOn (execBpoll d a s) :=
  .onCore h (after_safe <| .bind (start_onCore rfl) fun _ => .bind getG_safe fun _ => .bind .self fun ⟨_, _⟩ =>
     .bind (external_safe <| .bind .ask fun _ => .ite .pure observeBse_safe) fun _ =>
     .bind writeBstat_safe fun _ => .bind setFlags_safe fun _ => .bind setG_safe fun _ => hintTrap_safe)

/-! ### Loads and stores -/

theorem loadTo_safe {len n signed d base ql va} : Safe Acts Acts (loadTo len n signed d base ql va) :=
  after_safe <| .bind startOrd_safe fun _ => .bind getG_safe fun _ => .bind loadValue_safe fun _ => setG_safe

theorem storeFrom_safe {len n r base ql va} : Safe Acts Acts (storeFrom len n r base ql va) :=
  after_safe <| .bind startOrd_safe fun _ => .bind getG_safe fun _ => .bind getG_safe fun _ => storeValue_safe

theorem prefetchAt_safe {len target write base ql va} : Safe Acts Acts (prefetchAt len target write base ql va) := by
  refine after_safe <| .bind startOrd_safe fun _ => .bind getG_safe fun _ =>
    .turn_cases (fun _ _ => .get_bind fun _ _ => ?_) (fun _ _ => .pure) fun _ _ => .pure
  dsimp only
  split
  · exact .update fun _ => State.prefetch_turn
  · exact .waitDo
  · exact .update fun _ => rfl

theorem loadLanes_safe {v va} : ∀ {k}, OnCore (loadLanes v va k)
  | 0 => .pure
  | _ + 1 => .bind loadLanes_safe fun _ => .bind windowLoad_safe fun _ => .pure

theorem checkEntry_safe {v va ql} : Safe P P (checkEntry v va ql) := by
  unfold checkEntry
  split
  · exact .signal
  · split
    · exact .signal
    · exact .pure

theorem loadEntry_safe {va ql} : OnCore (loadEntry va ql) :=
  .bind .self fun ⟨_, _⟩ => .bind .ask fun _ =>
  .ite (.bind checkEntry_safe fun _ => .bind acquireFor_safe fun _ => .bind loadLanes_safe fun _ =>
     .bind ticketFor_safe fun _ => .bind rangeCheck_safe fun _ => .bind setFlags_safe fun _ => .pure) <|
  .bind memRead_safe fun _ => .pure

theorem laneParts_safe {v va x ql} : ∀ {l}, OnCore (laneParts v va x ql l)
  | [] => .pure
  | _ :: _ => .bind windowParts_safe fun ⟨_, _, _⟩ => .bind laneParts_safe fun ⟨_, _, _⟩ => .pure

theorem storeEntry_safe {va a1 ql} : OnCore (storeEntry va a1 ql) :=
  .bind .self fun ⟨_, _⟩ => .bind .ask fun _ =>
  .ite (.bind checkEntry_safe fun _ => .bind .ask fun _ => .bind laneParts_safe fun ⟨_, _, _⟩ =>
     .bind orderedStores_safe fun _ => setFlags_safe) memWrite_safe

theorem vectorLoad_safe {len d base ql va} : Safe Acts IsCore (vectorLoad len d base ql va) :=
  after_safe <| .bind (startOrd_onCore rfl) fun _ => .bind checkVector_safe fun _ => .bind getG_safe fun _ =>
  .bind loadEntry_safe fun _ => putVector_safe

theorem vectorStore_safe {len r base ql va} : Safe Acts IsCore (vectorStore len r base ql va) :=
  after_safe <| .bind (startOrd_onCore rfl) fun _ => .bind checkVector_safe fun _ => .bind getG_safe fun _ =>
  .bind oldValue_safe fun _ => storeEntry_safe

/-! ### Vector operations -/

theorem VecForm.begin_safe {v gs} : Safe Acts IsCore (VecForm.begin_ v gs) :=
  .bind (start_onCore rfl) fun _ => .bind .require fun _ =>
  .bind getMask_safe fun _ => .bind roundingMode_safe fun _ => .pure

theorem putLanes_safe {d w l} : OnCore (putLanes d w l) :=
  .bind getSeed_safe fun _ => .bind (.ite .pure setSeed_safe) fun _ => .bind setFlags_safe fun _ => putVector_safe

theorem VecForm.elementwise_safe {v gs srcs d op} : Safe Acts IsCore (VecForm.elementwise v gs srcs d op) :=
  after_safe <| .bind VecForm.begin_safe fun ⟨_, _⟩ => .bind vectorSources_safe fun _ =>
  .bind oldValue_safe fun _ => .bind getSeed_safe fun _ => putLanes_safe

theorem VecForm.arith_safe {v op d srcs} : Safe Acts IsCore (VecForm.arith v op d srcs) :=
  VecForm.elementwise_safe

theorem VecForm.select_safe {v max d a b} : Safe Acts IsCore (VecForm.select v max d a b) :=
  VecForm.elementwise_safe

theorem VecForm.function_safe {v op d a} : Safe Acts IsCore (VecForm.function v op d a) :=
  VecForm.elementwise_safe

theorem VecForm.shift_safe {v op d a b} : Safe Acts IsCore (VecForm.shift v op d a b) :=
  VecForm.elementwise_safe

theorem VecForm.compare_safe {v op d a b} : Safe Acts IsCore (VecForm.compare v op d a b) :=
  after_safe <| .bind VecForm.begin_safe fun ⟨_, _⟩ => .bind .self fun ⟨_, _⟩ => .bind .require fun _ =>
  .bind vectorSources_safe fun _ => .bind setFlags_safe fun _ => setMask_safe

theorem VecForm.choose_safe {v d a b} : Safe Acts IsCore (VecForm.choose v d a b) :=
  after_safe <| .bind VecForm.begin_safe fun ⟨_, _⟩ => .bind vectorSources_safe fun _ => putVector_safe

theorem VecForm.permute_safe {v d a b} : Safe Acts IsCore (VecForm.permute v d a b) :=
  VecForm.elementwise_safe

theorem VecForm.slide_safe {v op d a g} : Safe Acts IsCore (VecForm.slide v op d a g) :=
  .bind .ask fun _ => VecForm.elementwise_safe

theorem VecForm.broadcast_safe {v d g} : Safe Acts IsCore (VecForm.broadcast v d g) :=
  .bind .ask fun _ => VecForm.elementwise_safe

theorem VecForm.reduction_safe {v op d a b} : Safe Acts IsCore (VecForm.reduction v op d a b) :=
  after_safe <| .bind VecForm.begin_safe fun ⟨_, _⟩ =>
  .bind vectorSources_safe fun _ => .bind getSeed_safe fun _ => putLanes_safe

theorem VecForm.scan_safe {v d a b} : Safe Acts IsCore (VecForm.scan v d a b) :=
  after_safe <| .bind VecForm.begin_safe fun ⟨_, _⟩ =>
  .bind vectorSources_safe fun _ => .bind getSeed_safe fun _ => putLanes_safe

theorem VecForm.toGeneral_safe {v d a g} : Safe Acts IsCore (VecForm.toGeneral v d a g) :=
  after_safe <| .bind VecForm.begin_safe fun ⟨_, _⟩ =>
  .bind getG_safe fun _ => .bind vectorSources_safe fun _ => setG_safe

theorem checkElement_safe {v store f va ql} : OnCore (checkElement v store f va ql) :=
  .bind checkWord_safe fun _ =>
  .ite (.bind (.ite (.bind checkWindowStore_safe fun _ => .pure) <|
        .bind windowLoad_safe fun _ => .pure) fun _ => .pure) <|
  .bind .ask fun _ => .ite (.bind locateStore_safe fun ⟨_, _⟩ => .pure) <|
  .bind (readFor_safe <| .bind locateAll_safe fun _ =>
     .bind waitClaims_safe fun _ => .bind checkPoison_safe fun _ => .pure) fun _ => .pure

theorem checkElements_safe {v store f ql} : ∀ {l}, OnCore (checkElements v store f ql l)
  | [] => .pure
  | (_, _) :: _ => .bind checkElement_safe fun _ => .bind checkElements_safe fun _ => .pure

theorem loadElements_safe {v f ql} : ∀ {l}, OnCore (loadElements v f ql l)
  | [] => .pure
  | (_, _) :: _ =>
    .ite
      (.bind checkWord_safe fun _ => .bind windowLoad_safe fun ⟨_, _, _⟩ =>
        .bind loadElements_safe fun _ => .pure)
      (.bind memRead_safe fun _ => .bind .pure fun ⟨_, _, _⟩ => .bind loadElements_safe fun _ => .pure)

theorem vectorGather_safe {a0 ql n d gs srcs address} :
    Safe Acts IsCore (vectorGather a0 ql n d gs srcs address) :=
  after_safe <| .bind (startOrd_onCore rfl) fun _ => .bind .require fun _ => .bind getMask_safe fun _ =>
  .get_bind fun _ _ => .bind vectorSources_safe fun _ => .bind .self fun ⟨_, _⟩ => .bind .ask fun _ =>
  .bind acquireFor_safe fun _ => .bind loadElements_safe fun _ => .bind rangeCheck_safe fun _ =>
  .bind setFlags_safe fun _ => .bind oldValue_safe fun _ => putVector_safe

theorem elementStore_safe {v f ql va code} : OnCore (elementStore v f ql va code) :=
  .bind .ask fun _ =>
  .ite (.bind windowParts_safe fun ⟨_, _, _⟩ => .bind setFlags_safe fun _ => .pure) <|
  .bind locateStore_safe fun ⟨_, _⟩ => .pure

theorem findElements_safe {v f ql x} : ∀ {l}, OnCore (findElements v f ql x l)
  | [] => .pure
  | (_, _) :: _ => .bind elementStore_safe fun _ => .bind findElements_safe fun _ => .pure

theorem storeElements_safe {v f ql x} : ∀ {l}, OnCore (storeElements v f ql x l)
  | [] => .pure
  | (_, _) :: _ => .bind elementStore_safe fun _ => .bind putStores_safe fun _ => storeElements_safe

theorem scatter_safe {v f ql far a4 els} : OnCore (scatter v f ql far a4 els) :=
  orderedRun_safe findElements_safe storeElements_safe

theorem vectorScatter_safe {a0 ql n d gs idx address} :
    Safe Acts IsCore (vectorScatter a0 ql n d gs idx address) :=
  after_safe <| .bind (startOrd_onCore rfl) fun _ => .bind .require fun _ => .bind getMask_safe fun _ =>
  resumeRc_safe <| .get_bind fun _ _ => .bind vectorSources_safe fun _ => .bind .self fun ⟨_, _⟩ => .bind .ask fun _ =>
  .bind checkElements_safe fun _ => scatter_safe

/-! ### Copy engines -/

theorem enterRequest_safe {w0 w1 w2 w3} : OnCore (enterRequest w0 w1 w2 w3) :=
  .bind .self fun ⟨_, _⟩ => .get_bind fun _ _ => .bind release_safe fun _ => .bind .ask fun _ =>
  .bind (.update fun _ => rfl) fun _ => .pure

theorem copyRequest_safe {busy w0 w1 w2 w3} : Safe IsCore Anyone (copyRequest busy w0 w1 w2 w3) := by
  refine .bind .self fun ⟨_, _⟩ => .get_bind fun _ _ => .bind .require fun _ => .bind ?_ fun _ =>
    .bind .require fun _ =>
    .ite (.bind .change fun _ => .done) <|
    .ite (.bind .waitWhile fun _ => .done) <| .bind enterRequest_safe fun _ => .done
  split
  · refine .ite ?_ .pure
    split
    · exact .signal
    · exact .pure
  · exact .require

theorem copyIssue_safe {busy d a} : Safe Acts Anyone (copyIssue busy d a) :=
  after_safe <| .bind (start_onCore rfl) fun _ => .bind getG_safe fun _ => .bind getG_safe fun _ =>
  .bind getG_safe fun _ => .bind getG_safe fun _ => .bind (closing_anyone copyRequest_safe) fun _ => setG_safe

theorem execCwait_goesOn {a ch s} (h : s.executing = true) : GoesOn (execCwait a ch s) :=
  .runMeaning h (after_safe <| .bind (start_onCore rfl) fun _ => .bind getG_safe fun _ => .bind .self fun ⟨_, _⟩ =>
     .bind (external_safe <| .get_bind fun _ _ => .bind .require fun _ =>
        .bind .waitWhile fun _ => .bind acquire_safe fun _ => .pure) fun _ => .pure)

theorem execCpoll_goesOn {d a ch s} (h : s.executing = true) : GoesOn (execCpoll d a ch s) :=
  .runMeaning h (after_safe <| .bind (start_onCore rfl) fun _ => .bind getG_safe fun _ => .bind .self fun ⟨_, _⟩ =>
     .bind (external_safe <| .get_bind fun _ _ => .bind .require fun _ => .bind (.ite acquire_safe .pure) fun _ =>
        .bind (.update fun _ => rfl) fun _ => .pure) fun _ => setG_safe)

/-! ### Streams and list walks -/

theorem stepDone_safe : OnCore stepDone :=
  .bind .self fun ⟨_, _⟩ => .bind (.update fun _ => rfl) fun _ => .waitKept

theorem distinct_safe {a b} : Safe P P (distinct a b) :=
  .require

theorem mayUse_safe {ok} : OnCore (mayUse ok) :=
  .bind .self fun ⟨_, _⟩ => .require

theorem noGexp_safe {q} : OnCore (noGexp q) :=
  .bind .self fun ⟨_, _⟩ => .ite (.bind (external_safe .ask) fun _ => .require) .pure

theorem execQend_goesOn {q s} (h : s.executing = true) : GoesOn (execQend q s) :=
  .onCore h (after_safe <| .bind (start_onCore rfl) fun _ => .bind mayUse_safe fun _ =>
     .bind noGexp_safe fun _ => .bind waitRoom_safe fun _ => pushQueue_safe)

theorem peek_safe {q i g take} : OnCore (peek q i g take) := by
  refine .bind getQueue_safe fun _ => ?_
  split
  · exact queueStall_safe
  · exact setG_safe
  · exact .bind (.ite popQueue_safe .pure) fun _ => setG_safe

theorem execQpeek_goesOn {g q i s} (h : s.executing = true) : GoesOn (execQpeek g q i s) :=
  .onCore h (after_safe <| .bind (start_onCore rfl) fun _ => .bind mayUse_safe fun _ => peek_safe)

theorem execQpeekD_goesOn {g q i s} (h : s.executing = true) : GoesOn (execQpeekD g q i s) :=
  .onCore h (after_safe <| .bind (start_onCore rfl) fun _ => .bind mayUse_safe fun _ => peek_safe)

theorem execQcnt_goesOn {g q s} (h : s.executing = true) : GoesOn (execQcnt g q s) :=
  .onCore h (after_safe <| .bind (start_onCore rfl) fun _ =>
     .bind mayUse_safe fun _ => .bind getQueue_safe fun _ => setG_safe)

theorem nextEntry_safe {a b va n} : OnCore (nextEntry a b va n) :=
  .bind setG_safe fun _ => .bind setG_safe fun _ => .bind getG_safe fun _ => .ite .ask stepDone_safe

theorem execLstr_goesOn {q a b s} (h : s.executing = true) : GoesOn (execLstr q a b s) :=
  .onCore h (.bind (start_onCore rfl) fun _ => .bind distinct_safe fun _ => .bind mayUse_safe fun _ =>
     .bind getG_safe fun _ => .ite .ask <| .bind noGexp_safe fun _ => .bind waitRoom_safe fun _ =>
     .bind getG_safe fun _ => .bind loadEntry_safe fun _ => .bind pushQueue_safe fun _ => nextEntry_safe)

theorem execSstr_goesOn {q a b s} (h : s.executing = true) : GoesOn (execSstr q a b s) := by
  refine .onCore h (.bind (start_onCore rfl) fun _ => .bind distinct_safe fun _ => .bind mayUse_safe fun _ =>
       .bind getG_safe fun _ => .ite .ask <| .bind getQueue_safe fun _ => ?_)
  split
  · exact queueStall_safe
  · exact .signal
  · exact .bind getG_safe fun _ => .bind storeEntry_safe fun _ => .bind popQueue_safe fun _ => nextEntry_safe

theorem loadIndex_safe {v va} : OnCore (loadIndex v va) :=
  .ite (.bind checkWord_safe fun _ => windowLoad_safe) <| .bind memRead_safe fun _ => .pure

theorem loadIndices_safe {v base} : ∀ {l}, OnCore (loadIndices v base l)
  | [] => .pure
  | _ :: _ => .bind loadIndex_safe fun _ => .bind loadIndices_safe fun _ => .pure

theorem execLidx_goesOn {f q a b c s} (h : s.executing = true) : GoesOn (execLidx f q a b c s) :=
  .onCore h (.bind (start_onCore rfl) fun _ => .bind distinct_safe fun _ => .bind mayUse_safe fun _ =>
     .bind getG_safe fun _ => .ite .ask <| .bind noGexp_safe fun _ => .bind waitRoom_safe fun _ =>
     .bind .self fun ⟨_, _⟩ => .bind .ask fun _ => .bind getG_safe fun _ => .bind getG_safe fun _ =>
     .bind loadIndices_safe fun _ => .bind checkElements_safe fun _ => .bind loadElements_safe fun _ =>
     .bind rangeCheck_safe fun _ => .bind setFlags_safe fun _ => .bind pushQueue_safe fun _ =>
     .bind setG_safe fun _ => .bind setG_safe fun _ => .bind getG_safe fun _ => .ite .ask stepDone_safe)

theorem execSscat_goesOn {f a qd qi s} (h : s.executing = true) : GoesOn (execSscat f a qd qi s) := by
  refine .onCore h (.bind (start_onCore rfl) fun _ => .bind .require fun _ => .bind mayUse_safe fun _ =>
       .bind getQueue_safe fun _ => .bind getQueue_safe fun _ => ?_)
  split
  · exact queueStall_safe
  · exact .ask
  · exact queueStall_safe
  · exact .signal
  · exact .bind .self fun ⟨_, _⟩ => .bind .ask fun _ => .bind getG_safe fun _ => .bind checkElements_safe fun _ =>
      .bind scatter_safe fun _ => .bind popQueue_safe fun _ => .bind popQueue_safe fun _ => stepDone_safe

theorem listRead_safe {va n} : OnCore (listRead va n) :=
  .bind .require fun _ => .bind memRead_safe fun _ => .pure

theorem readDesc_safe {va} : OnCore (readDesc va) :=
  .bind listRead_safe fun _ => .bind .require fun _ => .pure

theorem readKey_safe {d f i} : OnCore (readKey d f i) :=
  .ite .pure <| .bind listRead_safe fun _ => .pure

theorem readDescs_safe {va vb} : OnCore (readDescs va vb) :=
  .ite (.bind readDesc_safe fun _ => .bind readDesc_safe fun _ => .pure) <|
  .bind readDesc_safe fun _ => .bind readDesc_safe fun _ => .pure

theorem readKeys_safe {da db f i j} : OnCore (readKeys da db f i j) :=
  .ite (.bind readKey_safe fun _ => .bind readKey_safe fun _ => .pure) <|
  .bind readKey_safe fun _ => .bind readKey_safe fun _ => .pure

theorem intersect_safe {f da db} : ∀ {fuel p}, OnCore (intersect f da db fuel p)
  | 0, _ => .pure
  | _ + 1, _ => .ite .pure <| .ite .pure <| .bind readKeys_safe fun ⟨_, _⟩ => intersect_safe

theorem mergeLists_safe {f da db} : ∀ {fuel p}, OnCore (mergeLists f da db fuel p)
  | 0, _ => .pure
  | _ + 1, _ => .ite .pure <| .ite .pure <| .ite mergeLists_safe <| .ite mergeLists_safe <|
    .bind readKeys_safe fun ⟨_, _⟩ => mergeLists_safe

theorem coordinates_safe {f offs rows} : ∀ {fuel p}, OnCore (coordinates f offs rows fuel p)
  | 0, _ => .pure
  | _ + 1, _ => .ite .pure <| .ite .pure <| .bind readKey_safe fun _ => .bind readKey_safe fun _ => coordinates_safe

theorem whileFull_safe {m} (hm : OnCore m) : OnCore (whileFull m) := by
  refine ⟨fun s hs => ?_⟩
  have h := hm.ends s hs
  unfold whileFull
  split
  · next e =>
    rw [e] at h
    split
    · exact h
    · trivial
  · trivial

theorem walkStart_safe {c} : OnCore (walkStart c) :=
  .bind .self fun ⟨_, _⟩ => .bind getG_safe fun _ => .bind .ask fun _ => .pure

theorem walkStep_safe {q c run} (hrun : OnCore run) : OnCore (walkStep q c run) :=
  .bind mayUse_safe fun _ => .bind getQueue_safe fun _ =>
  .join (fun _ =>
     .bind (.ite .pure <| .bind noGexp_safe fun _ => pushQueue_safe) fun _ => .bind setG_safe fun _ =>
     .bind .self fun ⟨_, _⟩ => .ite (.bind (.update fun _ => State.modCore_turn ..) fun _ => .ask) <|
     .bind (.update fun _ => State.modCore_turn ..) fun _ => stepDone_safe) fun _ hk =>
  .ite (.bind hrun hk) <| .bind (whileFull_safe hrun) hk

theorem execLsisect_goesOn {f q a b c s} (h : s.executing = true) : GoesOn (execLsisect f q a b c s) :=
  .onCore h (.bind (start_onCore rfl) fun _ => walkStep_safe <| .bind walkStart_safe fun _ => .bind getG_safe fun _ =>
     .bind getG_safe fun _ => .bind readDescs_safe fun ⟨_, _⟩ => intersect_safe)

theorem execLmerge_goesOn {f q a b c s} (h : s.executing = true) : GoesOn (execLmerge f q a b c s) :=
  .onCore h (.bind (start_onCore rfl) fun _ => walkStep_safe <| .bind walkStart_safe fun _ => .bind getG_safe fun _ =>
     .bind getG_safe fun _ => .bind readDescs_safe fun ⟨_, _⟩ => mergeLists_safe)

theorem bisect_safe {f da db d} : ∀ {fuel lo hi}, OnCore (bisect f da db d fuel lo hi)
  | 0, _, _ => .pure
  | _ + 1, _, _ =>
    .ite .pure <| .bind readKey_safe fun _ => .bind readKey_safe fun _ => .ite bisect_safe bisect_safe

theorem execLmpart_goesOn {f d a b c s} (h : s.executing = true) : GoesOn (execLmpart f d a b c s) :=
  .onCore h (after_safe <| .bind (start_onCore rfl) fun _ => .bind getG_safe fun _ => .bind getG_safe fun _ =>
     .bind readDesc_safe fun _ => .bind readDesc_safe fun _ =>
     .bind getG_safe fun _ => .bind bisect_safe fun _ => setG_safe)

theorem execLcoord_goesOn {f q a b c s} (h : s.executing = true) : GoesOn (execLcoord f q a b c s) :=
  .onCore h (.bind (start_onCore rfl) fun _ => walkStep_safe <| .bind walkStart_safe fun _ => .bind getG_safe fun _ =>
     .bind getG_safe fun _ => .bind .require fun _ => coordinates_safe)

/-! ### Instructions of the GRE -/

theorem checkGre_safe {cmd op gd block rrt} : OnCore (checkGre cmd op gd block rrt) := by
  refine .bind .require fun _ => .bind engineRead_safe fun _ => ?_
  extract_lets gr check
  have hk b : OnCore (check b) := by
    unfold check
    extract_lets a finish
    have hk x : OnCore (finish x) :=
      .bind .require fun _ => .bind .require fun _ => .bind .require fun _ => .bind capture_safe fun _ => .pure
    exact .ite (.bind .require fun _ => .bind engineRead_safe hk) <| .bind .pure hk
  split
  · exact .bind .pure hk
  · exact .bind .require fun _ => .bind engineRead_safe hk

theorem submitGre_safe {j} : OnCore (submitGre j) := by
  refine .bind .self fun ⟨_, _⟩ => .bind release_safe fun _ => .get_bind fun _ _ => ?_
  extract_lets k cl id submit
  have hk lines : OnCore (submit lines) :=
    .bind (.update fun _ => State.claimLines_turn) fun _ => .pure
  split
  · exact .bind destLines_safe hk
  · exact .bind .pure hk

theorem issueGre_safe {d rs cmd op a rrt block} (hcmd : OnCore cmd) :
    Safe Acts IsCore (issueGre d rs cmd op a rrt block) := by
  refine after_safe <| .bind (start_onCore rfl) fun _ => .bind .self fun ⟨_, _⟩ => .bind hcmd fun _ =>
    .bind getG_safe fun _ => ?_
  extract_lets issue
  have hk base : OnCore (issue base) := by
    refine .bind getG_safe fun _ => .bind (closing_safe <| .get_bind fun _ _ => .bind ?_ fun _ =>
      .bind .waitWhile fun _ => .bind awaitIntake_safe fun _ => .bind checkGre_safe fun _ =>
      .bind submitGre_safe fun _ => .pure) fun _ => setG_safe
    split
    · exact .require
    · exact .pure
  split
  · exact .bind getG_safe hk
  · exact .bind .pure hk

theorem execGexpMemory_goesOn {d a b c s} (h : s.executing = true) : GoesOn (execGexpMemory d a b c s) :=
  .onCore h (issueGre_safe <| .bind getG_safe fun _ => .pure)

theorem takeGre_safe {n id} : OnCore (takeGre n id) := by
  refine .bind .ask fun _ => ?_
  split
  · exact .pure
  · exact .bind (.update fun _ => rfl) fun _ => .bind acquire_safe fun _ => .pure

theorem writeGstat_safe {stat} : OnCore (writeGstat stat) :=
  .bind .self fun ⟨_, _⟩ => .update fun _ => rfl

theorem execGwait_goesOn {a s} (h : s.executing = true) : GoesOn (execGwait a s) :=
  .onCore h (after_safe <| .bind (start_onCore rfl) fun _ => .bind getG_safe fun _ => .bind .self fun ⟨_, _⟩ =>
     .bind (external_safe <| .bind .ask fun _ => .bind .waitWhile fun _ => takeGre_safe) fun _ =>
     .bind writeGstat_safe fun _ => .bind setFlags_safe fun _ => .ite .signalKept .pure)

theorem execGpoll_goesOn {d a s} (h : s.executing = true) : GoesOn (execGpoll d a s) :=
  .onCore h (after_safe <| .bind (start_onCore rfl) fun _ => .bind getG_safe fun _ => .bind .self fun ⟨_, _⟩ =>
     .bind (external_safe <| .bind .ask fun _ => .ite .pure takeGre_safe) fun _ =>
     .bind writeGstat_safe fun _ => .bind setFlags_safe fun _ => setG_safe)

/-! ### Tasks -/

theorem designator_safe {w} : OnCore (designator w) :=
  .bind .self fun ⟨_, _⟩ => .get_bind fun _ _ => .bind .require fun _ =>
  .ite (.bind .require fun _ => .bind .require fun _ => .pure) <| .bind .require fun _ => .pure

theorem myGrid_safe : OnCore myGrid :=
  .bind .self fun ⟨_, _⟩ => .ask

theorem holdItem_safe {i} : OnCore (holdItem i) := by
  refine .bind .self fun ⟨_, _⟩ => .bind .ask fun _ => ?_
  split
  · exact .pure
  · exact .bind .require fun _ => .update fun _ => rfl

theorem payload_safe {gs} : Safe P P (payload gs) :=
  .bind getG_safe fun _ => .bind getG_safe fun _ => .pure

theorem checkPorts_safe {slot} : OnCore (checkPorts slot) :=
  .bind .self fun ⟨_, _⟩ => .get_bind fun _ _ => .require

theorem countPush_safe {slot} : OnCore (countPush slot) :=
  .bind .self fun ⟨_, _⟩ => .update fun _ => rfl

theorem pushFromF_safe {target slot push w0 w1} : OnCore (pushFromF target slot push w0 w1) := by
  refine .bind .self fun ⟨_, _⟩ => .bind myGrid_safe fun ⟨_, _⟩ => .get_bind fun _ _ => ?_
  split
  · exact .pure
  · exact .ite (.bind .waitWhile fun _ => .bind release_safe fun _ => .update fun _ => State.sendItem_turn) <|
      .bind .waitWhile fun _ => .bind release_safe fun _ => .update fun _ => State.deliverRecord_turn

theorem pushRecordTo_safe {target slot push gs} : OnCore (pushRecordTo target slot push gs) := by
  refine .bind .self fun ⟨_, _⟩ => .bind payload_safe fun ⟨_, _⟩ =>
    .ite (.bind checkPorts_safe fun _ =>
       .bind (closing_safe <| .bind pushFromF_safe fun _ => .pure) fun _ => countPush_safe) <|
    .bind myGrid_safe fun ⟨_, _⟩ => .get_bind fun _ _ => ?_
  split
  · exact .pure
  · exact holdItem_safe

theorem checkSlot_safe {slot} : OnCore (checkSlot slot) := by
  refine .bind .self fun ⟨_, _⟩ => .get_bind fun _ _ => ?_
  split
  · exact .pure
  · exact .signal

theorem execPush_goesOn {slot gs s} (h : s.executing = true) : GoesOn (execPush slot gs s) :=
  .onCore h (after_safe <| .bind (start_onCore rfl) fun _ => .bind .require fun _ => .bind checkSlot_safe fun _ =>
     .bind .self fun ⟨_, _⟩ => .bind .ask fun _ => pushRecordTo_safe)

theorem pushRemote_safe {endpoint core slot level w gs} :
    OnCore (pushRemote endpoint core slot level w gs) :=
  .bind .self fun ⟨_, _⟩ => .get_bind fun _ _ => .bind .require fun _ => .bind payload_safe fun ⟨_, _⟩ =>
  .ite (.bind checkPorts_safe fun _ =>
     .bind (closing_safe <| .bind release_safe fun _ => askRemote_safe) fun _ => countPush_safe) holdItem_safe

theorem execPushr_goesOn {gc slot gs s} (h : s.executing = true) : GoesOn (execPushr gc slot gs s) := by
  refine .onCore h (after_safe <| .bind (start_onCore rfl) fun _ => .bind .require fun _ => .bind getG_safe fun _ =>
       .bind designator_safe fun _ => .bind checkSlot_safe fun _ => ?_)
  split
  · exact pushRemote_safe
  · exact .bind .self fun ⟨_, _⟩ => .get_bind fun _ _ => .bind .require fun _ => pushRecordTo_safe

theorem sendHere_safe {target cls high gs} : OnCore (sendHere target cls high gs) := by
  refine .bind .self fun ⟨_, _⟩ => .bind myGrid_safe fun ⟨_, _⟩ => .get_bind fun _ _ => ?_
  split
  · exact .pure
  · split
    · exact .signal
    · exact .bind payload_safe fun ⟨_, _⟩ =>
        .ite (.bind (closing_safe <| .get_bind fun _ _ => .bind .waitWhile fun _ => .bind release_safe fun _ =>
              .bind (.update fun _ => State.sendItem_turn) fun _ => .pure) fun _ => .pure) holdItem_safe

theorem sendMessage_safe {gc cls gs high} : Safe Acts IsCore (sendMessage gc cls gs high) := by
  refine after_safe <| .bind (start_onCore rfl) fun _ => .bind .require fun _ =>
    .bind getG_safe fun _ => .bind designator_safe fun _ => ?_
  split
  · exact sendHere_safe
  · exact .bind .self fun ⟨_, _⟩ => .bind payload_safe fun ⟨_, _⟩ =>
      .ite (.bind (closing_safe <| .bind release_safe fun _ => askRemote_safe) fun _ => .pure) holdItem_safe

theorem myBars_safe : OnCore myBars :=
  .bind .self fun ⟨_, _⟩ => .ask

theorem setBars_safe {l} : OnCore (setBars l) :=
  .bind .self fun ⟨_, _⟩ => .update fun _ => rfl

theorem changeBarrier_safe {lvl n f} : OnCore (changeBarrier lvl n f) :=
  .bind .self fun ⟨_, _⟩ => .update fun _ => by simp

theorem startBarrier_safe {rs lvl} : Safe Acts IsCore (startBarrier rs lvl) :=
  .bind (start_onCore rfl) fun _ => .bind .self fun ⟨_, _⟩ => .get_bind fun _ _ => .require

theorem registration_safe {lvl n} : OnCore (registration lvl n) := by
  refine .bind myBars_safe fun _ => ?_
  split
  · exact .pure
  · exact .signal

theorem execBarj_goesOn {lvl n s} (h : s.executing = true) : GoesOn (execBarj lvl n s) :=
  .onCore h (after_safe <| .bind startBarrier_safe fun _ => .bind myBars_safe fun _ => .bind .require fun _ =>
     .bind changeBarrier_safe fun _ => setBars_safe)

theorem meet_safe {lvl n} : OnCore (meet lvl n) := by
  refine .bind registration_safe fun _ => .bind .self fun ⟨_, _⟩ => .bind .ask fun _ => .bind ?_ fun _ =>
    .bind registration_safe fun _ => .bind .ask fun _ => .ite .waitKept <| .bind myBars_safe fun _ =>
    .bind setBars_safe fun _ => .bind acquire_safe fun _ => .pure
  split
  · exact .pure
  · exact .bind release_safe fun _ => .bind .ask fun _ => .bind myBars_safe fun _ =>
      .bind setBars_safe fun _ => changeBarrier_safe

theorem execBar_goesOn {d lvl n s} (h : s.executing = true) : GoesOn (execBar d lvl n s) :=
  .onCore h (after_safe <| .bind startBarrier_safe fun _ => .bind registration_safe fun _ =>
     .bind (external_safe meet_safe) fun _ => setG_safe)

theorem execBarl_goesOn {lvl n s} (h : s.executing = true) : GoesOn (execBarl lvl n s) :=
  .onCore h (after_safe <| .bind startBarrier_safe fun _ => .bind registration_safe fun _ =>
     .bind myBars_safe fun _ => .bind setBars_safe fun _ => changeBarrier_safe)

theorem execBarst_goesOn {d lvl n s} (h : s.executing = true) : GoesOn (execBarst d lvl n s) :=
  .onCore h (after_safe <| .bind startBarrier_safe fun _ => .bind registration_safe fun _ =>
     .bind .self fun ⟨_, _⟩ => .bind (external_safe .ask) fun _ => setG_safe)

theorem queueLaunch_safe {record} : OnCore (queueLaunch record) :=
  .bind .self fun ⟨_, _⟩ => .get_bind fun _ _ => .ite .pure <|
  .bind (.update fun _ => rfl) fun _ => .pure

theorem execLaunch_goesOn {d a s} (h : s.executing = true) : GoesOn (execLaunch d a s) :=
  .onCore h (after_safe <| .bind (start_onCore rfl) fun _ => .bind .self fun ⟨_, _⟩ => .get_bind fun _ _ =>
     .bind .require fun _ => .bind getG_safe fun _ => .bind .require fun _ => .bind memRead_safe fun _ =>
     .bind (closing_safe <| .bind release_safe fun _ => queueLaunch_safe) fun _ => setG_safe)

theorem allocate_safe {index size} : Safe IsCore Anyone (allocate index size) := by
  refine .bind .self fun ⟨_, _⟩ => .get_bind fun _ _ => ?_
  split
  · exact .done
  · refine .bind locate_safe fun _ => ?_
    split
    · refine .bind waitClaims_safe fun _ => .bind (Q := IsCore) ?_ fun _ => .bind .replace fun _ => ?_
      · split
        · exact .signal
        · exact .pure
      · split <;> exact .pure
    · exact .signal

theorem bump_safe {d a arena trap} : Safe Acts Anyone (bump d a arena trap) := by
  refine after_safe <| .bind (start_onCore rfl) fun _ => .bind getG_safe fun _ =>
    .bind (closing_anyone allocate_safe) fun _ => ?_
  split
  · exact setG_safe
  · exact .ite .signal setG_safe

theorem loadShape_safe {idx} : OnCore (loadShape idx) := by
  refine .bind .self fun ⟨_, _⟩ => .get_bind fun _ _ => .bind .waitWhile fun _ => ?_
  split
  · exact .signal
  · exact .pure

theorem execMld_goesOn {md idx s} (h : s.executing = true) : GoesOn (execMld md idx s) :=
  .runMeaning h (after_safe <| .bind (start_onCore rfl) fun _ => .bind .self fun ⟨_, _⟩ =>
     .bind loadShape_safe fun _ => .change)

theorem execMslice_goesOn {d ms lvl s} (h : s.executing = true) : GoesOn (execMslice d ms lvl s) := by
  refine .onCore h (after_safe <| .bind (start_onCore rfl) fun _ => .bind .self fun ⟨_, _⟩ => .get_bind fun _ _ => ?_)
  dsimp only
  split
  · exact .signal
  · exact .bind .require fun _ => setG_safe

theorem awaitPartner_safe {n joining both} : Safe P Q (awaitPartner n joining both) :=
  .bind .ask fun _ => .bind .ask fun _ =>
  .ite (.bind .change fun _ => .bind .change fun _ => .bind .change fun _ => .leave) <| .ite .wait .waitDo

theorem execPair_goesOn {s} (h : s.executing = true) : GoesOn (execPair s) :=
  .onCore h (.bind (start_onCore rfl) fun _ => .bind privileged_safe fun _ => .bind .self fun ⟨_, _⟩ =>
     .bind .ask fun _ => .ite .ask <| awaitPartner_safe)

theorem execUnpair_goesOn {s} (h : s.executing = true) : GoesOn (execUnpair s) :=
  .onCore h (.bind (start_onCore rfl) fun _ => .bind privileged_safe fun _ => .bind .self fun ⟨_, _⟩ =>
     .get_bind fun _ _ => .bind .require fun _ => .ite .pure <| .ite .waitDo <|
     awaitPartner_safe)

/-! ### Recovery -/

theorem sealWait_safe {resume} : OnCore (sealWait resume) := by
  refine .bind .self fun ⟨_, _⟩ => .get_bind fun _ _ => .ite .waitDo ?_
  split
  · exact .waitDo
  · split
    · exact .bind (.update fun _ => rfl) fun _ => .pure
    · exact .wait
    · exact .wait
    · exact .waitDo

theorem sealMeaning_safe {trap d a} : Safe Acts IsCore (sealMeaning trap d a) :=
  after_safe <| .bind (start_onCore rfl) fun _ => .bind .self fun ⟨_, _⟩ => .get_bind fun _ _ => .bind .require fun _ =>
  .bind getG_safe fun _ => .bind .require fun _ => .bind memRead_safe fun _ =>
  .bind (closing_safe sealWait_safe) fun _ => .bind (.update fun _ => rfl) fun _ =>
  .bind setG_safe fun _ => .ite .signalKept .pure

theorem restoreWait_safe {gid} : Safe IsCore Anyone (restoreWait gid) :=
  .bind .self fun ⟨_, _⟩ => .get_bind fun _ _ => by
    split
    · exact .done
    · refine .ite .done (.ite .waitDo ?_)
      split
      · exact .waitDo
      · exact .ite .waitDo (.bind .replace fun _ => .done)

theorem execRprestore_goesOn {d a s} (h : s.executing = true) : GoesOn (execRprestore d a s) :=
  .runMeaning h (after_safe <| .bind (start_onCore rfl) fun _ => .bind privileged_safe fun _ => .bind getG_safe fun _ =>
     .bind .self fun ⟨_, _⟩ => .bind (closing_anyone restoreWait_safe) fun _ =>
     .join (fun _ => setG_safe) fun _ hk => .ite (hk ()) <| .bind .change hk)

/-! ### Fibres -/

theorem readFibre_safe {va} : OnCore (readFibre va) :=
  .bind .self fun ⟨_, _⟩ => .get_bind fun _ _ => by
    split
    · exact .waitDo
    · exact .signal
    · exact .bind waitClaims_safe fun _ => .bind checkPoison_safe fun _ => .bind readPieces_safe fun _ => .pure

theorem takeFibre_safe {va} : OnCore (takeFibre va) :=
  .bind .self fun ⟨_, _⟩ => .get_bind fun _ _ => .bind .require fun _ => .bind releaseToStreams_safe fun _ =>
  .bind readFibre_safe fun ⟨_, _⟩ => .bind .require fun _ => .bind .require fun _ =>
  .bind (.ite .signalDo .pure) fun _ =>
  .bind (.update fun _ => State.writeReached_turn) fun _ => .pure

theorem loadShapes_safe {bs} : OnCore (loadShapes bs) :=
  .mapM (fun _ => .bind loadShape_safe fun _ => .pure) _

theorem execFresume_goesOn {a s} (h : s.executing = true) : GoesOn (execFresume a s) :=
  .onCore h (.bind (start_onCore rfl) fun _ => .bind .self fun ⟨_, _⟩ => .bind getG_safe fun _ =>
     .bind (closing_safe takeFibre_safe) fun _ => .bind loadShapes_safe fun _ =>
     .bind .change fun _ => .leave)

/-! ### Scalar instructions -/

theorem twoRegs_safe {len d a b f} : Safe P P (twoRegs len d a b f) :=
  after_safe <| .bind start_safe fun _ => .bind getG_safe fun _ => .bind getG_safe fun _ => setG_safe

theorem oneReg_safe {len d a f} : Safe P P (oneReg len d a f) :=
  after_safe <| .bind start_safe fun _ => .bind getG_safe fun _ => setG_safe

theorem dividing_safe {d a b f} : Safe P P (dividing d a b f) :=
  after_safe <| .bind start_safe fun _ => .bind getG_safe fun _ => .bind getG_safe fun _ =>
  .bind .ask fun _ => .bind .require fun _ => setG_safe

theorem execBfx_goesOn {d a pos lenm1 s} (h : s.executing = true) : GoesOn (execBfx d a pos lenm1 s) :=
  .runMeaning h (after_safe <| .bind start_safe fun _ =>
     .bind .require fun _ => .bind getG_safe fun _ => setG_safe)

theorem execBfi_goesOn {d a pos lenm1 s} (h : s.executing = true) : GoesOn (execBfi d a pos lenm1 s) :=
  .runMeaning h (after_safe <| .bind start_safe fun _ => .bind .require fun _ =>
     .bind getG_safe fun _ => .bind getG_safe fun _ => setG_safe)

theorem execLui_goesOn {d i s} (h : s.executing = true) : GoesOn (execLui d i s) :=
  .runMeaning h (after_safe <| .bind start_safe fun _ => setG_safe)

theorem execAddpc_goesOn {d i s} (h : s.executing = true) : GoesOn (execAddpc d i s) :=
  .runMeaning h (after_safe <| .bind start_safe fun _ => .bind .ask fun _ => setG_safe)

/-! ### Mask instructions -/

theorem bitwise_safe {k q d a b op} : Safe Acts IsCore (bitwise k q d a b op) :=
  after_safe <| .bind (start_onCore rfl) fun _ => .bind getMask_safe fun _ => .bind vectorSources_safe fun _ =>
  .bind oldValue_safe fun _ => .bind getSeed_safe fun _ => putLanes_safe

theorem residueOp_safe {k q d srcs op} : Safe Acts IsCore (residueOp k q d srcs op) :=
  after_safe <| .bind (start_onCore rfl) fun _ => .bind getMask_safe fun _ => .bind vectorSources_safe fun _ =>
  .bind oldValue_safe fun _ => .bind getSeed_safe fun _ => putLanes_safe

theorem maskOp_safe {d op} : Safe Acts IsCore (maskOp d op) :=
  after_safe <| .bind (start_onCore rfl) fun _ => .bind .self fun ⟨_, _⟩ =>
  .bind .require fun _ => .bind .ask fun _ => setMask_safe

theorem execGmvv_goesOn {q d a s} (h : s.executing = true) : GoesOn (execGmvv q d a s) :=
  .onCore h (after_safe <| .bind (start_onCore rfl) fun _ =>
     .bind vectorSources_safe fun _ => .bind getG_safe fun _ => putVector_safe)

theorem execKpop_goesOn {d a s} (h : s.executing = true) : GoesOn (execKpop d a s) :=
  .onCore h (after_safe <| .bind (start_onCore rfl) fun _ => .bind .self fun ⟨_, _⟩ =>
     .bind .require fun _ => .bind .ask fun _ => setG_safe)

theorem execRnto_goesOn {k q d a s} (h : s.executing = true) : GoesOn (execRnto k q d a s) :=
  .onCore h (after_safe <| .bind (start_onCore rfl) fun _ => .bind getMask_safe fun _ =>
     .bind vectorSources_safe fun _ => .bind oldValue_safe fun _ => .bind getSeed_safe fun _ =>
     .bind rangeCheck_safe fun _ => putLanes_safe)

/-! ### Long vector instructions -/

theorem execVcvt_goesOn {a0 sfmt p d a s} (h : s.executing = true) : GoesOn (execVcvt a0 sfmt p d a s) :=
  .onCore h (after_safe <| .bind VecForm.begin_safe fun ⟨_, _⟩ => .bind vectorSources_safe fun _ =>
     .bind oldValue_safe fun _ => .bind getSeed_safe fun _ => .bind rangeCheck_safe fun _ => putLanes_safe)

theorem execVmxscale_goesOn {a0 b16 p d a s} (h : s.executing = true) : GoesOn (execVmxscale a0 b16 p d a s) :=
  .onCore h (after_safe <| .bind VecForm.begin_safe fun ⟨_, _⟩ => .bind vectorSources_safe fun _ =>
     .bind oldValue_safe fun _ => .bind setFlags_safe fun _ => putVector_safe)

theorem execVmxq_goesOn {a0 b16 qp p d a b s} (h : s.executing = true) : GoesOn (execVmxq a0 b16 qp p d a b s) :=
  .onCore h (after_safe <| .bind VecForm.begin_safe fun ⟨_, _⟩ => .bind vectorSources_safe fun _ =>
     .bind oldValue_safe fun _ => .bind getSeed_safe fun _ => putLanes_safe)

theorem execVdotMx_goesOn {a0 b16 d a b c s} (h : s.executing = true) : GoesOn (execVdotMx a0 b16 d a b c s) :=
  .onCore h (after_safe <| .bind VecForm.begin_safe fun ⟨_, _⟩ =>
     .bind vectorSources_safe fun _ => .bind setFlags_safe fun _ => putVector_safe)

/-! ### Walks -/

theorem execWldp_goesOn {d a s} (h : s.executing = true) : GoesOn (execWldp d a s) :=
  .runMeaning h (after_safe <| .bind start_safe fun _ => .bind getG_safe fun _ => .get_bind fun _ _ =>
     .bind .require fun _ => .bind .waitWhile fun _ => .bind .require fun _ => setG_safe)

theorem execWret_goesOn {a b s} (h : s.executing = true) : GoesOn (execWret a b s) := by
  refine .runMeaning_of_ends (Q := Anyone) h ?_
  obtain hs | ⟨c, hs⟩ := start_stays .walk [a, b] s
  · rw [M.bind_ok hs, M.bind_ok (getG_run a s), M.bind_ok (getG_run b s), M.bind_ok (get_run s)]
    cases ht : s.turn with
    | walker d tid =>
      obtain ⟨t, htid⟩ := Option.isSome_iff_exists.mp (show (s.thread d tid).isSome = true by
        simpa [State.executing, ht] using h)
      dsimp only
      rw [htid]
      refine Safe.ends (P := Anyone) (.ite (.bind .replace fun _ => .leave) ?_) s trivial
      split
      · exact .signal
      · exact .bind .require fun _ => .bind .replace fun _ => .leave
    | env | core | io => trivial
  · rw [M.bind_error hs]
    trivial

end

/-! ### Events -/

theorem execAtomicActivation_goesOn {core s} : GoesOn (execAtomicActivation core s) := by
  unfold execAtomicActivation
  dsimp only
  split
  · split
    · refine .ite .next ?_
      split <;> exact .next
    · exact .next
  · exact .next

theorem execBseJobStart_goesOn {cluster s} : GoesOn (execBseJobStart cluster s) := by
  unfold execBseJobStart
  dsimp only
  split <;> exact .next

theorem execBseJobComplete_goesOn {cluster s} : GoesOn (execBseJobComplete cluster s) := by
  unfold execBseJobComplete
  split <;> exact .next

theorem execCopyPageFault_goesOn {core ch s} : GoesOn (execCopyPageFault core ch s) := by
  unfold execCopyPageFault
  split
  · exact .next
  · split <;> exact .next

theorem execCopyFaultDelivery_goesOn {core s} : GoesOn (execCopyFaultDelivery core s) := by
  refine .ite .next ?_
  split <;> exact .next

theorem execCopyTransferComplete_goesOn {core ch s} : GoesOn (execCopyTransferComplete core ch s) := by
  unfold execCopyTransferComplete
  split
  · exact .next
  · exact .ite .next (.ite .next .next)

theorem execDActivationStart_goesOn {core s} : GoesOn (execDActivationStart core s) := by
  unfold execDActivationStart
  dsimp only
  split
  · exact .ite .next .next
  · exact .next

theorem execGreJobStart_goesOn {cluster s} : GoesOn (execGreJobStart cluster s) := by
  unfold execGreJobStart
  split <;> exact .next

theorem execGreJobComplete_goesOn {cluster s} : GoesOn (execGreJobComplete cluster s) := by
  unfold execGreJobComplete
  split
  · exact .next
  · split <;> exact .next

theorem execClaimedLineFinished_goesOn {cluster s} : GoesOn (execClaimedLineFinished cluster s) := by
  unfold execClaimedLineFinished
  split
  · exact .next
  · split <;> exact .next

theorem execCompletionPush_goesOn {cluster s} : GoesOn (execCompletionPush cluster s) := by
  unfold execCompletionPush
  split
  · exact .next
  · split <;> exact .next

theorem execInboundRequest_goesOn {port r s} : GoesOn (execInboundRequest port r s) := by
  refine .ite .next ?_
  split
  · exact .next
  · exact .ite .next <| .ite .next <| .ite .next <| .ite .next .next

theorem execInboundMessage_goesOn {port m s} : GoesOn (execInboundMessage port m s) := by
  refine .ite .next ?_
  split
  · exact .next
  · split
    · exact .next
    · split
      · exact .next
      · split <;> exact .next

theorem execMigrationComplete_goesOn {page data s} : GoesOn (execMigrationComplete page data s) := by
  unfold execMigrationComplete
  dsimp only
  split <;> exact .next

theorem execFiringStart_goesOn {core s} : GoesOn (execFiringStart core s) := by
  refine .ite .next ?_
  split
  · exact .next
  · split <;> exact .next

theorem execStealRequest_goesOn {core s} : GoesOn (execStealRequest core s) := by
  refine .ite .next ?_
  split <;> exact .next

theorem execStealAnswer_goesOn {core s} : GoesOn (execStealAnswer core s) := by
  unfold execStealAnswer
  dsimp only
  split
  · split
    · split
      · exact .next
      · exact .next
    · exact .next
  · exact .next
  · exact .next

theorem execMessageArrival_goesOn {core s} : GoesOn (execMessageArrival core s) := by
  unfold execMessageArrival
  dsimp only
  split
  · exact .next
  · exact .ite .next .next

theorem execPinnedRecord_goesOn {core s} : GoesOn (execPinnedRecord core s) := by
  unfold execPinnedRecord
  dsimp only
  split
  · exact .next
  · refine .ite .next ?_
    split <;> exact .next

theorem execRecordPushRetry_goesOn {core s} : GoesOn (execRecordPushRetry core s) := by
  unfold execRecordPushRetry
  dsimp only
  split <;> exact .next

theorem execHActivationStart_goesOn {core s} : GoesOn (execHActivationStart core s) := by
  unfold execHActivationStart
  dsimp only
  split
  · exact .next
  · split
    · exact .ite .next .next
    · exact .next

theorem execPoisonSenderNotice_goesOn {core s} : GoesOn (execPoisonSenderNotice core s) := by
  unfold execPoisonSenderNotice
  split
  · exact .ite .next .next
  · exact .next

theorem execLaunchStart_goesOn {die clusters s} : GoesOn (execLaunchStart die clusters s) := by
  unfold execLaunchStart
  dsimp only
  split
  · exact .next
  · refine .ite .next ?_
    split
    · exact .next
    · exact .next
    · refine .ite .next ?_
      split
      · exact .next
      · exact .next
      · exact .ite .next .next

theorem execGridCompletion_goesOn {grid s} : GoesOn (execGridCompletion grid s) := by
  unfold execGridCompletion
  split
  · exact .ite .next .next
  · split
    · exact .ite .next .next
    · exact .next

theorem execHostDoorbell_goesOn {die io qp value s} : GoesOn (execHostDoorbell die io qp value s) := by
  unfold execHostDoorbell
  split
  · exact .next
  · exact .ite .next .next

theorem execKeepWrite_goesOn {ctrl s} : GoesOn (execKeepWrite ctrl s) := by
  unfold execKeepWrite
  split <;> exact .next

theorem execRcReleaseComplete_goesOn {core ctx s} : GoesOn (execRcReleaseComplete core ctx s) := by
  refine .ite ?_ .next
  dsimp only
  split <;> exact .next

theorem execSealDecision_goesOn {grid s} : GoesOn (execSealDecision grid s) := by
  unfold execSealDecision
  split
  · exact .next
  · refine .ite .next ?_
    dsimp only
    split
    · exact .next
    · split
      · exact .next
      · exact .ite .next .next

theorem execSealPrepare_goesOn {grid ctrl s} : GoesOn (execSealPrepare grid ctrl s) := by
  unfold execSealPrepare
  split
  · exact .next
  · exact .ite .next .next

theorem execSealCommit_goesOn {grid s} : GoesOn (execSealCommit grid s) := by
  unfold execSealCommit
  split
  · exact .next
  · exact .ite .next .next

theorem execSealFlip_goesOn {grid s} : GoesOn (execSealFlip grid s) := by
  unfold execSealFlip
  split
  · exact .next
  · split <;> exact .next

theorem execSealAbandon_goesOn {grid s} : GoesOn (execSealAbandon grid s) := by
  unfold execSealAbandon
  split
  · exact .next
  · split <;> exact .next

theorem execQuantumBoundary_goesOn {grid s} : GoesOn (execQuantumBoundary grid s) := by
  unfold execQuantumBoundary
  split
  · exact .next
  · exact .ite .next .next

theorem execGreDrainExpiry_goesOn {grid team s} : GoesOn (execGreDrainExpiry grid team s) := by
  unfold execGreDrainExpiry
  split
  · exact .next
  · exact .ite .next .next

theorem execTeamSwapOut_goesOn {grid team s} : GoesOn (execTeamSwapOut grid team s) := by
  unfold execTeamSwapOut
  split
  · exact .next
  · refine .ite .next ?_
    split
    · exact .next
    · exact .ite .next .next

theorem execTeamRestore_goesOn {grid team cluster s} : GoesOn (execTeamRestore grid team cluster s) := by
  unfold execTeamRestore
  split
  · exact .next
  · dsimp only
    refine .ite .next ?_
    split <;> exact .next

theorem execGatingBufferParityError_goesOn {core idx s} : GoesOn (execGatingBufferParityError core idx s) := by
  unfold execGatingBufferParityError
  split
  · exact .next
  · exact .ite .next <| .ite .next .next

theorem execScrub_goesOn {store at_ found s} : GoesOn (execScrub store at_ found s) := by
  refine .ite .next ?_
  split <;> exact .next

theorem execDieReload_goesOn {die s} : GoesOn (execDieReload die s) := by
  unfold execDieReload
  dsimp only
  split
  · exact .next
  · exact .ite .next <| .ite .next .next

theorem execAttestationRequest_goesOn {port nonce s} : GoesOn (execAttestationRequest port nonce s) := by
  unfold execAttestationRequest
  split
  · exact .next
  · exact .ite .next .next

theorem execTlbMissWalk_goesOn {die s} : GoesOn (execTlbMissWalk die s) := by
  unfold execTlbMissWalk
  dsimp only
  split
  · exact .next
  · refine .ite .next ?_
    split <;> exact .next

theorem execWalkLimitExceeded_goesOn {die tid s} : GoesOn (execWalkLimitExceeded die tid s) := by
  unfold execWalkLimitExceeded
  split
  · exact .ite .next .next
  · exact .next

/-! ### Every instruction and event -/

theorem exec_goesOn {s} (h : s.executing = true) (i : Instr) : GoesOn (exec i s) := by
  cases i
  case add | sub | and | or | xor | sll | srl | sra | slt | sltu | min | max | minu | maxu | mul | mulh | mulhu |
    c16AddRr | c16Mov | c16Sub | c16And | c16Or | c16Xor =>
    exact .runMeaning h twoRegs_safe
  case div | divu | rem | remu => exact .runMeaning h dividing_safe
  case clz | ctz | popc | extB | extH | extW | addImm | andImm | orImm | xorImm | sltImm | sltuImm | sllImm | srlImm
    | sraImm | addXi | andXi | orXi | xorXi | sltXi | sltuXi | c16AddImm | c16Li | c16Sll | c16Srl | c16Sra =>
    exact .runMeaning h oneReg_safe
  case bfx => exact execBfx_goesOn h
  case bfi => exact execBfi_goesOn h
  case lui => exact execLui_goesOn h
  case addpc => exact execAddpc_goesOn h
  case jal | c16J | c16Jal => exact .runMeaning h jumpLink_safe
  case jalr | c16Jr | c16Jalr => exact .runMeaning h jumpRegister_safe
  case beq | bne | blt | bge | bltu | bgeu => exact .runMeaning h branchIf_safe
  case bqe => exact execBqe_goesOn h
  case ldB | ldH | ldW | ldD | lduB | lduH | lduW | ldBXl | ldHXl | ldWXl | ldDXl | lduBXl | lduHXl | lduWXl |
    c16LdDSp | c16LdW | c16LdD =>
    exact .runMeaning h loadTo_safe
  case stB | stH | stW | stD | stBXl | stHXl | stWXl | stDXl | c16StDSp | c16StW | c16StD =>
    exact .runMeaning h storeFrom_safe
  case pref | prefXl => exact .runMeaning h prefetchAt_safe
  case vld | vldXl => exact .runMeaning h vectorLoad_safe
  case vst | vstXl => exact .runMeaning h vectorStore_safe
  case amoAddW | amoAndW | amoOrW | amoXorW | amoMinW | amoMaxW | amoMinuW | amoMaxuW | amoSwapW | amoFaddW |
    amoFminW | amoFmaxW | casW | amoAddD | amoAndD | amoOrD | amoXorD | amoMinD | amoMaxD | amoMinuD | amoMaxuD |
    amoSwapD | casD | amoAddXa | amoAndXa | amoOrXa | amoXorXa | amoMinXa | amoMaxXa | amoMinuXa | amoMaxuXa |
    amoSwapXa | amoFaddXa | amoFminXa | amoFmaxXa | casXa =>
    exact .runMeaning h atomic_safe
  case atomicActivation => exact execAtomicActivation_goesOn
  case fence => exact execFence_goesOn h
  case rpseal | rpsealT => exact .runMeaning h sealMeaning_safe
  case rprestore => exact execRprestore_goesOn h
  case sysc => exact execSysc_goesOn h
  case retk => exact execRetk_goesOn h
  case wfi => exact execWfi_goesOn h
  case fend | c16Fend => exact .runMeaning h endWork_safe
  case brk | c16Brk => exact .runMeaning h breakpoint_safe
  case tlbinv => exact execTlbinv_goesOn h
  case l1inv => exact execL1inv_goesOn h
  case srr => exact execSrr_goesOn h
  case srw | srs | src => exact .runMeaning h srModify_safe
  case hint | hint64 | c16Nop => exact .runMeaning h (after_safe start_safe)
  case reservedEncoding => exact .onCore h .signal
  case lstr => exact execLstr_goesOn h
  case sstr => exact execSstr_goesOn h
  case qend => exact execQend_goesOn h
  case qpeek => exact execQpeek_goesOn h
  case qpeekD => exact execQpeekD_goesOn h
  case qcnt => exact execQcnt_goesOn h
  case push => exact execPush_goesOn h
  case pushr => exact execPushr_goesOn h
  case send | sendh => exact .runMeaning h sendMessage_safe
  case barj => exact execBarj_goesOn h
  case bar => exact execBar_goesOn h
  case barl => exact execBarl_goesOn h
  case barst => exact execBarst_goesOn h
  case launch => exact execLaunch_goesOn h
  case abump | abumpT => exact .runMeaning h bump_safe
  case mld => exact execMld_goesOn h
  case mslice => exact execMslice_goesOn h
  case fresume => exact execFresume_goesOn h
  case pair => exact execPair_goesOn h
  case unpair => exact execUnpair_goesOn h
  case vadd | vsub | vmul | vfma | vfms | vabs | vneg | vaddXv | vsubXv | vmulXv | vfmaXv | vfmsXv | vabsXv | vnegXv
    =>
    exact .runMeaning h VecForm.arith_safe
  case vmin | vmax | vminXv | vmaxXv => exact .runMeaning h VecForm.select_safe
  case vrcp | vrsq | vexp2 | vlog2 | vrcpXv | vrsqXv | vexp2Xv | vlog2Xv => exact .onCore h VecForm.function_safe
  case vshl | vshr | vshrA | vshlXv | vshrXv | vshrAXv => exact .runMeaning h VecForm.shift_safe
  case vcmpEq | vcmpNe | vcmpLt | vcmpLe | vcmpEqXv | vcmpNeXv | vcmpLtXv | vcmpLeXv =>
    exact .runMeaning h VecForm.compare_safe
  case vsel | vselXv => exact .runMeaning h VecForm.choose_safe
  case vperm | vpermXv => exact .runMeaning h VecForm.permute_safe
  case vslideUp | vslideDn | vslideUpXv | vslideDnXv => exact .runMeaning h VecForm.slide_safe
  case vbcast | vbcastXv => exact .runMeaning h VecForm.broadcast_safe
  case vredAdd | vredMin | vredMax | vredAddXv | vredMinXv | vredMaxXv =>
    exact .runMeaning h VecForm.reduction_safe
  case vscanAdd | vscanAddXv => exact .runMeaning h VecForm.scan_safe
  case vmvg | vmvgXv => exact .runMeaning h VecForm.toGeneral_safe
  case vand | vor | vxor => exact .runMeaning h bitwise_safe
  case gmvv => exact execGmvv_goesOn h
  case kand | kor | knot => exact .runMeaning h maskOp_safe
  case kpop => exact execKpop_goesOn h
  case rnadd | rnmul | rnfrom => exact .runMeaning h residueOp_safe
  case rnto => exact execRnto_goesOn h
  case vcvt => exact execVcvt_goesOn h
  case vmxscale => exact execVmxscale_goesOn h
  case vmxq => exact execVmxq_goesOn h
  case vdotMx => exact execVdotMx_goesOn h
  case vlds | vldx => exact .runMeaning h vectorGather_safe
  case vsts | vstx => exact .runMeaning h vectorScatter_safe
  case lidx => exact execLidx_goesOn h
  case lsisect => exact execLsisect_goesOn h
  case lmerge => exact execLmerge_goesOn h
  case lmpart => exact execLmpart_goesOn h
  case lcoord => exact execLcoord_goesOn h
  case sscat => exact execSscat_goesOn h
  case bldw => exact .runMeaning h (issueBse_safe checkLoad_safe)
  case bldwGexp => exact .runMeaning h (issueBse_safe checkLoadGexp_safe)
  case bset => exact execBset_goesOn h
  case bstg | bchn => exact .runMeaning h (issueBse_safe checkChain_safe)
  case bmma | bmmap => exact .runMeaning h (issueBse_safe checkTile_safe)
  case baccKeep | baccTake | baccClr | baccRes | baccRestake => exact .runMeaning h (issueBse_safe checkReadout_safe)
  case brst => exact execBrst_goesOn h
  case bwait => exact execBwait_goesOn h
  case bpoll => exact execBpoll_goesOn h
  case geval | gred | gseek | gpfx | gexpQueue | gexpWp | gmv => exact .runMeaning h (issueGre_safe .pure)
  case gexpMemory => exact execGexpMemory_goesOn h
  case gwait => exact execGwait_goesOn h
  case gpoll => exact execGpoll_goesOn h
  case cpyq | cpyqb => exact .runMeaning h copyIssue_safe
  case cwait => exact execCwait_goesOn h
  case cpoll => exact execCpoll_goesOn h
  case wldp => exact execWldp_goesOn h
  case wret => exact execWret_goesOn h
  case tlbMissWalk => exact execTlbMissWalk_goesOn
  case walkLimitExceeded => exact execWalkLimitExceeded_goesOn
  case hostDoorbell => exact execHostDoorbell_goesOn
  case launchStart => exact execLaunchStart_goesOn
  case gridCompletion => exact execGridCompletion_goesOn
  case firingStart => exact execFiringStart_goesOn
  case stealRequest => exact execStealRequest_goesOn
  case stealAnswer => exact execStealAnswer_goesOn
  case messageArrival => exact execMessageArrival_goesOn
  case hActivationStart => exact execHActivationStart_goesOn
  case pinnedRecord => exact execPinnedRecord_goesOn
  case recordPushRetry => exact execRecordPushRetry_goesOn
  case dActivationStart => exact execDActivationStart_goesOn
  case poisonSenderNotice => exact execPoisonSenderNotice_goesOn
  case quantumBoundary => exact execQuantumBoundary_goesOn
  case teamSwapOut => exact execTeamSwapOut_goesOn
  case greDrainExpiry => exact execGreDrainExpiry_goesOn
  case teamRestore => exact execTeamRestore_goesOn
  case bseJobStart => exact execBseJobStart_goesOn
  case bseJobComplete => exact execBseJobComplete_goesOn
  case greJobStart => exact execGreJobStart_goesOn
  case greJobComplete => exact execGreJobComplete_goesOn
  case completionPush => exact execCompletionPush_goesOn
  case copyPageFault => exact execCopyPageFault_goesOn
  case copyFaultDelivery => exact execCopyFaultDelivery_goesOn
  case copyTransferComplete => exact execCopyTransferComplete_goesOn
  case keepWrite => exact execKeepWrite_goesOn
  case rcReleaseComplete => exact execRcReleaseComplete_goesOn
  case sealDecision => exact execSealDecision_goesOn
  case sealPrepare => exact execSealPrepare_goesOn
  case sealCommit => exact execSealCommit_goesOn
  case sealFlip => exact execSealFlip_goesOn
  case sealAbandon => exact execSealAbandon_goesOn
  case dieReload => exact execDieReload_goesOn
  case scrub => exact execScrub_goesOn
  case migrationComplete => exact execMigrationComplete_goesOn
  case inboundRequest => exact execInboundRequest_goesOn
  case inboundMessage => exact execInboundMessage_goesOn
  case attestationRequest => exact execAttestationRequest_goesOn
  case claimedLineFinished => exact execClaimedLineFinished_goesOn
  case gatingBufferParityError => exact execGatingBufferParityError_goesOn
  case copyResume | copyAbort | copyDispatch | remoteTimeout | directoryRecall | wfiTimeout | machineCheck |
    storeBufferDrain | dieReset | forecastUpdate | powerManagerTick | thermalThrottle | thermalRecover |
    thermalReset | ctlsemLeaseExpiry | powerOn | firmwareDownload | vectorPackage | routeTableWrite | keyTableWrite |
    frameOwnerWrite | shareTableWrite | powerCapWrite | controlRegisterWrite | resetRequest =>
    exact .next
  case remoteResponse | portDown | linkLevelRetry | egressArbitration | migrationHoldExpiry | firingWatchdog |
    stealRoundTimeout | poisonRedelivery | activationParityError | partnerTimeout | pairTimeout |
    recordStoreParityError | contextLost | correctedErrorThreshold =>
    exact .ite .next .next
  case linkTraining | migrationRequest | selfTestStart | selfTestComplete | activationLimit =>
    exact .ite .next <| .ite .next .next
  case fingerprintExchange => exact .ite .next <| .ite .next <| .ite .next .next
  case firingRetire => exact .ite .next <| .ite .next <| .ite .next <| .ite .next .next
  case ctlsemWrite => exact .ite (.ite .next .next) <| .ite .next <| .ite .next <| .ite .next .next

/-- Settles O58: no instruction's meaning raises the machine fault, every event names a next state, and a retirement
moves the offset alone (`State.retire_movedTo`). -/
theorem execution : Obligations.Execution := by
  unfold Obligations.Execution
  exact ⟨fun i _ h => exec_goesOn h i, fun _ next h => State.retire_movedTo h next⟩

end Sys2Proof.Machine

end

section

namespace Sys2Proof.Laws.Roundtrip

/-! ## Decode of encode, for every instruction -/

/-- The word of every well-formed instruction decodes to it: one law for each constructor of `Instr`, in their order. -/
theorem statement (i : Instr) : Statement i :=
  i.casesOn
    add sub and or xor sll srl sra slt sltu min max minu maxu mul mulh mulhu div divu rem remu clz ctz popc extB
    extH extW addImm andImm orImm xorImm sltImm sltuImm sllImm srlImm sraImm addXi andXi orXi xorXi sltXi sltuXi bfx
    bfi lui addpc jal jalr beq bne blt bge bltu bgeu bqe ldB ldH ldW ldD lduB lduH lduW stB stH stW stD pref vld vst
    ldBXl ldHXl ldWXl ldDXl lduBXl lduHXl lduWXl stBXl stHXl stWXl stDXl prefXl vldXl vstXl amoAddW amoAndW amoOrW
    amoXorW amoMinW amoMaxW amoMinuW amoMaxuW amoSwapW amoFaddW amoFminW amoFmaxW casW amoAddD amoAndD amoOrD
    amoXorD amoMinD amoMaxD amoMinuD amoMaxuD amoSwapD casD amoAddXa amoAndXa amoOrXa amoXorXa amoMinXa amoMaxXa
    amoMinuXa amoMaxuXa amoSwapXa amoFaddXa amoFminXa amoFmaxXa casXa atomicActivation fence rpseal rpsealT
    rprestore sysc retk wfi fend brk tlbinv l1inv srr srw srs src hint hint64 reservedEncoding lstr sstr qend qpeek
    qpeekD qcnt push pushr send sendh barj bar barl barst launch abump abumpT mld mslice fresume pair unpair vadd
    vsub vmul vfma vfms vmin vmax vabs vneg vrcp vrsq vexp2 vlog2 vshl vshr vshrA vcmpEq vcmpNe vcmpLt vcmpLe vsel
    vperm vslideUp vslideDn vbcast vredAdd vredMin vredMax vscanAdd vmvg vand vor vxor gmvv kand kor knot kpop rnadd
    rnmul rnfrom rnto vaddXv vsubXv vmulXv vfmaXv vfmsXv vminXv vmaxXv vabsXv vnegXv vrcpXv vrsqXv vexp2Xv vlog2Xv
    vshlXv vshrXv vshrAXv vcmpEqXv vcmpNeXv vcmpLtXv vcmpLeXv vselXv vpermXv vslideUpXv vslideDnXv vbcastXv
    vredAddXv vredMinXv vredMaxXv vscanAddXv vmvgXv vcvt vmxscale vmxq vdotMx vlds vsts vldx vstx c16AddRr c16Mov
    c16AddImm c16Li c16Sub c16And c16Or c16Xor c16Sll c16Srl c16Sra c16LdDSp c16StDSp c16LdW c16StW c16LdD c16StD
    c16J c16Jal c16Jr c16Jalr c16Nop c16Fend c16Brk lidx lsisect lmerge lmpart lcoord sscat bldw bldwGexp bset bstg
    bchn bmma bmmap baccKeep baccTake baccClr baccRes baccRestake brst bwait bpoll geval gred gseek gpfx gexpMemory
    gexpQueue gexpWp gmv gwait gpoll cpyq cpyqb copyResume copyAbort cwait cpoll wldp wret tlbMissWalk
    walkLimitExceeded hostDoorbell launchStart gridCompletion firingStart firingRetire firingWatchdog stealRequest
    stealAnswer stealRoundTimeout messageArrival hActivationStart pinnedRecord recordPushRetry activationLimit
    dActivationStart poisonRedelivery poisonSenderNotice quantumBoundary teamSwapOut greDrainExpiry teamRestore
    wfiTimeout bseJobStart bseJobComplete greJobStart greJobComplete completionPush copyDispatch copyPageFault
    copyFaultDelivery copyTransferComplete keepWrite rcReleaseComplete sealDecision sealPrepare sealCommit sealFlip
    sealAbandon fingerprintExchange partnerTimeout pairTimeout recordStoreParityError contextLost machineCheck
    dieReset dieReload scrub selfTestStart selfTestComplete vectorPackage forecastUpdate powerManagerTick
    thermalThrottle thermalRecover thermalReset migrationRequest migrationComplete migrationHoldExpiry linkTraining
    portDown inboundRequest inboundMessage remoteResponse remoteTimeout egressArbitration directoryRecall
    ctlsemWrite ctlsemLeaseExpiry powerOn firmwareDownload attestationRequest routeTableWrite keyTableWrite
    frameOwnerWrite shareTableWrite powerCapWrite resetRequest controlRegisterWrite storeBufferDrain
    claimedLineFinished gatingBufferParityError activationParityError correctedErrorThreshold linkLevelRetry

/-- Settles O1, constructor by constructor: `statement` takes the law of each form. -/
theorem decode_of_encode : Obligations.Decode_of_encode := by
  unfold Obligations.Decode_of_encode
  exact statement

end Sys2Proof.Laws.Roundtrip

end

section

namespace Sys2Proof

/-! ## What the decoder gives is well-formed

`Gives r` says that whatever instruction a decoder answers is well-formed. The lemmas after it say what that asks of
each check of a field (R50, R54, R60): what passes the check is known where the rest is read. -/

/-- The answer of a decoder is a well-formed instruction, or none. -/
def Gives (r : Except Reserved Instr) : Prop := ∀ i, r = .ok i → i.wf = true

namespace Gives

variable {r : Except Reserved Instr}

theorem ok {i : Instr} (h : i.wf = true) : Gives (.ok i) := fun _ e => Except.ok.inj e ▸ h

theorem error {why : Reserved} : Gives (.error why) := fun _ e => by cases e

theorem need {b : Bool} {why : Reserved} (h : b = true → Gives r) : Gives (need b why r) := by
  cases b with
  | false => exact error
  | true => exact h rfl

theorem zero {x : Nat} (h : x = 0 → Gives r) : Gives (zero x r) := need fun e => h (eq_of_beq e)

theorem fmt {c : Nat} {g : Fmt → Except Reserved Instr} (h : ∀ f, Gives (g f)) : Gives (withFmt c g) := by
  unfold withFmt
  split <;> [exact h _; exact error]

theorem rnd {c : Nat} {g : Rnd → Except Reserved Instr} (h : ∀ x, Gives (g x)) : Gives (withRnd c g) := by
  unfold withRnd
  split <;> [exact h _; exact error]

theorem op {c : Nat} {g : GOp → Except Reserved Instr} (h : ∀ x, Gives (g x)) : Gives (withOp c g) := by
  unfold withOp
  split <;> [exact h _; exact error]

/-- Code 0 is the scope `.co` alone. -/
theorem scopeOf_zero {s : Nat} {sc : Scope} (h : scopeOf s = some sc) (hs : s = 0) : sc = .co := by
  subst hs
  exact (Option.some.inj h).symm

/-- Code 0 alone is a plain access. -/
theorem ordOf_plain {o : Nat} (ho : o < 4) (h : ordOf o = .plain) : o = 0 := by
  interval_cases o
  · rfl
  all_goals cases h

/-- An access that passes the checks of its ord and scope fields has a legal qualifier. -/
theorem qual {w lo s : Nat} {g : Qual → Except Reserved Instr} (h : ∀ ql : Qual, ql.wf = true → Gives (g ql)) :
    Gives (withQual (fld w lo 2) s g) := by
  have ho : fld w lo 2 < 4 := Nat.mod_lt _ (by decide)
  unfold withQual
  split
  · rename_i sc hsc
    refine need fun e => h _ ?_
    by_cases hp : ordOf (fld w lo 2) = .plain
    · have hs : s = 0 := by simpa [ordOf_plain ho hp] using e
      simp [Qual.wf, scopeOf_zero hsc hs]
    · simp [Qual.wf, hp]
  · exact error

theorem fenceQual {o s : Nat} {g : Qual → Except Reserved Instr} (h : ∀ ql, Gives (g ql)) :
    Gives (withFenceQual o s g) := by
  unfold withFenceQual
  split <;> [exact h _; exact error]

theorem queue {c : Nat} {g : QReg → Except Reserved Instr} (h : ∀ q, Gives (g q)) : Gives (withQueue c g) :=
  need fun _ => h _

theorem halfFile {c : Nat} {g : Fin 16 → Except Reserved Instr} (h : ∀ r, Gives (g r)) : Gives (withHalfFile c g) :=
  need fun _ => h _

theorem mask {c : Nat} {g : KReg → Except Reserved Instr} (h : ∀ k, Gives (g k)) : Gives (withMask c g) :=
  need fun _ => h _

theorem pref {c : Nat} {g : Fin 3 → Bool → Instr} (h : ∀ t b, (g t b).wf = true) : Gives (decodePref c g) :=
  zero fun _ => need fun _ => ok (h _ _)

end Gives

/-! ### The 16-bit forms -/

theorem decode16_gives (w : Nat) : Gives (decode16 w) := by
  unfold decode16
  dsimp only
  split
  case h_1 | h_2 => exact .need fun h => .ok h
  case h_20 | h_21 | h_22 | h_23 | h_24 => exact .zero fun _ => .ok rfl
  case h_25 => exact .error
  all_goals exact .ok rfl

/-! ### The 32-bit forms -/

theorem decodeOp_gives (w : Nat) : Gives (decodeOp w) := by
  unfold decodeOp
  dsimp only
  split
  case h_22 | h_23 | h_24 | h_25 | h_26 | h_27 => exact .zero fun _ => .ok rfl
  case h_28 => exact .error
  all_goals exact .ok rfl

theorem decodeOpi_gives (w : Nat) : Gives (decodeOpi w) := by
  unfold decodeOpi
  dsimp only
  split
  case h_7 =>
    refine .zero fun _ => ?_
    split
    case h_4 => exact .error
    all_goals exact .ok rfl
  case h_8 => exact .error
  all_goals exact .ok rfl

theorem decodeBitf_gives (w : Nat) : Gives (decodeBitf w) := by
  unfold decodeBitf
  split <;> [exact .ok rfl; exact .ok rfl; exact .error]

theorem decodeB_gives (w : Nat) : Gives (decodeB w) := by
  unfold decodeB
  dsimp only
  split
  case h_7 => exact .zero fun _ => .queue fun _ => .ok rfl
  case h_8 => exact .error
  all_goals exact .ok rfl

theorem decodeRl_gives (major w : Nat) : Gives (decodeRl major w) := by
  unfold decodeRl
  refine .qual fun ql hq => ?_
  split
  case h_12 => exact .pref fun _ _ => hq
  case h_15 => exact .error
  all_goals exact .ok hq

theorem decodeAmoW_gives (w : Nat) : Gives (decodeAmoW w) := by
  unfold decodeAmoW
  refine .qual fun ql hq => ?_
  split
  case h_14 => exact .error
  all_goals exact .ok hq

theorem decodeAmoD_gives (w : Nat) : Gives (decodeAmoD w) := by
  unfold decodeAmoD
  refine .qual fun ql hq => ?_
  split
  case h_11 => exact .error
  all_goals exact .ok hq

theorem decodeRf_gives (w : Nat) : Gives (decodeRf w) := by
  unfold decodeRf
  dsimp only
  split
  case h_1 => exact .zero fun _ => .fenceQual fun _ => .ok rfl
  case h_5 => exact .error
  all_goals exact .zero fun _ => .ok rfl

theorem decodeSys_gives (w : Nat) : Gives (decodeSys w) := by
  unfold decodeSys
  dsimp only
  split
  case h_8 => exact .error
  all_goals exact .zero fun _ => .ok rfl

theorem decodeSr_gives (w : Nat) : Gives (decodeSr w) := by
  unfold decodeSr
  refine .zero fun _ => ?_
  split
  case h_5 => exact .error
  all_goals exact .zero fun _ => .ok rfl

theorem decodeQop_gives (w : Nat) : Gives (decodeQop w) := by
  unfold decodeQop
  refine .queue fun q => ?_
  split
  case h_4 =>
    refine .zero fun _ => ?_
    split <;> exact .ok rfl
  case h_6 => exact .error
  all_goals exact .zero fun _ => .ok rfl

theorem decodeTaska_gives (w : Nat) : Gives (decodeTaska w) := by
  unfold decodeTaska
  dsimp only
  split <;> exact .zero fun _ => .ok rfl

theorem decodeTaskb_gives (w : Nat) : Gives (decodeTaskb w) := by
  unfold decodeTaskb
  dsimp only
  split
  case h_2 =>
    refine .zero fun _ => ?_
    split <;> exact .ok rfl
  case h_3 | h_4 => exact .zero fun _ => .halfFile fun _ => .ok rfl
  case h_8 => exact .error
  all_goals exact .zero fun _ => .ok rfl

/-- A vector major has one of the eight vector formats (R51). -/
theorem majorFmt_isVector {m : Nat} {f : Fmt} (h : majorFmt m = some f) : f.isVector = true := by
  unfold majorFmt at h
  split at h <;> cases h <;> rfl

theorem decodeV_gives {f : Fmt} (hf : f.isVector = true) (w : Nat) : Gives (decodeV f w) := by
  have both {b : Bool} (h : b = true) : (f.isVector && b) = true := by rw [hf, h]; rfl
  unfold decodeV
  dsimp only
  split
  case h_4 | h_5 => exact .need fun h => .need fun h' => .ok (Bool.and_eq_true_iff.2 ⟨h, h'⟩)
  case h_10 | h_11 | h_12 | h_13 => exact .need fun h => .zero fun _ => .ok h
  case h_14 | h_15 | h_16 => exact .need fun h => .ok (both h)
  case h_17 | h_18 | h_19 | h_20 => exact .mask fun _ => .ok hf
  case h_8 | h_9 | h_25 | h_30 => exact .zero fun _ => .ok hf
  case h_31 => exact .error
  all_goals exact .ok hf

theorem decodeVx_gives (w : Nat) : Gives (decodeVx w) := by
  unfold decodeVx
  dsimp only
  split
  case h_5 | h_6 => exact .zero fun _ => .mask fun _ => .mask fun _ => .mask fun _ => .ok rfl
  case h_7 => exact .zero fun _ => .mask fun _ => .mask fun _ => .ok rfl
  case h_8 => exact .zero fun _ => .mask fun _ => .ok rfl
  case h_4 | h_11 | h_12 => exact .zero fun _ => .ok rfl
  case h_13 => exact .error
  all_goals exact .ok rfl

theorem decode32_gives (w : Nat) : Gives (decode32 w) := by
  unfold decode32
  split
  case h_1 | h_5 | h_6 | h_7 => exact .ok rfl
  case h_2 => exact decodeOp_gives w
  case h_3 => exact decodeOpi_gives w
  case h_4 => exact decodeBitf_gives w
  case h_8 => exact .need fun _ => .ok rfl
  case h_9 => exact decodeB_gives w
  case h_10 => exact decodeAmoW_gives w
  case h_11 => exact decodeAmoD_gives w
  case h_12 => exact decodeRf_gives w
  case h_13 => exact decodeSys_gives w
  case h_14 => exact decodeSr_gives w
  case h_15 => exact decodeQop_gives w
  case h_16 => exact decodeTaska_gives w
  case h_17 => exact decodeTaskb_gives w
  case h_18 => exact decodeVx_gives w
  case h_19 =>
    split
    · exact decodeV_gives (majorFmt_isVector ‹_›) w
    · exact decodeRl_gives _ w

/-! ### The 64-bit forms -/

theorem decodeXi_gives (w : Nat) : Gives (decodeXi w) := by
  unfold decodeXi
  refine .zero fun _ => ?_
  split
  case h_7 => exact .error
  all_goals exact .ok rfl

theorem decodeXl_gives (w : Nat) : Gives (decodeXl w) := by
  unfold decodeXl
  refine .zero fun _ => .qual fun ql hq => ?_
  split
  case h_12 => exact .pref fun _ _ => hq
  case h_15 => exact .error
  all_goals exact .ok hq

theorem decodeXa_gives (w : Nat) : Gives (decodeXa w) := by
  unfold decodeXa
  refine .zero fun _ => .qual fun ql hq => ?_
  split
  · exact .error
  · split
    case h_10 | h_11 | h_12 => exact .need fun _ => .ok hq
    case h_14 => exact .error
    all_goals exact .ok hq

theorem decodeXv0_gives (x : XvFields) (w : Nat) : Gives (decodeXv0 x w) := by
  unfold decodeXv0
  refine .zero fun _ => .need fun hv => ?_
  have move (h : x.noRounding = true) : x.wfMove = true := Bool.and_eq_true_iff.2 ⟨h, hv⟩
  split
  case h_4 | h_5 => exact .need fun h => .ok h
  case h_10 | h_11 | h_12 | h_13 => exact .need fun h => .zero fun _ => .ok h
  case h_14 | h_15 | h_16 =>
    exact .need fun h => .need fun hr => .zero fun _ => .ok (Bool.and_eq_true_iff.2 ⟨move hr, h⟩)
  case h_17 | h_18 | h_19 | h_20 => exact .mask fun _ => .need fun hr => .zero fun _ => .ok (move hr)
  case h_21 | h_22 | h_23 | h_24 | h_25 => exact .need fun hr => .zero fun _ => .ok (move hr)
  case h_30 =>
    exact .zero fun hk => .need fun hr => .zero fun _ =>
      .ok (Bool.and_eq_true_iff.2 ⟨move hr, beq_iff_eq.2 (Fin.ext hk)⟩)
  case h_31 => exact .error
  all_goals exact .zero fun _ => .ok hv

/-- A field is its bits (R123). -/
theorem bitsAt_toNat (n w lo : Nat) : (bitsAt n w lo).toNat = fld w lo n := by
  simp [bitsAt, fld]

theorem decodeXv1_gives (x : XvFields) (w : Nat) : Gives (decodeXv1 x w) := by
  have scales {b16 : Bool} (hb : x.fmt.isBlock = true) (hg : (!b16 || x.fmt == .gf4) = true)
      (hs : decide ((fld w 57 7 + 1) * scaleCount x.fmt b16 ≤ 128) = true) :
      wfScales x.fmt b16 (bitsAt 7 w 57) = true := by
    simp only [wfScales, bitsAt_toNat, hb, hg, hs, Bool.and_self]
  unfold decodeXv1
  dsimp only
  split
  case h_1 =>
    refine .zero fun _ => .fmt fun s => .need fun hb => .need fun hp => .ok (Bool.and_eq_true_iff.2 ⟨hb, ?_⟩)
    rwa [bitsAt_toNat]
  case h_2 =>
    exact .zero fun _ => .need fun hr => .need fun hb => .need fun hg => .need fun hs =>
      .ok (Bool.and_eq_true_iff.2 ⟨hr, scales hb hg hs⟩)
  case h_3 =>
    refine .zero fun _ => .need fun hb => .need fun hg => .need fun hq => .need fun hs =>
      .ok (Bool.and_eq_true_iff.2 ⟨scales hb hg hs, ?_⟩)
    rwa [bitsAt_toNat]
  case h_4 =>
    exact .zero fun _ => .need fun hr => .need fun hb => .need fun hg =>
      .ok (Bool.and_eq_true_iff.2 ⟨Bool.and_eq_true_iff.2 ⟨hr, hb⟩, hg⟩)
  case h_5 => exact .error

theorem decodeXv2_gives (x : XvFields) (w : Nat) : Gives (decodeXv2 x w) := by
  unfold decodeXv2
  refine .zero fun _ => .need fun hr => .need fun he => .qual fun ql hq => ?_
  have mem : x.wfMem ql = true := Bool.and_eq_true_iff.2 ⟨Bool.and_eq_true_iff.2 ⟨hr, he⟩, hq⟩
  split
  case h_5 => exact .error
  all_goals exact .ok mem

theorem decodeXv_gives (w : Nat) : Gives (decodeXv w) := by
  unfold decodeXv
  refine .fmt fun _ => .rnd fun _ => ?_
  split
  · exact decodeXv0_gives _ w
  · exact decodeXv1_gives _ w
  · exact decodeXv2_gives _ w
  · exact .error

theorem decodeBse_gives (w : Nat) : Gives (decodeBse w) := by
  unfold decodeBse
  dsimp only
  split
  case h_1 =>
    refine .zero fun _ => ?_
    split <;> exact .ok rfl
  case h_2 => exact .zero fun _ => .halfFile fun _ => .ok rfl
  case h_3 => exact .zero fun _ => .fmt fun _ => .need fun h => .ok h
  case h_4 =>
    refine .zero fun _ => .fmt fun _ => .need fun h => ?_
    split
    · exact .halfFile fun _ => .ok h
    · exact .error
  case h_5 | h_6 => exact .zero fun _ => .fmt fun _ => .fmt fun _ => .ok rfl
  case h_7 =>
    refine .zero fun _ => .fmt fun f => .rnd fun _ => ?_
    -- The readouts of BACC by the code of M: residues in RNS3 take no shift (R297).
    have shift (h : (f != .rns3 || fld w 43 5 == 0) = true) : (f != .rns3 || bitsAt 5 w 43 == 0) = true := by
      have e : (bitsAt 5 w 43 == 0) = (fld w 43 5 == 0) := by
        rw [Bool.eq_iff_iff, beq_iff_eq, beq_iff_eq, ← bitsAt_toNat, ← BitVec.toNat_inj]
        rfl
      rwa [e]
    split
    · exact .zero fun _ => .need fun h => .ok h
    · exact .zero fun _ => .need fun h => .ok h
    · exact .zero fun _ => .ok rfl
    · exact .need fun h => .need fun h' => .ok (Bool.and_eq_true_iff.2 ⟨h, shift h'⟩)
    · exact .need fun h => .need fun h' => .ok (Bool.and_eq_true_iff.2 ⟨h, shift h'⟩)
    · exact .error
  case h_11 => exact .error
  all_goals exact .zero fun _ => .ok rfl

theorem decodeGre_gives (w : Nat) : Gives (decodeGre w) := by
  unfold decodeGre
  refine .zero fun _ => ?_
  split
  case h_1 | h_2 | h_4 => exact .zero fun _ => .op fun _ => .ok rfl
  case h_5 =>
    refine .zero fun _ => ?_
    split
    · exact .ok rfl
    · exact .queue fun _ => .ok rfl
    · exact .zero fun _ => .ok rfl
    · exact .error
  case h_6 => exact .zero fun _ => .op fun _ => .need fun h => .ok h
  case h_9 => exact .error
  all_goals exact .zero fun _ => .ok rfl

theorem decodeCopy_gives (w : Nat) : Gives (decodeCopy w) := by
  unfold decodeCopy
  dsimp only
  split
  case h_1 | h_2 => exact .zero fun _ => .need fun h => .ok h
  case h_3 | h_4 => exact .zero fun _ => .ok rfl
  case h_5 => exact .error

theorem decodeXs_gives (w : Nat) : Gives (decodeXs w) := by
  unfold decodeXs
  refine .zero fun _ => .fmt fun _ => ?_
  split
  case h_4 => exact .need fun h => .ok h
  case h_6 => exact .need fun h => .zero fun _ => .queue fun _ => .queue fun _ => .ok h
  case h_7 => exact .error
  all_goals exact .need fun h => .queue fun _ => .ok h

theorem decodeWalk_gives (w : Nat) : Gives (decodeWalk w) := by
  unfold decodeWalk
  refine .zero fun _ => ?_
  split
  case h_3 => exact .error
  all_goals exact .zero fun _ => .ok rfl

theorem decode64_gives (w : Nat) : Gives (decode64 w) := by
  unfold decode64
  split
  · exact .ok rfl
  · exact decodeXi_gives w
  · exact decodeXl_gives w
  · exact decodeXa_gives w
  · exact decodeXv_gives w
  · exact decodeBse_gives w
  · exact decodeGre_gives w
  · exact decodeCopy_gives w
  · exact decodeXs_gives w
  · exact decodeWalk_gives w
  · exact .error

/-- Settles O2: each decoder of a format answers well-formed instructions alone, by the checks that it makes. -/
theorem decode_wellFormed : Obligations.Decode_wellFormed := by
  unfold Obligations.Decode_wellFormed
  intro w
  unfold decode
  split
  · exact decode16_gives _
  · split
    · exact decode32_gives _
    · exact decode64_gives _

end Sys2Proof

end

section

namespace Sys2Proof.Machine

/-! ## Where an instruction may not run (R64) -/

/-- Whatever place refuses the group `g`, the instruction only raises the cause of the place there. -/
def Instr.Placed (i : Instr) (g : Group) : Prop :=
  ∀ (s : State) (c : Nat), s.turn ≠ .env → g.refused s.turn = some c → Raises s i c 0

/-- Every instruction of a list is of one of some groups. -/
def AllPlaced (l : List Instr) (gs : List Group) : Prop := ∀ i ∈ l, ∃ g ∈ gs, Instr.Placed i g

namespace AllPlaced

variable {l l' : List Instr} {gs gs' : List Group}

theorem nil : AllPlaced [] gs := List.forall_mem_nil _

theorem cons {i : Instr} {g : Group} (h : Instr.Placed i g) (hl : AllPlaced l gs) (hg : g ∈ gs := by decide) :
    AllPlaced (i :: l) gs :=
  List.forall_mem_cons.2 ⟨⟨g, hg, h⟩, hl⟩

theorem append (h : AllPlaced l gs) (h' : AllPlaced l' gs') : AllPlaced (l ++ l') (gs ++ gs') := by
  intro i hi
  rcases List.mem_append.1 hi with hi | hi
  · obtain ⟨g, hg, hp⟩ := h i hi
    exact ⟨g, List.mem_append_left _ hg, hp⟩
  · obtain ⟨g, hg, hp⟩ := h' i hi
    exact ⟨g, List.mem_append_right _ hg, hp⟩

/-- A place that refuses every group of the list with one cause refuses its instructions with it. -/
theorem raises {s : State} {c : Nat} (h : AllPlaced l gs) (hx : s.turn ≠ .env)
    (hg : ∀ g ∈ gs, g.refused s.turn = some c) : ∀ i ∈ l, Raises s i c 0 := by
  intro i hi
  obtain ⟨g, hm, hp⟩ := h i hi
  exact hp s c hx (hg g hm)

end AllPlaced

theorem refused_barrier {s : State} {rs : List Reg} {lvl c : Nat} (len : Nat) (m : M Unit)
    (hx : s.turn ≠ .env) (h : Group.barrier.refused s.turn = some c) :
    runMeaning (after len (startBarrier rs lvl >>= fun _ => m)) s = .next ((s.keepPassed s).trapTurn c 0) :=
  runMeaning_trap hx (by
    rw [after_run, M.bind_error]
    exact M.bind_error (startOrd_refused h))

/-! ### The group of each instruction -/

section
variable (a b c d : Reg) (q q' : QReg) (i4 : BitVec 4) (i6 : BitVec 6) (o3 : BitVec 3) (o11 : BitVec 11)
  (sel : BitVec 8) (f : Fmt) (k : KReg) (ql : Qual) (pl : AtomPlace) (w : Bool) (xf : XvFields) (m : Fin 16)
  (i9 : BitVec 9) (ch : BitVec 2) (o16 : BitVec 16) (o15 : BitVec 15) (g : GOp)

theorem contextOnly_placed : AllPlaced
    [.rpseal d a, .rpsealT d a, .rprestore d a, .retk, .wfi, .tlbinv a b, .l1inv a, .srw sel a, .srs sel a, .src sel a,
      .vld d a i9 ql, .vst d a i9 ql, .vadd f k w d a b, .vselXv xf d a b, .vdotMx xf w d a b c, .amoAddW d a b ql,
      .casD d a b ql, .amoSwapXa d a b ql pl w]
    [.recovery, .system, .srWrite, .vector] := by
  iterate 3 refine .cons (fun _ _ => refused_after _ _) ?_
  refine .cons (fun _ _ => refused_start _) ?_
  iterate 8 refine .cons (fun _ _ => refused_after _ _) ?_
  iterate 3 refine .cons (fun _ _ => refused_vector _ _) ?_
  iterate 3 refine .cons (fun _ _ => refused_after _ _) ?_
  exact .nil

theorem queues_placed :
    AllPlaced [.qend q, .qpeek d q i4, .qpeekD d q i4, .qcnt d q, .bqe q o11] [.queueOp, .bqe] := by
  iterate 4 refine .cons (fun _ _ => refused_after _ _) ?_
  refine .cons (fun _ _ => refused_start _) ?_
  exact .nil

theorem loaderOnly_placed : AllPlaced
    [.lstr q a b, .lidx f q a b c, .lsisect f q a b c, .lmerge f q a b c, .lmpart f d a b c, .lcoord f q a b c]
    [.lstr] := by
  iterate 4 refine .cons (fun _ _ => refused_start _) ?_
  refine .cons (fun _ _ => refused_after _ _) ?_
  refine .cons (fun _ _ => refused_start _) ?_
  exact .nil

theorem storerOnly_placed : AllPlaced [.sstr q a b, .sscat f a q q'] [.sstr] := by
  iterate 2 refine .cons (fun _ _ => refused_start _) ?_
  exact .nil

theorem sends_placed : AllPlaced
    [.push i4 a, .pushr b i4 a, .send b i6 a, .sendh b i6 a, .abump d a o3, .abumpT d a o3] [.send] := by
  iterate 6 refine .cons (fun _ _ => refused_after _ _) ?_
  exact .nil

theorem barriers_placed :
    AllPlaced [.barj o3 i6, .bar d o3 i6, .barl o3 i6, .barst d o3 i6] [.barrier] := by
  iterate 4 refine .cons (fun _ _ => refused_barrier _ _) ?_
  exact .nil

theorem firingOnly_placed : AllPlaced
    [.launch d a, .mld m o3, .mslice d m o3, .fresume a, .pair, .unpair, .bldw d a b o16, .bset m a, .brst o15, .bwait a,
      .bpoll d a, .geval g d a b c, .gwait a, .gpoll d a, .cpyq d a, .cpyqb d a, .cwait a ch, .cpoll d a ch]
    [.launch, .engine] := by
  iterate 3 refine .cons (fun _ _ => refused_after _ _) ?_
  iterate 3 refine .cons (fun _ _ => refused_start _) ?_
  iterate 12 refine .cons (fun _ _ => refused_after _ _) ?_
  exact .nil

theorem walks_placed : AllPlaced [.wldp d a, .wret a b] [.walk] := by
  refine .cons (fun _ _ => refused_after _ _) ?_
  refine .cons (fun _ _ => refused_start _) ?_
  exact .nil

theorem syscalls_placed : AllPlaced [.sysc, .brk, .srr d sel] [.syscall, .srRead] := by
  iterate 2 refine .cons (fun _ _ => refused_start _) ?_
  refine .cons (fun _ _ => refused_after _ _) ?_
  exact .nil

theorem fence_placed : AllPlaced [.fence ql] [.fence] := .cons (fun _ _ => refused_after _ _) .nil

theorem fend_placed : AllPlaced [.fend] [.fend] := .cons (fun _ _ => refused_start _) .nil

end

/-- Settles O11: each instruction is of a group, and the place refuses the group with the cause of R64. -/
theorem placement : Obligations.Placement := by
  unfold Obligations.Placement
  intro s n x a b c d q q' i4 i6 o3 o11 sel f k ql pl w xf m i9 ch o16 o15 g
  have anyContext := contextOnly_placed a b c d sel f k ql pl w xf i9
  have onQueue := queues_placed d q i4 o11
  have onL := loaderOnly_placed a b c d q f
  have onS := storerOnly_placed a b q q' f
  have sending := sends_placed a b d i4 i6 o3
  have barrier := barriers_placed d i6 o3
  have onF := firingOnly_placed a b c d o3 m ch o16 o15 g
  have walking := walks_placed a b d
  -- what both an I/O core and a walker refuse
  have everywhere := ((((((anyContext.append onQueue).append onL).append onS).append sending).append barrier).append onF)
  refine ⟨fun ht => ?_, fun e j ht => ?_, fun e j ht _ => ?_⟩ <;> have hx : s.turn ≠ .env := by simp [ht]
  · refine ⟨fun h => anyContext.raises hx ?_, fun h => onQueue.raises hx ?_, fun h => onL.raises hx ?_,
      fun h => onS.raises hx ?_, fun h h' => sending.raises hx ?_, fun h => barrier.raises hx ?_,
      fun h => onF.raises hx ?_, walking.raises hx ?_⟩
    case refine_6 => by_cases hh : x = .h <;> simp [ht, Group.refused, h, hh]
    all_goals simp [Group.refused, *]
  · refine ((everywhere.append walking).append ((fence_placed ql).append (syscalls_placed d sel))).raises hx ?_
    simp [ht, Group.refused]
  · refine (everywhere.append (fend_placed.append (syscalls_placed d sel))).raises hx ?_
    simp [ht, Group.refused]

end Sys2Proof.Machine

end

section

namespace Sys2Proof.Machine

/-! ## Fields written -/

theorem getLsbD_setField (x : Word) {lo n i : Nat} (v : Nat) (h : lo + n ≤ 64) :
    (setField x lo n v).getLsbD i = if lo ≤ i ∧ i < lo + n then v.testBit (i - lo) else x.getLsbD i := by
  by_cases hi : i < 64
  · simp only [setField, BitVec.getLsbD_or, BitVec.getLsbD_and, BitVec.getLsbD_not, BitVec.getLsbD_ofNat, hi, decide_true,
      Nat.testBit_mul_two_pow, Nat.testBit_two_pow_sub_one, Nat.testBit_mod_two_pow, Bool.true_and]
    by_cases hl : lo ≤ i
    · by_cases hn : i < lo + n <;> simp [hl, hn, show i - lo < n ↔ i < lo + n by omega]
    · simp [hl]
  · simp [BitVec.getLsbD_of_ge, show ¬ i < lo + n by omega, Nat.le_of_not_lt hi]

theorem testBit_field {w : Nat} (x : BitVec w) (lo n i : Nat) :
    (field x lo n).testBit i = (decide (i < n) && x.getLsbD (lo + i)) := by
  simp [field, Nat.testBit_mod_two_pow, Nat.testBit_div_two_pow, BitVec.getLsbD, Nat.add_comm]

/-- A field reads what was written to it. -/
theorem field_setField_same (x : Word) {lo n : Nat} (v : Nat) (h : lo + n ≤ 64) :
    field (setField x lo n v) lo n = v % 2 ^ n := by
  refine Nat.eq_of_testBit_eq fun i => ?_
  rw [testBit_field, getLsbD_setField _ _ h, Nat.testBit_mod_two_pow]
  by_cases hi : i < n <;> simp [hi]

/-- A field keeps its value when one that does not overlap it is written. -/
theorem field_setField_other (x : Word) {lo n lo' n' : Nat} (v : Nat) (h : lo + n ≤ 64) (hd : lo' + n' ≤ lo ∨ lo + n ≤ lo') :
    field (setField x lo n v) lo' n' = field x lo' n' := by
  refine Nat.eq_of_testBit_eq fun i => ?_
  rw [testBit_field, testBit_field, getLsbD_setField _ _ h]
  by_cases hi : i < n'
  · rw [if_neg (by omega)]
  · simp [hi]

/-- A store offset read from a register: 16 bits, even (R40, R85). -/
theorem toNat_offset (x : Word) : (setField 0 1 15 (field x 1 15)).toNat = x.toNat / 2 % 2 ^ 15 * 2 := by
  have e : setField 0 1 15 (field x 1 15) = BitVec.ofNat 64 (field x 1 15 % 2 ^ 15 * 2 ^ 1) := by
    unfold setField
    rw [show (0 : Word) = 0#64 from rfl, BitVec.zero_and, BitVec.zero_or]
  rw [e, BitVec.toNat_ofNat]
  unfold field
  omega

/-! ## Traps without any other effect -/

theorem start_core {s : State} {n : Nat} {x : Ctx} {g : Group} (ht : s.turn = .core n x)
    (hg : g.refused (.core n x) = none) : start g [] s = .ok ((), s) :=
  start_run (by rw [ht, hg]) rfl

theorem sysc_raises {s : State} {n : Nat} {x : Ctx} (ht : s.turn = .core n x) :
    Raises s .sysc (if s.priv = 0 then 0x06 else 0x07) 4 :=
  raises_of rfl (by simp [ht]) (by rw [M.bind_ok (start_core ht rfl)]; rfl) rfl

theorem brk_raises {s : State} {n : Nat} {x : Ctx} (ht : s.turn = .core n x) : Raises s .brk 0x05 4 :=
  raises_of rfl (by simp [ht]) (by unfold breakpoint; rw [M.bind_ok (start_core ht rfl)]; rfl) rfl

theorem c16Brk_raises {s : State} {n : Nat} {x : Ctx} (ht : s.turn = .core n x) : Raises s .c16Brk 0x05 2 :=
  raises_of rfl (by simp [ht]) (by unfold breakpoint; rw [M.bind_ok (start_core ht rfl)]; rfl) rfl

theorem reservedEncoding_raises {s : State} (why : Reserved) (hx : s.turn ≠ .env) : Raises s (.reservedEncoding why) 0x01 0 :=
  raises_of (t := s) rfl hx (signal_run _ _ _) rfl

/-! ## RETK (R85) -/

/-- A context after RETK, which goes on at `pc`. -/
def Context.resumed (k : Context) (x : Ctx) (pc : Word) : Context :=
  { k with
    status := setField (setField k.status 10 2 k.pp) 5 1 (if x = .f then (flag k.status 6).toNat else 0)
    inTrap := false
    pc := pc }

/-- Where the stream that CAUSE names resumes. -/
def Context.resumePc (k : Context) : Word := setField 0 1 15 (field k.epc 1 15)

/-- The stream that RETK of a context resumes (R45, R85): the one that F's CAUSE names, and C itself elsewhere. -/
def Core.resumedStream (c : Core) (x : Ctx) : Nat := if x = .f then field (c.context x).cause 8 2 else 0

/-- A firing after RETK: stream 1 or 2 goes on at `pc`, and F's RETK lets the held streams go on. -/
def FState.resumed (f : FState) (stream : Nat) (held : Bool) (pc : Word) : FState :=
  { f with
    held := held
    l := { f.l with pc := if stream = 1 then pc else f.l.pc }
    s := { f.s with pc := if stream = 2 then pc else f.s.pc } }

/-- A core after RETK of a context. -/
def Core.resumed (c : Core) (x : Ctx) : Core :=
  let k := c.context x
  let stream := c.resumedStream x
  { c.setContext x (k.resumed x (if stream = 1 ∨ stream = 2 then c.f.heldPc else k.resumePc)) with
    f := c.f.resumed stream (decide (x ≠ .f) && c.f.held) k.resumePc }

theorem State.returnFromTrap_eq (s : State) (n : Nat) (x : Ctx) :
    s.returnFromTrap n x = s.setCore n ((s.core n).resumed x) := by
  unfold State.returnFromTrap Core.resumed Core.resumedStream
  by_cases hx : x = .f
  · subst hx
    simp only [if_true]
    split
    · simp [*, FState.resumed, Core.setContext, Context.resumed, Context.resumePc]
    · simp [*, FState.resumed, Core.setContext, Context.resumed, Context.resumePc]
    · rename_i l r
      simp [show ¬ _ from l, show ¬ _ from r, FState.resumed, Core.setContext, Context.resumed, Context.resumePc]
  · simp only [if_neg hx]
    cases x <;> simp [FState.resumed, Core.setContext, Context.resumed, Context.resumePc] at hx ⊢

/-! What RETK leaves of a context. -/

@[simp] theorem Context.resumed_pc (k : Context) (x : Ctx) (pc : Word) : (k.resumed x pc).pc = pc := rfl
@[simp] theorem Context.resumed_inTrap (k : Context) (x : Ctx) (pc : Word) : (k.resumed x pc).inTrap = false := rfl

@[simp] theorem Context.resumed_priv (k : Context) (x : Ctx) (pc : Word) : (k.resumed x pc).priv = k.pp := by
  have hpp : k.pp < 4 := Nat.mod_lt _ (by decide)
  simp only [Context.priv, Context.resumed, field_setField_other _ _ (by decide : 5 + 1 ≤ 64) (by decide : 10 + 2 ≤ 5 ∨ 5 + 1 ≤ 10),
    field_setField_same _ _ (by decide : 10 + 2 ≤ 64)]
  exact Nat.mod_eq_of_lt hpp

@[simp] theorem Context.resumed_ie (k : Context) (x : Ctx) (pc : Word) :
    (k.resumed x pc).ie = (decide (x = .f) && flag k.status 6) := by
  simp only [Context.ie, Context.resumed, flag, getLsbD_setField _ _ (by decide : 5 + 1 ≤ 64)]
  by_cases hx : x = .f <;> cases k.status.getLsbD 6 <;> simp [hx]

theorem Context.resumed_status (k : Context) (x : Ctx) (pc : Word) {i : Nat} (h : i ∉ [5, 10, 11]) :
    (k.resumed x pc).status.getLsbD i = k.status.getLsbD i := by
  simp only [List.mem_cons, List.not_mem_nil, or_false, not_or] at h
  simp only [Context.resumed, getLsbD_setField _ _ (by decide : 5 + 1 ≤ 64), getLsbD_setField _ _ (by decide : 10 + 2 ≤ 64)]
  rw [if_neg (by omega), if_neg (by omega)]

theorem Context.resumed_rest (k : Context) (x : Ctx) (pc : Word) :
    { k.resumed x pc with status := k.status, pc := k.pc, inTrap := k.inTrap } = k := rfl

theorem Context.resumePc_toNat (k : Context) : k.resumePc.toNat = k.epc.toNat / 2 % 2 ^ 15 * 2 := toNat_offset _

/-! What RETK leaves of a core. -/

theorem Core.resumed_context (c : Core) (x : Ctx) :
    (c.resumed x).context x = (c.context x).resumed x
      (if c.resumedStream x = 1 ∨ c.resumedStream x = 2 then c.f.heldPc else (c.context x).resumePc) := by
  cases x <;> rfl

theorem Core.resumed_otherContext (c : Core) {x y : Ctx} (hx : x ≠ .l ∧ x ≠ .s) (hy : y = .f ∨ y = .h ∨ y = .d) (h : y ≠ x) :
    (c.resumed x).context y = c.context y := by
  rcases hy with rfl | rfl | rfl <;> cases x <;> simp at h hx <;> rfl

theorem Core.resumed_rest (c : Core) (x : Ctx) :
    { c.resumed x with fc := c.fc, hc := c.hc, dc := c.dc, f := c.f } = c := by
  cases x <;> rfl

/-! Running RETK. -/

theorem privileged_run {s : State} (h : s.priv ≠ 0) : privileged s = .ok ((), s) := by
  unfold privileged
  rw [M.bind_ok (ask_run _ _), require_run, if_pos (bne_iff_ne.2 h)]

theorem State.onlyCore_setCore (s : State) (n : Nat) (c : Core) : s.onlyCore (s.setCore n c) n :=
  ⟨rfl, fun _ hm => State.core_setCore_other s c hm, fun _ => rfl⟩

section
variable {s : State} {n : Nat} {x : Ctx} (h : s.alone n x)
include h

theorem retk_start (hl : x ≠ .l) (hs : x ≠ .s) : start .system [] s = .ok ((), s) :=
  start_core h.turn (by simp [Group.refused, hl, hs])

theorem retk_refused (hx : x = .l ∨ x = .s) : Raises s .retk 0x01 0 :=
  refused_start _ h.not_env (by rw [h.turn]; simp [Group.refused, hx])

theorem retk_unprivileged (hl : x ≠ .l) (hs : x ≠ .s) (hp : ((s.core n).context x).priv = 0) : Raises s .retk 0x02 0 :=
  raises_of (t := s) rfl h.not_env
    (by rw [M.bind_ok (retk_start h hl hs)]; simp [M.bind_run, privileged, h.priv_eq, hp]) rfl

theorem retk_above (hl : x ≠ .l) (hs : x ≠ .s) (hp : ((s.core n).context x).priv = 1) (hpp : ((s.core n).context x).pp = 3) :
    Raises s .retk 0x01 0 :=
  raises_of (t := s) rfl h.not_env
    (by rw [M.bind_ok (retk_start h hl hs)]; simp [M.bind_run, privileged, h.priv_eq, h.context_eq, hp, hpp]) rfl

/-- RETK that passes its checks: the firing whose context is lost ends, and the context resumes otherwise. -/
theorem retk_run (hl : x ≠ .l) (hs : x ≠ .s) (hp : ((s.core n).context x).priv ≠ 0)
    (hk : ((s.core n).context x).priv = 1 → ((s.core n).context x).pp ≠ 3) :
    exec .retk s =
      .next (if x = .f ∧ (s.core n).lost = true then s.endFiring n else s.setCore n ((s.core n).resumed x)) := by
  have hb : (!(((s.core n).context x).priv == 1 && ((s.core n).context x).pp == 3)) = true := by
    rw [Bool.not_eq_true', Bool.and_eq_false_imp]
    exact fun e => by simpa using hk (by simpa using e)
  have hu : (s.returnFromTrap n x).modCore n (fun c => c.countPaired x) = s.setCore n ((s.core n).resumed x) := by
    rw [State.returnFromTrap_eq, State.modCore_setCore, Core.countPaired_alone]
    cases x <;> exact h.2
  refine runMeaning_leave h.not_env ?_
  rw [M.bind_ok (retk_start h hl hs), M.bind_ok (privileged_run (h.priv_eq ▸ hp)), M.bind_ok (ask_run _ _), h.context_eq,
    hb, require_true, M.bind_ok (M.pure_run _ _), M.bind_ok h.self_run]
  dsimp only
  rw [M.bind_ok (update_run _ _), leave_run, hu]

end

/-- Settles O8: SYSC, BRK and what is no instruction signal at once, and RETK ends its context's trap: `Core.resumed`
says what it leaves. -/
theorem traps_and_returns : Obligations.Traps_and_returns := by
  unfold Obligations.Traps_and_returns
  refine ⟨fun s n x why ht => ⟨sysc_raises ht, brk_raises ht, c16Brk_raises ht, reservedEncoding_raises why (by simp [ht])⟩,
    fun s n x h => ?_⟩
  refine ⟨retk_refused h, retk_unprivileged h, retk_above h, fun hl hs hp hk hlost => ?_, fun hx hp hk hlost => ?_⟩
  · refine ⟨_, retk_run h hl hs hp hk, ?_⟩
    have hne : ¬ (x = .f ∧ (s.core n).lost = true) := fun e => by simp [hlost e.1] at e
    rw [if_neg hne]
    simp only [State.core_setCore_same, Core.resumed_context, Context.resumed_priv]
    have pc_at : ((s.core n).context x).resumePc.toNat = ((s.core n).context x).epc.toNat / 2 % 2 ^ 15 * 2 :=
      Context.resumePc_toNat _
    have stream : (if x = .f then ((s.core n).context x).cause.toNat / 2 ^ 8 % 4 else 0) = (s.core n).resumedStream x := rfl
    refine ⟨trivial, Context.resumed_ie _ _ _, fun i hi => Context.resumed_status _ _ _ hi, ?_, ?_, ?_, rfl, rfl, rfl, rfl, rfl, rfl,
      fun y hy hyx => Core.resumed_otherContext _ ⟨hl, hs⟩ hy hyx, Core.resumed_rest _ _, State.onlyCore_setCore _ _ _⟩
    all_goals rw [stream]
    · split <;> simp [Core.resumed, FState.resumed, *]
    · split <;> simp [Core.resumed, FState.resumed, *]
    · split <;> simp [*]
  · subst hx
    rw [retk_run h (by decide) (by decide) hp hk, if_pos ⟨rfl, hlost⟩]

end Sys2Proof.Machine

end

section

namespace Sys2Proof.Machine

/-! ## Ordered loads: what the acquire uncovers

A line of the RDC has poison marks of its own beside those of its home (R361). `State.sound` looks at them before the
acquire, while the load reads after it (R79): a clean line that the acquire drops may hide a poisoned word of its home. -/

/-- Does context F of a core stand in a trap after an instruction? -/
def fTrapAfter (i : Instr) (s : State) (n : Nat) : Bool :=
  match exec i s with
  | .next t => (t.core n).fc.inTrap
  | _ => false

theorem fTrapAfter_next {i : Instr} {s t : State} (n : Nat) (h : exec i s = .next t) :
    fTrapAfter i s n = (t.core n).fc.inTrap := by
  unfold fTrapAfter; rw [h]

theorem Context.onlyRegisters_inTrap {k k' : Context} (h : k.onlyRegisters k') : k'.inTrap = k.inTrap :=
  (congrArg Context.inTrap h :)

/-- Whoever writes registers only enters no trap in F. -/
theorem State.registersOnly_fTrap {s t : State} {n : Nat} {x : Ctx} (ht : s.turn = .core n x) (h : s.registersOnly t) :
    (t.core n).fc.inTrap = (s.core n).fc.inTrap := by
  unfold State.registersOnly at h
  rw [ht] at h
  obtain ⟨-, -, hcore⟩ := h
  obtain ⟨-, hfc, -⟩ := hcore
  exact Context.onlyRegisters_inTrap hfc

theorem State.tracesOnly_cores {s t : State} {n k : Nat} (h : s.tracesOnly t n k) : t.cores = s.cores := by
  obtain ⟨hs, -⟩ := h
  exact (congrArg State.cores hs :)

theorem State.tracesOnly_turn {s t : State} {n k : Nat} (h : s.tracesOnly t n k) : t.turn = s.turn := by
  obtain ⟨hs, -⟩ := h
  exact (congrArg State.turn hs :)

/-- The first address of die 1's memory, which die 0 reads through its RDC. -/
def hiddenPa : Nat := 0x3000000000

/-- F of core 0 holds the address of a page on die 1 in `g1`. The RDC of die 0 has the page's first line clean and
sound; at home its first word is poisoned. -/
def hiddenPoison : State :=
  let s := State.setCore { State.reset with turn := .core 0 .f, poison := [hiddenPa / 8] } 0
    { Core.reset with fc := (Context.reset 0).writeG 1 0x10000000 }
  let s := s.modCluster 0 fun c => { c with tlb :=
    [{ va := 0x10000000, size := 12, asid := 0, leaf := BitVec.ofNat 64 (hiddenPa + 0x6D), comp := BitVec.ofNat 64 (2 ^ 32) }] }
  s.modDie 0 fun d => { d with rdc := [(hiddenPa / 128, { bytes := 0, dirty := [], poison := [] })] }

/-- LD.D.acq.dv g2, 0(g1). -/
def hiddenLoad : Instr := .ldD 2 1 0 { ord := .acq, scope := .dv }

theorem hiddenPoison_reaches : hiddenPoison.reaches 0 .f false 0x10000000 8 (.mem hiddenPa) false := by
  unfold State.reaches
  exact ⟨by decide +kernel, by decide +kernel, by decide +kernel, by decide +kernel, by decide +kernel,
    ⟨false, by decide +kernel⟩, by decide +kernel, by decide +kernel⟩

theorem hiddenPoison_sound : hiddenPoison.sound 0 .f (.mem hiddenPa) 8 := by
  unfold State.sound
  decide +kernel

/-- The acquire drops the clean line, the load finds the poisoned word of the home and traps (R361). -/
theorem hiddenLoad_traps : fTrapAfter hiddenLoad hiddenPoison 0 = true := by decide +kernel

theorem hiddenPoison_acquired :
    let u := hiddenPoison.acquired 0 { ord := .acq, scope := .dv }
    u.turn = .core 0 .f ∧ (u.core 0).fc.inTrap = false := by decide +kernel

/-- Refutes O15: `hiddenPoison` is sound before the load, but the acquire of `hiddenLoad` drops the clean line of the
RDC that hid a poisoned word of the line's home, and the load raises 0x31 instead of giving its bytes. -/
theorem not_loads : ¬ Obligations.Loads := by
  unfold Obligations.Loads
  intro h
  have address : hiddenPoison.readG 1 + BitVec.ofInt 64 ((0 : BitVec 9).toInt * (8 : Nat)) = 0x10000000 := by decide +kernel
  obtain ⟨w, t, hexec, htraces, -, -, -, hreg⟩ :=
    h hiddenPoison 0 .f 2 1 0 0 0 { ord := .acq, scope := .dv } ⟨rfl, by decide +kernel⟩ (by decide +kernel)
      hiddenLoad 4 8 true _ { ord := .acq, scope := .dv } (.mem hiddenPa) false
      (.tail _ (.tail _ (.tail _ (.head _)))) (by decide) (fun _ => by beta_reduce; rw [address]; decide) (fun e => by cases e)
      (by beta_reduce; rw [address]; exact hiddenPoison_reaches) hiddenPoison_sound
  obtain ⟨hturn, htrap⟩ := hiddenPoison_acquired
  have kept : (w.core 0).fc.inTrap = false := by
    rw [State.core, State.tracesOnly_cores htraces]; exact htrap
  have traps : (t.core 0).fc.inTrap = true := fTrapAfter_next 0 hexec ▸ hiddenLoad_traps
  rw [State.registersOnly_fTrap ((State.tracesOnly_turn htraces).trans hturn) hreg, kept] at traps
  cases traps

end Sys2Proof.Machine

end

section

namespace Sys2Proof.Machine

/-! ## Ordered stores: a release that waits already

R339 registers a recovery-scope release once: while one of the same context and offset waits, its store only waits.
The clause of O16 about misaligned stores does not leave this case out, as the clause about 0x2E does. -/

/-- F of core 0 holds an odd address in `g1`, and a recovery-scope release of its present offset waits to be counted. -/
def releaseWaits : State :=
  State.setCore { State.reset with turn := .core 0 .f } 0
    { Core.reset with fc := (Context.reset 0).writeG 1 1,
                      waits := { Core.reset.waits with rcRel := [{ ctx := .f, pc := 0, done := false, data := [] }] } }

/-- ST.D.rel.rc g0, 0(g1). -/
def waitingStore : Instr := .stD 0 1 0 { ord := .rel, scope := .rc }

theorem releaseWaits_takes : releaseWaits.takes 0 .f (.mem 0) 8 false := by
  have gate : (releaseWaits.core 0).mem.gate = [] := by decide +kernel
  refine ⟨fun _ => ⟨by decide +kernel, by simp⟩, by simp, by simp, by simp [gate], by simp, by simp⟩

/-- The store waits for its release to be counted, and looks at no address. -/
theorem waitingStore_no_trap : fTrapAfter waitingStore releaseWaits 0 = false := by decide +kernel

/-- The trap that O16 asks for stands in F. -/
theorem releaseWaits_trapTurn :
    (((releaseWaits.keepPassed releaseWaits).trapTurn 0x04 (BitVec.ofNat 64 1)).core 0).fc.inTrap = true := by decide +kernel

/-- Refutes O16: in `releaseWaits`, where a recovery-scope release of `waitingStore` waits already, the misaligned
store raises no 0x04: it waits. -/
theorem not_stores : ¬ Obligations.Stores := by
  unfold Obligations.Stores
  rintro ⟨-, ordered⟩
  have address : (releaseWaits.readG 1 + BitVec.ofInt 64 ((0 : BitVec 9).toInt * 8)).toNat = 1 := by decide +kernel
  obtain ⟨misaligned, -⟩ := ordered releaseWaits 0 .f 0 1 0 .rel .rc (.mem 0) false ⟨rfl, by decide +kernel⟩
    (by decide +kernel) (.inl rfl) (by decide +kernel) (by decide +kernel) releaseWaits_takes
  rw [address] at misaligned
  have raises : Raises releaseWaits waitingStore 0x04 (BitVec.ofNat 64 1) :=
    misaligned (by decide +kernel) (by decide +kernel) (by decide) (by decide)
  have traps := fTrapAfter_next 0 raises
  rw [waitingStore_no_trap, releaseWaits_trapTurn] at traps
  cases traps

end Sys2Proof.Machine

end

section

namespace Sys2Proof.Machine

/-! ## Integer instructions (R66 to R70)

Each instruction runs one of the shared forms `twoRegs`, `oneReg` and `dividing`; what remains is that the form's function
gives the result that R66 to R70 tabulate. -/

/-! ### The shared forms, with their result -/

/-- Registers that every file holds (R33, R36) need no check of their own. -/
theorem holds_of {t : Turn} {rs rs' : List Reg} (h : holds t rs = true) (hs : ∀ r ∈ rs', r ∈ rs ∨ r.val < 16) :
    holds t rs' = true := by
  have small : 16 ≤ fileSize t := by
    unfold fileSize
    split <;> decide
  simp only [holds, List.all_eq_true, decide_eq_true_eq] at h ⊢
  exact fun r hr => (hs r hr).elim (h r) fun hlt => hlt.trans_le small

section
variable {s : State} {i : Instr} {len : Nat} {d a b : Reg} {v : Word} (hx : s.executing = true)
include hx

theorem writes_twoRegs {f : Word → Word → Word} (he : exec i s = runMeaning (twoRegs len d a b f) s)
    (hr : holds s.turn [d, a, b] = true) (hv : f (s.readG a) (s.readG b) = v) : Writes s i len d v := by
  unfold Writes
  rw [he, ← hv]
  exact twoRegs_wrote f hx hr

theorem writes_oneReg {f : Word → Word} (he : exec i s = runMeaning (oneReg len d a f) s)
    (hr : holds s.turn [d, a] = true) (hv : f (s.readG a) = v) : Writes s i len d v := by
  unfold Writes
  rw [he, ← hv]
  exact oneReg_wrote f hx hr

theorem writes_dividing {f : Word → Word → Word} (he : exec i s = runMeaning (dividing d a b f) s)
    (hr : holds s.turn [d, a, b] = true) (hz : s.readG b ≠ 0 ∨ s.context.dze = false)
    (hv : f (s.readG a) (s.readG b) = v) : Writes s i 4 d v := by
  unfold Writes
  rw [he, ← hv]
  exact dividing_wrote f hx hr hz

end

/-! ### Results of two sources -/

theorem add_eq_ofNat (x y : Word) : x + y = BitVec.ofNat 64 (x.toNat + y.toNat) := by
  simp [BitVec.ofNat_add]

theorem mul_eq_ofNat (x y : Word) : x * y = BitVec.ofNat 64 (x.toNat * y.toNat) := by
  simp [BitVec.ofNat_mul]

theorem shiftOf_eq (y : Word) : shiftOf y = y.toNat % 64 := by
  simp [shiftOf, field]

theorem shiftLeft_eq (x y : Word) : shiftLeft x y = x <<< (y.toNat % 64) := by rw [shiftLeft, shiftOf_eq]

theorem shiftRight_eq (x y : Word) : shiftRight x y = x >>> (y.toNat % 64) := by rw [shiftRight, shiftOf_eq]

theorem shiftArith_eq (x y : Word) : shiftArith x y = x.sshiftRight (y.toNat % 64) := by rw [shiftArith, shiftOf_eq]

theorem bit_slt (x y : Word) : bit (x.slt y) = if x.toInt < y.toInt then 1 else 0 := by
  simp [bit, BitVec.slt_iff_toInt_lt]

theorem bit_ult (x y : Word) : bit (x.ult y) = if x.toNat < y.toNat then 1 else 0 := by
  simp [bit, BitVec.ult_iff_lt, BitVec.lt_def]

/-- Of two equal operands the minimum and the maximum are either. -/
theorem minSigned_eq (x y : Word) : minSigned x y = if x.toInt ≤ y.toInt then x else y := by
  rcases lt_trichotomy x.toInt y.toInt with h | h | h
  · simp [minSigned, BitVec.slt_iff_toInt_lt, h, h.le]
  · simp [BitVec.toInt_inj.1 h, minSigned]
  · simp [minSigned, BitVec.slt_iff_toInt_lt, h.not_gt, h.not_ge]

theorem maxSigned_eq (x y : Word) : maxSigned x y = if x.toInt ≤ y.toInt then y else x := by
  rcases lt_trichotomy x.toInt y.toInt with h | h | h
  · simp [maxSigned, BitVec.slt_iff_toInt_lt, h, h.le]
  · simp [BitVec.toInt_inj.1 h, maxSigned]
  · simp [maxSigned, BitVec.slt_iff_toInt_lt, h.not_gt, h.not_ge]

theorem minUnsigned_eq (x y : Word) : minUnsigned x y = if x.toNat ≤ y.toNat then x else y := by
  rcases lt_trichotomy x.toNat y.toNat with h | h | h
  · simp [minUnsigned, BitVec.ult_iff_lt, BitVec.lt_def, h, h.le]
  · simp [BitVec.toNat_inj.1 h, minUnsigned]
  · simp [minUnsigned, BitVec.ult_iff_lt, BitVec.lt_def, h.not_gt, h.not_ge]

theorem maxUnsigned_eq (x y : Word) : maxUnsigned x y = if x.toNat ≤ y.toNat then y else x := by
  rcases lt_trichotomy x.toNat y.toNat with h | h | h
  · simp [maxUnsigned, BitVec.ult_iff_lt, BitVec.lt_def, h, h.le]
  · simp [BitVec.toNat_inj.1 h, maxUnsigned]
  · simp [maxUnsigned, BitVec.ult_iff_lt, BitVec.lt_def, h.not_gt, h.not_ge]

theorem highProduct_natCast (x y : Nat) : highProduct x y = BitVec.ofNat 64 (x * y / 2 ^ 64) := by
  rw [highProduct, ← BitVec.ofInt_natCast]
  norm_cast

/-! ### Counts and extensions -/

/-- The highest one of a word that is not zero. -/
theorem log2_lt_64 {x : Word} (h : x ≠ 0) : x.toNat.log2 < 64 :=
  (Nat.log2_lt fun e => h (BitVec.eq_of_toNat_eq e)).2 x.isLt

/-- CLZ counts the zeros above the highest one (R66). -/
theorem leadingZeros_spec (x : Word) : ∃ n, n ≤ 64 ∧ (∀ i, 64 - n ≤ i → i < 64 → x.getLsbD i = false) ∧
    (n < 64 → x.getLsbD (63 - n) = true) ∧ leadingZeros x = BitVec.ofNat 64 n := by
  by_cases h : x = 0
  · subst h
    exact ⟨64, le_rfl, fun i _ _ => by simp, fun e => absurd e (lt_irrefl _), rfl⟩
  · have hlt := log2_lt_64 h
    refine ⟨63 - x.toNat.log2, by omega, fun i hi _ => ?_, fun _ => ?_, if_neg h⟩
    · exact Nat.testBit_lt_two_pow (Nat.lt_log2_self.trans_le (Nat.pow_le_pow_right (by decide) (by omega)))
    · rw [show 63 - (63 - x.toNat.log2) = x.toNat.log2 by omega]
      exact Nat.testBit_log2 fun e => h (BitVec.eq_of_toNat_eq e)

/-- CTZ counts the zeros below the lowest one (R66). -/
theorem trailingZeros_spec (x : Word) : ∃ n, n ≤ 64 ∧ (∀ i, i < n → x.getLsbD i = false) ∧
    (n < 64 → x.getLsbD n = true) ∧ trailingZeros x = BitVec.ofNat 64 n := by
  unfold trailingZeros
  cases h : (List.range 64).find? fun i => x.getLsbD i with
  | none =>
    refine ⟨64, le_rfl, fun i hi => ?_, fun e => absurd e (lt_irrefl _), rfl⟩
    simpa using List.find?_eq_none.1 h i (List.mem_range.2 hi)
  | some n =>
    obtain ⟨hone, hmem, hbelow⟩ := List.find?_range_eq_some.1 h
    exact ⟨n, (List.mem_range.1 hmem).le, fun i hi => by simpa using hbelow i hi, fun _ => hone, rfl⟩

theorem onesIn_eq (x : Word) : onesIn x = BitVec.ofNat 64 ((List.range 64).countP fun i => x.getLsbD i) := by
  rw [onesIn, List.countP_eq_length_filter]
  rfl

/-- SignExtend of a number is the sign extension of its low bits. -/
theorem signExtendNat_eq (x : Nat) {bits : Nat} (h : bits ≤ 64) :
    signExtendNat x bits = (BitVec.ofNat bits x).signExtend 64 := by
  have hp : (2 : Nat) ^ bits ≤ 2 ^ 64 := Nat.pow_le_pow_right (by decide) h
  have hl : x % 2 ^ bits < 2 ^ bits := Nat.mod_lt _ (Nat.two_pow_pos bits)
  refine BitVec.eq_of_toNat_eq ?_
  rw [BitVec.toNat_signExtend, BitVec.msb_eq_decide]
  by_cases hs : x % 2 ^ bits < 2 ^ (bits - 1)
  · simp only [signExtendNat, hs, word, BitVec.toNat_setWidth, BitVec.toNat_ofNat, not_le.2 hs]
    simp
  · simp only [signExtendNat, hs, word, BitVec.toNat_setWidth, BitVec.toNat_ofNat, not_lt.1 hs]
    simp only [if_false, decide_true, if_true, BitVec.toNat_ofNat]
    omega

theorem signExtendNat_setWidth (x : Word) {bits : Nat} (h : bits ≤ 64) :
    signExtendNat x.toNat bits = (x.setWidth bits).signExtend 64 := by
  rw [signExtendNat_eq _ h, BitVec.ofNat_toNat]

/-- Settles O3: the operations are `twoRegs` and `oneReg` forms, whose functions give the results of R66. -/
theorem register_operations : Obligations.Register_operations := by
  unfold Obligations.Register_operations
  refine ⟨fun s d a b hx hr => ?_, fun s d a hx hr => ?_⟩
  · exact ⟨writes_twoRegs hx rfl hr (add_eq_ofNat _ _), writes_twoRegs hx rfl hr rfl, writes_twoRegs hx rfl hr rfl,
      writes_twoRegs hx rfl hr rfl, writes_twoRegs hx rfl hr rfl, writes_twoRegs hx rfl hr (shiftLeft_eq _ _),
      writes_twoRegs hx rfl hr (shiftRight_eq _ _), writes_twoRegs hx rfl hr (shiftArith_eq _ _),
      writes_twoRegs hx rfl hr (bit_slt _ _), writes_twoRegs hx rfl hr (bit_ult _ _),
      writes_twoRegs hx rfl hr (minSigned_eq _ _), writes_twoRegs hx rfl hr (maxSigned_eq _ _),
      writes_twoRegs hx rfl hr (minUnsigned_eq _ _), writes_twoRegs hx rfl hr (maxUnsigned_eq _ _),
      writes_twoRegs hx rfl hr (mul_eq_ofNat _ _), writes_twoRegs hx rfl hr rfl,
      writes_twoRegs hx rfl hr (highProduct_natCast _ _)⟩
  · obtain ⟨n, hn, above, highest, hclz⟩ := leadingZeros_spec (s.readG a)
    obtain ⟨m, hm, below, lowest, hctz⟩ := trailingZeros_spec (s.readG a)
    exact ⟨⟨n, hn, above, highest, writes_oneReg hx rfl hr hclz⟩, ⟨m, hm, below, lowest, writes_oneReg hx rfl hr hctz⟩,
      writes_oneReg hx rfl hr (onesIn_eq _),
      writes_oneReg hx rfl hr (signExtendNat_setWidth _ (by decide)),
      writes_oneReg hx rfl hr (signExtendNat_setWidth _ (by decide)),
      writes_oneReg hx rfl hr (signExtendNat_setWidth _ (by decide))⟩

/-! ### Division (R67) -/

theorem divSigned_of_ne {x y : Word} (h : y ≠ 0) : divSigned x y = BitVec.ofInt 64 (x.toInt.tdiv y.toInt) := if_neg h

theorem remSigned_of_ne {x y : Word} (h : y ≠ 0) :
    remSigned x y = BitVec.ofInt 64 (x.toInt - x.toInt.tdiv y.toInt * y.toInt) := by
  rw [remSigned, if_neg h, Int.tmod_def, Int.mul_comm]

theorem divUnsigned_of_ne {x y : Word} (h : y ≠ 0) : divUnsigned x y = BitVec.ofNat 64 (x.toNat / y.toNat) := if_neg h

theorem remUnsigned_of_ne {x y : Word} (h : y ≠ 0) : remUnsigned x y = BitVec.ofNat 64 (x.toNat % y.toNat) := if_neg h

theorem raises_dividing {s : State} {i : Instr} {d a b : Reg} {f : Word → Word → Word}
    (he : exec i s = runMeaning (dividing d a b f) s) (hx : s.executing = true) (hr : holds s.turn [d, a, b] = true)
    (hz : s.readG b = 0) (hd : s.context.dze = true) : Raises s i 0x3B 0 := by
  unfold Raises
  rw [he]
  exact dividing_traps f hx hr hz hd

/-- Settles O4: a divisor that is not zero divides, a zero divisor gives what R67 says, or traps under STATUS.DZE. -/
theorem division : Obligations.Division := by
  unfold Obligations.Division
  refine ⟨fun s d a b hx hr => ⟨fun hy => ?_, fun hy hz => ?_, fun hmin hone => ?_⟩, fun s d a b hx hr hy hz => ?_⟩
  · exact ⟨writes_dividing hx rfl hr (.inl hy) (divSigned_of_ne hy), writes_dividing hx rfl hr (.inl hy) (remSigned_of_ne hy),
      writes_dividing hx rfl hr (.inl hy) (divUnsigned_of_ne hy), writes_dividing hx rfl hr (.inl hy) (remUnsigned_of_ne hy)⟩
  · exact ⟨writes_dividing hx rfl hr (.inr hz) (if_pos hy), writes_dividing hx rfl hr (.inr hz) (if_pos hy),
      writes_dividing hx rfl hr (.inr hz) (if_pos hy), writes_dividing hx rfl hr (.inr hz) (if_pos hy)⟩
  · have hy : s.readG b ≠ 0 := by rw [hone]; decide
    refine ⟨writes_dividing hx rfl hr (.inl hy) ?_, writes_dividing hx rfl hr (.inl hy) ?_⟩ <;> rw [hmin, hone] <;> decide
  · exact ⟨raises_dividing rfl hx hr hy hz, raises_dividing rfl hx hr hy hz, raises_dividing rfl hx hr hy hz,
      raises_dividing rfl hx hr hy hz⟩

end Sys2Proof.Machine

end

section

namespace Sys2Proof.Machine

/-! ### Immediates and bit fields (R68 to R70) -/

theorem bit_slt_sext {n : Nat} (x : Word) (i : BitVec n) :
    bit (x.slt (sext i)) = if x.toInt < (i.signExtend 64).toInt then 1 else 0 := bit_slt _ _

theorem bit_ult_sext {n : Nat} (x : Word) (i : BitVec n) :
    bit (x.ult (sext i)) = if x.toNat < (i.signExtend 64).toNat then 1 else 0 := bit_ult _ _

/-- LUI's immediate, shifted as a number (R70). -/
theorem sext_shiftLeft {n : Nat} (u : BitVec n) (k : Nat) : sext u <<< k = BitVec.ofInt 64 (u.toInt * 2 ^ k) := by
  have pow : BitVec.twoPow 64 k = BitVec.ofInt 64 (2 ^ k) := by
    rw [show (2 : Int) ^ k = ((2 ^ k : Nat) : Int) by norm_cast, BitVec.ofInt_natCast]
    exact BitVec.eq_of_toNat_eq (by simp [BitVec.toNat_twoPow])
  rw [BitVec.shiftLeft_eq_mul_twoPow, BitVec.ofInt_mul, pow]
  rfl

/-- Twice a signed halfword count, as a number (R55, R70, R72). -/
theorem two_mul_sext {n : Nat} (o : BitVec n) : 2 * sext o = BitVec.ofInt 64 (2 * o.toInt) := by
  rw [BitVec.ofInt_mul]
  rfl

theorem codeTarget_eq {n : Nat} (pc : Word) (o : BitVec n) : codeTarget pc o = pc + BitVec.ofInt 64 (2 * o.toInt) := by
  rw [codeTarget, two_mul_sext]

/-- An instruction that passes the first checks, and whose rest writes one register. -/
theorem writes_of {s : State} {i : Instr} {len : Nat} {d : Reg} {rs : List Reg} {m : M Unit} {v : Word}
    (hx : s.executing = true) (he : exec i s = runMeaning (after len (start .scalar (d :: rs) >>= fun _ => m)) s)
    (hr : holds s.turn (d :: rs) = true) (hm : m s = .ok ((), s.putG d v)) : Writes s i len d v := by
  unfold Writes
  rw [he]
  exact writes_wrote hx hr hm

section
variable {s : State} {d a : Reg} {pos lenm1 : BitVec 6} (hx : s.executing = true) (hr : holds s.turn [d, a] = true)
include hx hr

theorem bfx_writes (hn : pos.toNat + lenm1.toNat + 1 ≤ 64) :
    Writes s (.bfx d a pos lenm1) 4 d (extractBits (s.readG a) pos.toNat (lenm1.toNat + 1)) :=
  writes_of hx rfl hr (by simp [M.bind_run, hn])

theorem bfi_writes (hn : pos.toNat + lenm1.toNat + 1 ≤ 64) :
    Writes s (.bfi d a pos lenm1) 4 d (insertBits (s.readG d) (s.readG a) pos.toNat (lenm1.toNat + 1)) :=
  writes_of hx rfl hr (by simp [M.bind_run, hn])

/-- A field that leaves the register raises 0x01 (R69). -/
theorem bitField_raises (hn : ¬ pos.toNat + lenm1.toNat + 1 ≤ 64) :
    Raises s (.bfx d a pos lenm1) 0x01 0 ∧ Raises s (.bfi d a pos lenm1) 0x01 0 := by
  have hstart : start .scalar [d, a] s = .ok ((), s) := start_run (Group.scalar_taken _) hr
  constructor <;>
    exact raises_of (t := s) rfl (State.turn_ne_env hx) (by rw [after_run, M.bind_ok hstart]; simp [M.bind_run, hn]) rfl

end

theorem getLsbD_extractBits (x : Word) (pos len : Nat) {i : Nat} (hi : i < 64) :
    (extractBits x pos len).getLsbD i = (decide (i < len) && x.getLsbD (pos + i)) := by
  rw [extractBits, word, BitVec.getLsbD_ofNat, testBit_field]
  simp [hi]

theorem getLsbD_insertBits (t x : Word) {pos len : Nat} (h : pos + len ≤ 64) (i : Nat) :
    (insertBits t x pos len).getLsbD i = if pos ≤ i ∧ i < pos + len then x.getLsbD (i - pos) else t.getLsbD i := by
  rw [insertBits, getLsbD_setField _ _ h, testBit_field]
  split
  · rw [Nat.zero_add, decide_eq_true (by omega), Bool.true_and]
  · rfl

/-- Settles O5: the immediate forms are `oneReg` forms, the 16-bit ones their expansions; the bits of a field are those
of `field` and `setField`. -/
theorem immediate_operations : Obligations.Immediate_operations := by
  unfold Obligations.Immediate_operations
  refine ⟨fun s d a i j sh u hx hr => ?_, fun s d a pos lenm1 hx hr => ⟨fun hn => ?_, fun hn => ?_⟩, fun s d a i hx hr => ?_⟩
  · have hd : holds s.turn [d] = true := holds_of hr (by simp)
    exact ⟨writes_oneReg hx rfl hr rfl, writes_oneReg hx rfl hr rfl, writes_oneReg hx rfl hr rfl, writes_oneReg hx rfl hr rfl,
      writes_oneReg hx rfl hr rfl, writes_oneReg hx rfl hr rfl, writes_oneReg hx rfl hr rfl, writes_oneReg hx rfl hr rfl,
      writes_oneReg hx rfl hr (bit_slt_sext _ _), writes_oneReg hx rfl hr (bit_slt_sext _ _),
      writes_oneReg hx rfl hr (bit_ult_sext _ _), writes_oneReg hx rfl hr (bit_ult_sext _ _),
      writes_oneReg hx rfl hr rfl, writes_oneReg hx rfl hr rfl, writes_oneReg hx rfl hr rfl,
      writes_of hx rfl hd (by rw [sext_shiftLeft, setG_run]), writes_of hx rfl hd (by simp [M.bind_run, codeTarget_eq])⟩
  · exact ⟨⟨_, bfx_writes hx hr hn, fun i hi => getLsbD_extractBits _ _ _ hi⟩,
      ⟨_, bfi_writes hx hr hn, fun i _ => getLsbD_insertBits _ _ hn i⟩⟩
  · exact bitField_raises hx hr (by omega)
  · have hdd : holds s.turn [d, d] = true := holds_of hr (by simp)
    have hdda : holds s.turn [d, d, a] = true := holds_of hr (by simp)
    have hda0 : holds s.turn [d, a, 0] = true := holds_of hr (by simp)
    have hd0 : holds s.turn [d, 0] = true := holds_of hr (by simp)
    exact ⟨writes_twoRegs hx rfl hdda rfl, writes_twoRegs hx rfl hda0 (by simp), writes_oneReg hx rfl hdd rfl,
      writes_oneReg hx rfl hd0 (by simp [sext]), writes_twoRegs hx rfl hdda rfl, writes_twoRegs hx rfl hdda rfl,
      writes_twoRegs hx rfl hdda rfl, writes_twoRegs hx rfl hdda rfl, writes_oneReg hx rfl hdd rfl,
      writes_oneReg hx rfl hdd rfl, writes_oneReg hx rfl hdd rfl⟩

/-! ## Branches, jumps and hints (R71, R72, R75) -/

theorem goesTo_branchIf {s : State} {i : Instr} {a b : Reg} {o : BitVec 11} {f : Word → Word → Bool} {c : Prop} [Decidable c]
    (he : exec i s = runMeaning (branchIf a b o f) s) (hx : s.executing = true) (hr : holds s.turn [a, b] = true)
    (hf : f (s.readG a) (s.readG b) = true ↔ c) :
    GoesTo s i (if c then s.pc + BitVec.ofInt 64 (2 * o.toInt) else s.pc + 4) := by
  unfold GoesTo
  rw [he, ← codeTarget_eq, ← if_congr hf rfl rfl]
  exact branchIf_moved f hx hr

/-- The end of a jump: its link is written, and its stream goes on at the target (R72). -/
theorem State.putG_retire_at {s : State} (h : s.executing = true) {d : Reg} (v next : Word) (hd : d.val < fileSize s.turn) :
    let t := (s.putG d v).retire next
    t.pc = next ∧ t.readG d = (if d = 0 then 0 else v) ∧ (∀ r, r ≠ d → t.readG r = s.readG r) ∧ s.registersOnly t := by
  have hnext : s.pc + word (next - s.pc).toNat = next := by
    rw [word, BitVec.ofNat_toNat, BitVec.setWidth_eq, add_sub_cancel]
  obtain ⟨hv, hpc, hother, hrest⟩ := State.putG_retire h (next - s.pc).toNat v hd
  rw [hnext] at hv hpc hother hrest
  exact ⟨hpc, hv, hother, hrest⟩

section
variable {s : State} {i : Instr} {len : Nat} {d a : Reg} (hx : s.executing = true)
include hx

theorem links_jumpLink {n : Nat} {o : BitVec n} (he : exec i s = runMeaning (jumpLink len d o) s)
    (hr : holds s.turn [d] = true) : Links s i d (s.pc + word len) (s.pc + BitVec.ofInt 64 (2 * o.toInt)) := by
  refine ⟨_, he.trans (runMeaning_ok (State.turn_ne_env hx) (t := s.putG d (s.pc + word len)) (next := codeTarget s.pc o) ?_), ?_⟩
  · unfold jumpLink
    rw [M.bind_ok (start_run (Group.scalar_taken _) hr), M.bind_ok (ask_run _ _), M.bind_ok (setG_run _ _ _), M.pure_run]
  · rw [codeTarget_eq]
    exact State.putG_retire_at hx _ _ (holds_head hr)

theorem links_jumpRegister {k : BitVec 11} {target : Word} (he : exec i s = runMeaning (jumpRegister len d a k) s)
    (hr : holds s.turn [d, a] = true) (ht : s.readG a + 2 * sext k = target) (heven : target.toNat % 2 = 0) :
    Links s i d (s.pc + word len) target := by
  refine ⟨_, he.trans (runMeaning_ok (State.turn_ne_env hx) (t := s.putG d (s.pc + word len)) (next := target) ?_),
    State.putG_retire_at hx _ _ (holds_head hr)⟩
  have hb : target.getLsbD 0 = false := by simpa [BitVec.getLsbD, Nat.testBit_zero] using heven
  unfold jumpRegister
  rw [M.bind_ok (start_run (Group.scalar_taken _) hr), M.bind_ok (getG_run _ _), ht, hb, Bool.not_false, require_true,
    M.bind_ok (M.pure_run _ _), M.bind_ok (ask_run _ _), M.bind_ok (setG_run _ _ _), M.pure_run]

/-- A jump to an odd target in a register (R72). -/
theorem raises_jumpRegister {k : BitVec 11} {target : Word} (he : exec i s = runMeaning (jumpRegister len d a k) s)
    (hr : holds s.turn [d, a] = true) (ht : s.readG a + 2 * sext k = target) (hodd : target.toNat % 2 = 1) :
    Raises s i 0x03 target := by
  have hb : target.getLsbD 0 = true := by simpa [BitVec.getLsbD, Nat.testBit_zero] using hodd
  refine raises_of (t := s) he (State.turn_ne_env hx) ?_ rfl
  unfold jumpRegister
  rw [M.bind_ok (start_run (Group.scalar_taken _) hr), M.bind_ok (getG_run _ _), ht, hb, Bool.not_true, require_false,
    M.bind_error (signal_run _ _ _)]

theorem goesTo_hint (he : exec i s = runMeaning (after len (start .scalar [])) s) : GoesTo s i (s.pc + word len) := by
  refine ⟨_, he.trans (runMeaning_ok (State.turn_ne_env hx) (t := s) ?_), State.retire_movedTo hx _⟩
  rw [after_run, start_run (Group.scalar_taken _) rfl]

end

/-- Settles O6: a branch is a `branchIf`, a jump a `jumpLink` or a `jumpRegister`, and a hint only ends. -/
theorem control_flow : Obligations.Control_flow := by
  unfold Obligations.Control_flow
  refine ⟨fun s a b o hx hr => ?_, fun s d a o c i hx hr => ?_, fun s h k hx => ?_⟩
  · exact ⟨goesTo_branchIf rfl hx hr beq_iff_eq, goesTo_branchIf rfl hx hr bne_iff_ne,
      goesTo_branchIf rfl hx hr BitVec.slt_iff_toInt_lt,
      goesTo_branchIf rfl hx hr (by simp [BitVec.slt_eq_decide]),
      goesTo_branchIf rfl hx hr BitVec.ult_iff_lt,
      goesTo_branchIf rfl hx hr (by simp [BitVec.ult_eq_decide])⟩
  · have hd : holds s.turn [d] = true := holds_of hr (by simp)
    have h0 : holds s.turn [0] = true := holds_of hr (by simp)
    have h1 : holds s.turn [1] = true := holds_of hr (by simp)
    have h0a : holds s.turn [0, a] = true := holds_of hr (by simp)
    have h1a : holds s.turn [1, a] = true := holds_of hr (by simp)
    have disp : s.readG a + 2 * sext i = s.readG a + BitVec.ofInt 64 (2 * i.toInt) := by rw [two_mul_sext]
    have plain : s.readG a + 2 * sext (0 : BitVec 11) = s.readG a := by
      rw [show 2 * sext (0 : BitVec 11) = 0 by decide, add_zero]
    exact ⟨links_jumpLink hx rfl hd, links_jumpLink hx rfl h0, links_jumpLink hx rfl h1,
      links_jumpRegister hx rfl hr disp, raises_jumpRegister hx rfl hr disp,
      fun he => ⟨links_jumpRegister hx rfl h0a plain he, links_jumpRegister hx rfl h1a plain he⟩,
      fun ho => ⟨raises_jumpRegister hx rfl h0a plain ho, raises_jumpRegister hx rfl h1a plain ho⟩⟩
  · exact ⟨goesTo_hint hx rfl, goesTo_hint hx rfl, goesTo_hint hx rfl⟩

end Sys2Proof.Machine

end

section

namespace Sys2Proof.Machine

/-! ## Trap entry: poison in a handler of an activation

An activation that consumes poison is dropped and starts once more (R362), in its trap handler too. The hypotheses of O7
leave poison out only where the activation stands in no handler. -/

/-- A message of core 0 to itself. -/
def ownMessage : Item :=
  { src := some { core := 0, ctx := .f }, kind := .high 0 0, lvlid := 0, cls := 0, w0 := 0, w1 := 0, scope := .co, port := none }

/-- An H activation of core 0 that the message started, in its trap handler. -/
def handlingTrap : State :=
  State.setCore { State.reset with turn := .core 0 .h } 0
    { Core.reset with
      hc := { Context.reset 1 with inTrap := true }
      hAct := some { trigger := .message ownMessage, count := 0, out := [], second := false } }

/-- Poison restarts the activation, which then stands in no handler. -/
theorem handlingTrap_poison : (((handlingTrap.trapTurn 0x31 0).core 0).context .h).inTrap = false := by decide +kernel

/-- Refutes O7: in `handlingTrap` poison (0x31) enters no trap: the activation is dropped and starts once more (R362). -/
theorem not_trap_entry : ¬ Obligations.Trap_entry := by
  unfold Obligations.Trap_entry
  intro h
  have inHandler : ((handlingTrap.core 0).context .h).inTrap = true := by decide +kernel
  obtain ⟨-, -, -, -, -, -, -, -, -, entered, -⟩ := h handlingTrap 0 .h 0x31 0 ⟨rfl, by decide +kernel⟩ (by decide)
    (fun he => absurd (.inl rfl) he) (fun _ he => by rw [inHandler] at he; cases he)
  rw [handlingTrap_poison] at entered
  cases entered

end Sys2Proof.Machine

end

section

namespace Sys2Proof.Machine

/-! ## Accesses of a core that is not paired (R78)

The checks of an access in numbers, and what each building block of an access does on a core outside every pair. -/

/-! ### One block of a meaning at a time -/

section
variable {α β : Type} (s : State)

theorem ask_bind (f : State → α) (g : α → M β) : (ask f >>= g) s = g (f s) s := rfl
theorem get_bind (g : State → M β) : ((get : M State) >>= g) s = g s s := rfl
theorem getG_bind (r : Reg) (g : Word → M β) : (getG r >>= g) s = g (s.readG r) s := rfl
theorem setG_bind (r : Reg) (v : Word) (g : Unit → M β) : (setG r v >>= g) s = g () (s.putG r v) := rfl
theorem update_bind (f : State → State) (g : Unit → M β) : (update f >>= g) s = g () (f s) := rfl
theorem signal_bind (c : Nat) (v : Word) (g : α → M β) : ((signal c v : M α) >>= g) s = .error (.trap s c v) := rfl
theorem unit_bind (a : α) (g : α → M β) : ((pure a : M α) >>= g) s = g a s := rfl

end

theorem State.alone.self_bind {s : State} {n : Nat} {x : Ctx} (h : s.alone n x) {β : Type} (g : Nat × Ctx → M β) :
    (self >>= g) s = g (n, x) s :=
  M.bind_ok h.self_run

/-- The checks that come first, on a core that its registers do not stop. -/
theorem State.alone.startOrd_bind {s : State} {n : Nat} {x : Ctx} (h : s.alone n x) {β : Type} {g : Group} {ok : Bool}
    {rs : List Reg} (hg : g.refused (.core n x) = none) (ho : ok = true) (hr : holds s.turn rs = true) (m : Unit → M β) :
    (startOrd g ok rs >>= m) s = m () s :=
  M.bind_ok (startOrd_run (by rw [h.turn, hg]) ho hr)

/-- An address register as a number, and back. -/
@[simp] theorem word_toNat (v : Word) : word v.toNat = v := by
  rw [word, BitVec.ofNat_toNat, BitVec.setWidth_eq]

/-! ### Addresses -/

/-- The parts of a scratch address (R191, R194). -/
theorem slotOf_eq {va : Nat} (h : inScratch va = true) :
    slotOf va = ((va - 0xFF000000000000) / 2 ^ 22, va / 2 ^ 19 % 8, va % 2 ^ 19) := by
  have hs : va / 2 ^ 48 = 255 := by simpa [inScratch] using h
  simp only [slotOf, Config.scratchBase, Config.slotBytes, Config.windowBytes, Prod.mk.injEq]
  omega

theorem windowAt_eq {va : Nat} (h : inScratch va = true) : windowAt va = va / 2 ^ 19 % 8 := by
  rw [windowAt, if_pos h, slotOf_eq h]

theorem windowAt_outside {va : Nat} (h : inScratch va = false) : windowAt va = 0 := by
  simp [windowAt, h]

theorem canonical_of_inScratch {va : Nat} (h : inScratch va = true) : canonical va = true := by
  have hs : va / 2 ^ 48 = 255 := by simpa [inScratch] using h
  simp only [canonical, Bool.or_eq_true, beq_iff_eq]
  omega

/-! ### Checks 2 to 5 of R78 -/

section
variable {va n : Nat} {aligned : Bool}

theorem addressCause_start (h : canonical va = false) : addressCause va n aligned = some 0x15 := by
  simp [addressCause, h]

theorem addressCause_end (h : canonical va = true) (he : 2 ^ 64 < va + n ∨ canonical (va + n - 1) = false) :
    addressCause va n aligned = some 0x16 := by
  have he' : 18446744073709551616 ≤ va + n - 1 ∨ canonical (va + n - 1) = false := he.imp_left fun _ => by omega
  simp only [addressCause, h]
  rcases he' with he' | he' <;> simp [he']

theorem addressCause_aligned (h : canonical va = true) (he : va + n ≤ 2 ^ 64) (he' : canonical (va + n - 1) = true)
    (ha : va % n ≠ 0) : addressCause va n true = some 0x04 := by
  simp [addressCause, h, he', ha, show va + n - 1 < 18446744073709551616 by omega]

theorem addressCause_none (h : canonical va = true) (he : va + n ≤ 2 ^ 64) (he' : canonical (va + n - 1) = true)
    (ha : aligned = true → va % n = 0) : addressCause va n aligned = none := by
  have ha' : (aligned && va % n != 0) = false := by
    cases aligned with
    | false => rfl
    | true => simp [ha rfl]
  simp [addressCause, h, he', ha', show va + n - 1 < 18446744073709551616 by omega]

end

section
variable {wcfg : Vector Word 5} {va n : Nat} {word atomic : Bool}

theorem windowCause_outside (h : inScratch va = false) : windowCause wcfg va n word atomic = none := by
  simp [windowCause, h]

/-- Check 5 for an address of a slot, by its window (R194). -/
theorem windowCause_scratch (h : inScratch va = true) : windowCause wcfg va n word atomic =
    if 6 ≤ va / 2 ^ 19 % 8 then some 0x1A
    else if va / 2 ^ 19 % 8 = 0 then (if 0x60000 < va % 2 ^ 19 + n then some 0x1A else none)
    else if atomic then some 0x1C
    else if va / 2 ^ 19 % 8 = 4 ∧ flag (wcfg.get 3) 0 = false then some 0x19
    else if word = false ∨ va % 4 ≠ 0 ∨ 0x60000 ≤ va % 2 ^ 19 ∨
      (windowElem wcfg (va / 2 ^ 19 % 8) (va % 2 ^ 19)).outOfRange = true then some 0x1A
    else none := by
  have h4 : windowConfig wcfg 4 = wcfg.get 3 := rfl
  simp only [windowCause, h, slotOf_eq h, Config.scratchBytes, h4]
  simp [or_assoc]

/-- Outside windows 1 to 5 the kind of the access does not matter. -/
theorem windowCause_raw (h : ¬ (1 ≤ windowAt va ∧ windowAt va ≤ 5)) :
    windowCause wcfg va n word false = windowCause wcfg va n false false := by
  cases hs : inScratch va with
  | false => rw [windowCause_outside hs, windowCause_outside hs]
  | true =>
    rw [windowAt_eq hs] at h
    rw [windowCause_scratch hs, windowCause_scratch hs]
    by_cases h6 : 6 ≤ va / 2 ^ 19 % 8
    · rw [if_pos h6, if_pos h6]
    · have h0 : va / 2 ^ 19 % 8 = 0 := by omega
      rw [if_neg h6, if_neg h6, if_pos h0, if_pos h0]

end

/-- The first of the checks 2 to 5 of R78 that a plain scalar access of `n` bytes fails, or none. -/
def accessCause (wcfg : Vector Word 5) (va n : Nat) : Option Nat :=
  (addressCause va n false).or (windowCause wcfg va n (n == 4) false)

theorem accessCause_address {wcfg : Vector Word 5} {va n c : Nat} (h : addressCause va n false = some c) :
    accessCause wcfg va n = some c := by
  simp [accessCause, h]

theorem accessCause_window {wcfg : Vector Word 5} {va n c : Nat} (h : addressCause va n false = none)
    (hw : windowCause wcfg va n (n == 4) false = some c) : accessCause wcfg va n = some c := by
  simp [accessCause, h, hw]

/-! ### Check 6 of R78 -/

section
variable {s : State} {v : Viewer} {store : Bool} {va n c : Nat}

theorem locate_bad (h : s.spot v store va = .bad c) : locate v store va s = .error (.trap s c (word va)) := by
  unfold locate
  rw [M.bind_ok (get_run s), h]
  rfl

theorem locate_at {p : Place} {rc unc : Bool} (h : s.spot v store va = .at_ p rc unc) :
    locate v store va s = .ok (.at_ p rc unc, s) := by
  unfold locate
  rw [M.bind_ok (get_run s), h]
  rfl

theorem locateAll_bad (hp : va % 4096 + n ≤ 4096) (h : s.spot v store va = .bad c) :
    locateAll v store va n s = .error (.trap s c (word va)) := by
  unfold locateAll
  simp only [if_pos (show n ≤ 4096 - va % 4096 by omega)]
  rw [M.bind_error (locate_bad h)]

end

theorem isPlain_plain : isPlain plainQual = true := rfl
theorem isRcRelease_plain : isRcRelease plainQual = false := rfl

/-- A plain store resumes no release (R339). -/
theorem resumeRc_plain (m : M Unit) (s : State) : resumeRc plainQual m s = m s := by
  unfold resumeRc
  simp [isRcRelease_plain, M.bind_run]

theorem checkWord_run (v : Viewer) (va n : Nat) (aligned word_ : Bool) (s : State) :
    checkWord v va n aligned word_ s =
      match (addressCause va n aligned).or (windowCause v.wcfg va n word_ false) with
      | some e => .error (.trap s e (word va))
      | none => .ok ((), s) := by
  unfold checkWord
  cases addressCause va n aligned with
  | some e => rfl
  | none => cases windowCause v.wcfg va n word_ false <;> rfl

section
variable {s : State} {n : Nat} {x : Ctx} (h : s.alone n x)
include h

theorem State.alone.readFor_run (own : Bool) (m : M (List Byte)) : readFor own m s = m s := by
  cases own with
  | true => rfl
  | false => exact h.external_run m

theorem memRead_refused {va k c : Nat}
    (hc : (addressCause va k false).or (windowCause (s.core n).sr.wcfg va k false false) = some c) :
    memRead va k plainQual s = .error (.trap s c (word va)) := by
  have hv : (s.viewer n x).wcfg = (s.core n).sr.wcfg := rfl
  simp only [memRead, h.self_bind, ask_bind, isPlain_plain, Bool.not_true, hv]
  cases ha : addressCause va k false with
  | some e =>
    obtain rfl : e = c := by simpa [ha] using hc
    rfl
  | none =>
    rw [ha, Option.none_or] at hc
    simp only [hc]
    rfl

theorem memRead_bad {va k c : Nat} (ha : addressCause va k false = none) (hs : inScratch va = false)
    (hp : va % 4096 + k ≤ 4096) (hb : s.spot (s.viewer n x) false va = .bad c) :
    memRead va k plainQual s = .error (.trap s c (word va)) := by
  simp only [memRead, h.self_bind, ask_bind, isPlain_plain, Bool.not_true, ha, windowCause_outside hs,
    acquireFor, if_true, unit_bind]
  rw [M.bind_error]
  rw [h.readFor_run, M.bind_error (locateAll_bad hp hb)]

theorem memWrite_refused {va c : Nat} {bs : List Byte}
    (hc : (addressCause va bs.length false).or (windowCause (s.core n).sr.wcfg va bs.length false false) = some c) :
    memWrite va bs plainQual s = .error (.trap s c (word va)) := by
  have hv : (s.viewer n x).wcfg = (s.core n).sr.wcfg := rfl
  simp only [memWrite, resumeRc_plain, h.self_bind, ask_bind, isPlain_plain, Bool.not_true, hv]
  cases ha : addressCause va bs.length false with
  | some e =>
    obtain rfl : e = c := by simpa [ha] using hc
    rfl
  | none =>
    rw [ha, Option.none_or] at hc
    simp only [hc]
    rfl

theorem memWrite_bad {va c : Nat} {bs : List Byte} (ha : addressCause va bs.length false = none) (hs : inScratch va = false)
    (hp : va % 4096 + bs.length ≤ 4096) (hb : s.spot (s.viewer n x) true va = .bad c) :
    memWrite va bs plainQual s = .error (.trap s c (word va)) := by
  simp only [memWrite, resumeRc_plain, h.self_bind, ask_bind, isPlain_plain, Bool.not_true, ha,
    windowCause_outside hs]
  rw [M.bind_error]
  simp only [locateStore, h.self_bind, ask_bind, h.2, Bool.false_and, Bool.not_false, Bool.or_true, if_true]
  rw [M.bind_error]
  rw [M.bind_error (locateAll_bad hp hb)]

/-- A plain scalar load that fails check 2, 3 or 5 raises its cause with the address, and does nothing else (R78). -/
theorem loadValue_refused {va : Word} {k c : Nat} (hc : accessCause (s.core n).sr.wcfg va.toNat k = some c) :
    loadValue va k plainQual s = .error (.trap s c va) := by
  simp only [loadValue, ask_bind, h.turn, h.self_bind]
  by_cases hw : 1 ≤ windowAt va.toNat ∧ windowAt va.toNat ≤ 5
  · rw [if_pos hw, M.bind_error]
    rw [checkWord_run, isPlain_plain, Bool.not_true, show (s.viewer n x).wcfg = (s.core n).sr.wcfg from rfl,
      ← accessCause, hc, word_toNat]
  · rw [accessCause, windowCause_raw hw] at hc
    rw [if_neg hw, M.bind_error (memRead_refused h hc), word_toNat]

/-- A plain scalar store likewise. -/
theorem storeValue_refused {va y : Word} {k c : Nat} (hc : accessCause (s.core n).sr.wcfg va.toNat k = some c) :
    storeValue va k y plainQual s = .error (.trap s c va) := by
  have hlen : (bytesOf k y.toNat).length = k := by simp [bytesOf]
  simp only [storeValue, ask_bind, h.turn, h.self_bind]
  by_cases hw : 1 ≤ windowAt va.toNat ∧ windowAt va.toNat ≤ 5
  · rw [if_pos hw, M.bind_error]
    rw [checkWord_run, isPlain_plain, Bool.not_true, show (s.viewer n x).wcfg = (s.core n).sr.wcfg from rfl,
      ← accessCause, hc, word_toNat]
  · rw [accessCause, windowCause_raw hw] at hc
    rw [if_neg hw, memWrite_refused h (by rwa [hlen]), word_toNat]

/-- A plain scalar load within one page of memory that fails check 6 (R78, R209). -/
theorem loadValue_bad {va : Word} {k c : Nat} (ha : addressCause va.toNat k false = none) (hs : inScratch va.toNat = false)
    (hp : va.toNat % 4096 + k ≤ 4096) (hb : s.spot (s.viewer n x) false va.toNat = .bad c) :
    loadValue va k plainQual s = .error (.trap s c va) := by
  simp only [loadValue, ask_bind, h.turn, h.self_bind]
  rw [if_neg (by rw [windowAt_outside hs]; omega), M.bind_error (memRead_bad h ha hs hp hb), word_toNat]

theorem storeValue_bad {va y : Word} {k c : Nat} (ha : addressCause va.toNat k false = none) (hs : inScratch va.toNat = false)
    (hp : va.toNat % 4096 + k ≤ 4096) (hb : s.spot (s.viewer n x) true va.toNat = .bad c) :
    storeValue va k y plainQual s = .error (.trap s c va) := by
  have hlen : (bytesOf k y.toNat).length = k := by simp [bytesOf]
  simp only [storeValue, ask_bind, h.turn, h.self_bind]
  rw [if_neg (by rw [windowAt_outside hs]; omega),
    memWrite_bad h (by rwa [hlen]) hs (by rwa [hlen]) hb, word_toNat]

end

end Sys2Proof.Machine

end

section

namespace Sys2Proof.Machine

/-! ### Scalar loads and stores of whoever executes -/

/-- What a load gives its register (R77). -/
def extended (signed : Bool) (k x : Nat) : Word := if signed then signExtendNat x (8 * k) else word x

section
variable {s : State} {i : Instr} {len k : Nat} {d b : Reg} {ql : Qual} {f : Word → Word}

theorem loadTo_ok (signed : Bool) {t : State} {x : Nat} (ho : loadOrd ql = true) (hr : holds s.turn [d, b] = true)
    (hl : loadValue (f (s.readG b)) k ql s = .ok (x, t)) :
    loadTo len k signed d b ql f s = .ok ((t.putG d (extended signed k x)).pc + word len, t.putG d (extended signed k x)) := by
  unfold loadTo
  rw [after_run, M.bind_ok (startOrd_run (Group.scalar_taken _) ho hr), getG_bind, M.bind_ok hl]
  rfl

theorem loadTo_error (signed : Bool) {e : Stop} (ho : loadOrd ql = true) (hr : holds s.turn [d, b] = true)
    (hl : loadValue (f (s.readG b)) k ql s = .error e) : loadTo len k signed d b ql f s = .error e := by
  unfold loadTo
  rw [after_run, M.bind_ok (startOrd_run (Group.scalar_taken _) ho hr), getG_bind, M.bind_error hl]

theorem storeFrom_ok {t : State} (ho : storeOrd ql = true) (hr : holds s.turn [d, b] = true)
    (hl : storeValue (f (s.readG b)) k (s.readG d) ql s = .ok ((), t)) :
    storeFrom len k d b ql f s = .ok (t.pc + word len, t) := by
  unfold storeFrom
  rw [after_run, M.bind_ok (startOrd_run (Group.scalar_taken _) ho hr), getG_bind, getG_bind, hl]

theorem storeFrom_error {e : Stop} (ho : storeOrd ql = true) (hr : holds s.turn [d, b] = true)
    (hl : storeValue (f (s.readG b)) k (s.readG d) ql s = .error e) : storeFrom len k d b ql f s = .error e := by
  unfold storeFrom
  rw [after_run, M.bind_ok (startOrd_run (Group.scalar_taken _) ho hr), getG_bind, getG_bind, hl]

theorem raises_loadTo {signed : Bool} {c : Nat} {v : Word} (he : exec i s = runMeaning (loadTo len k signed d b ql f) s)
    (hx : s.turn ≠ .env) (ho : loadOrd ql = true) (hr : holds s.turn [d, b] = true)
    (hl : loadValue (f (s.readG b)) k ql s = .error (.trap s c v)) : Raises s i c v :=
  raises_of (t := s) he hx (loadTo_error signed ho hr hl) rfl

theorem raises_storeFrom {c : Nat} {v : Word} (he : exec i s = runMeaning (storeFrom len k d b ql f) s)
    (hx : s.turn ≠ .env) (ho : storeOrd ql = true) (hr : holds s.turn [d, b] = true)
    (hl : storeValue (f (s.readG b)) k (s.readG d) ql s = .error (.trap s c v)) : Raises s i c v :=
  raises_of (t := s) he hx (storeFrom_error ho hr hl) rfl

/-- An ord code that is none of the form raises 0x1D (R54). -/
theorem raises_ord {g : Group} {rs : List Reg} {m : M Unit}
    (he : exec i s = runMeaning (after len (startOrd g false rs >>= fun _ => m)) s) (hx : s.turn ≠ .env)
    (hg : g.refused s.turn = none) : Raises s i 0x1D 0 := by
  refine raises_of (t := s) he hx ?_ rfl
  rw [after_run, M.bind_error]
  simp only [startOrd, ask_bind, hg]
  rfl

end

/-! ## The checks of an access (R78) -/

theorem rlAddress_zero (base : Word) (k : Nat) : rlAddress base 0 k = base := by
  simp [rlAddress, sext]

/-- Plain loads and stores at the address in `b`: length, and whether a store. -/
def plainAccesses (d b : Reg) : List (Instr × Nat × Bool) :=
  [(.ldB d b 0 plainQual, 1, false), (.ldH d b 0 plainQual, 2, false), (.ldW d b 0 plainQual, 4, false),
   (.ldD d b 0 plainQual, 8, false), (.stB d b 0 plainQual, 1, true), (.stH d b 0 plainQual, 2, true),
   (.stW d b 0 plainQual, 4, true), (.stD d b 0 plainQual, 8, true)]

section
variable {s : State} {n : Nat} {x : Ctx} (h : s.alone n x) {d b : Reg} (hr : holds s.turn [d, b] = true)
include h hr

/-- A plain access raises what its load or its store raises. -/
theorem plainAccess_raises {i : Instr} {k c : Nat} {store : Bool} (hi : (i, k, store) ∈ plainAccesses d b)
    (hload : store = false → loadValue (s.readG b) k plainQual s = .error (.trap s c (s.readG b)))
    (hstore : store = true → storeValue (s.readG b) k (s.readG d) plainQual s = .error (.trap s c (s.readG b))) :
    Raises s i c (s.readG b) := by
  have load {i : Instr} {k : Nat}
      (he : exec i s = runMeaning (loadTo 4 k true d b plainQual fun b => rlAddress b 0 k) s)
      (hl : loadValue (s.readG b) k plainQual s = .error (.trap s c (s.readG b))) : Raises s i c (s.readG b) :=
    raises_loadTo he h.not_env rfl hr (by rw [rlAddress_zero, hl])
  have store_ {i : Instr} {k : Nat}
      (he : exec i s = runMeaning (storeFrom 4 k d b plainQual fun b => rlAddress b 0 k) s)
      (hl : storeValue (s.readG b) k (s.readG d) plainQual s = .error (.trap s c (s.readG b))) : Raises s i c (s.readG b) :=
    raises_storeFrom he h.not_env rfl hr (by rw [rlAddress_zero, hl])
  simp only [plainAccesses, List.mem_cons, List.not_mem_nil, or_false, Prod.mk.injEq] at hi
  rcases hi with ⟨rfl, rfl, rfl⟩ | ⟨rfl, rfl, rfl⟩ | ⟨rfl, rfl, rfl⟩ | ⟨rfl, rfl, rfl⟩ | hi
  · exact load rfl (hload rfl)
  · exact load rfl (hload rfl)
  · exact load rfl (hload rfl)
  · exact load rfl (hload rfl)
  · rcases hi with ⟨rfl, rfl, rfl⟩ | ⟨rfl, rfl, rfl⟩ | ⟨rfl, rfl, rfl⟩ | ⟨rfl, rfl, rfl⟩
    · exact store_ rfl (hstore rfl)
    · exact store_ rfl (hstore rfl)
    · exact store_ rfl (hstore rfl)
    · exact store_ rfl (hstore rfl)

/-- A plain access that fails check 2, 3 or 5 raises its cause with the address. -/
theorem plainAccess_refused {i : Instr} {k c : Nat} {store : Bool} (hi : (i, k, store) ∈ plainAccesses d b)
    (hc : accessCause (s.core n).sr.wcfg (s.readG b).toNat k = some c) : Raises s i c (s.readG b) :=
  plainAccess_raises h hr hi (fun _ => loadValue_refused h hc) fun _ => storeValue_refused h hc

/-- A plain access within a page of memory that fails check 6 raises its cause with the address. -/
theorem plainAccess_bad {i : Instr} {k c : Nat} {store : Bool} (hi : (i, k, store) ∈ plainAccesses d b)
    (ha : addressCause (s.readG b).toNat k false = none) (hs : inScratch (s.readG b).toNat = false)
    (hp : (s.readG b).toNat % 4096 + k ≤ 4096) (hb : s.spot (s.viewer n x) store (s.readG b).toNat = .bad c) :
    Raises s i c (s.readG b) :=
  plainAccess_raises h hr hi (fun e => loadValue_bad h ha hs hp (e ▸ hb)) fun e => storeValue_bad h ha hs hp (e ▸ hb)

end

/-! ### Translation and permission (R209) -/

section
variable {s : State} {v : Viewer} {store : Bool} {va : Nat} {e : TlbEntry} (hs : inScratch va = false)
  (hf : tlbFind (s.cluster v.cluster).tlb (v.asid.toNat % 2 ^ 16) va = some e)
include hs hf

/-- An entry that fails a check of R209 gives its cause. -/
theorem spot_leafCause {c : Nat} (hc : leafCause v store (decide (0xFF00000000000000 ≤ va)) e.leaf e.comp = some c) :
    s.spot v store va = .bad c := by
  have hasid : field v.asid 0 16 = v.asid.toNat % 2 ^ 16 := by simp [field]
  simp only [State.spot, hs, Bool.false_eq_true, if_false, hasid, hf, hc]

/-- An entry that passes the checks of R209 gives local memory, where no die is under reset and no page moves. -/
theorem spot_memory (hc : leafCause v store (decide (0xFF00000000000000 ≤ va)) e.leaf e.comp = none)
    (hp : e.pa va < 0xC000000000) (hd : (s.die (e.pa va / 0x3000000000)).inReset = false)
    (hm : sget s.fabric.pages (e.pa va / 4096) = none) :
    s.spot v store va = .at_ (.mem (e.pa va)) (flag e.comp 26) (flag e.leaf 7) := by
  have hasid : field v.asid 0 16 = v.asid.toNat % 2 ^ 16 := by simp [field]
  have hfab : isFabric (e.pa va) = false := decide_eq_false (not_le.2 hp)
  simp only [State.spot, hs, Bool.false_eq_true, if_false, hasid, hf, hc, hfab, homeDie, Config.dieBytes, hd, hm]

end

section
variable {v : Viewer} {store high : Bool} {leaf comp : Word}

theorem leafCause_absent (he : v.engine = false) (h0 : flag leaf 0 = false) :
    leafCause v store high leaf comp = some (if store then 0x11 else 0x10) := by
  simp [leafCause, he, h0]

theorem leafCause_user (h0 : flag leaf 0 = true) (hu : v.user = true) (h3 : high = true ∨ flag leaf 3 = false) :
    leafCause v store high leaf comp = some 0x13 := by
  rcases h3 with h3 | h3 <;> cases high <;> simp_all [leafCause]

/-- The checks of R209 that follow those of the user. -/
theorem leafCause_past_user (he : v.engine = false) (h0 : flag leaf 0 = true)
    (hu : v.user = true → high = false ∧ flag leaf 3 = true) : leafCause v store high leaf comp =
      if store && !flag leaf 2 then some 0x13
      else if !flag leaf 5 || store && !flag leaf 6 then some (if store then 0x11 else 0x10)
      else if !flag comp (32 + v.log / 2 ^ field comp 27 5 % 32) then some 0x14
      else none := by
  have hno : (v.user && high) = false ∧ (v.user && !flag leaf 3) = false := by
    cases hv : v.user with
    | false => simp
    | true => simp [hu hv]
  obtain ⟨hhigh, hpage⟩ := hno
  simp only [leafCause, he, h0, hhigh, hpage]
  cases flag leaf 5 <;> simp

end

/-- Settles O18: a plain access raises the first cause of `accessCause`, and on a page that of `leafCause`. -/
theorem access_checks : Obligations.Access_checks := by
  unfold Obligations.Access_checks
  refine ⟨fun s n x d b r ql h hr => ?_, fun s v store va e hs he hf => ?_⟩
  · have hdb : holds s.turn [d, b] = true := holds_of hr (by simp)
    have taken : Group.scalar.refused s.turn = none := Group.scalar_taken _
    refine ⟨fun ho => raises_ord (by rw [← show loadOrd ql = false by simp [loadOrd, ho]]; rfl) h.not_env taken,
      fun ho => raises_ord (by rw [← show storeOrd ql = false by simp [storeOrd, ho]]; rfl) h.not_env taken,
      fun i len store hi => ?_⟩
    have hlen : 0 < len := by
      simp only [List.mem_cons, List.not_mem_nil, or_false, Prod.mk.injEq] at hi
      omega
    have refused {c : Nat} := plainAccess_refused h hdb (c := c) hi
    refine ⟨fun hc => refused (accessCause_address (addressCause_start hc)),
      fun hc he => refused (accessCause_address (addressCause_end hc he)), fun hc he he' hs => ?_, fun hc he he' hs hp c _ hb => ?_⟩
    · have inside := addressCause_none (aligned := false) hc he he' (by simp)
      have window {c : Nat} (hw : windowCause (s.core n).sr.wcfg (s.readG b).toNat len (len == 4) false = some c) :
          Raises s i c (s.readG b) := refused (accessCause_window inside hw)
      refine ⟨fun h6 => window ?_, fun h0 hend => window ?_, fun h4 hoff => window ?_, fun h1 h5 hon hword => window ?_⟩
      · rw [windowCause_scratch hs, if_pos h6]
      · rw [windowCause_scratch hs, if_neg (by omega), if_pos h0, if_pos hend]
      · rw [windowCause_scratch hs, if_neg (by omega), if_neg (by omega), if_neg (by simp), if_pos ⟨h4, hoff⟩]
      · have open_ : ¬ ((s.readG b).toNat / 2 ^ 19 % 8 = 4 ∧ flag ((s.core n).sr.wcfg.get 3) 0 = false) := by
          rintro ⟨h4, hoff⟩
          exact hon.elim (absurd h4) fun e => by rw [hoff] at e; cases e
        rw [windowCause_scratch hs, if_neg (by omega), if_neg (by omega), if_neg (by simp), if_neg open_, if_pos]
        exact hword.imp (fun e => by simpa using e) .inl
    · exact plainAccess_bad h hdb hi (addressCause_none hc he he' (by simp)) hs hp hb
  · refine ⟨fun b0 => spot_leafCause hs hf (leafCause_absent he b0),
      fun b0 hu h3 => spot_leafCause hs hf (leafCause_user b0 hu (h3.imp decide_eq_true id)), fun b0 hu hst b2 => ?_,
      fun b0 hu hst => ?_⟩
    all_goals
      have past := leafCause_past_user (store := store) (comp := e.comp) he b0 fun hv =>
        (hu hv).imp_left fun hlt => decide_eq_false (not_le.2 hlt)
    · refine spot_leafCause hs hf (past.trans (if_pos ?_))
      have b2 : flag e.leaf 2 = false := b2
      simp [hst, b2]
    · have written : (store && !flag e.leaf 2) = false := by
        cases store with
        | false => rfl
        | true =>
          have b2 : flag e.leaf 2 = true := hst rfl
          simp [b2]
      rw [written, if_neg (by simp)] at past
      refine ⟨fun hb => spot_leafCause hs hf (past.trans (if_pos ?_)), fun b5 hd => ?_⟩
      · rcases hb with b5 | ⟨hst', b6⟩
        · have b5 : flag e.leaf 5 = false := b5
          simp [b5]
        · have b6 : flag e.leaf 6 = false := b6
          simp [hst', b6]
      · have dirty : (!flag e.leaf 5 || store && !flag e.leaf 6) = false := by
          have b5 : flag e.leaf 5 = true := b5
          cases store with
          | false => simp [b5]
          | true =>
            have b6 : flag e.leaf 6 = true := hd rfl
            simp [b5, b6]
        rw [dirty, if_neg (by simp)] at past
        refine ⟨fun hall => spot_leafCause hs hf (past.trans (if_pos ?_)), fun hall hp hdie hpage =>
          spot_memory hs hf (past.trans (if_neg ?_)) hp hdie hpage⟩
        · rw [Bool.not_eq_true']
          exact hall
        · rw [Bool.not_eq_true', Bool.not_eq_false]
          exact hall

end Sys2Proof.Machine

end

section

namespace Sys2Proof.Machine

/-! ## Numbers as bytes (R3), and accesses that pass their checks -/

@[simp] theorem length_bytesOf (n x : Nat) : (bytesOf n x).length = n := by simp [bytesOf]

theorem bytesOf_succ (n x : Nat) : bytesOf (n + 1) x = BitVec.ofNat 8 x :: bytesOf n (x / 256) := by
  simp [bytesOf, List.range_succ_eq_map, Nat.pow_succ', Nat.div_div_eq_div_mul]

/-- The low bytes of a number hold it modulo their range. -/
theorem natOf_bytesOf (n x : Nat) : natOf (bytesOf n x) = x % 256 ^ n := by
  induction n generalizing x with
  | zero => simp [bytesOf, natOf, Nat.mod_one]
  | succ n ih =>
    have low : (BitVec.ofNat 8 x).toNat = x % 256 := BitVec.toNat_ofNat ..
    rw [bytesOf_succ, natOf, ih, low, Nat.pow_succ', Nat.mod_mul]

/-- The bytes of a list that stand behind others. -/
theorem slice_append_right {as bs : List Byte} {o n : Nat} (ho : as.length = o) (hn : bs.length = n) :
    slice (as ++ bs) o n = bs := by
  refine List.ext_getElem (by simp [slice, hn]) fun i h₁ h₂ => ?_
  simp [slice, ← ho, h₂]

theorem slice_append_left {as bs : List Byte} {n : Nat} (hn : as.length = n) : slice (as ++ bs) 0 n = as := by
  refine List.ext_getElem (by simp [slice, hn]) fun i h₁ h₂ => ?_
  simp [slice, List.getElem?_append_left h₂, h₂]

theorem natAt_packAtom_old (old fl : Nat) : natAt (packAtom old fl) 0 8 = old % 2 ^ 64 := by
  rw [natAt, packAtom, slice_append_left (length_bytesOf _ _), natOf_bytesOf]
  norm_num

theorem natAt_packAtom_flags (old fl : Nat) : natAt (packAtom old fl) 8 8 = fl % 2 ^ 64 := by
  rw [natAt, packAtom, slice_append_right (length_bytesOf _ _) (length_bytesOf _ _), natOf_bytesOf]
  norm_num

/-- All 64 bits of a register as a number, and back. -/
@[simp] theorem word_field_all (v : Word) : word (field v 0 64) = v := by
  rw [field, Nat.pow_zero, Nat.div_one, Nat.mod_eq_of_lt v.isLt, word_toNat]

@[simp] theorem Place.add_zero (p : Place) : p.add 0 = p := by cases p <;> rfl

/-- An address that gives a byte of a scratchpad names it by slot and offset (R190 to R192). -/
theorem spot_scratch {s : State} {v : Viewer} {store rc unc : Bool} {va o off : Nat}
    (h : s.spot v store va = .at_ (.scratch o off) rc unc) :
    inScratch va = true ∧ s.slotCore v (slotOf va).1 = .ok o ∧ off = va % 2 ^ 19 := by
  cases hs : inScratch va with
  | false =>
    simp only [State.spot, hs, Bool.false_eq_true, if_false] at h
    repeat' split at h
    all_goals cases h
  | true =>
    simp only [State.spot, hs, if_true, State.slotSpot] at h
    split at h
    · cases h
    · split at h
      · cases h
      · cases h
        exact ⟨rfl, by assumption, by rw [slotOf_eq hs]⟩

section
variable {s : State} {n : Nat} {x : Ctx} {store rc : Bool} {va len : Nat} {p : Place}

theorem State.reaches.addressCause (h : s.reaches n x store va len p rc) {aligned : Bool} (ha : aligned = true → va % len = 0) :
    addressCause va len aligned = none := by
  obtain ⟨hc, hce, hend, -⟩ := h
  exact addressCause_none hc hend hce ha

theorem State.reaches.windowCause (h : s.reaches n x store va len p rc) (wcfg : Vector Word 5) (word atomic : Bool) :
    windowCause wcfg va len word atomic = none := by
  obtain ⟨-, -, -, -, hraw, -⟩ := h
  cases hs : inScratch va with
  | false => exact windowCause_outside hs
  | true =>
    obtain ⟨hend, h0⟩ := hraw hs
    rw [windowCause_scratch hs, if_neg (by omega), if_pos h0, if_neg (by omega)]

/-- An access of at most 128 bytes meets a claim only at its first or its last byte (R233). -/
theorem State.reaches.unclaimed (h : s.reaches n x store va len p rc) (hl : len < 128) :
    s.anyClaimed p len = false := by
  obtain ⟨-, -, -, -, -, -, hfirst, hlast⟩ := h
  simp [State.anyClaimed, Nat.div_eq_of_lt hl, hfirst, hlast]

end

/-- A piece at a place that no engine has claimed is not waited for. -/
theorem waitClaims_run {s : State} {p : Place} {rc unc : Bool} {off len : Nat} (h : s.anyClaimed p len = false) :
    waitClaims [{ off := off, len := len, spot := .at_ p rc unc }] s = .ok ((), s) := by
  simp [waitClaims, M.bind_run, Piece.claimed, h, waitWhile_run]

end Sys2Proof.Machine

end

section

namespace Sys2Proof.Machine

/-! ## Atomics that raise, and atomics on another core's slot (R218, R219, R223) -/

theorem runMeaning_waitIn {m : M Word} {s t : State} (ht : s.turn ≠ .env) (h : m s = .error (.waitIn t)) :
    runMeaning m s = .next t := by
  unfold runMeaning
  split
  · exact absurd ‹_› ht
  · simp [h]

theorem Group.vector_taken {n : Nat} {x : Ctx} (hl : x ≠ .l) (hs : x ≠ .s) : Group.vector.refused (.core n x) = none := by
  simp [Group.refused, hl, hs]

/-! ### The meaning of an atomic -/

section
variable {s : State} {n : Nat} {x : Ctx} {d b r : Reg} {ql : Qual} {pl : AtomPlace} {op : AtomOp} {i : Instr}
  {ilen len : Nat} (h : s.alone n x) (hl : x ≠ .l) (hs : x ≠ .s)
include h hl hs

/-- `.sc` with `.near` is no atomic (R218). -/
theorem raises_atomic_ord (he : exec i s = runMeaning (atomic ilen op len d b r ql pl) s)
    (ho : (!(ql.ord == .sc && pl == .near)) = false) : Raises s i 0x1D 0 := by
  rw [atomic, ho] at he
  exact raises_ord he h.not_env (by rw [h.turn, Group.vector_taken hl hs])

variable (ho : (!(ql.ord == .sc && pl == .near)) = true) (hr : holds s.turn [d, b, r] = true)
include ho hr

theorem atomic_refused {c : Nat}
    (hc : (addressCause (s.readG b).toNat len true).or
      (windowCause (s.core n).sr.wcfg (s.readG b).toNat len false true) = some c) :
    atomic ilen op len d b r ql pl s = .error (.trap s c (s.readG b)) := by
  simp only [atomic, after_run, h.startOrd_bind (Group.vector_taken hl hs) ho hr, getG_bind, h.self_bind, ask_bind]
  cases ha : addressCause (s.readG b).toNat len true with
  | some e =>
    obtain rfl : e = c := by simpa [ha] using hc
    rfl
  | none =>
    rw [ha, Option.none_or] at hc
    simp only [show (s.viewer n x).wcfg = (s.core n).sr.wcfg from rfl, hc]
    rfl

theorem raises_atomic {c : Nat} (he : exec i s = runMeaning (atomic ilen op len d b r ql pl) s)
    (hc : (addressCause (s.readG b).toNat len true).or
      (windowCause (s.core n).sr.wcfg (s.readG b).toNat len false true) = some c) : Raises s i c (s.readG b) :=
  raises_of (t := s) he h.not_env (atomic_refused h hl hs ho hr hc) rfl

/-- An atomic whose address passes its checks does what its body does, and writes what the body gives. -/
theorem atomic_body {p : Place} {rc : Bool} (ha : (s.readG b).toNat % len = 0)
    (hp : s.reaches n x true (s.readG b).toNat len p rc) :
    atomic ilen op len d b r ql pl s = after ilen (do
      let bs ← atomResumed (s.readG b) ql (atomBody (s.viewer n x) op len (field (s.readG r) 0 (8 * len))
        (field (s.readG d) 0 (8 * len)) (s.readG b) ql pl)
      (if ql.ord = .acq ∨ ql.ord = .sc then acquire (memScope ql) else pure ())
      setFlags (natAt bs 8 8)
      setG d (op.result len (natAt bs 0 8))) s := by
  rw [atomic, after_run, after_run, h.startOrd_bind (Group.vector_taken hl hs) ho hr, getG_bind, getG_bind, getG_bind,
    h.self_bind]
  dsimp only
  rw [ask_bind, hp.addressCause fun _ => ha, hp.windowCause]
  dsimp only
  rw [M.bind_run, h.closing_run, ← M.bind_run]

theorem atomic_stops {p : Place} {rc : Bool} {e : Stop} (ha : (s.readG b).toNat % len = 0)
    (hp : s.reaches n x true (s.readG b).toNat len p rc)
    (hb : atomResumed (s.readG b) ql (atomBody (s.viewer n x) op len (field (s.readG r) 0 (8 * len))
      (field (s.readG d) 0 (8 * len)) (s.readG b) ql pl) s = .error e) :
    atomic ilen op len d b r ql pl s = .error e := by
  rw [atomic_body h hl hs ho hr ha hp, after_run, M.bind_error hb]

end

/-- A plain atomic that its instruction has not begun performs its body, and one that waits for another core takes its
answer. -/
theorem atomResumed_plain {s : State} {n : Nat} {x : Ctx} (h : s.alone n x) (va : Word) (m : M (List Byte)) :
    atomResumed va plainQual m s =
      match (s.core n).waits.atoms.find? fun w => w.isOf x ((s.core n).fireOf x) s.pc va with
      | some w => takeAtom w s
      | none => m s := by
  simp only [atomResumed, h.self_bind, isRcRelease_plain, Bool.false_eq_true, if_false, unit_bind, get_bind]
  cases (s.core n).waits.atoms.find? fun w => w.isOf x ((s.core n).fireOf x) s.pc va <;> rfl

theorem atomResumed_afresh {s : State} {n : Nat} {x : Ctx} (h : s.alone n x) (va : Word) (m : M (List Byte))
    (hno : ∀ w ∈ (s.core n).waits.atoms, w.ctx ≠ x) : atomResumed va plainQual m s = m s := by
  have none_waits : ((s.core n).waits.atoms.find? fun w => w.isOf x ((s.core n).fireOf x) s.pc va) = none :=
    List.find?_eq_none.2 fun w hw => by simp [AtomWait.isOf, hno w hw]
  rw [atomResumed_plain h, none_waits]

theorem fireOf_f (c : Core) : c.fireOf .f = c.f.fire := if_neg (by decide)

/-- F goes on with the one atomic that it waits for. -/
theorem atomResumed_waiting {s : State} {n : Nat} {va : Word} {w : AtomWait} (h : s.alone n .f) (hw : (s.core n).waits.atoms = [w])
    (hx : w.ctx = .f) (hf : w.fire = (s.core n).f.fire) (hp : w.pc = s.pc) (hva : w.va = va) (m : M (List Byte)) :
    atomResumed va plainQual m s = takeAtom w s := by
  have waits : ((s.core n).waits.atoms.find? fun u => u.isOf .f ((s.core n).fireOf .f) s.pc va) = some w := by
    simp [hw, AtomWait.isOf, hx, hf, hp, hva, fireOf_f]
  rw [atomResumed_plain h, waits]

/-! ### An atomic on another core's slot -/

/-- A core keeps its logical number while its identity and its pair stay (R166, R367). -/
theorem lvlid0_setCore {s : State} {n o : Nat} {c : Core} (hi : c.ident = (s.core n).ident) (hp : c.pair = (s.core n).pair) :
    (s.setCore n c).lvlid0 o = s.lvlid0 o := by
  have ident (m : Nat) : ((s.setCore n c).core m).ident = (s.core m).ident := by
    by_cases hm : m = n
    · rw [hm, State.core_setCore_same, hi]
    · rw [State.core_setCore_other _ _ hm]
  have paired : ((s.setCore n c).core o).paired = (s.core o).paired := by
    by_cases hm : o = n
    · rw [hm, State.core_setCore_same, Core.paired, Core.paired, hp]
    · rw [State.core_setCore_other _ _ hm]
  rw [State.lvlid0, State.lvlid0, ident, paired]

theorem plain_releases : (if plainQual.ord = .rel ∨ plainQual.ord = .sc then memScope plainQual else .co) = .co := rfl

section
variable {s : State} {n o off : Nat} {x : Ctx} {va : Word} (h : s.alone n x)
include h

/-- Another core's slot is not the executing core's own. -/
theorem ownSlot_other {a : Nat} {store rc unc : Bool} (hp : s.spot (s.viewer n x) store a = .at_ (.scratch o off) rc unc)
    (hne : o ≠ n) : s.ownSlot (s.viewer n x) a = false := by
  obtain ⟨-, hslot, -⟩ := spot_scratch hp
  have hcore : (s.viewer n x).core = n := rfl
  simp [State.ownSlot, hslot, hcore, h.2, hne]

/-- H and D reach no atomic on another core's slot (R223). -/
theorem atomBody_activation {rc : Bool} {op : AtomOp} {len y z : Nat} {pl : AtomPlace} (hx : x = .h ∨ x = .d)
    (hp : s.reaches n x true va.toNat len (.scratch o off) rc) (hne : o ≠ n) :
    atomBody (s.viewer n x) op len y z va plainQual pl s = .error (.trap s 0x1C va) := by
  obtain ⟨-, -, -, -, -, ⟨unc, hspot⟩, -⟩ := hp
  have refused : atomRefused (.at_ (.scratch o off) rc unc) false op x plainQual = true := by
    rcases hx with rfl | rfl <;> rfl
  simp only [atomBody, h.self_bind, ask_bind, ownSlot_other h hspot hne]
  rw [M.bind_ok (locate_at hspot)]
  simp only [refused, if_true]
  rfl

end

/-- The item with which F sends an atomic to the owner of a scratchpad, and the wait of its instruction (R223). -/
def State.atomSent (s : State) (n off len : Nat) (op : AtomOp) (y z va : Word) : AtomWait :=
  { ctx := .f, fire := (s.core n).f.fire, pc := s.pc, va := va, answer := none
    item := { src := some { core := n, ctx := .f }, kind := .atomic off len, lvlid := s.lvlid0 n, cls := op.code, w0 := y,
              w1 := z, scope := .co, port := none } }

section
variable {s : State} {n o off : Nat} {va : Word} (h : s.alone n .f)
include h

theorem sendAtom_plain (op : AtomOp) (len y z : Nat) :
    sendAtom o off op len y z va plainQual s =
      let w := s.atomSent n off len op (word y) (word z) va
      let t := s.setCore n { s.core n with waits := { (s.core n).waits with atoms := (s.core n).waits.atoms ++ [w] } }
      let p : NetItem := { grid := (s.core n).ident.grid.getD 0, target := s.lvlid0 o, item := w.item, held := false }
      .error (.waitIn { t with net := s.net ++ [p] }) := by
  have unordered : plainQual.ord ≠ .sc := by decide
  simp only [sendAtom, h.self_bind, if_neg unordered, unit_bind, update_bind, State.modCore_eq, fireOf_f,
    State.core_setCore_same]
  rw [lvlid0_setCore]
  all_goals rfl

/-- With an empty store buffer there is nothing to release within the core. -/
theorem release_empty (hb : (s.core n).mem.buffer = []) : release .co s = .ok ((), s) := by
  have drained : s.drainAll n = s := by simp [State.drainAll, hb]
  have none_ahead : s.storesAhead n .f .co = false := by simp [State.storesAhead, hb, scopeNo]
  simp only [release, h.self_bind, ask_bind, Core.gatedAhead, h.2, Bool.false_and, Bool.false_eq_true, if_false,
    update_bind, drained, none_ahead]
  rfl

theorem atomPoison_other {rc unc : Bool} {len : Nat} : atomPoison (.at_ (.scratch o off) rc unc) false len va s = .ok ((), s) := by
  simp only [atomPoison, h.self_bind, get_bind]
  rfl

theorem rcAllowed_plain {rc : Bool} : rcAllowed plainQual rc va s = .ok ((), s) := by
  simp only [rcAllowed, h.self_bind, ask_bind]
  rfl

/-- F sends an atomic on another core's slot to its owner, and waits (R223). -/
theorem atomBody_send {rc : Bool} {op : AtomOp} {len y z : Nat} {pl : AtomPlace} (hlen : len < 128)
    (hp : s.reaches n .f true va.toNat len (.scratch o off) rc) (hne : o ≠ n) (hb : (s.core n).mem.buffer = []) :
    atomBody (s.viewer n .f) op len y z va plainQual pl s = sendAtom o off op len y z va plainQual s := by
  have hclaim := hp.unclaimed hlen
  obtain ⟨-, -, -, -, -, ⟨unc, hspot⟩, -⟩ := hp
  have admitted : atomRefused (.at_ (.scratch o off) rc unc) false op .f plainQual = false := rfl
  simp only [atomBody, h.self_bind, ask_bind, ownSlot_other h hspot hne]
  rw [M.bind_ok (locate_at hspot)]
  simp only [admitted, Bool.false_eq_true, if_false, unit_bind]
  rw [M.bind_ok (waitClaims_run hclaim), plain_releases, M.bind_ok (release_empty h hb),
    M.bind_ok (atomPoison_other h), M.bind_ok (rcAllowed_plain h)]
  simp only [isRcRelease_plain, Bool.false_eq_true, if_false, bind_pure]
  rw [atomAt, h.self_bind]
  rfl

end

section
variable {s : State} {n : Nat} {x : Ctx} {w : AtomWait} (h : s.alone n x)
include h

/-- The waiting instruction takes the answer of its atomic (R223). -/
theorem takeAtom_answered {old fl : Word} (hw : w.answer = some (.ok (old, fl))) :
    takeAtom w s = .ok (packAtom old.toNat fl.toNat, s.setCore n { s.core n with waits := { (s.core n).waits with
      atoms := (s.core n).waits.atoms.filter fun u => decide (u ≠ w) } }) := by
  simp only [takeAtom, h.self_bind, hw, update_bind]
  rfl

theorem takeAtom_unanswered (hw : w.answer = none) : takeAtom w s = .error .wait := by
  simp only [takeAtom, h.self_bind, hw]
  rfl

/-- The flags that an instruction raises, on a core that it has changed already (R98). -/
theorem setFlags_setCore (c : Core) (fl : Nat) :
    setFlags fl (s.setCore n c) = .ok ((), s.setCore n (c.modContext x fun k => { k with fpstat := k.fpstat ||| word fl })) := by
  by_cases h0 : fl = 0
  · have same : c.modContext x (fun k => { k with fpstat := k.fpstat ||| word fl }) = c := by
      cases x <;> simp [Core.modContext, Core.setContext, Core.context, h0, word]
    rw [same, setFlags, if_pos h0]
    rfl
  · rw [setFlags, if_neg h0]
    exact congrArg (fun t => Except.ok ((), t)) (by simp [State.modContext, h.turn, Context.addFlags])

end

theorem Core.writeG_pair (c : Core) (x : Ctx) (d : Reg) (v : Word) : (c.writeG x d v).pair = c.pair := by
  cases x <;> rfl

/-- A register of a core outside every pair, written: nothing is noted. -/
theorem State.alone.putG {s : State} {n : Nat} {x : Ctx} (h : s.alone n x) (d : Reg) (v : Word) :
    s.putG d v = s.writeG d v := by
  have hw : s.writeG d v = s.setCore n ((s.core n).writeG x d v) := by simp [State.writeG, h.turn, State.modCore_eq]
  rw [State.putG, hw, (h.setCore (Core.writeG_pair ..)).note]

/-! ### The activation of an atomic (R223) -/

/-- Bytes of a scratchpad after a write into it. -/
theorem Core.memGet_writeScratch (c : Core) (off : Nat) (bs : List Byte) (a : Nat) :
    memGet (c.writeScratch off bs).mem.scratch a =
      if off ≤ a ∧ a < off + bs.length then bs.getD (a - off) 0 else memGet c.mem.scratch a := by
  by_cases ha : off ≤ a ∧ a < off + bs.length
  · obtain ⟨i, rfl⟩ := Nat.exists_eq_add_of_le ha.1
    have hi : i < bs.length := by omega
    rw [if_pos ha, Core.writeScratch, memGet_memSetList_inside _ _ _ _ hi]
    simp [hi]
  · rw [if_neg ha, Core.writeScratch, memGet_memSetList_outside _ _ _ _ (by omega)]

/-- The core of a scratchpad after an atomic on it that writes a value, or none. -/
def Core.afterAtomic (c : Core) (off n : Nat) : Option Nat → Core
  | some x => c.writeScratch off (bytesOf n x)
  | none => c

theorem Core.afterAtomic_rest (c : Core) (off n : Nat) (x : Option Nat) :
    { c.afterAtomic off n x with mem := c.mem } = c := by
  cases x <;> rfl

theorem Core.memGet_afterAtomic (c : Core) (off n : Nat) (x : Option Nat) (a : Nat) :
    memGet (c.afterAtomic off n x).mem.scratch a =
      match x with
      | some v => if off ≤ a ∧ a < off + n then (bytesOf n v).getD (a - off) 0 else memGet c.mem.scratch a
      | none => memGet c.mem.scratch a := by
  cases x with
  | none => rfl
  | some v => rw [Core.afterAtomic, Core.memGet_writeScratch, length_bytesOf]

theorem atomScratch_setCore {s : State} {k off n b cmp : Nat} {op : AtomOp} {c : Core} (hp : c.paired = false) :
    let old := natOf (memGetList c.mem.scratch off n)
    let r := op.apply n old b cmp
    (s.setCore k c).atomScratch k off op n b cmp = (s.setCore k (c.afterAtomic off n r.1), old, r.2) := by
  intro old r
  have hold : natOf (memGetList ((s.setCore k c).core k).mem.scratch off n) = old := by rw [State.core_setCore_same]
  simp only [State.atomScratch, hold]
  cases hr : op.apply n old b cmp with
  | mk x fl =>
    have hr : r = (x, fl) := hr
    cases x with
    | none => simp [hr, Core.afterAtomic]
    | some x => 
      have unpaired : (c.writeScratch off (bytesOf n x)).paired = false := hp
      simp [hr, Core.afterAtomic, unpaired]

section
variable (s : State) (i : Item) (a : Except Word (Word × Word))

/-- An answer changes what a core waits for, and nothing else. -/
theorem answerAtom_core (m : Nat) : ∃ ws, (s.answerAtom i a).core m = { s.core m with waits := ws } := by
  unfold State.answerAtom
  cases i.src with
  | none => exact ⟨_, rfl⟩
  | some iss =>
    by_cases hm : m = iss.core
    · exact ⟨_, by rw [hm, State.core_modCore_same]⟩
    · exact ⟨_, by rw [State.core_modCore_other _ _ hm]⟩

theorem answerAtom_mem : (s.answerAtom i a).mem = s.mem := by
  unfold State.answerAtom
  cases i.src <;> rfl

theorem answerAtom_atoms {iss : Issuer} (hi : i.src = some iss) : ((s.answerAtom i a).core iss.core).waits.atoms =
    answerFirst i a (s.core iss.core).waits.atoms := by
  rw [State.answerAtom, hi]
  simp only [State.core_modCore_same]

end

section
variable {s : State} {k off len : Nat} {i : Item} {rest : List Item} (hpair : (s.core k).paired = false)
  (hact : (s.core k).hAct = none) (hin : (s.core k).inbox = i :: rest) (hkind : i.kind = .atomic off len)
include hpair hact hin hkind

theorem atomicActivation_waits (hb : (s.core k).fc.ie = false ∨ s.claimed (.scratch k off) = true) :
    Nothing s (.atomicActivation k) := by
  have next : (s.core k).nextActivation = some i := by simp [Core.nextActivation, hin, hkind]
  have busy : (!(s.core k).fc.ie || s.claimed (.scratch k off)) = true := by rcases hb with hb | hb <;> simp [hb]
  show execAtomicActivation k s = _
  simp [execAtomicActivation, hpair, hact, next, hkind, busy]

/-- The activation performs its atomic on the owner's scratchpad, and answers. -/
theorem atomicActivation_runs (hie : (s.core k).fc.ie = true) (hfree : s.claimed (.scratch k off) = false)
    (hsound : ∀ j, j < len → (s.core k).mem.poison.contains ((off + j) / 8) = false) :
    let old := natOf (memGetList (s.core k).mem.scratch off len)
    let r := (AtomOp.ofCode i.cls).apply len old i.w0.toNat i.w1.toNat
    let c : Core := { s.core k with inbox := rest }
    exec (.atomicActivation k) s =
      .next ((s.setCore k (c.afterAtomic off len r.1)).answerAtom i (.ok (word old, word r.2))) := by
  intro old r c
  have next : (s.core k).nextActivation = some i := by simp [Core.nextActivation, hin, hkind]
  have ready : (!(s.core k).fc.ie || s.claimed (.scratch k off)) = false := by simp [hie, hfree]
  have left : (s.core k).inbox.erase i = rest := by rw [hin, List.erase_cons_head]
  have unpaired : c.paired = false := hpair
  have clean : (s.setCore k c).poisonIn k (.scratch k off) len = none := List.find?_eq_none.2 fun j hj => by
    simpa [State.isPoisoned, Place.add, State.scratchAt, unpaired] using hsound j (List.mem_range.1 hj)
  have body := atomScratch_setCore (s := s) (k := k) (off := off) (n := len) (b := i.w0.toNat) (cmp := i.w1.toNat)
    (op := AtomOp.ofCode i.cls) unpaired
  have idle : { s.core k with hAct := none, inbox := rest } = c := by rw [← hact]
  show execAtomicActivation k s = _
  simp only [execAtomicActivation, hpair, Bool.false_eq_true, if_false, hact, next, hkind, ready, left]
  simp only [idle, clean, body]
  rfl

end

/-- Settles O22: an atomic passes through `atomic_body`, and its answer comes back through `takeAtom_answered`. -/
theorem atomic_traps_and_activations : Obligations.Atomic_traps_and_activations := by
  unfold Obligations.Atomic_traps_and_activations
  refine ⟨fun s n x d b r ql pl h hl hs hr => ⟨fun ho => ?_, fun hc he he' ho => ⟨fun ha => ?_, fun ha hin h1 h5 => ?_⟩,
    fun o off ha hp hne => ⟨fun hf hno => ?_, fun hf hb hno => ?_,
      fun w old fl hf hw hx hfire hpc hva => ⟨fun hans => ?_, fun hans => ?_⟩⟩⟩,
    fun s k i rest off len hpair hact hin hkind => ⟨fun hbusy => ?_, fun hie hfree hsound => ?_⟩⟩
  · exact raises_atomic_ord h hl hs rfl (by simp [ho])
  · have cause := addressCause_aligned hc he he' ha
    exact ⟨raises_atomic h hl hs (by simp) hr rfl (by rw [cause]; rfl),
      raises_atomic h hl hs (by simpa using ho) hr rfl (by rw [xaWidth, if_pos rfl, cause]; rfl)⟩
  · have inside := addressCause_none (aligned := true) hc he he' fun _ => ha
    have window : windowCause (s.core n).sr.wcfg (s.readG b).toNat 8 false true = some 0x1C := by
      rw [windowCause_scratch hin, if_neg (by omega), if_neg (by omega), if_pos rfl]
    exact ⟨raises_atomic h hl hs (by simp) hr rfl (by rw [inside, window]; rfl),
      raises_atomic h hl hs (by simpa using ho) hr rfl (by rw [xaWidth, if_pos rfl, inside, window]; rfl)⟩
  · refine raises_of (t := s) rfl h.not_env (atomic_stops h hl hs (by simp) hr ha hp ?_) rfl
    have hx : x = .h ∨ x = .d := by cases x <;> simp_all
    rw [← plainQual, atomResumed_afresh h _ _ hno, atomBody_activation h hx hp hne]
  · subst hf
    have sent : atomResumed (s.readG b) plainQual (atomBody (s.viewer n .f) .add 8 (field (s.readG r) 0 64)
        (field (s.readG d) 0 64) (s.readG b) plainQual .predictor) s = _ :=
      (atomResumed_afresh h _ _ hno).trans ((atomBody_send h (by omega) hp hne hb).trans (sendAtom_plain h ..))
    refine ⟨s.atomSent n off 8 .add (s.readG r) (s.readG d) (s.readG b), rfl, rfl, rfl, rfl, rfl, rfl, ?_⟩
    rw [word_field_all, word_field_all] at sent
    exact runMeaning_waitIn h.not_env (atomic_stops h hl hs (by simp) hr ha hp sent)
  · subst hf
    exact runMeaning_wait h.not_env (atomic_stops h hl hs (by simp) hr ha hp
      ((atomResumed_waiting h hw hx hfire hpc hva _).trans (takeAtom_unanswered h hans)))
  · subst hf
    have unordered : ¬ (plainQual.ord = .acq ∨ plainQual.ord = .sc) := by decide
    have result : AtomOp.add.result 8 (old.toNat % 2 ^ 64) = old := by
      rw [AtomOp.result, if_neg (by decide), signExtendNat_eq _ le_rfl, BitVec.signExtend_eq, Nat.mod_eq_of_lt old.isLt]
      exact word_toNat old
    have flags : word (fl.toNat % 2 ^ 64) = fl := by rw [Nat.mod_eq_of_lt fl.isLt, word_toNat]
    have answered : ((s.core n).waits.atoms.filter fun u => decide (u ≠ w)) = [] := by simp [hw]
    have halone : (s.setCore n { s.core n with
        waits := { (s.core n).waits with atoms := [] }
        fc := { (s.core n).fc with fpstat := (s.core n).fc.fpstat ||| fl } }).alone n .f := h.setCore rfl
    have hoff := halone.pc_eq
    rw [State.core_setCore_same] at hoff
    refine runMeaning_ok h.not_env ?_
    rw [← plainQual, atomic_body h hl hs (by simp) hr ha hp, after_run,
      M.bind_ok ((atomResumed_waiting h hw hx hfire hpc hva _).trans (takeAtom_answered h hans)), if_neg unordered, unit_bind,
      natAt_packAtom_old, natAt_packAtom_flags, M.bind_ok (setFlags_setCore h _ _), setG_run, result, answered,
      flags]
    refine congrArg Except.ok (Prod.ext ?_ (halone.putG d old))
    exact congrArg (· + word 4) ((State.pc_putG halone.executing d old).trans (hoff.trans h.pc_eq.symm))
  · exact atomicActivation_waits hpair hact hin hkind hbusy
  · have rest_kept := Core.afterAtomic_rest { s.core k with inbox := rest } off len
    refine ⟨_, atomicActivation_runs hpair hact hin hkind hie hfree hsound, ?_, answerAtom_mem .., fun a => ?_,
      fun iss hi => ?_, fun m => ?_⟩
    · obtain ⟨ws, hws⟩ := answerAtom_core (s.setCore k _) i _ k
      rw [hws, State.core_setCore_same]
      exact congrArg Core.inbox (rest_kept _)
    · obtain ⟨ws, hws⟩ := answerAtom_core (s.setCore k _) i _ k
      rw [hws, State.core_setCore_same]
      exact Core.memGet_afterAtomic ..
    · rw [answerAtom_atoms _ _ _ hi]
      by_cases hk : iss.core = k
      · rw [hk, State.core_setCore_same]
        exact congrArg (fun c => answerFirst i _ c.waits.atoms) (rest_kept _)
      · rw [State.core_setCore_other _ _ hk]
    · obtain ⟨ws, hws⟩ := answerAtom_core (s.setCore k _) i _ m
      rw [hws]
      by_cases hk : m = k
      · rw [hk, State.core_setCore_same]
        exact congrArg (fun c : Core => { c with inbox := (s.core k).inbox, waits := (s.core k).waits }) (rest_kept _)
      · rw [State.core_setCore_other _ _ hk]

end Sys2Proof.Machine

end

section

namespace Sys2Proof.Machine

/-! ## What accesses leave in caches and predictors (R203, R205, R222) -/

/-! ### Bytes of a line -/

theorem natOf_div_mod (bs : List Byte) (i : Nat) : natOf bs / 256 ^ i % 256 = (bs.getD i 0).toNat := by
  induction bs generalizing i with
  | nil => simp [natOf]
  | cons b bs ih =>
    have hb : b.toNat < 256 := b.isLt
    cases i with
    | zero => simp only [natOf, Nat.pow_zero, Nat.div_one, List.getD_cons_zero]; omega
    | succ i =>
      have tail : (b.toNat + 256 * natOf bs) / 256 = natOf bs := by omega
      rw [natOf, Nat.pow_succ', ← Nat.div_div_eq_div_mul, tail, ih, List.getD_cons_succ]

theorem natOf_lt (bs : List Byte) : natOf bs < 256 ^ bs.length := by
  induction bs with
  | nil => simp [natOf]
  | cons b bs ih =>
    have hb : b.toNat < 256 := b.isLt
    rw [natOf, List.length_cons, Nat.pow_succ']
    omega

theorem vbyte_vwordOf {bs : List Byte} (h : bs.length ≤ 128) (i : Nat) : vbyte (vwordOf bs) i = bs.getD i 0 := by
  have hlt : natOf bs < 2 ^ 1024 := by
    refine (natOf_lt bs).trans_le ?_
    rw [show 256 = 2 ^ 8 from rfl, ← Nat.pow_mul]
    exact pow_le_pow_right₀ (by omega) (by omega)
  apply BitVec.eq_of_toNat_eq
  simp only [vbyte, vwordOf, BitVec.toNat_ofNat, Nat.mod_eq_of_lt hlt]
  exact natOf_div_mod bs i

/-- A line as its home has it reads as memory does. -/
theorem vbyte_fetchLine (s : State) (pa : Nat) : vbyte (s.fetchLine (pa / 128)).bytes (pa % 128) = memGet s.mem pa := by
  have hlen : (memGetList s.mem (pa / 128 * 128) 128).length = 128 := by simp [memGetList]
  have hi : pa % 128 < 128 := Nat.mod_lt _ (by omega)
  rw [State.fetchLine, State.homeLine, vbyte_vwordOf hlen.le]
  simp [memGetList, hi, Nat.div_add_mod']

theorem mem_of_sget {α : Type} {l : Sparse α} {k : Nat} {v : α} (h : sget l k = some v) : (k, v) ∈ l := by
  induction l with
  | nil => simp [sget] at h
  | cons p rest ih =>
    obtain ⟨a, x⟩ := p
    by_cases ha : a = k
    · simp_all [sget]
    · simp only [sget, if_neg ha] at h
      exact List.mem_cons_of_mem _ (ih h)

/-! ### What stays whatever the caches do -/

/-- Nothing changes but caches, RDCs and predictors, what an RDC writes back, and the numbers drawn for free values. -/
def State.tracesIn (s t : State) : Prop :=
  { t with caches := s.caches, fresh := s.fresh, dies := s.dies, mem := s.mem, poison := s.poison } = s ∧
    ∀ e, { t.die e with rdc := (s.die e).rdc, predict := (s.die e).predict } = s.die e

/-- Every context of every die reads every byte as before. -/
def State.readsAs (s t : State) : Prop :=
  t.mem = s.mem ∧ t.poison = s.poison ∧ ∀ d pa, t.readPa d pa = s.readPa d pa

/-- The RDC of a die takes one more line without writing another back. -/
def State.rdcTakes (s : State) (d : Nat) : Prop :=
  (∀ line, ((s.die d).rdc.filter fun p => p.1 % 8192 == line % 8192).length + 1 ≤ 16) ∨ s.rdcAgrees d

section
variable {s t u : State}

theorem State.tracesIn.refl (s : State) : s.tracesIn s := ⟨rfl, fun _ => rfl⟩

theorem State.tracesIn.trans (h : s.tracesIn t) (h' : t.tracesIn u) : s.tracesIn u := by
  obtain ⟨hs, hd⟩ := h
  obtain ⟨hs', hd'⟩ := h'
  refine ⟨?_, fun e => ?_⟩
  · rw [← hs, ← hs']
  · rw [← hd e, ← hd' e]

theorem State.readsAs.refl (s : State) : s.readsAs s := ⟨rfl, rfl, fun _ _ => rfl⟩

theorem State.readsAs.trans (h : s.readsAs t) (h' : t.readsAs u) : s.readsAs u := by
  obtain ⟨hm, hp, hr⟩ := h
  obtain ⟨hm', hp', hr'⟩ := h'
  exact ⟨hm'.trans hm, hp'.trans hp, fun d pa => (hr' d pa).trans (hr d pa)⟩

/-- Traces that leave every byte as it reads. -/
theorem State.tracesIn.tracesOnly {n : Nat} (h : s.tracesIn t) (hr : s.rdcTakes (dieOf n) → s.readsAs t) :
    s.tracesOnly t n 1 := by
  obtain ⟨hs, hd⟩ := h
  refine ⟨hs, hd, fun hroom => ?_⟩
  obtain ⟨hm, hp, hread⟩ := hr hroom
  have hcores : t.cores = s.cores := (congrArg State.cores hs :)
  have hcore (m : Nat) : t.core m = s.core m := by rw [State.core, State.core, hcores]
  refine ⟨hm, hp, fun m y q => ?_⟩
  have place : t.readPlace m q = s.readPlace m q := by
    cases q with
    | scratch c o => simp only [State.readPlace, State.scratchAt, hcore]
    | mem pa => exact hread _ _
  rw [State.readByte, State.readByte, hcore, place]

end

/-! ### The blocks of a trace -/

theorem State.tracesIn.draw (s : State) : s.tracesIn s.draw.2 := ⟨rfl, fun _ => rfl⟩

theorem State.readsAs.draw (s : State) : s.readsAs s.draw.2 := ⟨rfl, rfl, fun _ _ => rfl⟩

/-- The RDC or the predictor of a die changed. -/
theorem State.tracesIn.modDie (s : State) (d : Nat) {f : Die → Die} (hf : ∀ x, { f x with rdc := x.rdc, predict := x.predict } = x) :
    s.tracesIn (s.modDie d f) := by
  refine ⟨rfl, fun e => ?_⟩
  by_cases he : ix 3 e = ix 3 d
  · have same (t : State) : t.die e = t.die d := by rw [State.die, State.die, he]
    rw [same, same, State.die_modDie_same, hf]
  · rw [State.die_modDie_other _ _ he]

/-- The predictor of a die changed: no byte reads differently. -/
theorem State.readsAs.modDie (s : State) (d : Nat) {f : Die → Die} (hf : ∀ x, (f x).rdc = x.rdc) : s.readsAs (s.modDie d f) := by
  refine ⟨rfl, rfl, fun e pa => ?_⟩
  have rdc : ((s.modDie d f).die e).rdc = (s.die e).rdc := by
    by_cases he : ix 3 e = ix 3 d
    · have same (t : State) : t.die e = t.die d := by rw [State.die, State.die, he]
      rw [same, same, State.die_modDie_same, hf]
    · rw [State.die_modDie_other _ _ he]
  rw [State.readPa, State.readPa, rdc, State.modDie_mem]

theorem State.tracesIn.flush (s : State) (line : Nat) (l : RdcLine) : s.tracesIn (s.flush line l) := by
  unfold State.flush
  split
  · exact .refl s
  · exact ⟨rfl, fun _ => rfl⟩

theorem State.tracesIn.evictRdc (s : State) (d line : Nat) : s.tracesIn (s.evictRdc d line) := by
  unfold State.evictRdc
  split
  · exact .refl s
  · exact (State.tracesIn.flush ..).trans (.modDie _ d fun _ => rfl)

theorem State.tracesIn.roomRdc (s : State) (d line : Nat) : s.tracesIn (s.roomRdc d line) := by
  unfold State.roomRdc
  dsimp only
  split
  · exact .refl s
  · split
    · exact (State.tracesIn.draw s).trans (.evictRdc _ d _)
    · exact .draw s

theorem State.tracesIn.touchRdc (s : State) (d pa : Nat) : s.tracesIn (s.touchRdc d pa) := by
  unfold State.touchRdc State.putRdc
  dsimp only
  split
  · exact .refl s
  · split
    · exact (State.tracesIn.draw s).trans ((State.tracesIn.roomRdc ..).trans (.modDie _ d fun _ => rfl))
    · exact .draw s

/-! ### When no line is written back -/

/-- An RDC that agrees with memory loses a line: its bytes read as before, from memory. -/
theorem State.readsAs.evictRdc {s : State} {d : Nat} (h : s.rdcAgrees d) (line : Nat) : s.readsAs (s.evictRdc d line) := by
  unfold State.evictRdc
  cases hl : sget (s.die d).rdc line with
  | none => exact .refl s
  | some l =>
    have fetched : l = s.fetchLine line := h _ (mem_of_sget hl)
    have clean : s.flush line l = s := by rw [State.flush, if_pos (by rw [fetched]; rfl)]
    simp only [clean]
    refine ⟨rfl, rfl, fun e pa => ?_⟩
    by_cases he : ix 3 e = ix 3 d
    · have same (t : State) : t.die e = t.die d := by rw [State.die, State.die, he]
      rw [State.readPa, State.readPa, same, same, State.die_modDie_same, State.modDie_mem]
      by_cases hline : pa / 128 = line
      · subst hline
        rw [sget_sdel_same, hl, fetched]
        simp only [vbyte_fetchLine]
      · rw [sget_sdel_other _ hline]
    · rw [State.readPa, State.readPa, State.die_modDie_other _ _ he, State.modDie_mem]

theorem State.readsAs.roomRdc {s : State} {d : Nat} (h : s.rdcTakes d) (line : Nat) : s.readsAs (s.roomRdc d line) := by
  unfold State.roomRdc
  dsimp only
  split
  · exact .refl s
  · next hfull =>
    have agrees : s.rdcAgrees d := h.resolve_left fun room => hfull (by
      have := room line
      simp only [rdcSets, List.length_map, Bool.or_eq_true, decide_eq_true_eq]
      omega)
    split
    · exact (State.readsAs.draw s).trans (.evictRdc (show s.draw.2.rdcAgrees d from agrees) _)
    · exact .draw s

/-- A line that the RDC of a die does not hold enters it as memory has it. -/
theorem State.readsAs.put {s : State} {d pa : Nat} (h : sget (s.die d).rdc (pa / 128) = none) {l : RdcLine}
    (hl : l = s.fetchLine (pa / 128)) : s.readsAs (s.modDie d fun x => { x with rdc := sset x.rdc (pa / 128) l }) := by
  refine ⟨rfl, rfl, fun e a => ?_⟩
  by_cases he : ix 3 e = ix 3 d
  · have same (t : State) : t.die e = t.die d := by rw [State.die, State.die, he]
    rw [State.readPa, State.readPa, same, same, State.die_modDie_same, State.modDie_mem]
    by_cases hline : a / 128 = pa / 128
    · rw [hline, sget_sset_same, h, hl, ← hline]
      simp only [vbyte_fetchLine]
    · rw [sget_sset_other _ _ hline]
  · rw [State.readPa, State.readPa, State.die_modDie_other _ _ he, State.modDie_mem]

theorem evictRdc_absent {s : State} {d line : Nat} (h : sget (s.die d).rdc line = none) (old : Nat) :
    sget ((s.evictRdc d old).die d).rdc line = none := by
  unfold State.evictRdc
  cases sget (s.die d).rdc old with
  | none => exact h
  | some l =>
    have same : ((s.flush old l).die d).rdc = (s.die d).rdc := by
      unfold State.flush
      split <;> rfl
    dsimp only
    rw [State.die_modDie_same, same]
    by_cases hline : line = old
    · rw [hline, sget_sdel_same]
    · rw [sget_sdel_other _ hline, h]

/-- A set that makes room holds no line that it did not hold. -/
theorem roomRdc_absent {s : State} {d line : Nat} (h : sget (s.die d).rdc line = none) :
    sget ((s.roomRdc d line).die d).rdc line = none := by
  unfold State.roomRdc
  dsimp only
  split
  · exact h
  · split
    · exact evictRdc_absent (s := s.draw.2) h _
    · exact h

theorem State.readsAs.fetchLine {s t : State} (h : s.readsAs t) (line : Nat) : t.fetchLine line = s.fetchLine line := by
  obtain ⟨hm, hp, -⟩ := h
  rw [State.fetchLine, State.fetchLine, State.homeLine, State.homeLine, hm, hp]

theorem State.readsAs.touchRdc {s : State} {d : Nat} (h : s.rdcTakes d) (pa : Nat) : s.readsAs (s.touchRdc d pa) := by
  unfold State.touchRdc
  dsimp only
  split
  · exact .refl s
  · next hheld =>
    have absent : sget (s.die d).rdc (pa / 128) = none := by simp_all
    split
    · have takes : s.draw.2.rdcTakes d := h
      have room := State.readsAs.roomRdc takes (pa / 128)
      have absent' : sget (s.draw.2.die d).rdc (pa / 128) = none := absent
      have put := State.readsAs.put (roomRdc_absent absent') (room.fetchLine _).symm
      exact ((State.readsAs.draw s).trans room).trans put
    · exact .draw s

/-! ### The predictor, and the whole of a prefetch (R82, R222) -/

/-- Nothing changes but caches other than RDCs, predictors, and the numbers drawn for free values. -/
def State.unread (s t : State) : Prop :=
  s.tracesIn t ∧ t.mem = s.mem ∧ t.poison = s.poison ∧ ∀ d, (t.die d).rdc = (s.die d).rdc

section
variable {s t u : State}

theorem State.unread.refl (s : State) : s.unread s := ⟨.refl s, rfl, rfl, fun _ => rfl⟩

theorem State.unread.trans (h : s.unread t) (h' : t.unread u) : s.unread u := by
  obtain ⟨hs, hm, hp, hr⟩ := h
  obtain ⟨hs', hm', hp', hr'⟩ := h'
  exact ⟨hs.trans hs', hm'.trans hm, hp'.trans hp, fun d => (hr' d).trans (hr d)⟩

theorem State.unread.readsAs (h : s.unread t) : s.readsAs t := by
  obtain ⟨-, hm, hp, hr⟩ := h
  exact ⟨hm, hp, fun d pa => by rw [State.readPa, State.readPa, hm, hr]⟩

theorem State.unread.rdcTakes (h : s.unread t) {d : Nat} (hd : s.rdcTakes d) : t.rdcTakes d := by
  have fetch := h.readsAs.fetchLine
  obtain ⟨-, -, -, hr⟩ := h
  rcases hd with room | agrees
  · exact .inl fun line => by rw [hr]; exact room line
  · exact .inr fun p hp => by rw [hr] at hp; rw [fetch]; exact agrees p hp

theorem State.unread.draw (s : State) : s.unread s.draw.2 := ⟨.draw s, rfl, rfl, fun _ => rfl⟩

theorem State.unread.setPredict (s : State) (pa : Nat) (p : Option Predict) : s.unread (s.setPredict pa p) := by
  refine ⟨.modDie _ _ fun _ => rfl, rfl, rfl, fun d => ?_⟩
  unfold State.setPredict
  by_cases he : ix 3 d = ix 3 (homeDie pa)
  · have same (t : State) : t.die d = t.die (homeDie pa) := by rw [State.die, State.die, he]
    rw [same, same, State.die_modDie_same]
  · rw [State.die_modDie_other _ _ he]

theorem State.unread.predictor (s : State) (pa : Nat) : s.unread (s.predictor pa).2 := by
  unfold State.predictor
  split
  · exact .refl s
  · exact .draw s

theorem State.unread.predictLine (s : State) (n pa : Nat) (owns : Bool) : s.unread (s.predictLine n pa owns) := by
  unfold State.predictLine
  split
  · exact .refl s
  · dsimp only
    split
    · exact .refl s
    · exact ((State.unread.predictor s pa).trans (.draw _)).trans (.setPredict ..)

theorem State.unread.fillL2 (s : State) (pa : Nat) : s.unread (s.fillL2 pa) := ⟨⟨rfl, fun _ => rfl⟩, rfl, rfl, fun _ => rfl⟩

theorem State.unread.fillCluster (s : State) (n pa : Nat) : s.unread (s.fillCluster n pa) := by
  unfold State.fillCluster
  dsimp only
  split
  · exact .fillL2 s pa
  · exact ⟨⟨rfl, fun _ => rfl⟩, rfl, rfl, fun _ => rfl⟩

theorem State.unread.fillL1 (s : State) (n va asid pa : Nat) : s.unread (s.fillL1 n va asid pa) := by
  unfold State.fillL1
  dsimp only
  split
  · exact .refl s
  · exact ⟨⟨rfl, fun _ => rfl⟩, rfl, rfl, fun _ => rfl⟩

end

/-- One line brought in between changes that no byte shows. -/
theorem State.tracesOnly_of_steps {s t u w : State} {n : Nat} (h : s.unread u) (hw : u.tracesIn w)
    (hr : u.rdcTakes (dieOf n) → u.readsAs w) (ht : w.unread t) : s.tracesOnly t n 1 := by
  have reads := h.readsAs
  have fills := ht.readsAs
  have takes : s.rdcTakes (dieOf n) → u.rdcTakes (dieOf n) := h.rdcTakes
  obtain ⟨hs, -⟩ := h
  obtain ⟨ht, -⟩ := ht
  exact ((hs.trans hw).trans ht).tracesOnly fun hroom => (reads.trans (hr (takes hroom))).trans fills

/-- A prefetch leaves traces of its one line (R82). -/
theorem State.prefetch_tracesOnly (s : State) (v : Viewer) (target : Fin 3) (write : Bool) (va pa : Nat) (rc : Bool) :
    s.tracesOnly (s.prefetch v target write va pa rc) v.core 1 := by
  have owned (t : State) : t.unread (if write then t.predictLine v.core pa true else t) := by
    split
    · exact .predictLine ..
    · exact .refl t
  have held (t : State) : t.tracesIn (if rc then t else if target = 1 then t else t.touchRdc (dieOf v.core) pa) ∧
      (t.rdcTakes (dieOf v.core) → t.readsAs (if rc then t else if target = 1 then t else t.touchRdc (dieOf v.core) pa)) := by
    split
    · exact ⟨.refl t, fun _ => .refl t⟩
    · split
      · exact ⟨.refl t, fun _ => .refl t⟩
      · exact ⟨.touchRdc .., fun h => .touchRdc h pa⟩
  obtain ⟨frame, reads⟩ := held (if write then s.predictLine v.core pa true else s)
  unfold State.prefetch
  refine State.tracesOnly_of_steps (owned s) frame reads ?_
  match target with
  | 0 => exact (State.unread.fillCluster ..).trans (.fillL1 ..)
  | 1 => exact .fillCluster ..
  | 2 => exact .fillL2 ..

end Sys2Proof.Machine

end

section

namespace Sys2Proof.Machine

/-! ## Prefetches, and accesses in a walk and of an I/O core (R82, R212) -/

theorem runMeaning_waitDo {m : M Word} {s : State} {f : State → State} (ht : s.turn ≠ .env) (h : m s = .error (.waitDo f)) :
    runMeaning m s = .next (f s) := by
  unfold runMeaning
  split
  · exact absurd ‹_› ht
  · simp [h]

/-- An instruction whose meaning leaves `t`, where the offset stands as before, moves on past itself. -/
theorem movedTo_of {s t : State} {i : Instr} {len : Nat} {m : M Unit} (he : exec i s = runMeaning (after len m) s)
    (hx : s.turn ≠ .env) (hm : m s = .ok ((), t)) (ht : t.executing = true) (hp : t.pc = s.pc) :
    ∃ u, exec i s = .next u ∧ t.movedTo u (s.pc + word len) :=
  ⟨_, he.trans (runMeaning_ok hx (by rw [after_run, hm])), by rw [← hp]; exact State.retire_movedTo ht _⟩

/-! ### PREF -/

theorem State.executing_core {s : State} {n : Nat} {x : Ctx} (h : s.turn = .core n x) : s.executing = true := by
  simp [State.executing, h]

theorem State.tracesOnly_pc {s t : State} {n k : Nat} (h : s.tracesOnly t n k) {m : Nat} {x : Ctx} (hx : s.turn = .core m x) :
    t.pc = s.pc := by
  rw [State.pc_core hx, State.pc_core ((State.tracesOnly_turn h).trans hx), State.core, State.core, State.tracesOnly_cores h]

theorem State.forgetWaits_pc {s : State} {n : Nat} {x : Ctx} (hx : s.turn = .core n x) : (s.forgetWaits n x).pc = s.pc := by
  have turn : (s.forgetWaits n x).turn = .core n x := hx
  rw [State.pc_core hx, State.pc_core turn, State.forgetWaits, State.core_modCluster, State.core_modCore_same]
  cases x <;> rfl

section
variable {s : State} {target : Fin 3} {write : Bool} {b : Reg} {i : Instr} {len : Nat} {f : Word → Word}
  (he : exec i s = runMeaning (prefetchAt len target write b plainQual f) s) (hr : holds s.turn [b] = true)
include he hr

/-- PREF on a core, for each of the three things that become of it. -/
theorem prefetch_core {n : Nat} {x : Ctx} (hx : s.turn = .core n x) :
    match s.prefetchPlace (s.viewer n x) (f (s.readG b)).toNat with
    | .line _ _ => ∃ u t, s.tracesOnly u n 1 ∧ exec i s = .next t ∧ u.movedTo t (s.pc + word len)
    | .walk => exec i s = .next (s.requestWalk (s.viewer n x) false ((f (s.readG b)).toNat / 128 * 128))
    | .drop => ∃ t, exec i s = .next t ∧ (s.forgetWaits n x).movedTo t (s.pc + word len) := by
  have begun := startOrd_run (s := s) (ok := isPlain plainQual) (Group.scalar_taken _) rfl hr
  have hne : s.turn ≠ .env := by simp [hx]
  unfold prefetchAt at he
  cases hp : s.prefetchPlace (s.viewer n x) (f (s.readG b)).toNat with
  | line pa rc =>
    have traces := s.prefetch_tracesOnly (s.viewer n x) target write (f (s.readG b)).toNat pa rc
    obtain ⟨t, ht⟩ := movedTo_of he hne (by
      rw [M.bind_ok begun, getG_bind, ask_bind]
      simp only [hx, get_bind, hp]
      rfl) (State.executing_core ((State.tracesOnly_turn traces).trans hx)) (State.tracesOnly_pc traces hx)
    exact ⟨_, t, traces, ht⟩
  | walk =>
    refine he.trans (runMeaning_waitDo
      (f := fun u => u.requestWalk (s.viewer n x) false ((f (s.readG b)).toNat / 128 * 128)) hne ?_)
    rw [after_run, M.bind_ok begun, getG_bind, ask_bind]
    simp only [hx, get_bind, hp]
    rfl
  | drop =>
    exact movedTo_of he hne (by
      rw [M.bind_ok begun, getG_bind, ask_bind]
      simp only [hx, get_bind, hp]
      rfl) (State.executing_core (n := n) (x := x) hx) (State.forgetWaits_pc hx)

/-- PREF elsewhere does nothing. -/
theorem prefetch_elsewhere (hx : s.executing = true) (hc : ∀ n x, s.turn ≠ .core n x) : GoesTo s i (s.pc + word len) := by
  have begun := startOrd_run (s := s) (ok := isPlain plainQual) (Group.scalar_taken _) rfl hr
  unfold prefetchAt at he
  refine movedTo_of he (State.turn_ne_env hx) ?_ hx rfl
  rw [M.bind_ok begun, getG_bind, ask_bind]
  cases ht : s.turn with
  | core n x => exact absurd ht (hc n x)
  | env => rfl
  | walker d t => rfl
  | io d k => rfl

end

/-- The scaled immediate of PREF as a number (R77). -/
theorem rlAddress_eq (base : Word) (i : BitVec 9) (k : Nat) : rlAddress base i k = base + BitVec.ofInt 64 (i.toInt * k) := by
  rw [rlAddress, BitVec.ofInt_mul, BitVec.ofInt_natCast]
  rfl

/-! ### Scalar accesses of whoever executes -/

section
variable {s : State} {i : Instr} {len k : Nat} {d b : Reg} {f : Word → Word} (hx : s.executing = true)
  (hr : holds s.turn [d, b] = true)
include hx hr

/-- A plain load that changes nothing on its way writes its register. -/
theorem writes_loadTo {signed : Bool} {x : Nat} (he : exec i s = runMeaning (loadTo len k signed d b plainQual f) s)
    (hl : loadValue (f (s.readG b)) k plainQual s = .ok (x, s)) : Writes s i len d (extended signed k x) := by
  refine ⟨_, he.trans (runMeaning_ok (State.turn_ne_env hx) ?_), State.putG_retire hx len _ (holds_head hr)⟩
  rw [loadTo_ok signed rfl hr hl, State.pc_putG hx]

/-- A plain store that leaves the offset where it is runs to its end. -/
theorem retires_storeFrom {t : State} (he : exec i s = runMeaning (storeFrom len k d b plainQual f) s)
    (hl : storeValue (f (s.readG b)) k (s.readG d) plainQual s = .ok ((), t)) (hp : t.pc = s.pc) : Retires s i len t := by
  unfold Retires
  rw [he, runMeaning_ok (State.turn_ne_env hx) (storeFrom_ok rfl hr hl), hp]

end

theorem extended_eight (signed : Bool) (x : Nat) : extended signed 8 x = BitVec.ofNat 64 x := by
  cases signed with
  | false => rw [extended, if_neg (by decide), word]
  | true => rw [extended, if_pos rfl, show 8 * 8 = 64 from rfl, signExtendNat_eq x le_rfl, BitVec.signExtend_eq]

section
variable {s t : State} {d b : Reg} {c : Nat} {v : Word}

theorem writes_ldD {x : Nat} (hx : s.executing = true) (hr : holds s.turn [d, b] = true)
    (hl : loadValue (s.readG b) 8 plainQual s = .ok (x, s)) : Writes s (.ldD d b 0 plainQual) 4 d (BitVec.ofNat 64 x) := by
  have writes := writes_loadTo (i := .ldD d b 0 plainQual) (signed := true) (f := fun b => rlAddress b 0 8) (x := x) hx hr rfl
    (by rw [rlAddress_zero, hl])
  rwa [extended_eight] at writes

theorem retires_stD (hx : s.executing = true) (hr : holds s.turn [d, b] = true)
    (hl : storeValue (s.readG b) 8 (s.readG d) plainQual s = .ok ((), t)) (hp : t.pc = s.pc) :
    Retires s (.stD d b 0 plainQual) 4 t :=
  retires_storeFrom (f := fun b => rlAddress b 0 8) hx hr rfl (by rw [rlAddress_zero, hl]) hp

theorem raises_ldD (hx : s.turn ≠ .env) (hr : holds s.turn [d, b] = true)
    (hl : loadValue (s.readG b) 8 plainQual s = .error (.trap s c v)) : Raises s (.ldD d b 0 plainQual) c v :=
  raises_loadTo (f := fun b => rlAddress b 0 8) (signed := true) rfl hx rfl hr (by rw [rlAddress_zero, hl])

theorem raises_stD (hx : s.turn ≠ .env) (hr : holds s.turn [d, b] = true)
    (hl : storeValue (s.readG b) 8 (s.readG d) plainQual s = .error (.trap s c v)) : Raises s (.stD d b 0 plainQual) c v :=
  raises_storeFrom (f := fun b => rlAddress b 0 8) rfl hx rfl hr (by rw [rlAddress_zero, hl])

end

/-! ### In a walk (R212) -/

section
variable {s : State} {die tid k : Nat} {th : Thread} (ht : s.turn = .walker die tid) {va : Word}
include ht

theorem loadValue_walker (hth : s.thread die tid = some th) (hk : va.toNat + k ≤ 256) :
    loadValue va k plainQual s = .ok (natOf (memGetList th.scratch va.toNat k), s) := by
  have area : (isPlain plainQual && decide (va.toNat + k ≤ 256)) = true := by simp [isPlain_plain, hk]
  simp only [loadValue, ask_bind, ht, walkOffset, area, require_true]
  rw [M.bind_ok rfl]
  simp only [ask, hth]

theorem loadValue_walker_outside (hk : 256 < va.toNat + k) : loadValue va k plainQual s = .error (.trap s 0x18 0) := by
  have area : (isPlain plainQual && decide (va.toNat + k ≤ 256)) = false := by simp [hk]
  simp only [loadValue, ask_bind, ht, walkOffset, area, require_false]
  rfl

theorem storeValue_walker {y : Word} (hk : va.toNat + k ≤ 256) :
    storeValue va k y plainQual s = .ok ((), s.setThread die tid fun u =>
      { u with scratch := memSetList u.scratch va.toNat (bytesOf k y.toNat) }) := by
  have area : (isPlain plainQual && decide (va.toNat + k ≤ 256)) = true := by simp [isPlain_plain, hk]
  simp only [storeValue, ask_bind, ht, walkOffset, area, require_true]
  rfl

theorem storeValue_walker_outside {y : Word} (hk : 256 < va.toNat + k) :
    storeValue va k y plainQual s = .error (.trap s 0x18 0) := by
  have area : (isPlain plainQual && decide (va.toNat + k ≤ 256)) = false := by simp [hk]
  simp only [storeValue, ask_bind, ht, walkOffset, area, require_false]
  rfl

end

/-! ### On an I/O core -/

section
variable {s : State} {die j : Nat} {va : Word} (ht : s.turn = .io die j) (hva : va.toNat + 8 ≤ 0xC000000000)
  (hgib : s.keep.gib = 0) (hfirst : s.claimed (.mem va.toNat) = false) (hlast : s.claimed (.mem (va.toNat + 7)) = false)
include hva hgib hfirst hlast

theorem ioAddress_run : ioAddress va.toNat 8 false s = .ok (va.toNat, s) := by
  have inside : addressCause va.toNat 8 false = none := by
    refine addressCause_none ?_ (by omega) ?_ (by simp)
    all_goals
      simp only [canonical, Bool.or_eq_true, beq_iff_eq]
      omega
  have local_ : (!isFabric (va.toNat + 8 - 1) && !absent s (va.toNat + 8 - 1)) = true := by
    have near : isFabric (va.toNat + 8 - 1) = false := decide_eq_false (by rw [Config.fabricBase]; omega)
    rw [near, absent, hgib]
    rfl
  have free : (s.claimed (.mem va.toNat) || s.claimed (.mem (va.toNat + 8 - 1))) = false := by simp [hfirst, hlast]
  simp only [ioAddress, inside, get_bind, local_, require_true, unit_bind, free]
  rfl

include ht

theorem loadValue_io (hs : ∀ k, k < 8 → s.paPoisoned die (va.toNat + k) = false) :
    loadValue va 8 plainQual s = .ok (natOf ((List.range 8).map fun k => s.readPa die (va.toNat + k)), s) := by
  have clean : ((List.range 8).find? fun k => s.paPoisoned die (va.toNat + k)) = none :=
    List.find?_eq_none.2 fun k hk => by simp [hs k (List.mem_range.1 hk)]
  simp only [loadValue, ask_bind, ht, ioLoad]
  rw [isPlain_plain, Bool.not_true, M.bind_ok (ioAddress_run hva hgib hfirst hlast)]
  simp only [Bool.false_and, Bool.false_eq_true, if_false, unit_bind, get_bind, clean]
  rfl

theorem loadValue_io_poisoned {k : Nat} (hk : k < 8) (hp : s.paPoisoned die (va.toNat + k) = true)
    (hs : ∀ m, m < k → s.paPoisoned die (va.toNat + m) = false) :
    loadValue va 8 plainQual s = .error (.trap s 0x31 (word (va.toNat + k))) := by
  have found : ((List.range 8).find? fun k => s.paPoisoned die (va.toNat + k)) = some k := by
    rw [List.find?_range_eq_some]
    exact ⟨hp, List.mem_range.2 hk, fun m hm => by simp [hs m hm]⟩
  simp only [loadValue, ask_bind, ht, ioLoad]
  rw [isPlain_plain, Bool.not_true, M.bind_ok (ioAddress_run hva hgib hfirst hlast)]
  simp only [Bool.false_and, Bool.false_eq_true, if_false, unit_bind, get_bind, found]
  rfl

theorem storeValue_io {y : Word} : storeValue va 8 y plainQual s =
    .ok ((), (s.evictRange die va.toNat 8).writeRc none none va.toNat (bytesOf 8 y.toNat)) := by
  simp only [storeValue, ask_bind, ht, ioStore, length_bytesOf]
  rw [isPlain_plain, Bool.not_true, M.bind_ok (ioAddress_run hva hgib hfirst hlast)]
  simp only [isRcRelease_plain, Bool.not_false, require_true, Bool.false_and, Bool.false_eq_true, if_false, unit_bind]
  rfl

end

theorem State.tracesIn.evictRange (s : State) (d pa n : Nat) : s.tracesIn (s.evictRange d pa n) := by
  have evicted (t : State) (p : Prop) [Decidable p] (line : Nat) : t.tracesIn (if p then t else t.evictRdc d line) := by
    split
    · exact .refl t
    · exact .evictRdc t d line
  exact (evicted s _ _).trans (evicted _ _ _)

theorem writeRc_dies (s : State) (src : Option Issuer) (job : Option Requester) (pa : Nat) (bs : List Byte) :
    (s.writeRc src job pa bs).dies = s.dies := by
  have sent (t : State) (pa : Nat) (bs : List Byte) : (t.sendKeep src job pa bs).dies = t.dies := by
    unfold State.sendKeep
    split <;> rfl
  have home : (s.writeHome pa bs).dies = s.dies := by
    unfold State.writeHome
    dsimp only
    split <;> rfl
  unfold State.writeRc
  dsimp only
  split
  · rw [sent, home]
  · rw [sent, sent, home]

/-- Settles O20: a prefetch leaves only traces; a walk and an I/O core have a path of their own in `loadValue` and
`storeValue`. -/
theorem accesses_elsewhere : Obligations.Accesses_elsewhere := by
  unfold Obligations.Accesses_elsewhere
  refine ⟨fun s target write b i9 o32 hx hr i len va hi => ?_, fun s d b hr => ⟨fun die tid th ht hth => ⟨fun hk => ⟨?_, ?_⟩, fun hk => ⟨?_, ?_⟩⟩,
    fun die k ht hva hgib hfirst hlast => ⟨fun hs => ?_, fun j hj hp hs => ?_, ?_⟩⟩⟩
  · simp only [List.mem_cons, List.not_mem_nil, or_false, Prod.mk.injEq] at hi
    obtain ⟨rfl, rfl, rfl⟩ | ⟨rfl, rfl, rfl⟩ := hi
    · rw [show BitVec.ofInt 64 (i9.toInt * 128) = BitVec.ofInt 64 (i9.toInt * (128 : Nat)) from rfl, ← rlAddress_eq]
      exact ⟨fun n x ht => prefetch_core (f := fun b => rlAddress b i9 128) rfl hr ht, prefetch_elsewhere rfl hr hx⟩
    · exact ⟨fun n x ht => prefetch_core (f := fun b => xlAddress b o32) rfl hr ht, prefetch_elsewhere rfl hr hx⟩
  · have he : s.executing = true := by simp [State.executing, ht, hth]
    exact writes_ldD he hr (loadValue_walker ht hth hk)
  · have he : s.executing = true := by simp [State.executing, ht, hth]
    refine retires_stD he hr (storeValue_walker ht hk) ?_
    have kept := State.thread_setThread_same (fun u => { u with
      scratch := memSetList u.scratch (s.readG b).toNat (bytesOf 8 (s.readG d).toNat) }) (fun _ => rfl) hth
    exact (State.pc_walker (s := s.setThread die tid _) ht kept).trans (State.pc_walker ht hth).symm
  · exact raises_ldD (by simp [ht]) hr (loadValue_walker_outside ht hk)
  · exact raises_stD (by simp [ht]) hr (storeValue_walker_outside ht hk)
  · have he : s.executing = true := by simp [State.executing, ht]
    exact writes_ldD he hr (loadValue_io ht hva hgib hfirst hlast hs)
  · exact raises_ldD (by simp [ht]) hr (loadValue_io_poisoned ht hva hgib hfirst hlast hj hp hs)
  · have he : s.executing = true := by simp [State.executing, ht]
    refine retires_stD he hr (storeValue_io ht hva hgib hfirst hlast) ?_
    obtain ⟨-, hdie⟩ := State.tracesIn.evictRange s die (s.readG b).toNat 8
    have turn : ((s.evictRange die (s.readG b).toNat 8).writeRc none none (s.readG b).toNat
        (bytesOf 8 (s.readG d).toNat)).turn = .io die k := by simp [ht]
    rw [State.pc_io turn, State.pc_io ht, State.ioCore, State.ioCore, State.die, writeRc_dies]
    exact (congrArg (fun x : Die => ((sget x.io k).getD IoCore.reset).ctx.pc) (hdie die) :)

end Sys2Proof.Machine

end

section

namespace Sys2Proof.Machine

/-! ## What performing stores leaves as it is (R14, R80, R203) -/

/-- Nothing of a core changes but its memory, its notices, and the remote answers that it waits for. -/
def Core.performs (c d : Core) : Prop :=
  { d with mem := c.mem, notices := c.notices, waits := { d.waits with remote := c.waits.remote } } = c

/-- Whoever executes, which dies are under reset, and every core but for what stores write and send. -/
def State.performs (s t : State) : Prop :=
  t.turn = s.turn ∧ (∀ d, (t.die d).inReset = (s.die d).inReset) ∧ ∀ m, (s.core m).performs (t.core m)

theorem Core.performs.eq {c d : Core} (h : c.performs d) :
    { d with mem := c.mem, notices := c.notices, waits := { d.waits with remote := c.waits.remote } } = c := h

theorem Core.performs.trans {c d e : Core} (h : c.performs d) (h' : d.performs e) : c.performs e := by
  unfold Core.performs at *
  rw [← h, ← h']

section
variable {s t u : State}

theorem State.performs.refl (s : State) : s.performs s := ⟨rfl, fun _ => rfl, fun _ => rfl⟩

theorem State.performs.trans (h : s.performs t) (h' : t.performs u) : s.performs u := by
  obtain ⟨ht, hd, hc⟩ := h
  obtain ⟨ht', hd', hc'⟩ := h'
  exact ⟨ht'.trans ht, fun d => (hd' d).trans (hd d), fun m => (hc m).trans (hc' m)⟩

theorem State.performs.foldl {α : Type} {f : State → α → State} (hf : ∀ (t : State) (a : α), t.performs (f t a)) (l : List α) (s : State) :
    s.performs (l.foldl f s) :=
  foldl_keeps (fun t => s.performs t) f (fun t a h => h.trans (hf t a)) l s (.refl s)

/-- Changes outside the cores and the dies. -/
theorem State.performs.of_parts (ht : t.turn = s.turn) (hd : t.dies = s.dies) (hc : t.cores = s.cores) : s.performs t := by
  refine ⟨ht, fun d => ?_, fun m => ?_⟩
  · rw [State.die, State.die, hd]
  · rw [State.core, State.core, hc]
    rfl

theorem State.performs.modCore (s : State) (n : Nat) {f : Core → Core} (hf : ∀ c : Core, c.performs (f c)) : s.performs (s.modCore n f) := by
  refine ⟨rfl, fun _ => rfl, fun m => ?_⟩
  by_cases hm : m = n
  · rw [hm, State.core_modCore_same]
    exact hf _
  · rw [State.core_modCore_other _ _ hm]
    rfl

theorem State.performs.modDie (s : State) (d : Nat) {f : Die → Die} (hf : ∀ x, (f x).inReset = x.inReset) : s.performs (s.modDie d f) := by
  refine ⟨rfl, fun e => ?_, fun _ => rfl⟩
  by_cases he : ix 3 e = ix 3 d
  · have same (t : State) : t.die e = t.die d := by rw [State.die, State.die, he]
    rw [same, same, State.die_modDie_same, hf]
  · rw [State.die_modDie_other _ _ he]

theorem State.tracesIn.performs (h : s.tracesIn t) : s.performs t := by
  obtain ⟨hs, hd⟩ := h
  have hcores : t.cores = s.cores := (congrArg State.cores hs :)
  refine ⟨(congrArg State.turn hs :), fun d => (congrArg Die.inReset (hd d) :), fun m => ?_⟩
  rw [State.core, State.core, hcores]
  rfl

end

/-! ### The blocks of a store -/

theorem State.performs.writeHome (s : State) (pa : Nat) (bs : List Byte) : s.performs (s.writeHome pa bs) := by
  unfold State.writeHome
  dsimp only
  split <;> exact .of_parts rfl rfl rfl

theorem State.performs.sendKeep (s : State) (src : Option Issuer) (job : Option Requester) (pa : Nat) (bs : List Byte) :
    s.performs (s.sendKeep src job pa bs) := by
  unfold State.sendKeep
  split
  · exact .refl s
  · exact .of_parts rfl rfl rfl

theorem State.performs.writeRc (s : State) (src : Option Issuer) (job : Option Requester) (pa : Nat) (bs : List Byte) :
    s.performs (s.writeRc src job pa bs) := by
  unfold State.writeRc
  dsimp only
  split
  · exact (State.performs.writeHome ..).trans (.sendKeep ..)
  · exact ((State.performs.writeHome ..).trans (.sendKeep ..)).trans (.sendKeep ..)

theorem State.performs.modRdcPoison (s : State) (d line : Nat) (f : List Nat → List Nat) : s.performs (s.modRdcPoison d line f) := by
  unfold State.modRdcPoison
  split
  · exact .refl s
  · exact .modDie s d fun _ => rfl

theorem State.performs.writePaByte (s : State) (d : Nat) (iss : Issuer) (pa : Nat) (b : Byte) : s.performs (s.writePaByte d iss pa b) := by
  unfold State.writePaByte State.putRdc
  split
  · exact .of_parts rfl rfl rfl
  · exact (State.tracesIn.roomRdc ..).performs.trans (.modDie _ d fun _ => rfl)

theorem State.performs.clearPaPoison (s : State) (d pa n : Nat) : s.performs (s.clearPaPoison d pa n) := by
  unfold State.clearPaPoison
  dsimp only
  split
  · exact .refl s
  · split
    · exact .of_parts rfl rfl rfl
    · split
      · exact .modRdcPoison ..
      · exact (State.performs.modRdcPoison ..).trans (.modRdcPoison ..)

theorem State.performs.writePa (s : State) (d : Nat) (iss : Issuer) (pa : Nat) (bs : List Byte) : s.performs (s.writePa d iss pa bs) := by
  have written := State.performs.foldl (f := fun t i => t.writePaByte d iss (pa + i) (bs.getD i 0))
    (fun t i => .writePaByte t d iss (pa + i) (bs.getD i 0)) (List.range bs.length) s
  unfold State.writePa
  dsimp only
  split
  · exact written.trans (.clearPaPoison ..)
  · exact (written.trans (.clearPaPoison ..)).trans (.of_parts rfl rfl rfl)

theorem State.performs.markPa (s : State) (d pa n : Nat) : s.performs (s.markPa d pa n) := by
  unfold State.markPa
  split
  · exact .of_parts rfl rfl rfl
  · exact .foldl (fun t i => .modRdcPoison ..) _ s

theorem State.performs.writeScratch (s : State) (owner : Nat) (iss : Issuer) (off : Nat) (bs : List Byte) :
    s.performs (s.writeScratch owner iss off bs) := by
  have one (t : State) (k : Nat) : t.performs (t.modCore k fun c => c.writeScratch off bs) := .modCore t k fun _ => rfl
  unfold State.writeScratch
  split
  · split
    · exact one ..
    · exact (one ..).trans (one ..)
  · exact one ..

theorem State.performs.notify (s : State) (core cause : Nat) (tval : Word) : s.performs (s.notify core cause tval) := by
  have one (t : State) (k : Nat) : t.performs (t.modCore k fun c => c.notify cause tval) := .modCore t k fun _ => rfl
  unfold State.notify
  dsimp only
  split
  · exact (one ..).trans (one ..)
  · exact one ..

theorem State.performs.sendRemote (s : State) (src : Issuer) (endpoint line : Nat) (kind : RemoteKind) (late : Bool) :
    s.performs (s.sendRemote src endpoint line kind late) :=
  State.performs.trans (.of_parts rfl rfl rfl) (.modDie _ _ fun _ => rfl)

/-- Some cores of a list changed, by their numbers. -/
theorem sget_map_if (l : Sparse Core) (q : Nat → Prop) [DecidablePred q] (f : Core → Core) (m : Nat) :
    sget (l.map fun p => if q p.1 then (p.1, f p.2) else p) m = (sget l m).map fun c => if q m then f c else c := by
  induction l with
  | nil => rfl
  | cons p rest ih =>
    have key : (if q p.1 then (p.1, f p.2) else p).1 = p.1 := by split <;> rfl
    have head : (if q p.1 then (p.1, f p.2) else p).2 = if q p.1 then f p.2 else p.2 := by split <;> rfl
    by_cases hp : p.1 = m
    · rw [List.map_cons, sget, key, if_pos hp, head, sget, if_pos hp, hp]
      rfl
    · rw [List.map_cons, sget, key, if_neg hp, ih, sget, if_neg hp]

theorem State.performs.mapCores (s : State) (q : Nat → Prop) [DecidablePred q] {f : Core → Core} (hf : ∀ c : Core, c.performs (f c)) :
    s.performs { s with cores := s.cores.map fun p => if q p.1 then (p.1, f p.2) else p } := by
  refine ⟨rfl, fun _ => rfl, fun m => ?_⟩
  rw [State.core, State.core, sget_map_if]
  cases sget s.cores m with
  | none => rfl
  | some c =>
    rw [Option.map_some]
    split
    · exact hf c
    · rfl

theorem State.performs.forgetHostLine (s : State) (d line : Nat) : s.performs (s.forgetHostLine d line) :=
  State.performs.trans (.modDie s d (by intro x; rfl)) (.mapCores _ (fun k => dieOf k = d)
    (f := fun c => { c with waits := { c.waits with remote := c.waits.remote.filter fun w => !w.reads line } }) fun _ => rfl)

theorem State.performs.dropHostLine (s : State) (d pa n : Nat) : s.performs (s.dropHostLine d pa n) := by
  unfold State.dropHostLine
  dsimp only
  split
  · exact .forgetHostLine ..
  · exact (State.performs.forgetHostLine ..).trans (.forgetHostLine ..)

theorem State.performs.lateStore (s : State) (iss : Issuer) (pa : Nat) (bs : List Byte) (poisoned : Bool) :
    s.performs (s.lateStore iss pa bs poisoned) := by
  unfold State.lateStore
  dsimp only
  split
  · exact .notify ..
  · exact (State.performs.sendRemote ..).trans (.dropHostLine ..)

theorem State.performs.writeBackRdc (s : State) (d : Nat) : s.performs (s.writeBackRdc d) :=
  State.performs.trans (.foldl (fun t (p : Nat × RdcLine) => (State.tracesIn.flush t p.1 p.2).performs) _ s)
    (.modDie _ d fun _ => rfl)

theorem State.performs.dropCleanRdc (s : State) (d : Nat) : s.performs (s.dropCleanRdc d) := .modDie s d fun _ => rfl

theorem State.performs.perform (s : State) (iss : Issuer) (p : StorePart) (poisoned : Bool) : s.performs (s.perform iss p poisoned) := by
  unfold State.perform
  split
  · next c o _ =>
    have stored : s.performs (if p.mask = 0xFF then s.writeScratch c iss o p.bytes
        else s.mergeScratch c iss o (p.bytes.getD 0 0) p.mask) := by
      split <;> exact .writeScratch ..
    dsimp only
    split
    · exact stored.trans (.modCore _ _ fun _ => rfl)
    · exact stored
  · next pa _ =>
    have home : s.performs (if p.rc then s.writeRc (some iss) none pa p.bytes else s.writeHome pa p.bytes) := by
      split
      · exact .writeRc ..
      · exact .writeHome ..
    split
    · exact .lateStore ..
    · split
      · dsimp only
        split
        · exact home.trans (.of_parts rfl rfl rfl)
        · exact home
      · dsimp only
        split
        · exact (State.performs.writePa ..).trans (.markPa ..)
        · exact .writePa ..

theorem State.performs.performAll (s : State) (iss : Issuer) (parts : List StorePart) (wide poisoned : Bool) :
    s.performs (s.performAll iss parts wide poisoned) := by
  have parts := State.performs.foldl (fun t p => .perform t iss p poisoned) parts s
  unfold State.performAll
  dsimp only
  split
  · exact parts.trans (.writeBackRdc ..)
  · exact parts

theorem State.performs.drainOne (s : State) (core : Nat) : s.performs (s.drainOne core) := by
  unfold State.drainOne
  split
  · exact .refl s
  · split
    · exact .refl s
    · exact State.performs.trans (.modCore s core (by intro c; rfl)) (.performAll ..)

theorem State.performs.drainAll (s : State) (core : Nat) : s.performs (s.drainAll core) :=
  .foldl (fun t _ => .drainOne t core) _ s

end Sys2Proof.Machine

end

section

namespace Sys2Proof.Machine

/-! ## TLBINV, L1INV and FENCE (R89, R90, R232) -/

/-! ### What a core sees of its own after its stores are performed -/

section
variable {s t : State} {n : Nat} {x : Ctx} (h : s.performs t)
include h

theorem State.performs.alone (ha : s.alone n x) : t.alone n x := by
  obtain ⟨ht, -, hc⟩ := h
  exact ⟨ht.trans ha.turn, (congrArg Core.paired (hc n).eq :).trans ha.2⟩

theorem State.performs.pc (ha : s.alone n x) : t.pc = s.pc := by
  rw [ha.pc_eq, (h.alone ha).pc_eq]
  obtain ⟨-, -, hc⟩ := h
  exact (congrArg (fun c : Core => c.pc x) (hc n).eq :)

theorem State.performs.rcRel (n : Nat) : (t.core n).waits.rcRel = (s.core n).waits.rcRel := by
  obtain ⟨-, -, hc⟩ := h
  exact (congrArg (fun c : Core => c.waits.rcRel) (hc n).eq :)

end

/-! ### Releases, acquires and tickets of a core that is not paired -/

theorem takeTicket_run {s : State} (hd : (s.die 0).inReset = false) :
    takeTicket s = .ok ((), { s with ticket := s.ticket + 1 }) := by
  simp only [takeTicket, get_bind, hd, Bool.false_eq_true, if_false]
  rfl

section
variable {s : State} {n : Nat} {x : Ctx} (h : s.alone n x) (sc : Scope)
include h

/-- A release that need not wait (R230). -/
theorem release_settled (hs : s.settles n x sc) : release sc s =
    .ok ((), if 2 ≤ scopeNo sc then (s.drainAll n).writeBackRdc (dieOf n) else s.drainAll n) := by
  have ahead : (s.drainAll n).storesAhead n x sc = false := hs
  simp only [release, h.self_bind, ask_bind, Core.gatedAhead, h.2, Bool.false_and, Bool.false_eq_true, if_false, update_bind,
    ahead]
  split <;> rfl

/-- A release that waits performs what it can first. -/
theorem release_unsettled (hs : ¬ s.settles n x sc) : release sc s = .error (.waitDo fun s => s.drainAll n) := by
  have ahead : (s.drainAll n).storesAhead n x sc = true := by simpa [State.settles] using hs
  simp only [release, h.self_bind, ask_bind, Core.gatedAhead, h.2, Bool.false_and, Bool.false_eq_true, if_false, update_bind,
    ahead, if_true]
  rfl

theorem acquire_run : acquire sc s = .ok ((), if 2 ≤ scopeNo sc then s.dropCleanRdc (dieOf n) else s) := by
  simp only [acquire, h.self_bind]
  split <;> rfl

/-- The ticket of a `.sc` access, while die 0 is not under reset (R224). -/
theorem ticketFor_run (ql : Qual) (hd : (s.die 0).inReset = false) :
    ticketFor ql s = .ok ((), if ql.ord = .sc then { s with ticket := s.ticket + 1 } else s) := by
  unfold ticketFor
  split
  · have taken : external (do takeTicket; pure []) s = .ok ([], { s with ticket := s.ticket + 1 }) := by
      rw [h.external_run, M.bind_ok (takeTicket_run hd)]
      rfl
    rw [M.bind_ok taken]
    rfl
  · rfl

end

/-- Die scope or wider (R20). -/
theorem two_le_scopeNo (sc : Scope) : 2 ≤ scopeNo sc ↔ sc ≠ .co ∧ sc ≠ .cl := by
  cases sc <;> simp [scopeNo]

/-! ### FENCE (R232) -/

theorem runMeaning_congr {m m' : M Word} {s : State} (h : m s = m' s) : runMeaning m s = runMeaning m' s := by
  unfold runMeaning
  rw [h]

theorem Group.fence_taken (n : Nat) (x : Ctx) : Group.fence.refused (.core n x) = none := rfl

section
variable {s : State} {n : Nat} {x : Ctx} {ql : Qual} (h : s.alone n x)
include h

theorem fence_start : start .fence [] s = .ok ((), s) :=
  startOrd_run (by rw [h.turn]; rfl) rfl rfl

/-- A recovery-scope release outside a recoverable launch (R232). -/
theorem fence_raises (hrc : ql.scope = .rc) (ho : ql.ord ≠ .acq) (hm : ¬ s.hasMode n .recoverable = true ∨ x = .l ∨ x = .s) :
    Raises s (.fence ql) 0x2E 0 := by
  have rc : (ql.scope == .rc && ql.ord != .acq) = true := by simp [hrc, ho]
  have may : s.mayRelease = false := by
    rw [State.mayRelease, h.turn]
    rcases hm with hm | rfl | rfl <;> simp_all
  refine raises_of (t := s) rfl h.not_env ?_ rfl
  rw [after_run, M.bind_ok (fence_start h), ask_bind, rc, may]
  rfl

/-- The ticket of a FENCE, and its acquire. -/
def State.fenced (s : State) (n : Nat) (ql : Qual) : State :=
  let t := if ql.ord = .sc then { s with ticket := s.ticket + 1 } else s
  if ql.ord = .rel then t else if 2 ≤ scopeNo (memScope ql) then t.dropCleanRdc (dieOf n) else t

theorem fence_completes {t : State} (hrc : (ql.scope == .rc && ql.ord != .acq) = false)
    (hr : (if ql.ord = .acq then pure () else fenceRelease ql.scope) s = .ok ((), t)) (ht : s.performs t)
    (hd : (s.die 0).inReset = false) : Retires s (.fence ql) 4 (t.fenced n ql) := by
  have ht0 := ht.alone h
  have reset : (t.die 0).inReset = false := by
    obtain ⟨-, hdie, -⟩ := ht
    rw [hdie, hd]
  have ticket : t.performs (if ql.ord = .sc then { t with ticket := t.ticket + 1 } else t) := by
    split
    · exact .of_parts rfl rfl rfl
    · exact .refl t
  have kept : s.performs (t.fenced n ql) := by
    unfold State.fenced
    dsimp only
    split
    · exact ht.trans ticket
    · split
      · exact (ht.trans ticket).trans (.dropCleanRdc ..)
      · exact ht.trans ticket
  refine retires_of rfl h.not_env ?_ (kept.pc h)
  rw [M.bind_ok (fence_start h), ask_bind, hrc, Bool.not_false, Bool.true_or, require_true, unit_bind, ask_bind, h.turn]
  simp only [Bool.false_eq_true, if_false]
  rw [M.bind_ok hr, M.bind_ok (ticketFor_run ht0 ql reset)]
  unfold State.fenced
  dsimp only
  split
  · rfl
  · exact acquire_run (ticket.alone ht0) _

/-- A FENCE whose release waits performs what it can, and issues again. -/
theorem fence_waits (hrc : (ql.scope == .rc && ql.ord != .acq) = false) {f : State → State}
    (hr : (if ql.ord = .acq then pure () else fenceRelease ql.scope) s = .error (.waitDo f)) : exec (.fence ql) s = .next (f s) := by
  refine runMeaning_waitDo h.not_env ?_
  rw [after_run, M.bind_ok (fence_start h), ask_bind, hrc, Bool.not_false, Bool.true_or, require_true, unit_bind, ask_bind, h.turn]
  simp only [Bool.false_eq_true, if_false]
  rw [M.bind_error hr]

/-! A recovery-scope release (R339). -/

theorem rcBegun_run : rcBegun s = .ok ((s.core n).waits.rcRel.any fun w => w.isOf x s.pc, s) := by
  simp only [rcBegun, h.self_bind]
  rfl

theorem rcWait_registers (bs : List Byte) (hw : ((s.core n).waits.rcRel.find? fun w => w.isOf x s.pc) = none) :
    rcWait bs s = .error (.waitIn (s.modCore n fun c => { c with waits := { c.waits with
      rcRel := c.waits.rcRel ++ [{ ctx := x, pc := s.pc, done := false, data := bs }] } })) := by
  simp only [rcWait, h.self_bind, ask_bind, hw]

theorem rcWait_waits (bs : List Byte) {w : RcWait} (hw : ((s.core n).waits.rcRel.find? fun w => w.isOf x s.pc) = some w)
    (hd : w.done = false) : rcWait bs s = .error .wait := by
  simp only [rcWait, h.self_bind, ask_bind, hw, hd]
  rfl

theorem rcWait_ends (bs : List Byte) {w : RcWait} (hw : ((s.core n).waits.rcRel.find? fun w => w.isOf x s.pc) = some w)
    (hd : w.done = true) : rcWait bs s = .ok (w.data, s.modCore n fun c => { c with waits := { c.waits with
      rcRel := c.waits.rcRel.filter fun w => !w.isOf x s.pc } }) := by
  simp only [rcWait, h.self_bind, ask_bind, hw, hd]
  rfl

theorem fenceRelease_begun {w : RcWait} (hw : ((s.core n).waits.rcRel.find? fun w => w.isOf x s.pc) = some w) :
    fenceRelease .rc s = (rcWait [] >>= fun _ => pure ()) s := by
  have begun : ((s.core n).waits.rcRel.any fun w => w.isOf x s.pc) = true := by
    exact List.any_eq_true.2 ⟨w, List.mem_of_find?_eq_some hw, List.find?_some (p := fun w : RcWait => w.isOf x s.pc) hw⟩
  rw [fenceRelease, if_pos rfl, M.bind_ok (rcBegun_run h), begun]
  rfl

theorem fenceRelease_afresh (hw : ((s.core n).waits.rcRel.find? fun w => w.isOf x s.pc) = none) :
    fenceRelease .rc s = (release .sy >>= fun _ => rcWait [] >>= fun _ => pure ()) s := by
  have begun : ((s.core n).waits.rcRel.any fun w => w.isOf x s.pc) = false := by
    simpa using List.find?_eq_none.1 hw
  rw [fenceRelease, if_pos rfl, M.bind_ok (rcBegun_run h), begun]
  rfl

section
variable (hrc : ql.scope = .rc) (ho : ql.ord ≠ .acq) (hm : s.hasMode n .recoverable = true) (hl : x ≠ .l) (hs : x ≠ .s)
include hrc ho hm hl hs

/-- A FENCE at recovery scope in a recoverable launch (R232, R339). -/
theorem exec_fence_recovery : exec (.fence ql) s = runMeaning (after 4 (fenceRelease .rc >>= fun _ => ticketFor ql >>= fun _ =>
    if ql.ord = .rel then pure () else acquire (memScope ql))) s := by
  have rc : (ql.scope == .rc && ql.ord != .acq) = true := by simp [hrc, ho]
  have may : s.mayRelease = true := by
    rw [State.mayRelease, h.turn]
    simp [hm, hl, hs]
  refine runMeaning_congr ?_
  rw [after_run, after_run, M.bind_ok (fence_start h), ask_bind, rc, may, Bool.or_true, require_true, unit_bind, ask_bind, h.turn]
  have closed : (closing (fenceRelease .rc >>= fun _ => pure []) >>= fun _ => pure ()) s = fenceRelease .rc s := by
    rw [M.bind_run, h.closing_run, M.bind_run]
    cases fenceRelease .rc s <;> rfl
  simp only [if_neg ho, if_true]
  rw [M.bind_run, closed, ← M.bind_run]

end

end

theorem two_le_memScope (ql : Qual) : 2 ≤ scopeNo (memScope ql) ↔ ql.scope ≠ .co ∧ ql.scope ≠ .cl := by
  rw [two_le_scopeNo, memScope]
  split
  · next hrc => simp [hrc]
  · rfl

theorem State.fenced_eq (s : State) (n : Nat) (ql : Qual) : s.fenced n ql =
    let t := if ql.ord = .sc then { s with ticket := s.ticket + 1 } else s
    if ql.ord ≠ .rel ∧ ql.scope ≠ .co ∧ ql.scope ≠ .cl then t.dropCleanRdc (dieOf n) else t := by
  unfold State.fenced
  dsimp only
  generalize (if ql.ord = .sc then { s with ticket := s.ticket + 1 } else s) = t
  by_cases hr : ql.ord = .rel
  · rw [if_pos hr, if_neg fun e => e.1 hr]
  · by_cases hf : ql.scope ≠ .co ∧ ql.scope ≠ .cl
    · rw [if_neg hr, if_pos ((two_le_memScope ql).2 hf), if_pos ⟨hr, hf⟩]
    · rw [if_neg hr, if_neg fun e => hf ((two_le_memScope ql).1 e), if_neg fun e => hf e.2]

section
variable {s : State} {n : Nat} {x : Ctx} {ql : Qual} (h : s.alone n x)
include h

/-- FENCE but for a recovery-scope release, when its release goes through. -/
theorem fence_retires (hd : (s.die 0).inReset = false) (hn : ¬ (ql.scope = .rc ∧ ql.ord ≠ .acq))
    (hs : ql.ord = .acq ∨ s.settles n x ql.scope) :
    let released := if ql.ord = .acq then s else if ql.scope ≠ .co ∧ ql.scope ≠ .cl then (s.drainAll n).writeBackRdc (dieOf n)
      else s.drainAll n
    Retires s (.fence ql) 4 (released.fenced n ql) := by
  have hrc : (ql.scope == .rc && ql.ord != .acq) = false := by simpa using hn
  intro released
  by_cases ho : ql.ord = .acq
  · have none_released : released = s := if_pos ho
    rw [none_released]
    exact fence_completes h hrc (by rw [if_pos ho]; rfl) (.refl s) hd
  · have settled := release_settled h ql.scope (hs.resolve_left ho)
    have plain : fenceRelease ql.scope = release ql.scope := if_neg fun e => hn ⟨e, ho⟩
    have same : released = if 2 ≤ scopeNo ql.scope then (s.drainAll n).writeBackRdc (dieOf n) else s.drainAll n := by
      refine (if_neg ho).trans ?_
      simp only [two_le_scopeNo]
    rw [same]
    refine fence_completes h hrc (by rw [if_neg ho, plain, settled]) ?_ hd
    split
    · exact (State.performs.drainAll s n).trans (.writeBackRdc ..)
    · exact .drainAll s n

theorem fence_unsettled (ho : ql.ord ≠ .acq) (hn : ¬ (ql.scope = .rc ∧ ql.ord ≠ .acq)) (hs : ¬ s.settles n x ql.scope) :
    exec (.fence ql) s = .next (s.drainAll n) := by
  have plain : fenceRelease ql.scope = release ql.scope := if_neg fun e => hn ⟨e, ho⟩
  refine fence_waits (f := fun s => s.drainAll n) h (by simpa using hn) ?_
  rw [if_neg ho, plain, release_unsettled h _ hs]

section
variable (hrc : ql.scope = .rc) (ho : ql.ord ≠ .acq) (hm : s.hasMode n .recoverable = true) (hl : x ≠ .l) (hs : x ≠ .s)
include hrc ho hm hl hs

/-- A registered recovery-scope release that has not been counted waits (R339). -/
theorem fence_pending {w : RcWait} (hw : ((s.core n).waits.rcRel.find? fun w => w.isOf x s.pc) = some w) (hd : w.done = false) :
    Waits s (.fence ql) := by
  unfold Waits
  rw [exec_fence_recovery h hrc ho hm hl hs]
  refine runMeaning_wait h.not_env ?_
  rw [after_run, M.bind_error]
  rw [fenceRelease_begun h hw, M.bind_error (rcWait_waits h [] hw hd)]

/-- One that has been counted ends. -/
theorem fence_counted {w : RcWait} (hw : ((s.core n).waits.rcRel.find? fun w => w.isOf x s.pc) = some w) (hd : w.done = true)
    (hr : ql.ord = .rel) : Retires s (.fence ql) 4 (s.modCore n fun c => { c with waits := { c.waits with
      rcRel := c.waits.rcRel.filter fun w => !w.isOf x s.pc } }) := by
  have offset : (s.modCore n fun c => { c with waits := { c.waits with
      rcRel := c.waits.rcRel.filter fun w => !w.isOf x s.pc } }).pc = s.pc := by
    rw [h.pc_eq, State.pc_core (s := s.modCore n _) h.turn, State.core_modCore_same]
    cases x <;> rfl
  have released : fenceRelease .rc s = _ := (fenceRelease_begun h hw).trans (M.bind_ok (rcWait_ends h [] hw hd))
  refine retires_of (exec_fence_recovery h hrc ho hm hl hs) h.not_env ?_ offset
  have unordered : ql.ord ≠ .sc := by simp [hr]
  rw [M.bind_ok released, if_pos hr, ticketFor, if_neg unordered]
  rfl

/-- The first issue of one: what the stream stored is performed, and the release is registered. -/
theorem fence_registers (hw : ((s.core n).waits.rcRel.find? fun w => w.isOf x s.pc) = none) (hset : s.settles n x .rc) :
    exec (.fence ql) s = .next (((s.drainAll n).writeBackRdc (dieOf n)).modCore n fun c => { c with waits := { c.waits with
      rcRel := c.waits.rcRel ++ [{ ctx := x, pc := s.pc, done := false, data := [] }] } }) := by
  have kept : s.performs ((s.drainAll n).writeBackRdc (dieOf n)) := (State.performs.drainAll s n).trans (.writeBackRdc ..)
  have none_there : ((((s.drainAll n).writeBackRdc (dieOf n)).core n).waits.rcRel.find? fun w =>
      w.isOf x ((s.drainAll n).writeBackRdc (dieOf n)).pc) = none := by rw [kept.rcRel, kept.pc h, hw]
  rw [exec_fence_recovery h hrc ho hm hl hs, ← kept.pc h]
  refine runMeaning_waitIn h.not_env ?_
  rw [after_run, M.bind_error]
  rw [fenceRelease_afresh h hw, M.bind_ok (release_settled h .sy hset)]
  exact M.bind_error (rcWait_registers (kept.alone h) [] none_there)

theorem fence_recovery_unsettled (hw : ((s.core n).waits.rcRel.find? fun w => w.isOf x s.pc) = none) (hset : ¬ s.settles n x .rc) :
    exec (.fence ql) s = .next (s.drainAll n) := by
  rw [exec_fence_recovery h hrc ho hm hl hs]
  refine runMeaning_waitDo (f := fun s => s.drainAll n) h.not_env ?_
  rw [after_run, M.bind_error]
  rw [fenceRelease_afresh h hw, M.bind_error (release_unsettled h .sy hset)]

end

end

end Sys2Proof.Machine

end

section

namespace Sys2Proof.Machine

/-! ### Translations (R89) -/

theorem Group.system_taken {n : Nat} {x : Ctx} (hl : x ≠ .l) (hs : x ≠ .s) : Group.system.refused (.core n x) = none := by
  simp [Group.refused, hl, hs]

theorem privileged_refused {s : State} (h : s.priv = 0) : privileged s = .error (.trap s 0x02 0) := by
  rw [privileged, ask_bind, h]
  rfl

/-- The clusters that REACH names, as numbers. -/
theorem mem_reached {cluster reach m : Nat} (h : reach < 3) : m ∈ reached cluster reach ↔
    if reach = 0 then m = cluster else if reach = 1 then m / 40 = cluster / 40 else m < 160 := by
  obtain rfl | rfl | rfl : reach = 0 ∨ reach = 1 ∨ reach = 2 := by omega
  · simp [reached]
  · simp only [reached, dieOfCluster, Config.clustersPerDie, List.mem_map, List.mem_range]
    constructor
    · rintro ⟨i, hi, rfl⟩
      simp only [if_neg (show ¬ (1 = 0) by omega), if_true]
      omega
    · intro hm
      simp only [if_neg (show ¬ (1 = 0) by omega), if_true] at hm
      exact ⟨m % 40, Nat.mod_lt _ (by omega), by omega⟩
  · simp [reached, Config.clusterCount]

/-- An entry of a TLB is removed where the removal names its address and its ASID (R89). -/
theorem removedBy_eq (e : TlbEntry) (p q : Bool) (va asid : Nat) :
    e.removedBy { va := if p then none else some va, asid := if q then none else some asid } =
      ((p || decide (e.va ≤ va ∧ va < e.va + 2 ^ e.size)) && (q || (decide (e.asid = asid) && !flag e.leaf 9))) := by
  cases p <;> cases q <;> simp [TlbEntry.removedBy] <;> rfl

/-! What a removal leaves of the clusters. -/

theorem removeTranslations_cluster (s : State) (i : Inval) (c m : Nat) : (s.removeTranslations i c).cluster m =
    if m = c then { s.cluster m with tlb := (s.cluster m).tlb.filter fun e => !e.removedBy i } else s.cluster m := by
  have kept : (s.removeTranslations i c).cluster m =
      (s.modCluster c fun k => { k with tlb := k.tlb.filter fun e => !e.removedBy i }).cluster m := rfl
  rw [kept]
  split
  · next hm => rw [hm, State.cluster_modCluster_same]
  · next hm => rw [State.cluster_modCluster_other _ _ hm]

/-- A cluster without the entries that a removal names. -/
def Cluster.without (c : Cluster) (i : Inval) : Cluster := { c with tlb := c.tlb.filter fun e => !e.removedBy i }

theorem Cluster.without_without (c : Cluster) (i : Inval) : (c.without i).without i = c.without i := by
  simp [Cluster.without, List.filter_filter]

/-- Translations removed from each cluster of a list. -/
def State.removeAll (s : State) (i : Inval) (cs : List Nat) : State := cs.foldl (fun s c => s.removeTranslations i c) s

theorem removeAll_cluster (s : State) (i : Inval) (cs : List Nat) (m : Nat) : (s.removeAll i cs).cluster m =
    if m ∈ cs then (s.cluster m).without i else s.cluster m := by
  induction cs generalizing s with
  | nil => rfl
  | cons c rest ih =>
    have step : (s.removeTranslations i c).cluster m = if m = c then (s.cluster m).without i else s.cluster m :=
      removeTranslations_cluster s i c m
    rw [State.removeAll, List.foldl_cons, ← State.removeAll, ih, step]
    by_cases hc : m = c <;> by_cases hr : m ∈ rest <;> simp [hc, hr, Cluster.without_without]

theorem removeAll_rest (s : State) (i : Inval) (cs : List Nat) : (s.removeAll i cs).turn = s.turn ∧
    (s.removeAll i cs).cores = s.cores ∧ (s.removeAll i cs).mem = s.mem ∧ (s.removeAll i cs).keep = s.keep :=
  foldl_keeps (fun t : State => t.turn = s.turn ∧ t.cores = s.cores ∧ t.mem = s.mem ∧ t.keep = s.keep)
    (fun s c => s.removeTranslations i c) (fun _ _ h => h) cs s ⟨rfl, rfl, rfl, rfl⟩

/-! While no store is under way there is nothing to wait for. -/

section
variable {s : State} (hbuf : ∀ p ∈ s.cores, p.2.mem.buffer = [] ∧ p.2.mem.gate = [])
include hbuf

theorem core_buffers (m : Nat) : (s.core m).mem.buffer = [] := by
  rw [State.core]
  cases hm : sget s.cores m with
  | none => rfl
  | some c =>
    obtain ⟨hb, -⟩ := hbuf _ (mem_of_sget hm)
    exact hb

theorem drainAll_buffers (m : Nat) : s.drainAll m = s := by
  rw [State.drainAll, core_buffers hbuf]
  rfl

theorem settles_buffers (n : Nat) (x : Ctx) : s.settles n x .cl := by
  simp [State.settles, drainAll_buffers hbuf, State.storesAhead, core_buffers hbuf, scopeNo]

theorem drainAll_cores (q : Nat → Prop) [DecidablePred q] (l : List (Nat × Core)) :
    l.foldl (fun s p => if q p.1 then s.drainAll p.1 else s) s = s :=
  foldl_keeps (fun t => t = s) _ (fun t p h => by rw [h, drainAll_buffers hbuf, ite_self]) l s rfl

theorem storesHeld_none (n : Nat) (x : Ctx) (cs : List Nat)
    (hjobs : ∀ cl, (∀ j ∈ (s.cluster cl).bse, j.lines = []) ∧ ∀ j ∈ (s.cluster cl).gre, j.lines = [])
    (hreq : ∀ r ∈ s.fabric.reqs, match r.kind with | .write .. => False | .atomic .. => False | _ => True) :
    s.storesHeld n x cs = false := by
  have stores : (s.cores.any fun p => cs.contains (clusterOf p.1) && (p.2.mem.buffer.any (fun e => e.parts.any (·.translated)) ||
      p.2.mem.gate.any fun e => e.parts.any (·.translated) && !(p.1 == n && e.act && decide (e.ctx = x)))) = false :=
    List.any_eq_false.2 fun p hp => by
      obtain ⟨hb, hg⟩ := hbuf p hp
      simp [hb, hg]
  have jobs : (cs.any fun k => (s.cluster k).bse.any (fun j => j.lines.any (·.translated)) ||
      (s.cluster k).gre.any fun j => j.lines.any (·.translated)) = false :=
    List.any_eq_false.2 fun k _ => by
      obtain ⟨hb, hg⟩ := hjobs k
      have bse : (s.cluster k).bse.any (fun j => j.lines.any (·.translated)) = false :=
        List.any_eq_false.2 fun j hj => by simp [hb j hj]
      have gre : (s.cluster k).gre.any (fun j => j.lines.any (·.translated)) = false :=
        List.any_eq_false.2 fun j hj => by simp [hg j hj]
      simp [bse, gre]
  rw [State.storesHeld, stores, jobs, Bool.false_or, Bool.false_or]
  refine List.any_eq_false.2 fun r hr => ?_
  have kind := hreq r hr
  cases hk : r.kind <;> simp_all

end

section
variable {s : State} {n : Nat} {x : Ctx} {a b : Reg} (h : s.alone n x) (hl : x ≠ .l) (hs : x ≠ .s)
include h hl hs

theorem system_start {rs : List Reg} (hr : holds s.turn rs = true) : start .system rs s = .ok ((), s) :=
  start_run (by rw [h.turn, Group.system_taken hl hs]) hr

variable (hr : holds s.turn [a, b] = true)
include hr

theorem tlbinv_unprivileged (hp : s.priv = 0) : Raises s (.tlbinv a b) 0x02 0 := by
  refine raises_of (t := s) rfl h.not_env ?_ rfl
  rw [after_run, M.bind_ok (system_start h hl hs hr), M.bind_error (privileged_refused hp)]

theorem l1inv_unprivileged (hp : s.priv = 0) : Raises s (.l1inv a) 0x02 0 := by
  have ha : holds s.turn [a] = true := holds_of hr (by simp)
  refine raises_of (t := s) rfl h.not_env ?_ rfl
  rw [after_run, M.bind_ok (system_start h hl hs ha), M.bind_error (privileged_refused hp)]

variable (hp : s.priv ≠ 0)
include hp

theorem l1inv_retires : Retires s (.l1inv a) 4 { s with caches := { s.caches with l1 := s.caches.l1.filter fun t =>
    !(decide (t.1 = n) && (decide (a = 0) ||
      decide (t.2.1 = (s.readG a).toNat / 128 ∧ t.2.2.1 = (s.core n).sr.asid.toNat % 2 ^ 16))) } } := by
  have ha : holds s.turn [a] = true := holds_of hr (by simp)
  refine retires_of rfl h.not_env ?_ rfl
  rw [M.bind_ok (system_start h hl hs ha), M.bind_ok (privileged_run hp), getG_bind, h.self_bind]
  have zero : (a.val == 0) = decide (a = 0) := Bool.eq_iff_iff.2 (by rw [beq_iff_eq, decide_eq_true_eq, Fin.ext_iff]; rfl)
  have kept (t : Nat × Nat × Nat × Nat) : (!(t.1 == n && (a.val == 0 || (t.2.1 == (s.readG a).toNat / 128 &&
      t.2.2.1 == field (s.core n).sr.asid 0 16)))) = !(decide (t.1 = n) && (decide (a = 0) ||
      decide (t.2.1 = (s.readG a).toNat / 128 ∧ t.2.2.1 = (s.core n).sr.asid.toNat % 2 ^ 16))) := by
    rw [zero, Bool.decide_and, field, Nat.pow_zero, Nat.div_one]
    rfl
  exact congrArg (fun q => Except.ok ((), { s with caches := { s.caches with l1 := s.caches.l1.filter q } })) (funext kept)

/-- The fields of TLBINV that R89 does not define. -/
theorem tlbinv_undefined (hw : 2 ^ 20 ≤ (s.readG b).toNat ∨ (s.readG b).toNat / 2 ^ 18 % 4 = 3) : Raises s (.tlbinv a b) 0x01 0 := by
  have bad : (zeroField (s.readG b) 20 44 && decide (field (s.readG b) 18 2 ≠ 3)) = false := by
    have lt := (s.readG b).isLt
    rcases hw with hw | hw
    · have high : zeroField (s.readG b) 20 44 = false := by
        simp only [zeroField, field, beq_eq_false_iff_ne]
        omega
      rw [high, Bool.false_and]
    · rw [decide_eq_false (show ¬ field (s.readG b) 18 2 ≠ 3 from not_not.2 hw), Bool.and_false]
  refine raises_of (t := s) rfl h.not_env ?_ rfl
  rw [after_run, M.bind_ok (system_start h hl hs hr), M.bind_ok (privileged_run hp), getG_bind, getG_bind, bad]
  rfl

/-- TLBINV with every buffer empty removes its translations at once (R89). -/
theorem tlbinv_removes (hw : (s.readG b).toNat < 2 ^ 20) (h3 : (s.readG b).toNat / 2 ^ 18 % 4 ≠ 3)
    (hbuf : ∀ p ∈ s.cores, p.2.mem.buffer = [] ∧ p.2.mem.gate = [])
    (hjobs : ∀ cl, (∀ j ∈ (s.cluster cl).bse, j.lines = []) ∧ ∀ j ∈ (s.cluster cl).gre, j.lines = [])
    (hreq : ∀ r ∈ s.fabric.reqs, match r.kind with | .write .. => False | .atomic .. => False | _ => True) :
    Retires s (.tlbinv a b) 4 (s.removeAll
      { va := if flag (s.readG b) 17 then none else some (s.readG a).toNat
        asid := if flag (s.readG b) 16 then none else some (field (s.readG b) 0 16) }
      (reached (clusterOf n) (field (s.readG b) 18 2))) := by
  have good : (zeroField (s.readG b) 20 44 && decide (field (s.readG b) 18 2 ≠ 3)) = true := by
    have low : zeroField (s.readG b) 20 44 = true := by
      simp only [zeroField, field, beq_iff_eq]
      omega
    rw [low, decide_eq_true (show field (s.readG b) 18 2 ≠ 3 from h3)]
    rfl
  have drained := release_settled h .cl (settles_buffers hbuf n x)
  rw [if_neg (by decide), drainAll_buffers hbuf] at drained
  obtain ⟨turn, cores, -⟩ := removeAll_rest s
    { va := if flag (s.readG b) 17 then none else some (s.readG a).toNat
      asid := if flag (s.readG b) 16 then none else some (field (s.readG b) 0 16) }
    (reached (clusterOf n) (field (s.readG b) 18 2))
  refine retires_of rfl h.not_env ?_ ?_
  · rw [M.bind_ok (system_start h hl hs hr), M.bind_ok (privileged_run hp), getG_bind, getG_bind, good, require_true, unit_bind,
      h.self_bind]
    dsimp only
    rw [M.bind_ok drained, update_bind, drainAll_cores hbuf fun m => (reached (clusterOf n) (field (s.readG b) 18 2)).contains
      (clusterOf m) = true, ask_bind, storesHeld_none hbuf n x _ hjobs hreq]
    rfl
  · rw [State.pc_core (turn.trans h.turn), h.pc_eq, State.core, State.core, cores]

end

/-- What translations removed leave of the state, when the instruction has run to its end. -/
theorem removeAll_retire {s : State} {n : Nat} {x : Ctx} (h : s.alone n x) (i : Inval) (cs : List Nat) (next : Word) :
    let t := (s.removeAll i cs).retire next
    t.pc = next ∧ (∀ r, t.readG r = s.readG r) ∧ t.mem = s.mem ∧ t.keep = s.keep ∧ (∀ m, (t.core m).mem = (s.core m).mem) ∧
      ∀ cl, t.cluster cl = if cl ∈ cs then (s.cluster cl).without i else s.cluster cl := by
  intro t
  obtain ⟨turn, cores, mem, keep⟩ := removeAll_rest s i cs
  have hturn : (s.removeAll i cs).turn = .core n x := turn.trans h.turn
  have hcore (m : Nat) : (s.removeAll i cs).core m = s.core m := by rw [State.core, State.core, cores]
  obtain ⟨hpc, hreg, hrest⟩ := State.retire_movedTo (State.executing_core hturn) next
  simp only [State.registersOnly, hturn] at hrest
  obtain ⟨hs, hother, honly, -⟩ := hrest
  refine ⟨hpc, fun r => ?_, (congrArg State.mem hs :).trans mem, (congrArg State.keep hs :).trans keep, fun m => ?_, fun cl => ?_⟩
  · rw [hreg, State.readG_core hturn, State.readG_core h.turn, hcore]
  · by_cases hm : m = n
    · rw [hm, ← hcore]
      exact (congrArg Core.mem honly :)
    · rw [hother m hm, hcore]
  · rw [← removeAll_cluster]
    exact (congrArg (fun u : State => u.cluster cl) hs :)

/-- Settles O14: TLBINV removes through `removeAll_cluster`; FENCE goes through `fenceRelease`, whose release leaves the
core as `State.performs` says. -/
theorem translation_and_fences : Obligations.Translation_and_fences := by
  unfold Obligations.Translation_and_fences
  refine ⟨fun s n x a b h hl hs hr => ⟨fun hp => ⟨tlbinv_unprivileged h hl hs hr hp, l1inv_unprivileged h hl hs hr hp⟩,
      fun hp hw => tlbinv_undefined h hl hs hr hp hw, fun hp hw h3 hbuf hjobs hreq => ?_, fun hp => l1inv_retires h hl hs hr hp⟩,
    fun s n x ql h hd => ⟨fun hn hset => ?_, fun hn ho hset => fence_unsettled h ho hn hset,
      fun ⟨hrc, ho⟩ hm => fence_raises h hrc ho hm, fun ⟨hrc, ho⟩ hm hl hs =>
        ⟨fun w hw hdone => fence_pending h hrc ho hm hl hs hw hdone,
          fun w hw hdone hr => fence_counted h hrc ho hm hl hs hw hdone hr, fun hw hset => ?_, fun hw hset => ?_⟩⟩⟩
  · refine ⟨_, tlbinv_removes h hl hs hr hp hw h3 hbuf hjobs hreq, ?_⟩
    have reach : (s.readG b).toNat / 2 ^ 18 % 4 < 3 := by omega
    obtain ⟨hpc, hreg, hmem, hkeep, hcore, hcluster⟩ := removeAll_retire h
      { va := if flag (s.readG b) 17 then none else some (s.readG a).toNat
        asid := if flag (s.readG b) 16 then none else some (field (s.readG b) 0 16) }
      (reached (clusterOf n) (field (s.readG b) 18 2)) (s.pc + word 4)
    refine ⟨hpc, hreg, hmem, hkeep, hcore, fun cl => ?_⟩
    rw [hcluster]
    have inside := mem_reached (cluster := clusterOf n) (m := cl) reach
    have asid : field (s.readG b) 0 16 = (s.readG b).toNat % 2 ^ 16 := by rw [field, Nat.pow_zero, Nat.div_one]
    by_cases hin : cl ∈ reached (clusterOf n) (field (s.readG b) 18 2)
    · rw [if_pos hin]
      refine ⟨rfl, fun _ => ?_, fun hout => absurd (inside.1 hin) hout⟩
      refine congrArg (fun q => (s.cluster cl).tlb.filter q) (funext fun e => congrArg (! ·) ?_)
      rw [removedBy_eq, asid]
      rfl
    · rw [if_neg hin]
      exact ⟨rfl, fun hreach => absurd (inside.2 hreach) hin, fun _ => rfl⟩
  · have done := fence_retires h hd hn hset
    dsimp only at done
    rw [State.fenced_eq] at done
    exact done
  · exact fence_registers h hrc ho hm hl hs hw (hrc ▸ hset)
  · exact fence_recovery_unsettled h hrc ho hm hl hs hw (hrc ▸ hset)

end Sys2Proof.Machine

end

section

namespace Sys2Proof.Machine

/-! ## Elements through windows 1 to 3 and 5 (R81, R194, R197) -/

/-! ### What an element decodes to -/

theorem encodeMag_f32 (neg : Bool) (n d : Nat) : (encodeMag .f32 0 false 0 neg n d).1 ≤ 0x7F800000 := by
  have capped (mag fl : Nat) :
      (if maxCode .f32 < mag then (overflowCode .f32 0 false neg, fOF ||| fNX) else (mag, fl)).1 ≤ 0x7F800000 := by
    split
    · exact Nat.le_refl 0x7F800000
    · next h =>
      have top : maxCode .f32 = 0x7F7FFFFF := rfl
      rw [top] at h
      dsimp only
      omega
  exact capped _ _

theorem encodeFloat_f32 (x : Value) : (encodeFloat .f32 0 false 0 x).1 < 2 ^ 32 := by
  have sign (s : Bool) : signCode .f32 s ≤ 2 ^ 31 := by cases s <;> decide
  cases x with
  | nan sig => exact show 0x7FC00000 < 2 ^ 32 by decide
  | inf s =>
    have hs := sign s
    show 0x7F800000 + signCode .f32 s < 2 ^ 32
    omega
  | fin s n d =>
    have hs := sign s
    cases n with
    | zero => exact hs.trans_lt (by decide)
    | succ n =>
      have mag := encodeMag_f32 s (n + 1) d
      simp only [encodeFloat]
      split
      · dsimp only
        omega
      · dsimp only
        omega

theorem widen32_lt (f : Fmt) (code : Nat) : widen32 f code < 2 ^ 32 := encodeFloat_f32 _

theorem wrapInt_lt (x : Int) (bits : Nat) : wrapInt x bits < 2 ^ bits := by
  have pos : (0 : Int) < ((2 ^ bits : Nat) : Int) := by positivity
  have := Int.emod_lt_of_pos x pos
  have := Int.emod_nonneg x pos.ne'
  rw [wrapInt]
  omega

theorem windowFmt_eq {w : Nat} (h : w ∈ [1, 2, 3]) : ([.bf16, .e4m3, .e5m2] : List Fmt).getD (w - 1) .bf16 = windowFmt w := by
  simp only [List.mem_cons, List.not_mem_nil, or_false] at h
  rcases h with rfl | rfl | rfl <;> rfl

/-- A core with flags set in one of its contexts. -/
def Core.flagged (c : Core) (x : Ctx) (fl : Nat) : Core := c.modContext x fun k => { k with fpstat := k.fpstat ||| word fl }

theorem Core.flagged_zero (c : Core) (x : Ctx) : c.flagged x 0 = c := by
  cases x <;> simp [Core.flagged, Core.modContext, Core.setContext, Core.context, word]

/-- The state with flags set in a context of a core. -/
def State.flagged (s : State) (n : Nat) (x : Ctx) (fl : Nat) : State := s.setCore n ((s.core n).flagged x fl)

theorem State.core_flagged (s : State) (n : Nat) (x : Ctx) (fl : Nat) : (s.flagged n x fl).core n = (s.core n).flagged x fl :=
  State.core_setCore_same ..

theorem State.core_flagged_other (s : State) {m n : Nat} (x : Ctx) (fl : Nat) (hm : m ≠ n) :
    (s.flagged n x fl).core m = s.core m :=
  State.core_setCore_other _ _ hm

theorem State.alone.flagged {s : State} {n : Nat} {x : Ctx} (h : s.alone n x) (fl : Nat) : (s.flagged n x fl).alone n x :=
  h.setCore (by cases x <;> rfl)

theorem State.flagged_pc {s : State} {n : Nat} {x : Ctx} (h : s.alone n x) (fl : Nat) : (s.flagged n x fl).pc = s.pc := by
  rw [(h.flagged fl).pc_eq, h.pc_eq, State.core_flagged]
  cases x <;> rfl

/-- A register written is the same write, whether no flag was set or a zero one. -/
theorem State.flagged_zero_putG {s : State} {n : Nat} {x : Ctx} (h : s.alone n x) (d : Reg) (v : Word) :
    (s.flagged n x 0).putG d v = s.putG d v := by
  have written (t : State) (ht : t.alone n x) : t.writeG d v = t.setCore n ((t.core n).writeG x d v) := by
    simp [State.writeG, ht.turn, State.modCore_eq]
  rw [(h.flagged 0).putG, h.putG, written _ (h.flagged 0), written _ h, State.flagged, Core.flagged_zero, State.core_setCore_same,
    State.setCore_setCore]

theorem setFlags_run {s : State} {n : Nat} {x : Ctx} (h : s.alone n x) {fl : Nat} (hfl : fl ≠ 0) :
    setFlags fl s = .ok ((), s.flagged n x fl) := by
  rw [setFlags, if_neg hfl]
  exact congrArg (fun t => Except.ok ((), t)) (by simp only [State.modContext, h.turn]; rfl)

/-! ### An access that passes its checks -/

/-- The element at `va` passes checks 2 to 6 of R78 for a context of a core: it lies in the scratchpad of `own`, on a line
that no engine has claimed. -/
structure WindowAccess (s : State) (n : Nat) (x : Ctx) (va own : Nat) (e : WindowElem) : Prop where
  inside : inScratch va = true
  window : va / 2 ^ 19 % 8 ∈ [1, 2, 3, 5]
  aligned : va % 4 = 0
  offset : va % 2 ^ 19 < 0x60000
  elem : windowElem (s.core n).sr.wcfg (va / 2 ^ 19 % 8) (va % 2 ^ 19) = e
  fits : e.raw + e.bytes ≤ 0x60000
  slot : s.slotCore (s.viewer n x) ((va - 0xFF000000000000) / 2 ^ 22) = .ok own
  first : s.claimed (.scratch own e.raw) = false
  last : s.claimed ((Place.scratch own e.raw).add (e.bytes - 1)) = false

/-- The elements of these windows have no scale byte, and one, two or four bytes. -/
theorem windowElem_plain {wcfg : Vector Word 5} {w o : Nat} (h : w ∈ [1, 2, 3, 5]) :
    (windowElem wcfg w o).window = w ∧ (windowElem wcfg w o).scale = none ∧ 0 < (windowElem wcfg w o).bytes ∧
      (windowElem wcfg w o).bytes ≤ 4 := by
  simp only [List.mem_cons, List.not_mem_nil, or_false] at h
  rcases h with rfl | rfl | rfl | rfl <;> simp [windowElem]

namespace WindowAccess

variable {s : State} {n own va : Nat} {x : Ctx} {e : WindowElem} (a : WindowAccess s n x va own e)
include a

theorem elem_window : e.window = va / 2 ^ 19 % 8 := by
  obtain ⟨h, -⟩ := windowElem_plain (wcfg := (s.core n).sr.wcfg) (o := va % 2 ^ 19) a.window
  rw [← h, a.elem]

theorem elem_scale : e.scale = none := by
  obtain ⟨-, h, -⟩ := windowElem_plain (wcfg := (s.core n).sr.wcfg) (o := va % 2 ^ 19) a.window
  rw [← h, a.elem]

theorem elem_bytes : 0 < e.bytes ∧ e.bytes ≤ 4 := by
  obtain ⟨-, -, h⟩ := windowElem_plain (wcfg := (s.core n).sr.wcfg) (o := va % 2 ^ 19) a.window
  rwa [a.elem] at h

theorem slotOf_va : slotOf va = ((va - 0xFF000000000000) / 2 ^ 22, va / 2 ^ 19 % 8, va % 2 ^ 19) := slotOf_eq a.inside

theorem slotSpot_load : s.slotSpot (s.viewer n x) false ((va - 0xFF000000000000) / 2 ^ 22) e.raw =
    .at_ (.scratch own e.raw) false false := by
  rw [State.slotSpot, a.slot]
  rfl

theorem windowAt_va : 1 ≤ windowAt va ∧ windowAt va ≤ 5 := by
  have hw := a.window
  simp only [List.mem_cons, List.not_mem_nil, or_false] at hw
  rw [windowAt_eq a.inside]
  omega

theorem checkWord_passes : checkWord (s.viewer n x) va 4 (!isPlain plainQual) (4 == 4) s = .ok ((), s) := by
  have hs : va / 2 ^ 48 = 255 := by simpa [inScratch] using a.inside
  have aligned := a.aligned
  have hw := a.window
  simp only [List.mem_cons, List.not_mem_nil, or_false] at hw
  have address : addressCause va 4 false = none :=
    addressCause_none (canonical_of_inScratch a.inside) (by omega)
      (by simp only [canonical, Bool.or_eq_true, beq_iff_eq]; omega) (by simp)
  have range : e.outOfRange = false := by
    have fits : decide (Config.scratchBytes < e.raw + e.bytes) = false := decide_eq_false (not_lt.2 a.fits)
    rw [WindowElem.outOfRange, fits, a.elem_scale]
    rfl
  have window : windowCause (s.core n).sr.wcfg va 4 true false = none := by
    have offset := a.offset
    rw [windowCause_scratch a.inside, if_neg (by omega), if_neg (by omega), if_neg (by simp), if_neg (by omega), if_neg]
    rw [a.elem, range]
    rintro (h | h | h | h)
    · cases h
    · exact h aligned
    · omega
    · cases h
  rw [checkWord_run, isPlain_plain, Bool.not_true, address, Option.none_or]
  have view : (s.viewer n x).wcfg = (s.core n).sr.wcfg := rfl
  rw [view, beq_self_eq_true, window]

theorem unclaimed : s.anyClaimed (.scratch own e.raw) e.bytes = false := by
  obtain ⟨-, hb⟩ := a.elem_bytes
  simp [State.anyClaimed, Nat.div_eq_of_lt (show e.bytes < 128 by omega), a.first, a.last]

theorem loads_lt : s.loads n x (.scratch own e.raw) e.bytes < 2 ^ 32 := by
  obtain ⟨-, hb⟩ := a.elem_bytes
  have lt := natOf_lt ((List.range e.bytes).map fun i => s.readByte n x ((Place.scratch own e.raw).add i))
  rw [List.length_map, List.length_range] at lt
  calc s.loads n x (.scratch own e.raw) e.bytes < 256 ^ e.bytes := lt
    _ ≤ 256 ^ 4 := Nat.pow_le_pow_right (by omega) hb

/-- The pattern that a load through the window returns, and its range hint (R197). -/
theorem windowDecode_eq (w4 : Word) (raw : Nat) : windowDecode w4 e raw 0 =
    if va / 2 ^ 19 % 8 = 5 then (wrapInt (rnsValue raw) 32, 0, rnsHint raw)
    else (widen32 (([.bf16, .e4m3, .e5m2] : List Fmt).getD (va / 2 ^ 19 % 8 - 1) .bf16) raw, 0, false) := by
  have hw := a.window
  rw [windowDecode, a.elem_window]
  generalize va / 2 ^ 19 % 8 = w at hw
  simp only [List.mem_cons, List.not_mem_nil, or_false] at hw
  rcases hw with rfl | rfl | rfl | rfl <;> rfl

section
variable (h : s.alone n x)
include h

theorem readRaw_run (hs : s.sound n x (.scratch own e.raw) e.bytes) :
    readRaw (s.viewer n x) va ((va - 0xFF000000000000) / 2 ^ 22) e.raw e.bytes s =
      .ok (s.loads n x (.scratch own e.raw) e.bytes, s) := by
  have clean : ([{ off := 0, len := e.bytes, spot := .at_ (.scratch own e.raw) false false }] : List Piece).findSome?
      (fun p => p.poisonedAt s n x) = none := by
    have none_poisoned : ((List.range e.bytes).find? fun i => s.bytePoisoned n x ((Place.scratch own e.raw).add i)) = none :=
      List.find?_eq_none.2 fun i hi => by simp [hs i (List.mem_range.1 hi)]
    simp [Piece.poisonedAt, none_poisoned]
  have poison : checkPoison va [{ off := 0, len := e.bytes, spot := .at_ (.scratch own e.raw) false false }] s = .ok ((), s) := by
    simp only [checkPoison, h.self_bind, get_bind, clean]
    rfl
  have piece : readPiece va { off := 0, len := e.bytes, spot := .at_ (.scratch own e.raw) false false } s =
      .ok ((List.range e.bytes).map fun i => s.readByte n x ((Place.scratch own e.raw).add i), s) := by
    simp only [readPiece, h.self_bind]
    rfl
  have bytes : readPieces va [{ off := 0, len := e.bytes, spot := .at_ (.scratch own e.raw) false false }] s =
      .ok ((List.range e.bytes).map fun i => s.readByte n x ((Place.scratch own e.raw).add i), s) := by
    rw [readPieces, M.bind_ok piece]
    simp only [readPieces, unit_bind, List.append_nil]
    rfl
  have loaded : loadPieces (s.viewer n x) va [{ off := 0, len := e.bytes, spot := .at_ (.scratch own e.raw) false false }] s =
      .ok ((List.range e.bytes).map fun i => s.readByte n x ((Place.scratch own e.raw).add i), s) := by
    rw [loadPieces, M.bind_ok (waitClaims_run a.unclaimed), M.bind_ok poison, M.bind_ok bytes]
    rfl
  simp only [readRaw, get_bind, a.slotSpot_load]
  rw [M.bind_ok loaded]
  rfl

/-- A load through the window reads its element, and leaves no trace. -/
theorem windowLoad_run (hs : s.sound n x (.scratch own e.raw) e.bytes) :
    windowLoad (s.viewer n x) va s = .ok (windowDecode (windowConfig (s.core n).sr.wcfg 4) e
      (s.loads n x (.scratch own e.raw) e.bytes) 0, s) := by
  have view : (s.viewer n x).wcfg = (s.core n).sr.wcfg := rfl
  have raw (k : Nat) (hk : k < 2 ^ 32) : natAt (bytesOf 4 k ++ [0]) 0 4 = k := by
    rw [natAt, slice_append_left (length_bytesOf _ _), natOf_bytesOf]
    omega
  have scale (k : Nat) : natAt (bytesOf 4 k ++ [0]) 4 1 = 0 := by
    rw [natAt, slice_append_right (n := 1) (length_bytesOf _ _) rfl]
    rfl
  have element : readWindow (s.viewer n x) va ((va - 0xFF000000000000) / 2 ^ 22) e s =
      .ok (bytesOf 4 (s.loads n x (.scratch own e.raw) e.bytes) ++ [0], s) := by
    rw [readWindow, a.elem_scale]
    exact M.bind_ok (a.readRaw_run h hs)
  simp only [windowLoad, a.slotOf_va, view, a.elem, ask_bind]
  rw [M.bind_ok ((h.readFor_run _ _).trans element), raw _ a.loads_lt, scale]
  rfl

/-- What a load through the window gives, and its flag: where a range hint is found, FPSTAT.RNG is set first (R108). -/
theorem loadValue_window {v : Word} (hva : v.toNat = va) (hs : s.sound n x (.scratch own e.raw) e.bytes)
    {p fl : Nat} {hint : Bool}
    (hd : windowDecode (windowConfig (s.core n).sr.wcfg 4) e (s.loads n x (.scratch own e.raw) e.bytes) 0 = (p, 0, hint))
    (hh : hint = true → ((s.core n).context x).rnge = false) (hfl : fl = if hint then fRNG else 0) :
    ∃ u, loadValue v 4 plainQual s = .ok (p, u) ∧ u.alone n x ∧ u.pc = s.pc ∧
      ∀ d y, u.putG d y = (s.flagged n x fl).putG d y := by
  subst hva
  have loaded := a.windowLoad_run h hs
  rw [hd] at loaded
  have checks : loadValue v 4 plainQual s = (rangeCheck (if hint then some 0 else none) >>= fun _ => setFlags 0 >>= fun _ => pure p) s := by
    simp only [loadValue, ask_bind, h.turn, h.self_bind]
    rw [if_pos a.windowAt_va, M.bind_ok a.checkWord_passes, acquireFor, isPlain_plain, if_pos rfl, unit_bind, M.bind_ok loaded]
    rfl
  cases hint with
  | false =>
    subst hfl
    exact ⟨s, checks, h, rfl, fun d y => (State.flagged_zero_putG h d y).symm⟩
  | true =>
    subst hfl
    have allowed : (!s.context.rnge) = true := by rw [h.context_eq, hh rfl]; rfl
    have hinted : rangeCheck (some 0) s = .ok ((), s.flagged n x fRNG) := by
      simp only [rangeCheck, ask_bind, allowed, require_true, unit_bind]
      exact setFlags_run h (by decide)
    exact ⟨s.flagged n x fRNG, checks.trans (M.bind_ok hinted), h.flagged _, State.flagged_pc h _, fun d y => rfl⟩

end

end WindowAccess

/-- LD.w and LDU.w through the window (R77, R81). -/
theorem windowLoad_writes {s : State} {n own : Nat} {x : Ctx} {e : WindowElem} {d b : Reg} (h : s.alone n x)
    (hr : holds s.turn [d, b] = true) (a : WindowAccess s n x (s.readG b).toNat own e)
    (hs : s.sound n x (.scratch own e.raw) e.bytes) {p fl : Nat} {hint : Bool}
    (hd : windowDecode (windowConfig (s.core n).sr.wcfg 4) e (s.loads n x (.scratch own e.raw) e.bytes) 0 = (p, 0, hint))
    (hh : hint = true → ((s.core n).context x).rnge = false) (hfl : fl = if hint then fRNG else 0)
    {i : Instr} {signed : Bool} (he : exec i s = runMeaning (loadTo 4 4 signed d b plainQual fun b => rlAddress b 0 4) s) :
    ∃ t, exec i s = .next t ∧ (s.flagged n x fl).wrote t 4 d (extended signed 4 p) := by
  obtain ⟨u, hl, hu, hpc, hput⟩ := a.loadValue_window h rfl hs hd hh hfl
  have run : loadTo 4 4 signed d b plainQual (fun b => rlAddress b 0 4) s =
      .ok ((u.putG d (extended signed 4 p)).pc + word 4, u.putG d (extended signed 4 p)) :=
    loadTo_ok signed rfl hr (by rw [rlAddress_zero, hl])
  refine ⟨_, he.trans (runMeaning_ok h.not_env run), ?_⟩
  rw [State.pc_putG hu.executing, hput, hpc, ← State.flagged_pc h fl]
  refine State.putG_retire (h.flagged fl).executing 4 _ ?_
  rw [(h.flagged fl).turn, ← h.turn]
  exact holds_head hr

theorem extended_signed (p : Nat) : extended true 4 p = (BitVec.ofNat 32 p).signExtend 64 := by
  rw [extended, if_pos rfl, show 8 * 4 = 32 from rfl, signExtendNat_eq p (by decide)]

theorem extended_unsigned {p : Nat} (h : p < 2 ^ 32) : extended false 4 p = (BitVec.ofNat 32 p).setWidth 64 := by
  apply BitVec.eq_of_toNat_eq
  simp only [extended, Bool.false_eq_true, if_false, word, BitVec.toNat_setWidth, BitVec.toNat_ofNat]
  omega

end Sys2Proof.Machine

end

section

namespace Sys2Proof.Machine

/-! ### A store through a window: what it leaves (R14, R80) -/

theorem mergeByte_whole (old b : Byte) : mergeByte old b 0xFF = b := by
  have all : (0xFF : Byte) = BitVec.allOnes 8 := rfl
  rw [mergeByte, all, BitVec.not_allOnes, BitVec.and_zero, BitVec.zero_or, BitVec.and_allOnes]

theorem partnerOf_partnerOf (n : Nat) : partnerOf (partnerOf n) = n := by
  simp only [partnerOf]
  split <;> split <;> omega

theorem Place.within_add (p : Place) {j len : Nat} (h : j < len) : (p.add j).within p len = some j := by
  cases p <;> simp [Place.within, Place.add, h]

/-- The state after a store of whole bytes at a place: as its context reads it, and what stays. -/
structure StoredBy (s u : State) (n : Nat) (x : Ctx) (p : Place) (bs : List Byte) : Prop where
  rest : { u with cores := s.cores } = s
  core : ∀ m, { u.core m with mem := (s.core m).mem } = s.core m
  other : ∀ m, m ≠ n →
    { (s.core m).mem with scratch := (u.core m).mem.scratch, poison := (u.core m).mem.poison } = (u.core m).mem
  inside : ∀ j, j < bs.length → u.readByte n x (p.add j) = bs.getD j 0
  outside : ∀ m y q, q.within p bs.length = none → u.readByte m y q = s.readByte m y q

/-- One part that holds a byte, or none. -/
theorem partsHold_one (t : StorePart) (q : Place) : partsHold [t] false q =
    ((q.within t.place t.bytes.length).map fun i => (t.bytes.getD i 0, t.mask, false)).toList := by
  rw [partsHold, List.filterMap_cons]
  cases q.within t.place t.bytes.length <;> rfl

/-- A whole byte forwarded last is the byte that is read. -/
theorem foldl_whole (l : List (Byte × Byte × Bool)) (b old : Byte) (poisoned : Bool) :
    (l ++ [(b, 0xFF, poisoned)]).foldl (fun (old : Byte) (e : Byte × Byte × Bool) => mergeByte old e.1 e.2.1) old = b := by
  rw [List.foldl_append, List.foldl_cons, List.foldl_nil, mergeByte_whole]

/-- The one part of a store of whole bytes in a scratchpad. -/
def wholePart (own raw : Nat) (bs : List Byte) : StorePart :=
  { place := .scratch own raw, bytes := bs, mask := 0xFF, rc := false, uncached := false }

/-- Its entry in the gating buffer, from an activation. -/
def wholeGated (x : Ctx) (own raw : Nat) (bs : List Byte) : GateEntry :=
  { ctx := x, act := true, interval := false, parts := [wholePart own raw bs], wide := false, poisoned := false }

/-- Its entry in the store buffer, from F. -/
def wholeBuffered (own raw : Nat) (bs : List Byte) : StoreEntry :=
  { ctx := .f, parts := [wholePart own raw bs], wide := false, gated := false, poisoned := false }

/-- Reading depends on what cores hold in their memories, on pairs, on memory and on the RDCs. -/
theorem readByte_congr {s t : State} (hc : ∀ m, (t.core m).mem = (s.core m).mem ∧ (t.core m).paired = (s.core m).paired)
    (hm : t.mem = s.mem) (hd : t.dies = s.dies) (m : Nat) (y : Ctx) (q : Place) : t.readByte m y q = s.readByte m y q := by
  have forwarded : (t.core m).forwarded y q = (s.core m).forwarded y q := by
    rw [Core.forwarded, Core.forwarded, (hc m).1]
  have place : t.readPlace m q = s.readPlace m q := by
    cases q with
    | scratch c o =>
      have at_ : t.scratchAt c m = s.scratchAt c m := by rw [State.scratchAt, State.scratchAt, (hc c).2]
      simp only [State.readPlace, at_, (hc _).1]
    | mem pa => simp only [State.readPlace, State.readPa, State.die, hm, hd]
  rw [State.readByte, State.readByte, forwarded, place]

theorem readPlace_modCore {s : State} {n : Nat} {f : Core → Core} (hs : (f (s.core n)).mem.scratch = (s.core n).mem.scratch)
    (hp : (f (s.core n)).paired = (s.core n).paired) (m : Nat) (q : Place) :
    (s.modCore n f).readPlace m q = s.readPlace m q := by
  have core (k : Nat) : ((s.modCore n f).core k).mem.scratch = (s.core k).mem.scratch ∧
      ((s.modCore n f).core k).paired = (s.core k).paired := by
    by_cases hk : k = n
    · rw [hk, State.core_modCore_same]
      exact ⟨hs, hp⟩
    · rw [State.core_modCore_other _ _ hk]
      exact ⟨rfl, rfl⟩
  cases q with
  | mem pa => rfl
  | scratch c o =>
    have at_ : (s.modCore n f).scratchAt c m = s.scratchAt c m := by rw [State.scratchAt, State.scratchAt, (core c).2]
    simp only [State.readPlace, at_, (core _).1]

/-- A core whose memory changed: what holds of its frame, given what is read. -/
theorem storedBy_modCore {s : State} {n k : Nat} {x : Ctx} {p : Place} {bs : List Byte} {f : Core → Core}
    (hf : ∀ c, { f c with mem := c.mem } = c)
    (ho : k ≠ n → { (s.core k).mem with scratch := (f (s.core k)).mem.scratch, poison := (f (s.core k)).mem.poison } =
      (f (s.core k)).mem)
    (hin : ∀ j, j < bs.length → (s.modCore k f).readByte n x (p.add j) = bs.getD j 0)
    (hout : ∀ m y q, q.within p bs.length = none → (s.modCore k f).readByte m y q = s.readByte m y q) :
    StoredBy s (s.modCore k f) n x p bs := by
  refine ⟨rfl, fun m => ?_, fun m hm => ?_, hin, hout⟩
  · by_cases hk : m = k
    · rw [hk, State.core_modCore_same, hf]
    · rw [State.core_modCore_other _ _ hk]
  · by_cases hk : m = k
    · subst hk
      rw [State.core_modCore_same, ho hm]
    · rw [State.core_modCore_other _ _ hk]

section
variable {s : State} {n own raw : Nat} {x : Ctx} {bs : List Byte}

/-- The gated stores of activations are not seen by a firing. -/
theorem gate_unseen {l : List GateEntry} (hg : ∀ e ∈ l, e.ctx = .h ∨ e.ctx = .d) {y : Ctx} (hy : y = .f ∨ y = .l ∨ y = .s)
    (q : Place) : (l.flatMap fun e =>
      if e.ctx = y ∨ (inFiring e.ctx = true ∧ inFiring y = true) then partsHold e.parts e.poisoned q else []) = [] := by
  refine List.flatMap_eq_nil_iff.2 fun e he => if_neg ?_
  rcases hg e he with h | h <;> rcases hy with rfl | rfl | rfl <;> simp [h, inFiring]

/-- F's store enters the store buffer. -/
theorem storedBy_buffer (hg : ∀ e ∈ (s.core n).mem.gate, e.ctx = .h ∨ e.ctx = .d) (e : StoreEntry)
    (he : e.parts = [wholePart own raw bs]) (hp : e.poisoned = false) :
    StoredBy s (s.modCore n fun c => { c with mem := { c.mem with buffer := c.mem.buffer ++ [e] } }) n .f (.scratch own raw) bs := by
  have place := readPlace_modCore (s := s) (n := n)
    (f := fun c => { c with mem := { c.mem with buffer := c.mem.buffer ++ [e] } }) rfl rfl
  refine storedBy_modCore (fun _ => rfl) (fun hn => absurd rfl hn) (fun j hj => ?_) fun m y q hq => ?_
  · have hold : partsHold e.parts e.poisoned ((Place.scratch own raw).add j) = [(bs.getD j 0, 0xFF, false)] := by
      rw [he, hp, partsHold_one, wholePart, Place.within_add _ hj]
      rfl
    rw [State.readByte, State.core_modCore_same, Core.forwarded, gate_unseen hg (.inl rfl), List.append_nil, List.flatMap_append,
      List.flatMap_singleton, if_neg (by simp), hold]
    exact foldl_whole ..
  · have hold : partsHold e.parts e.poisoned q = [] := by
      rw [he, hp, partsHold_one, wholePart, hq]
      rfl
    rw [State.readByte, State.readByte, place]
    by_cases hm : m = n
    · rw [hm, State.core_modCore_same, Core.forwarded, Core.forwarded, List.flatMap_append, List.flatMap_singleton, hold, ite_self,
        List.append_nil]
    · rw [State.core_modCore_other _ _ hm]

/-- The store of an activation enters the gating buffer. -/
theorem storedBy_gate (e : GateEntry) (he : e.parts = [wholePart own raw bs]) (hp : e.poisoned = false) (hc : e.ctx = x) :
    StoredBy s (s.modCore n fun c => { c with mem := { c.mem with gate := c.mem.gate ++ [e] } }) n x (.scratch own raw) bs := by
  have place := readPlace_modCore (s := s) (n := n)
    (f := fun c => { c with mem := { c.mem with gate := c.mem.gate ++ [e] } }) rfl rfl
  refine storedBy_modCore (fun _ => rfl) (fun hn => absurd rfl hn) (fun j hj => ?_) fun m y q hq => ?_
  · have hold : partsHold e.parts e.poisoned ((Place.scratch own raw).add j) = [(bs.getD j 0, 0xFF, false)] := by
      rw [he, hp, partsHold_one, wholePart, Place.within_add _ hj]
      rfl
    rw [State.readByte, State.core_modCore_same, Core.forwarded, List.flatMap_append (xs := (s.core n).mem.gate),
      List.flatMap_singleton, if_pos (.inl hc), hold, ← List.append_assoc]
    exact foldl_whole ..
  · have hold : partsHold e.parts e.poisoned q = [] := by
      rw [he, hp, partsHold_one, wholePart, hq]
      rfl
    rw [State.readByte, State.readByte, place]
    by_cases hm : m = n
    · rw [hm, State.core_modCore_same, Core.forwarded, Core.forwarded, List.flatMap_append (xs := (s.core n).mem.gate),
        List.flatMap_singleton, hold, ite_self, List.append_nil]
    · rw [State.core_modCore_other _ _ hm]

/-- The L-stream and the S-stream store past every buffer. -/
theorem storedBy_write (hx : x = .l ∨ x = .s) (hb : ∀ e ∈ (s.core n).mem.buffer, e.ctx ≠ x)
    (hg : ∀ e ∈ (s.core n).mem.gate, e.ctx = .h ∨ e.ctx = .d)
    (hp : (s.core own).paired = false ∧ (s.core (partnerOf own)).paired = false) :
    StoredBy s (s.modCore own fun c => c.writeScratch raw bs) n x (.scratch own raw) bs := by
  have core (m : Nat) : ((s.modCore own fun c => c.writeScratch raw bs).core m).mem.buffer = (s.core m).mem.buffer ∧
      ((s.modCore own fun c => c.writeScratch raw bs).core m).mem.gate = (s.core m).mem.gate ∧
      ((s.modCore own fun c => c.writeScratch raw bs).core m).paired = (s.core m).paired := by
    by_cases hm : m = own
    · rw [hm, State.core_modCore_same]
      exact ⟨rfl, rfl, rfl⟩
    · rw [State.core_modCore_other _ _ hm]
      exact ⟨rfl, rfl, rfl⟩
  have forwarded (m : Nat) (y : Ctx) (q : Place) :
      ((s.modCore own fun c => c.writeScratch raw bs).core m).forwarded y q = (s.core m).forwarded y q := by
    obtain ⟨hbuf, hgate, -⟩ := core m
    rw [Core.forwarded, Core.forwarded, hbuf, hgate]
  have at_ (c m : Nat) : (s.modCore own fun c => c.writeScratch raw bs).scratchAt c m = s.scratchAt c m := by
    obtain ⟨-, -, hpair⟩ := core c
    rw [State.scratchAt, State.scratchAt, hpair]
  have own_at (m : Nat) : s.scratchAt own m = own := by simp [State.scratchAt, hp.1]
  refine storedBy_modCore (fun _ => rfl) (fun _ => rfl) (fun j hj => ?_) fun m y q hq => ?_
  · have unseen : (s.core n).forwarded x ((Place.scratch own raw).add j) = [] := by
      rw [Core.forwarded, gate_unseen hg (.inr hx), List.append_nil]
      exact List.flatMap_eq_nil_iff.2 fun e he => if_pos ⟨hx, hb e he⟩
    rw [State.readByte, forwarded, unseen, List.foldl_nil, Place.add, State.readPlace, at_, own_at, State.core_modCore_same,
      Core.memGet_writeScratch, if_pos (by omega), Nat.add_sub_cancel_left]
  · have place : (s.modCore own fun c => c.writeScratch raw bs).readPlace m q = s.readPlace m q := by
      cases q with
      | mem pa => rfl
      | scratch c o =>
        rw [State.readPlace, State.readPlace, at_]
        by_cases hk : s.scratchAt c m = own
        · have hc : c = own := by
            by_contra hne
            rw [State.scratchAt] at hk
            split at hk
            · next paired =>
              simp only [Bool.and_eq_true, Bool.or_eq_true, beq_iff_eq] at paired
              obtain ⟨hpair, rfl | rfl⟩ := paired
              · exact hne hk
              · rw [← hk, partnerOf_partnerOf, hpair] at hp
                cases hp.2
            · exact hne hk
          have away : ¬ (raw ≤ o ∧ o < raw + bs.length) := by
            simpa [Place.within, hc] using hq
          rw [hk, State.core_modCore_same, Core.memGet_writeScratch, if_neg away]
        · rw [State.core_modCore_other _ _ hk]
    rw [State.readByte, State.readByte, forwarded, place]

end

/-- Nothing of a store in a scratchpad goes to another endpoint. -/
theorem sendParts_whole {s : State} {n own raw : Nat} {x : Ctx} {bs : List Byte} (h : s.alone n x) (va : Nat) :
    sendParts va [wholePart own raw bs] s = .ok ((), s) := by
  simp only [sendParts, h.self_bind]
  rfl

section
variable {s : State} {n own raw : Nat} {x : Ctx} {bs : List Byte} (h : s.alone n x)
  (ht : s.takes n x (.scratch own raw) bs.length false)
include h ht

theorem gateStore_run (hx : x = .h ∨ x = .d) :
    ∃ u, gateStore true [wholePart own raw bs] false s = .ok ((), u) ∧ StoredBy s u n x (.scratch own raw) bs := by
  obtain ⟨-, hact, -⟩ := ht
  obtain ⟨hown, huse⟩ := hact hx
  have room : s.gateFull n = false := decide_eq_false (by omega)
  have few : (!(true && decide (32 ≤ ((s.core n).mem.gate.filter fun e => e.act && decide (e.ctx = x)).length))) = true := by
    simpa using hown
  have closed : (s.core n).intervalOpen = false := by rw [Core.intervalOpen, h.2]; rfl
  refine ⟨_, ?_, storedBy_gate (wholeGated x own raw bs) rfl rfl rfl⟩
  simp only [gateStore, h.self_bind, get_bind, few, require_true, unit_bind, room, Bool.false_eq_true, if_false, closed,
    Bool.and_false]
  rfl

theorem bufferStore_run (hx : x = .f) :
    ∃ u, bufferStore [wholePart own raw bs] s = .ok ((), u) ∧ StoredBy s u n x (.scratch own raw) bs := by
  subst hx
  obtain ⟨hf, -, -, hg, -⟩ := ht
  have room : ¬ 32 ≤ (s.core n).mem.taken := Nat.not_le.2 (hf rfl).1
  refine ⟨_, ?_, storedBy_buffer hg (wholeBuffered own raw bs) rfl rfl⟩
  simp only [bufferStore, h.self_bind, get_bind, if_neg room, decide_eq_false room]
  rfl

theorem performNow_run (hx : x = .l ∨ x = .s) (hc : (wholePart own raw bs).claimed s = false) (va : Nat) :
    ∃ u, performNow va [wholePart own raw bs] false s = .ok ((), u) ∧ StoredBy s u n x (.scratch own raw) bs := by
  obtain ⟨-, -, hls, hg, hp, -⟩ := ht
  obtain ⟨hb, -⟩ := hls hx
  have ahead : (s.core n).bufferedOver x [wholePart own raw bs] = false :=
    List.any_eq_false.2 fun e he => by simp [hb e he]
  have unpaired := hp own raw rfl
  have performed : s.performAll { core := n, ctx := x } [wholePart own raw bs] false false =
      s.modCore own fun c => c.writeScratch raw bs := by
    show s.writeScratch own { core := n, ctx := x } raw bs = _
    rw [State.writeScratch, unpaired.1]
    rfl
  refine ⟨_, ?_, storedBy_write hx hb hg unpaired⟩
  rw [← performed]
  simp only [performNow, h.self_bind, get_bind, ahead, Bool.false_eq_true, if_false, List.any_cons, hc,
    List.any_nil]
  show (sendParts va [wholePart own raw bs] >>= fun _ => update fun t =>
    t.performAll { core := n, ctx := x } [wholePart own raw bs] false false) s = _
  exact M.bind_ok (sendParts_whole h va)

/-- The store enters the machine where its context's stores go (R14, R80). -/
theorem putStores_whole (hc : (wholePart own raw bs).claimed s = false) (va : Nat) (o : Bool) :
    ∃ u, putStores plainQual [{ va := va, bytes := bs, own := o, parts := [wholePart own raw bs] }] s = .ok ((), u) ∧
      StoredBy s u n x (.scratch own raw) bs := by
  have entered {m : M Unit} (hm : ∃ u, m s = .ok ((), u) ∧ StoredBy s u n x (.scratch own raw) bs) (hp : putStore plainQual
      { va := va, bytes := bs, own := o, parts := [wholePart own raw bs] } s = m s) : ∃ u, putStores plainQual
        [{ va := va, bytes := bs, own := o, parts := [wholePart own raw bs] }] s = .ok ((), u) ∧
          StoredBy s u n x (.scratch own raw) bs := by
    obtain ⟨u, hu, stored⟩ := hm
    refine ⟨u, ?_, stored⟩
    rw [putStores, M.bind_ok (hp.trans hu)]
    rfl
  have unnoted := h.note (bytesOf 8 va ++ bs)
  cases x with
  | h =>
    refine entered (gateStore_run h ht (.inl rfl)) ?_
    simp only [putStore, h.self_bind, ask_bind, noteStore, update_bind, unnoted]
    rfl
  | d =>
    refine entered (gateStore_run h ht (.inr rfl)) ?_
    simp only [putStore, h.self_bind, ask_bind, noteStore, update_bind, unnoted]
    rfl
  | f =>
    refine entered (bufferStore_run h ht rfl) ?_
    simp only [putStore, h.self_bind, ask_bind, noteStore, update_bind, unnoted, h.2]
    exact M.bind_ok (sendParts_whole h va)
  | l =>
    refine entered (performNow_run h ht (.inl rfl) hc va) ?_
    simp only [putStore, h.self_bind, ask_bind, noteStore, update_bind, unnoted, h.2]
    rfl
  | s =>
    refine entered (performNow_run h ht (.inr rfl) hc va) ?_
    simp only [putStore, h.self_bind, ask_bind, noteStore, update_bind, unnoted, h.2]
    rfl

end

end Sys2Proof.Machine

end

section

namespace Sys2Proof.Machine

/-! ### A store through a window -/

/-- What a store of a pattern through window `w` puts into its element, and its flags (R81, R197). -/
def windowCode (w pattern : Nat) : Nat × Nat :=
  if w = 5 then (rnsOfInt (signedNat pattern 32), 0)
  else encodeNum (([.bf16, .e4m3, .e5m2] : List Fmt).getD (w - 1) .bf16) 0 true 0 false (decodeFloat .f32 pattern)

/-- Plain stores are ordered by nothing (R79). -/
theorem orderedStores_plain {s : State} {n : Nat} {x : Ctx} (h : s.alone n x) (sts : List Stored) :
    orderedStores plainQual false sts s = putStores plainQual sts s := by
  simp only [orderedStores, orderedRun, h.self_bind, ask_bind, h.2, isRcRelease_plain, Bool.false_and, Bool.false_eq_true,
    if_false]
  show (putStores plainQual sts >>= fun _ => pure ()) s = _
  rw [bind_pure_unit]

namespace WindowAccess

variable {s : State} {n own va : Nat} {x : Ctx} {e : WindowElem} (a : WindowAccess s n x va own e)
include a

theorem windowEncode_eq (w4 : Word) (pattern : Nat) : windowEncode w4 e 0 pattern =
    (some (windowCode (va / 2 ^ 19 % 8) pattern).1, (windowCode (va / 2 ^ 19 % 8) pattern).2) := by
  have hw := a.window
  rw [windowEncode, a.elem_window]
  generalize va / 2 ^ 19 % 8 = w at hw
  simp only [List.mem_cons, List.not_mem_nil, or_false] at hw
  rcases hw with rfl | rfl | rfl | rfl <;> rfl

theorem wholePart_unclaimed {bs : List Byte} (hb : bs.length = e.bytes) : (wholePart own e.raw bs).claimed s = false := by
  rw [StorePart.claimed, wholePart, hb, a.first, a.last]
  rfl

section
variable (hp : ((s.core n).context x).priv = 0 → 4096 ≤ e.raw)
include hp

theorem slotSpot_store : s.slotSpot (s.viewer n x) true ((va - 0xFF000000000000) / 2 ^ 22) e.raw =
    .at_ (.scratch own e.raw) false false := by
  have allowed : (true && (s.viewer n x).user && decide (e.raw < 4096)) = false := by
    have user : (s.viewer n x).user = (((s.core n).context x).priv == 0) := rfl
    rw [user, Bool.true_and]
    by_cases h0 : ((s.core n).context x).priv = 0
    · simp [hp h0]
    · simp [h0]
  rw [State.slotSpot, a.slot]
  dsimp only
  rw [allowed]
  rfl

variable (h : s.alone n x)
include h

theorem checkWindowStore_run : checkWindowStore (s.viewer n x) va plainQual s = .ok ([0], s) := by
  have view : (s.viewer n x).wcfg = (s.core n).sr.wcfg := rfl
  have scale : windowScale (s.viewer n x) va ((va - 0xFF000000000000) / 2 ^ 22) e s = .ok ([0], s) := by
    simp only [windowScale, h.self_bind, get_bind, a.slotSpot_load, a.slotSpot_store hp, a.elem_scale]
    rfl
  simp only [checkWindowStore, a.slotOf_va, view, a.elem, ask_bind]
  rw [M.bind_ok ((h.readFor_run _ _).trans scale)]
  rfl

theorem windowParts_run (pattern : Nat) :
    let code := windowCode (va / 2 ^ 19 % 8) pattern
    windowParts (s.viewer n x) va pattern plainQual s =
      .ok ((bytesOf e.bytes code.1, [wholePart own e.raw (bytesOf e.bytes code.1)], code.2), s) := by
  have view : (s.viewer n x).wcfg = (s.core n).sr.wcfg := rfl
  have zero : natAt [0] 0 1 = 0 := rfl
  have hw : va / 2 ^ 19 % 8 ≠ 4 := by
    have hw := a.window
    simp only [List.mem_cons, List.not_mem_nil, or_false] at hw
    omega
  intro code
  have known : (!(false && inFiring x && n % 2 == 1) || s.ownSlot (s.viewer n x) va) = true := rfl
  have part : ({ off := 0, len := e.bytes, spot := .at_ (.scratch own e.raw) false false } : Piece).part
      (bytesOf e.bytes code.1) 0xFF = [wholePart own e.raw (bytesOf e.bytes code.1)] := by
    have whole : slice (bytesOf e.bytes code.1) 0 e.bytes = bytesOf e.bytes code.1 :=
      slice_append_right (as := []) rfl (length_bytesOf _ _)
    rw [Piece.part, whole]
    rfl
  rw [windowParts, a.slotOf_va]
  dsimp only
  rw [view, a.elem, M.bind_ok (a.checkWindowStore_run hp h), zero, a.windowEncode_eq]
  simp only [h.self_bind, get_bind, h.2, known, if_true]
  rw [a.slotSpot_store hp, if_pos hw]
  exact congrArg (fun ps => Except.ok ((bytesOf e.bytes code.1, ps, code.2), s)) part

/-- A store through the window enters the machine, and its flags come after (R81, R108). -/
theorem storeValue_window {v y : Word} (hva : v.toNat = va) (ht : s.takes n x (.scratch own e.raw) e.bytes false) :
    let code := windowCode (va / 2 ^ 19 % 8) (y.toNat % 2 ^ 32)
    ∃ u, storeValue v 4 y plainQual s = setFlags code.2 u ∧
      StoredBy s u n x (.scratch own e.raw) (bytesOf e.bytes code.1) := by
  subst hva
  intro code
  obtain ⟨positive, -⟩ := a.elem_bytes
  have length : (bytesOf e.bytes code.1).length = e.bytes := length_bytesOf _ _
  have some_ : (bytesOf e.bytes code.1).isEmpty = false := by
    rw [List.isEmpty_eq_false_iff, ← List.length_pos_iff, length]
    exact positive
  obtain ⟨u, hu, stored⟩ := putStores_whole (bs := bytesOf e.bytes code.1) h (length.symm ▸ ht) (a.wholePart_unclaimed length)
    v.toNat (s.ownSlot (s.viewer n x) v.toNat)
  refine ⟨u, ?_, stored⟩
  simp only [storeValue, ask_bind, h.turn, h.self_bind]
  rw [if_pos a.windowAt_va, M.bind_ok a.checkWord_passes, windowStore, ask_bind, M.bind_ok (a.windowParts_run hp h _)]
  dsimp only
  rw [some_]
  exact M.bind_ok ((orderedStores_plain h _).trans hu)

end

end WindowAccess

end Sys2Proof.Machine

end

section

namespace Sys2Proof.Machine

/-! ### The end of a store through a window -/

theorem Core.mem_flagged (c : Core) (x : Ctx) (fl : Nat) : (c.flagged x fl).mem = c.mem := by cases x <;> rfl

theorem Core.pair_flagged (c : Core) (x : Ctx) (fl : Nat) : (c.flagged x fl).pair = c.pair := by cases x <;> rfl

theorem Core.readG_flagged (c : Core) (x : Ctx) (fl : Nat) (r : Reg) : (c.flagged x fl).readG x r = c.readG x r := by
  cases x <;> rfl

theorem Core.flagged_withMem (c : Core) (x : Ctx) (fl : Nat) (m : CoreMem) :
    { c.flagged x fl with mem := m } = Core.flagged { c with mem := m } x fl := by
  cases x <;> rfl

theorem Core.readG_withMem (c : Core) (x : Ctx) (m : CoreMem) (r : Reg) : Core.readG { c with mem := m } x r = c.readG x r := by
  cases x <;> rfl

theorem Core.pc_withMem (c : Core) (x : Ctx) (m : CoreMem) : Core.pc { c with mem := m } x = c.pc x := by
  cases x <;> rfl

/-- What keeps everything but registers of a core keeps it, whatever the memory. -/
theorem Core.onlyRegisters_withMem {c d : Core} (h : c.onlyRegisters d) (m : CoreMem) :
    Core.onlyRegisters { c with mem := m } { d with mem := m } := by
  obtain ⟨rest, others⟩ := h
  exact ⟨congrArg (fun c : Core => { c with mem := m }) rest, others⟩

theorem Core.mem_retireTo (c : Core) (x : Ctx) (next : Word) : (c.retireTo x next).mem = c.mem := by
  obtain ⟨rest, -⟩ := c.retireTo_only x next
  exact (congrArg Core.mem rest :)

theorem Core.pair_retireTo {c : Core} (x : Ctx) (next : Word) (h : c.paired = false) : (c.retireTo x next).pair = c.pair := by
  have counted (d : Core) : (d.countActivation x).pair = d.pair := by
    rw [Core.countActivation]
    cases d.act x with
    | none => rfl
    | some a =>
      dsimp only
      split
      · rfl
      · cases x <;> rfl
  have moved : (((c.dropAnswers x).setPc x next).countActivation x).pair = c.pair := by
    rw [counted]
    cases x <;> rfl
  rw [Core.retireTo, Core.countPaired_alone, moved]
  rw [Core.paired, moved]
  exact h

/-- `t` follows `u` by flags set and an instruction's end. -/
structure Ends (u t : State) (n : Nat) (x : Ctx) (fl : Nat) (next : Word) : Prop where
  rest : { t with cores := u.cores } = u
  core : t.core n = ((u.core n).flagged x fl).retireTo x next
  others : ∀ m, m ≠ n → t.core m = u.core m

theorem setFlags_ends {u : State} {n : Nat} {x : Ctx} (h : u.alone n x) (fl : Nat) (next : Word) :
    ∃ w, setFlags fl u = .ok ((), w) ∧ w.pc = u.pc ∧ Ends u (w.retire next) n x fl next := by
  by_cases h0 : fl = 0
  · subst h0
    refine ⟨u, rfl, rfl, State.retire_rest h.turn next, ?_, fun m hm => State.retire_core_other h.turn next hm⟩
    rw [State.retire_core h.turn, Core.flagged_zero]
  · have turn := (h.flagged fl).turn
    refine ⟨_, setFlags_run h h0, State.flagged_pc h fl, State.rest_trans (t := u.flagged n x fl) rfl (State.retire_rest turn next), ?_, fun m hm => ?_⟩
    · rw [State.retire_core turn, State.core_flagged]
    · rw [State.retire_core_other turn next hm, State.core_flagged_other _ _ _ hm]

/-- What a store, its flags and its end leave of the state. -/
theorem StoredBy.ends_storesOnly {s u t : State} {n : Nat} {x : Ctx} {p : Place} {bs : List Byte} {fl : Nat} {next : Word}
    (hb : StoredBy s u n x p bs) (he : Ends u t n x fl next) : (s.flagged n x fl).storesOnly t n := by
  have rest : ({ t with cores := s.cores } : State) = s := State.rest_trans hb.rest he.rest
  have die (e : Nat) : t.die e = (s.flagged n x fl).die e := (congrArg (fun w : State => w.die e) rest :)
  have keep : t.keep = (s.flagged n x fl).keep := (congrArg State.keep rest :)
  have other (m : Nat) (hm : m ≠ n) : { t.core m with mem := (s.core m).mem } = s.core m := by
    rw [he.others m hm]
    exact hb.core m
  have buffers (m : Nat) (hm : m ≠ n) : { (s.core m).mem with scratch := (t.core m).mem.scratch, poison := (t.core m).mem.poison } =
      (t.core m).mem := by
    rw [he.others m hm]
    exact hb.other m hm
  refine ⟨?_, fun m hm => ?_, ?_, fun e => ?_, ?_⟩
  · exact (congrArg (fun w : State => { w with
      cores := (s.flagged n x fl).cores, mem := s.mem, poison := s.poison, caches := s.caches, dies := s.dies, keep := s.keep,
      fresh := s.fresh }) rest :)
  · rw [State.core_flagged_other _ _ _ hm, buffers m hm]
    exact ⟨rfl, other m hm⟩
  · have ended := Core.onlyRegisters_withMem (((u.core n).flagged x fl).retireTo_only x next) (s.core n).mem
    rw [← he.core, Core.flagged_withMem, hb.core n] at ended
    rw [State.core_flagged, Core.mem_flagged]
    exact ended
  · rw [die]
  · rw [keep]

section
variable {s u t : State} {n : Nat} {x : Ctx} {p : Place} {bs : List Byte} {fl : Nat} {next : Word} (h : s.alone n x)
  (hb : StoredBy s u n x p bs)
include h hb

theorem StoredBy.alone : u.alone n x := by
  have turn : u.turn = s.turn := (congrArg State.turn hb.rest :)
  have pair : (u.core n).pair = (s.core n).pair := (congrArg Core.pair (hb.core n) :)
  exact ⟨turn.trans h.turn, by rw [Core.paired, pair]; exact h.2⟩

theorem StoredBy.pc_eq : u.pc = s.pc := by
  rw [(hb.alone h).pc_eq, h.pc_eq]
  exact ((Core.pc_withMem ..).symm.trans (congrArg (fun c : Core => c.pc x) (hb.core n)) :)

variable (he : Ends u t n x fl next)
include he

theorem StoredBy.ends_turn : t.turn = .core n x := 
  (congrArg State.turn he.rest :).trans (hb.alone h).turn

theorem StoredBy.ends_pc : t.pc = next := by
  rw [State.pc_core (hb.ends_turn h he), he.core, Core.pc_retireTo]

theorem StoredBy.ends_readG (r : Reg) : t.readG r = s.readG r := by
  rw [State.readG_core (hb.ends_turn h he), he.core, Core.readG_retireTo, Core.readG_flagged, State.readG_core h.turn]
  exact ((Core.readG_withMem ..).symm.trans (congrArg (fun c : Core => c.readG x r) (hb.core n)) :)

theorem StoredBy.ends_readByte (m : Nat) (y : Ctx) (q : Place) : t.readByte m y q = u.readByte m y q := by
  have memory : t.mem = u.mem := (congrArg State.mem he.rest :)
  have dies : t.dies = u.dies := (congrArg State.dies he.rest :)
  refine readByte_congr (fun k => ?_) memory dies m y q
  by_cases hk : k = n
  · subst hk
    have unpaired : ((u.core k).flagged x fl).paired = false := by
      rw [Core.paired, Core.pair_flagged]
      exact (hb.alone h).2
    rw [he.core, Core.mem_retireTo, Core.mem_flagged, Core.paired, Core.pair_retireTo x next unpaired, Core.pair_flagged]
    exact ⟨rfl, rfl⟩
  · rw [he.others k hk]
    exact ⟨rfl, rfl⟩

end

/-- ST.w through the window (R77, R81). -/
theorem windowStore_stores {s : State} {n own : Nat} {x : Ctx} {e : WindowElem} {d b : Reg} (h : s.alone n x)
    (hr : holds s.turn [d, b] = true) (a : WindowAccess s n x (s.readG b).toNat own e)
    (ht : s.takes n x (.scratch own e.raw) e.bytes false) (hp : ((s.core n).context x).priv = 0 → 4096 ≤ e.raw) :
    let code := windowCode ((s.readG b).toNat / 2 ^ 19 % 8) ((s.readG d).toNat % 2 ^ 32)
    ∃ t, exec (.stW d b 0 plainQual) s = .next t ∧ t.pc = s.pc + 4 ∧ (∀ r, t.readG r = s.readG r) ∧
      (∀ j, j < e.bytes → t.readByte n x ((Place.scratch own e.raw).add j) = (bytesOf e.bytes code.1).getD j 0) ∧
      (∀ m y q, q.within (.scratch own e.raw) e.bytes = none → t.readByte m y q = s.readByte m y q) ∧
      (s.flagged n x code.2).storesOnly t n := by
  intro code
  obtain ⟨u, hu, stored⟩ := a.storeValue_window hp h rfl ht
  obtain ⟨w, hw, hpc, ends⟩ := setFlags_ends (stored.alone h) code.2 (s.pc + 4)
  have length : (bytesOf e.bytes code.1).length = e.bytes := length_bytesOf _ _
  have off : w.pc + word 4 = s.pc + 4 := congrArg (· + word 4) (hpc.trans (stored.pc_eq h))
  have run : storeFrom 4 4 d b plainQual (fun b => rlAddress b 0 4) s = .ok (s.pc + 4, w) := by
    rw [← off]
    exact storeFrom_ok rfl hr (by rw [rlAddress_zero, hu, hw])
  refine ⟨w.retire (s.pc + 4), runMeaning_ok h.not_env run, stored.ends_pc h ends, stored.ends_readG h ends, fun j hj => ?_,
    fun m y q hq => ?_, stored.ends_storesOnly ends⟩
  · rw [stored.ends_readByte h ends, stored.inside j (by rwa [length])]
  · rw [stored.ends_readByte h ends, stored.outside m y q (by rwa [length])]

/-- Settles O19: a load passes through `WindowAccess.loadValue_window`, a store through `WindowAccess.storeValue_window`. -/
theorem windows : Obligations.Windows := by
  unfold Obligations.Windows
  intro s n x d b own h hr c k va ql w e p raw hin hva hw hal hoff hfits hslot hfirst hlast
  have a : WindowAccess s n x (s.readG b).toNat own e := ⟨hin, hw, hal, hoff, rfl, hfits, hslot, hfirst, hlast⟩
  refine ⟨fun hs hh => ?_, fun ht hp => windowStore_stores h hr a ht hp⟩
  intro pattern fl i v hi
  have decoded : windowDecode (windowConfig c.sr.wcfg 4) e raw 0 = (pattern, 0, decide (w = 5 ∧ rnsHint raw = true)) := by
    rw [a.windowDecode_eq]
    by_cases h5 : w = 5
    · simp only [pattern, if_pos h5, h5, true_and, Bool.decide_eq_true]
      exact if_pos h5
    · simp only [pattern, if_neg h5, h5, false_and, decide_false]
      exact if_neg h5
  have below : pattern < 2 ^ 32 := by
    by_cases h5 : w = 5
    · simp only [pattern, if_pos h5]
      exact wrapInt_lt _ _
    · simp only [pattern, if_neg h5]
      exact widen32_lt _ _
  have allowed (ht : decide (w = 5 ∧ rnsHint raw = true) = true) : k.rnge = false :=
    hh (of_decide_eq_true ht).1 (of_decide_eq_true ht).2
  have flags : fl = if decide (w = 5 ∧ rnsHint raw = true) then fRNG else 0 := by
    simp only [fl, decide_eq_true_eq]
  simp only [List.mem_cons, List.not_mem_nil, or_false, Prod.mk.injEq] at hi
  rcases hi with ⟨rfl, rfl⟩ | ⟨rfl, rfl⟩
  · rw [← extended_signed]
    exact windowLoad_writes h hr a hs decoded allowed flags rfl
  · rw [← extended_unsigned below]
    exact windowLoad_writes h hr a hs decoded allowed flags rfl

end Sys2Proof.Machine

end
